-- ==== Sys2Proof/Word.lean ====
section
/-! DEFINITION. The words of the machine: bytes, registers, predicates, register numbers, sparse maps. -/

namespace Sys2Proof

/-- The smallest addressable unit (R4). -/
abbrev Byte := BitVec 8

/-- An instruction word (R136). -/
abbrev Word32 := BitVec 32

/-- A control-thread register, an address, a CSR (R55). -/
abbrev Word64 := BitVec 64

/-- A VP register or queue entry, at the greatest width W = 128 bytes. A VT of width W uses the low 8W bits (R21). -/
abbrev VReg := BitVec 1024

/-- A VP predicate at the greatest width: a VT of width W uses the low 2W bits (R55). -/
abbrev Pred := BitVec 256

/-- The number of an x or v register, or any 5-bit field (R138). -/
abbrev Reg := Fin 32

/-- A table with sparse natural keys: keys strictly rising. -/
abbrev SMap (α : Type) := List (Nat × α)

/-- A 4-bit CRC or tile or connection number is a plain `Nat`; a tile is named by its 16-bit ID (R294). -/
abbrev TileId := Nat

end Sys2Proof
end

