-- ==== Sys2Proof/Config.lean ====
section
/-! DEFINITION. What the spec leaves to the device or to the outside: free values without a body, so that no proof can
see one. The list of them, with the rule that leaves each open, is in notes/assumptions/10.md. -/

namespace Sys2Proof.Config

/-- The device's choices, in the order in which they are drawn: a VTID or GANGID before it is made unique (R62), the
index of a new future before a FREE one is taken (R241), which cause a failed LAUNCH names (R264), the shape of the
sum of a reassociated `mop` (R226). -/
opaque choice : Nat → Nat

/-- The bytes of an SPDM response that neither R282, R289 nor the layouts of log 35 lay down: measurement values under the
lock, request (R282). -/
opaque spdmAnswer : List (BitVec 384) → List Byte → List Byte

/-- Whether an image knows an item type of a hand-over record: digest of the image, item type (R291). -/
opaque knowsItem : BitVec 384 → Nat → Bool

/-- The items, by TYPE and value, in which an image of SCHED hands over its queues: digest of the image, and each queue's number,
descriptor, and SEEN bit, credits and state of its nodes (R291: the TYPEs are internal to the image). -/
opaque schedItems : BitVec 384 → List (List Nat) → List (Nat × List Byte)

/-- The boot ROM's digest of itself (R288). -/
opaque bootRomDigest : BitVec 384

/-- The digest of the fuse configuration, of its key hashes and minimum SVNs (R287): the spec gives no layout. -/
opaque fuseDigest : List (BitVec 384) → List Nat → BitVec 384

/-- The digest of the CXL device configuration, of the installed capacities (R287): the spec gives no layout. -/
opaque cxlDigest : List Nat → BitVec 384

/-- The firmware SRAM of the two firmware tiles as a dump holds it (R284, R323): the spec gives no layout. The first
argument is the number of the draw at the dump. -/
opaque firmwareSram : Nat → Nat → Byte

end Sys2Proof.Config
end

