-- ==== Sys2Proof/Syntax.lean ====
section
/-! DEFINITION. The instructions and operations of the device: one constructor of `Instr` for each row of the opcode
table, with the operand fields of R136 to R150 or the parameters of the operation. -/

namespace Sys2Proof

/-- The guard of an instruction: predicate number G and negate bit N (R136, R137). -/
structure Guard where
  p : Fin 8
  neg : Bool
deriving DecidableEq, Repr

/-- Conditions of `cmp` and `cmpi` (R144). -/
inductive Cond where
  | eq | ne | lt | le | gt | ge | ltu | leu | gtu | geu | tst | ntst
deriving DecidableEq, Repr

/-- Conditions of `fcmp` (R144, R205). -/
inductive FCond where
  | eq | ne | lt | le | gt | ge | ord | unord
deriving DecidableEq, Repr

/-- Conditions of `mwait` (R147, R236). -/
inductive MCond where
  | eq | ne | lt | ge | ltu | geu
deriving DecidableEq, Repr

/-- How a compare combines with the old predicate (R144, R162). -/
inductive Comb where
  | plain | nar | wid | cut
deriving DecidableEq, Repr

/-- Order codes (R98). -/
inductive Order where
  | rlx | acq | rel | ar
deriving DecidableEq, Repr

/-- Scopes (R97). -/
inductive Scope where
  | core | clu | die | dev | sys
deriving DecidableEq, Repr

/-- Format codes of `cvt` and `cvts` (R149). -/
inductive Fmt where
  | fp32 | fp16 | bf16 | e4m3 | e5m2 | e3m2 | e2m3 | e2m1 | e8m0
  | i4 | n4 | i8 | n8 | i16 | n16 | i32 | n32 | i64 | n64
deriving DecidableEq, Repr

/-- Address modes of `vld` and `vst` (R148). -/
inductive VMode where
  | u | s | x | e
deriving DecidableEq, Repr

/-- Cache hints of `vld` and `vst` (R148, R197). -/
inductive Hint where
  | normal | str | na
deriving DecidableEq, Repr

/-- A PLT packet as it arrives at a port: 0 is HOST, 1 to 8 are PP0 to PP7 (R276). -/
structure Packet where
  port : Nat
  conn : Nat
  rel : Bool
  ackreq : Bool
  etype : Nat
  psn : Nat
  apsn : Nat
  addr : Word64
  len : Nat
  tag : Nat
  payload : List Byte
deriving DecidableEq, Repr

/-- The head of a management request: the connection it came on, RTAG and DOMAIN (R282). -/
structure Request where
  conn : Nat
  rtag : Nat
  domain : Nat
deriving DecidableEq, Repr

/-- A slot of a queue of a domain (R255). -/
structure SlotRef where
  domain : Nat
  queue : Nat
  slot : Nat
deriving DecidableEq, Repr

/-- The masters a domain violation freezes (R298, R322). -/
inductive Master where
  | vt (id : Nat)
  | channel (vt eng chan : Nat)
  | conn (key : Nat)
deriving DecidableEq, Repr

/-- A connection: host n, or peer 0x1_0000 + n, as CLOSE names it (R282). -/
abbrev ConnKey := Nat

/-- The queues of a VP (R33, R38). -/
inductive QueueKind where
  | inbound | load | store
deriving DecidableEq, Repr

/-- A unit of a VT's own storage that an uncorrectable error can poison (R345): an x register; 8 bytes of a v register; a CT
predicate; 8 bytes of a VP predicate; two elements of a matrix claim, numbered through acc0 and acc1; an entry of a VP's
queue or of the drain queue, by its place from the oldest. -/
inductive RegUnit where
  | x (r : Reg)
  | v (vp : Fin 32) (r : Reg) (unit : Fin 16)
  | p (r : Fin 8)
  | vp (vp : Fin 32) (r : Fin 8) (unit : Fin 4)
  | claim (unit : Fin 1024)
  | queue (vp : Fin 32) (q : QueueKind) (place : Nat)
  | drain (place : Nat)
deriving DecidableEq, Repr

/-- The unit an uncorrectable soft error strikes (R345). -/
inductive SoftUnit where
  | l1 (core line : Nat)
  | icache (core line : Nat)
  | l2clean (line : Nat)
  | mem (loc : Nat)
  | csp (gang offset : Nat)
  | tcm (vt offset : Nat)
  | reg (vt : Nat) (u : RegUnit)
  | future (key : Nat)
  | barrier (gang b : Nat)
  | firmware
deriving DecidableEq, Repr

/-- The instructions of the control thread and the virtual processors, and the operations and events of the device. -/
inductive Instr where
  -- OP 0x01: integer register operations (R159)
  | add (g : Guard) (d a b : Reg)
  | sub (g : Guard) (d a b : Reg)
  | and (g : Guard) (d a b : Reg)
  | or (g : Guard) (d a b : Reg)
  | xor (g : Guard) (d a b : Reg)
  | sll (g : Guard) (d a b : Reg)
  | srl (g : Guard) (d a b : Reg)
  | sra (g : Guard) (d a b : Reg)
  | min (g : Guard) (d a b : Reg)
  | max (g : Guard) (d a b : Reg)
  | minu (g : Guard) (d a b : Reg)
  | maxu (g : Guard) (d a b : Reg)
  | popc (g : Guard) (d a : Reg)
  | clz (g : Guard) (d a : Reg)
  | ctz (g : Guard) (d a : Reg)
  -- OP 0x02 to 0x06: immediates (R160)
  | addi (g : Guard) (d a : Reg) (imm : Fin 4096)
  | andi (g : Guard) (d a : Reg) (imm : Fin 4096)
  | ori (g : Guard) (d a : Reg) (imm : Fin 4096)
  | xori (g : Guard) (d a : Reg) (imm : Fin 4096)
  | slli (g : Guard) (d a : Reg) (amt : Fin 64)
  | srli (g : Guard) (d a : Reg) (amt : Fin 64)
  | srai (g : Guard) (d a : Reg) (amt : Fin 64)
  -- OP 0x07: multiply and divide (R161)
  | mul (g : Guard) (d a b : Reg)
  | mulh (g : Guard) (d a b : Reg)
  | mulhu (g : Guard) (d a b : Reg)
  | div (g : Guard) (d a b : Reg)
  | divu (g : Guard) (d a b : Reg)
  | rem (g : Guard) (d a b : Reg)
  | remu (g : Guard) (d a b : Reg)
  | lui (g : Guard) (d : Reg) (imm : Fin 131072)
  | auipc (g : Guard) (d : Reg) (imm : Fin 131072)
  -- CT loads and stores (R164)
  | ldb (g : Guard) (d a : Reg) (imm : Fin 4096)
  | ldbu (g : Guard) (d a : Reg) (imm : Fin 4096)
  | ldh (g : Guard) (d a : Reg) (imm : Fin 4096)
  | ldhu (g : Guard) (d a : Reg) (imm : Fin 4096)
  | ldw (g : Guard) (d a : Reg) (imm : Fin 4096)
  | ldwu (g : Guard) (d a : Reg) (imm : Fin 4096)
  | ldd (g : Guard) (d a : Reg) (imm : Fin 4096)
  | stb (g : Guard) (a b : Reg) (imm : Fin 4096)
  | sth (g : Guard) (a b : Reg) (imm : Fin 4096)
  | stw (g : Guard) (a b : Reg) (imm : Fin 4096)
  | std (g : Guard) (a b : Reg) (imm : Fin 4096)
  -- compares and predicates (R162, R163)
  | cmp (g : Guard) (pd1 pd2 : Fin 8) (c : Cond) (a b : Reg) (f : Comb)
  | cmpi (g : Guard) (pd1 pd2 : Fin 8) (c : Cond) (a : Reg) (imm : Fin 128)
  | pand (g : Guard) (d a b : Fin 8)
  | por (g : Guard) (d a b : Fin 8)
  | pxor (g : Guard) (d a b : Fin 8)
  | pandn (g : Guard) (d a b : Fin 8)
  | pgetx (g : Guard) (d : Reg) (a : Fin 8)
  | psetx (g : Guard) (d : Fin 8) (a : Reg)
  -- jumps (R166)
  | br (g : Guard) (imm : Fin 4194304)
  | jal (g : Guard) (d : Reg) (imm : Fin 131072)
  | jalr (g : Guard) (d a : Reg) (imm : Fin 4096)
  -- atomics (R167): ORD, and SC as scope less one in the CT or segment in a VP (R145)
  | amowSwap (g : Guard) (d a b : Reg) (ord : Order) (sc : Fin 4)
  | amowAdd (g : Guard) (d a b : Reg) (ord : Order) (sc : Fin 4)
  | amowAnd (g : Guard) (d a b : Reg) (ord : Order) (sc : Fin 4)
  | amowOr (g : Guard) (d a b : Reg) (ord : Order) (sc : Fin 4)
  | amowXor (g : Guard) (d a b : Reg) (ord : Order) (sc : Fin 4)
  | amowMin (g : Guard) (d a b : Reg) (ord : Order) (sc : Fin 4)
  | amowMax (g : Guard) (d a b : Reg) (ord : Order) (sc : Fin 4)
  | amowCas (g : Guard) (d a b : Reg) (ord : Order) (sc : Fin 4)
  | amodSwap (g : Guard) (d a b : Reg) (ord : Order) (sc : Fin 4)
  | amodAdd (g : Guard) (d a b : Reg) (ord : Order) (sc : Fin 4)
  | amodAnd (g : Guard) (d a b : Reg) (ord : Order) (sc : Fin 4)
  | amodOr (g : Guard) (d a b : Reg) (ord : Order) (sc : Fin 4)
  | amodXor (g : Guard) (d a b : Reg) (ord : Order) (sc : Fin 4)
  | amodMin (g : Guard) (d a b : Reg) (ord : Order) (sc : Fin 4)
  | amodMax (g : Guard) (d a b : Reg) (ord : Order) (sc : Fin 4)
  | amodCas (g : Guard) (d a b : Reg) (ord : Order) (sc : Fin 4)
  -- acquire, release, fences (R170, R171)
  | lda (g : Guard) (d a : Reg) (sc : Scope)
  | stl (g : Guard) (a b : Reg) (sc : Scope)
  | fence (g : Guard) (sc : Scope)
  | fenceSv (g : Guard) (sc : Scope)
  | fenceVs (g : Guard) (sc : Scope)
  | fenceE (g : Guard) (sc : Scope)
  -- CSRs (R172)
  | csrr (g : Guard) (d : Reg) (csr : Fin 1024)
  | csrw (g : Guard) (d a : Reg) (csr : Fin 1024)
  | csrs (g : Guard) (d a : Reg) (csr : Fin 1024)
  | csrc (g : Guard) (d a : Reg) (csr : Fin 1024)
  -- thread control (R173 to R179)
  | trap (g : Guard) (code : Fin 256)
  | icinv (g : Guard) (a : Reg)
  | park (g : Guard) (a : Reg)
  | yield (g : Guard)
  | exit (g : Guard)
  | spawn (g : Guard) (d a : Reg)
  | vtctlResume (g : Guard) (d a : Reg)
  | vtctlKill (g : Guard) (d a : Reg)
  | vtctlWake (g : Guard) (d a : Reg)
  -- barriers and waits (R234, R236, R239)
  | bar (g : Guard) (b : Fin 16)
  | bara (g : Guard) (b : Fin 16)
  | barw (g : Guard) (b : Fin 16)
  | mwait (g : Guard) (d a b : Reg) (word : Bool) (c : MCond)
  | waitd (g : Guard) (n : Reg) (dc : Fin 4)
  -- futures (R241)
  | fnew (g : Guard) (d : Reg)
  | fput (g : Guard) (d a b : Reg)
  | fget (g : Guard) (d a : Reg)
  | ftake (g : Guard) (d a : Reg)
  | ftry (g : Guard) (d a b : Reg)
  | ffree (g : Guard) (a : Reg)
  -- engines (R251)
  | enq (g : Guard) (a : Reg) (eng : Fin 8) (dc : Fin 4)
  | enqy (g : Guard) (d a b : Reg) (eng : Fin 8)
  | deq (g : Guard) (d : Reg) (eng : Fin 8) (dc : Fin 4)
  | deqt (g : Guard) (d : Reg) (eng : Fin 8) (dc : Fin 4)
  -- vector control (R181 to R189)
  | setvl (g : Guard) (d a b : Reg)
  | setcfg (g : Guard) (d a : Reg)
  | setmt (g : Guard) (a : Reg)
  | setem (g : Guard) (a : Reg)
  | setseg (g : Guard) (seg : Fin 4) (a : Reg)
  | vjoin (g : Guard)
  | xseed (g : Guard) (a : Reg)
  | xdrain (g : Guard) (d : Reg)
  | vbcast (g : Guard) (d a : Reg)
  | vextract (g : Guard) (d a b : Reg)
  | vf (g : Guard) (imm : Fin 4194304)
  | vfr (g : Guard) (a : Reg) (imm : Fin 4096)
  | vld (g : Guard) (v a b : Reg) (mode : VMode) (dc : Fin 4) (q : Bool) (hint : Hint)
  | vst (g : Guard) (v a b : Reg) (mode : VMode) (dc : Fin 4) (q : Bool) (hint : Hint)
  -- floating point (R201 to R205)
  | fadd (g : Guard) (d a b : Reg)
  | fsub (g : Guard) (d a b : Reg)
  | fmul (g : Guard) (d a b : Reg)
  | fmin (g : Guard) (d a b : Reg)
  | fmax (g : Guard) (d a b : Reg)
  | fdiv (g : Guard) (d a b : Reg)
  | fsqrt (g : Guard) (d a : Reg)
  | frcp (g : Guard) (d a : Reg)
  | frsq (g : Guard) (d a : Reg)
  | fexp2 (g : Guard) (d a : Reg)
  | flog2 (g : Guard) (d a : Reg)
  | fabs (g : Guard) (d a : Reg)
  | fneg (g : Guard) (d a : Reg)
  | fsgnj (g : Guard) (d a b : Reg)
  | fclass (g : Guard) (d a : Reg)
  | fma (g : Guard) (d a b c : Reg)
  | fms (g : Guard) (d a b c : Reg)
  | fnma (g : Guard) (d a b c : Reg)
  | fnms (g : Guard) (d a b c : Reg)
  | fcmp (g : Guard) (pd1 pd2 : Fin 8) (c : FCond) (a b : Reg) (f : Comb)
  -- conversions (R206, R207)
  | cvt (g : Guard) (d a : Reg) (src dst : Fmt)
  | cvts (g : Guard) (d a : Reg) (src dst : Fmt)
  -- saturating and averaging (R208)
  | adds (g : Guard) (d a b : Reg)
  | subs (g : Guard) (d a b : Reg)
  | addsu (g : Guard) (d a b : Reg)
  | subsu (g : Guard) (d a b : Reg)
  | avg (g : Guard) (d a b : Reg)
  | avgu (g : Guard) (d a b : Reg)
  | abs (g : Guard) (d a : Reg)
  | absd (g : Guard) (d a b : Reg)
  -- byte permutes, zips (R209, R210)
  | permb (g : Guard) (d a b : Reg)
  | shufb (g : Guard) (d a b : Reg)
  | zipl (g : Guard) (d a b : Reg)
  | ziph (g : Guard) (d a b : Reg)
  | uzpe (g : Guard) (d a b : Reg)
  | uzpo (g : Guard) (d a b : Reg)
  -- cross-VP transfers and wide operations (R212 to R215)
  | xsend (g : Guard) (a : Reg)
  | xrecv (g : Guard) (d : Reg)
  | vany (g : Guard) (d a : Fin 8)
  | vall (g : Guard) (d a : Fin 8)
  | vballot (g : Guard) (d : Reg) (a : Fin 8)
  | vmatch (g : Guard) (d a : Reg)
  | vshfl (g : Guard) (d a b : Reg)
  | vredAdd (g : Guard) (d a : Reg) (float : Bool)
  | vredMin (g : Guard) (d a : Reg) (float : Bool)
  | vredMax (g : Guard) (d a : Reg) (float : Bool)
  | vscanAdd (g : Guard) (d a : Reg) (float : Bool)
  -- VP memory, successors, moves (R216 to R218, R211)
  | ldv (g : Guard) (d a : Reg) (seg : Fin 4) (sz : Fin 8) (imm : Fin 128)
  | stv (g : Guard) (d a : Reg) (seg : Fin 4) (sz : Fin 8) (imm : Fin 128)
  | fetch (g : Guard) (imm : Fin 131072)
  | fetchr (g : Guard) (a : Reg)
  | vpid (g : Guard) (d : Reg)
  | ltmask (g : Guard) (d : Reg)
  | mov (g : Guard) (d a : Reg)
  | sel (g : Guard) (d a b : Reg)
  -- matrix (R220 to R232)
  | mxon (g : Guard) (va : Reg)
  | mxoff (g : Guard)
  | mopO (g : Guard) (acc : Fin 2) (va vb : Reg)
  | mopR (g : Guard) (acc : Fin 2) (va vb : Reg)
  | mopsO (g : Guard) (acc : Fin 2) (va vb vs : Reg)
  | mopsR (g : Guard) (acc : Fin 2) (va vb vs : Reg)
  | mopz (g : Guard) (acc : Fin 2)
  | mova (g : Guard) (acc : Fin 2) (va blk : Reg)
  | movta (g : Guard) (acc : Fin 2) (va blk : Reg)
  -- operations of the cores
  | blockStart (vt : Nat) (vp : Fin 32)
  | threadFetch (vt : Nat) (vp : Fin 32)
  | vectorMemoryPerformed (vt : Nat) (entry : Fin 8)
  | retry (request : Nat)
  | monitorWake (vt : Nat)
  | parkTimeout (vt : Nat)
  | issueAgeing (vt : Nat)
  -- engine commands (R246, R283), by command number
  | copy1d (cmd : Nat)
  | copy2d (cmd : Nat)
  | fill (cmd : Nat)
  | put (cmd : Nat)
  | get (cmd : Nat)
  | putadd (cmd : Nat)
  | signal (cmd : Nat)
  | completionRecord (cmd : Nat)
  -- queues and nodes (R257 to R264)
  | scan (domain queue : Nat)
  | launch (n : SlotRef)
  | copy (n : SlotRef)
  | prefetch (n : SlotRef)
  | unpin (n : SlotRef)
  | discard (n : SlotRef)
  | signalNode (n : SlotRef)
  | waitfut (n : SlotRef)
  | nop (n : SlotRef)
  | nodeCompletion (n : SlotRef)
  -- placement, residency, faults (R265 to R273, R311, R322, R323)
  | placement (cluster : Nat)
  | gangPreemption (gang : Nat)
  | gangRestore (gang : Nat)
  | swapIn (vt : Nat)
  | swapOut (vt : Nat)
  | move (vt core : Nat)
  | lprWrite (core : Nat) (value : Word32)
  | faultStop (vt : Nat)
  | freeze (m : Master) (addr : Word64)
  | fatalDump (reason : Nat)
  | queueDestroyed (domain queue : Nat)
  -- PLT messages (R277)
  | write (p : Packet)
  | read (p : Packet)
  | send (p : Packet)
  | doorbell (p : Packet)
  | submit (p : Packet)
  | addw (p : Packet)
  | signalMessage (p : Packet)
  | readresp (p : Packet)
  | ack (p : Packet)
  | nak (p : Packet)
  | status (p : Packet)
  | cnp (p : Packet)
  | retransmitTimeout (conn : ConnKey)
  | rateIncrease (conn : ConnKey)
  -- management requests (R282)
  | createq (r : Request) (queue : Nat) (ring : Word64) (log2n prio : Nat) (bitmap doorbell : Word64)
  | destroyq (r : Request) (queue : Nat) (drain : Bool)
  | openhost (r : Request) (addrHi addrLo : Word64)
  | openpeer (r : Request) (port : Nat) (addrHi addrLo : Word64) (remote : Nat)
  | close (r : Request) (conn : ConnKey)
  | mapleaf (r : Request) (va : Word64) (level : Nat) (entry : Word64)
  | stage (r : Request) (kind offset : Nat) (bytes : List Byte)
  | stageend (r : Request) (kind length : Nat)
  | raisesvn (r : Request) (kind svn : Nat)
  | readreg (r : Request) (reg index : Nat)
  | readdump (r : Request) (offset length : Nat)
  | releasedump (r : Request)
  | readctx (r : Request) (vt offset length : Nat)
  -- SPDM (R282, R289)
  | getVersion (conn : Nat) (msg : List Byte)
  | getCapabilities (conn : Nat) (msg : List Byte)
  | negotiateAlgorithms (conn : Nat) (msg : List Byte)
  | getDigests (conn : Nat) (msg : List Byte)
  | getCertificate (conn : Nat) (msg : List Byte)
  | challenge (conn : Nat) (msg : List Byte)
  | getMeasurements (conn : Nat) (msg : List Byte)
  -- start, Slack Water, power (R287, R290 to R293, R380, R19)
  | deviceReset
  | handOver (kind inst : Nat) (record : List Byte)
  | newInstanceStart (kind inst : Nat)
  | livenessBeat (kind inst : Nat) (region : List Byte)
  | slackWaterCommit
  | fallBack (inst reason : Nat)
  | clockStep (die : Nat) (up : Bool) (power inlet : Nat)
  -- Tidewatch (R296, R350 to R366)
  | heartbeatSend (tile : TileId)
  | heartbeat (witness subject : TileId) (flit : Word64)
  | heartbeatMiss (witness subject : TileId)
  | accuse (receiver : TileId) (flit : Word64)
  | accuseRepeat (witness subject : TileId)
  | withdraw (receiver : TileId) (flit : Word64)
  | accusationExpiry (witness subject sender : TileId)
  | cordoned (receiver : TileId) (flit : Word64)
  | portClosure (neighbour subject : TileId)
  | cordonHandling (tile : TileId)
  | selftest (tile : TileId) (pass : Bool)
  | appeal (receiver : TileId) (flit : Word64)
  | consent (receiver : TileId) (flit : Word64)
  | refuse (receiver : TileId) (flit : Word64)
  | readmit (receiver : TileId) (flit : Word64)
  | retire (receiver : TileId) (flit : Word64)
  -- CXL, soft errors, matrix blocks, injection (R347, R345, R225, R350)
  | cxlLinkLoss (link : Fin 4)
  | softError (u : SoftUnit)
  | mopBlockCompletion (vt : Nat)
  | cxlLinkDown (link : Fin 4)
  | cxlLinkRetrained (link : Fin 4) (width rate : Nat)
  | injectionAllowance (witness subject : TileId)
deriving DecidableEq, Repr

end Sys2Proof
end

