-- ==== Sys2Proof/WellFormed.lean ====
section
/-! DEFINITION. Which instructions a word may stand for: the limits of R143 to R150 and R206, R207 that the operand types
alone do not express, and that hold in every configuration (R326). -/

namespace Sys2Proof

/-- The CSR numbers of R56. -/
def csrAssigned (n : Nat) : Bool :=
  n ≤ 4 || (8 ≤ n && n ≤ 0x0B) || n == 0x10 || n == 0x11 || (0x40 ≤ n && n ≤ 0x44) || (0x80 ≤ n && n ≤ 0x82)
    || (0xC0 ≤ n && n ≤ 0xC2) || (0xC8 ≤ n && n ≤ 0xCB)

/-- fp32, fp16 and bf16, the wide floating-point formats of R206. -/
def Fmt.isWide : Fmt → Bool
  | .fp32 | .fp16 | .bf16 => true
  | _ => false

/-- The narrow floating-point formats that a conversion can produce (R206). -/
def Fmt.isNarrow : Fmt → Bool
  | .e4m3 | .e5m2 | .e3m2 | .e2m3 | .e2m1 => true
  | _ => false

/-- The integer formats of R206. -/
def Fmt.isInt : Fmt → Bool
  | .i4 | .n4 | .i8 | .n8 | .i16 | .n16 | .i32 | .n32 | .i64 | .n64 => true
  | _ => false

/-- The legal pairs of `cvt` (R206). -/
def cvtLegal (src dst : Fmt) : Bool :=
  (src.isWide && dst.isWide && src != dst)
    || (src.isWide && dst.isNarrow)
    || ((src.isNarrow || src == .e8m0) && dst.isWide)
    || (src.isWide && dst.isInt)
    || (src.isInt && dst.isWide)
    || (src.isInt && dst.isInt && src != dst)

/-- The legal pairs of `cvts` (R207). -/
def cvtsLegal (src dst : Fmt) : Bool := src.isWide && dst.isNarrow

/-- The limits on V, B, MODE and Q of `vld` and `vst` (R191). -/
def vmemLegal (v b : Reg) (mode : VMode) (q : Bool) : Bool :=
  (v == 31) == q &&
    match mode with
    | .u => b == 0
    | .s => true
    | .x | .e => b != 31

/-- An instruction that some word stands for, or an operation of the device. -/
def Instr.wellFormed : Instr → Bool
  | .cvt _ _ _ src dst => cvtLegal src dst
  | .cvts _ d _ src dst => cvtsLegal src dst && d.val ≤ 29
  | .csrr _ _ n | .csrw _ _ _ n | .csrs _ _ _ n | .csrc _ _ _ n => csrAssigned n.val
  | .waitd _ n _ => n.val ≤ 8
  | .enq _ a eng _ => eng.val ≤ 1 && 1 ≤ a.val && a.val ≤ 28
  | .enqy _ _ a _ eng => eng.val ≤ 1 && 1 ≤ a.val && a.val ≤ 28
  | .deq _ _ eng _ | .deqt _ _ eng _ => eng.val ≤ 1
  | .setvl _ _ _ b => b == 0 || b == 1 || b == 2 || b == 4
  | .vbcast _ d _ => d != 31
  | .vextract _ _ _ b => b != 31
  | .vld _ v _ b mode _ q _ | .vst _ v _ b mode _ q _ => vmemLegal v b mode q
  | .stv _ _ _ _ sz _ => sz != 1 && sz != 3 && sz != 5
  | .mopO _ _ va vb | .mopR _ _ va vb => va.val ≤ 27 && vb.val ≤ 27
  | .mopsO _ _ va vb vs | .mopsR _ _ va vb vs => va.val ≤ 27 && vb.val ≤ 27 && vs.val ≤ 29
  | .mova _ _ va _ | .movta _ _ va _ => va != 31
  | _ => true

end Sys2Proof
end

