-- ==== Sys2Proof/Decode.lean ====
section
/-! DEFINITION. The decoder of instruction words and block headers (R136 to R151), total and rejecting by name, and the
encoder written from the same tables. A word is read as a natural number below 2^32. -/

namespace Sys2Proof

/-- Why a word is not an instruction (R151). The context (R140) and the limits of R326 that depend on VCFG or on W are
judged where the word is met. -/
inductive DecodeError where
  /-- OP 0x00 or 0x37 to 0x3F. -/
  | reservedOpcode
  /-- A function, kind or sub-operation value marked reserved. -/
  | reservedFunction
  /-- A field marked with a dash is not zero. -/
  | fieldNotZero
  /-- A field lies outside the limits of R139 to R150. -/
  | fieldOutOfRange
  /-- OP 0x36, a header, where an instruction is expected (R140). -/
  | header
deriving DecidableEq, Repr

/-- Bits [lo + n - 1 : lo] of a word. -/
def wordField (w lo n : Nat) : Nat := w / 2 ^ lo % 2 ^ n

/-- The register field whose lowest bit is `lo` (R138). -/
def regField (w lo : Nat) : Reg := Fin.ofNat 32 (wordField w lo 5)

/-- The guard of bits [25:22] (R136). -/
def guardField (w : Nat) : Guard where
  p := Fin.ofNat 8 (wordField w 23 3)
  neg := wordField w 22 1 == 1

/-- The predicate named in a 3-bit field. -/
def predField (w lo : Nat) : Fin 8 := Fin.ofNat 8 (wordField w lo 3)

/-- `.ok i` where a field marked with a dash is zero. -/
def whenZero (x : Nat) (i : Instr) : Except DecodeError Instr :=
  if x = 0 then .ok i else .error .fieldNotZero

/-- `.ok i` where the limits of R143 to R150 hold. -/
def whenLegal (i : Instr) : Except DecodeError Instr :=
  if i.wellFormed then .ok i else .error .fieldOutOfRange

/-- COND codes of `cmp` and `cmpi` (R144). -/
def condOfCode : Nat → Option Cond
  | 0 => some .eq
  | 1 => some .ne
  | 2 => some .lt
  | 3 => some .le
  | 4 => some .gt
  | 5 => some .ge
  | 6 => some .ltu
  | 7 => some .leu
  | 8 => some .gtu
  | 9 => some .geu
  | 10 => some .tst
  | 11 => some .ntst
  | _ => none

/-- COND codes of `cmp` and `cmpi` (R144). -/
def Cond.code : Cond → Nat
  | .eq => 0
  | .ne => 1
  | .lt => 2
  | .le => 3
  | .gt => 4
  | .ge => 5
  | .ltu => 6
  | .leu => 7
  | .gtu => 8
  | .geu => 9
  | .tst => 10
  | .ntst => 11

/-- COND codes of `fcmp` (R144). -/
def fcondOfCode : Nat → Option FCond
  | 0 => some .eq
  | 1 => some .ne
  | 2 => some .lt
  | 3 => some .le
  | 4 => some .gt
  | 5 => some .ge
  | 6 => some .ord
  | 7 => some .unord
  | _ => none

/-- COND codes of `fcmp` (R144). -/
def FCond.code : FCond → Nat
  | .eq => 0
  | .ne => 1
  | .lt => 2
  | .le => 3
  | .gt => 4
  | .ge => 5
  | .ord => 6
  | .unord => 7

/-- COND codes of `mwait` (R147). -/
def mcondOfCode : Nat → Option MCond
  | 0 => some .eq
  | 1 => some .ne
  | 2 => some .lt
  | 3 => some .ge
  | 4 => some .ltu
  | 5 => some .geu
  | _ => none

/-- COND codes of `mwait` (R147). -/
def MCond.code : MCond → Nat
  | .eq => 0
  | .ne => 1
  | .lt => 2
  | .ge => 3
  | .ltu => 4
  | .geu => 5

/-- Scope codes (R97). -/
def scopeOfCode : Nat → Option Scope
  | 0 => some .core
  | 1 => some .clu
  | 2 => some .die
  | 3 => some .dev
  | 4 => some .sys
  | _ => none

/-- Scope codes (R97). -/
def Scope.code : Scope → Nat
  | .core => 0
  | .clu => 1
  | .die => 2
  | .dev => 3
  | .sys => 4

/-- Format codes of `cvt` and `cvts` (R149). -/
def fmtOfCode : Nat → Option Fmt
  | 0 => some .fp32
  | 1 => some .fp16
  | 2 => some .bf16
  | 3 => some .e4m3
  | 4 => some .e5m2
  | 5 => some .e3m2
  | 6 => some .e2m3
  | 7 => some .e2m1
  | 8 => some .e8m0
  | 9 => some .i4
  | 10 => some .n4
  | 11 => some .i8
  | 12 => some .n8
  | 13 => some .i16
  | 14 => some .n16
  | 15 => some .i32
  | 16 => some .n32
  | 17 => some .i64
  | 18 => some .n64
  | _ => none

/-- Format codes of `cvt` and `cvts` (R149). -/
def Fmt.code : Fmt → Nat
  | .fp32 => 0
  | .fp16 => 1
  | .bf16 => 2
  | .e4m3 => 3
  | .e5m2 => 4
  | .e3m2 => 5
  | .e2m3 => 6
  | .e2m1 => 7
  | .e8m0 => 8
  | .i4 => 9
  | .n4 => 10
  | .i8 => 11
  | .n8 => 12
  | .i16 => 13
  | .n16 => 14
  | .i32 => 15
  | .n32 => 16
  | .i64 => 17
  | .n64 => 18

/-- HINT codes (R148). -/
def hintOfCode : Nat → Option Hint
  | 0 => some .normal
  | 1 => some .str
  | 2 => some .na
  | _ => none

/-- HINT codes (R148). -/
def Hint.code : Hint → Nat
  | .normal => 0
  | .str => 1
  | .na => 2

/-- F2 codes of the compares (R144). -/
def combOfCode (n : Nat) : Comb :=
  if n = 0 then .plain else if n = 1 then .nar else if n = 2 then .wid else .cut

/-- F2 codes of the compares (R144). -/
def Comb.code : Comb → Nat
  | .plain => 0
  | .nar => 1
  | .wid => 2
  | .cut => 3

/-- Order codes (R98). -/
def orderOfCode (n : Nat) : Order :=
  if n = 0 then .rlx else if n = 1 then .acq else if n = 2 then .rel else .ar

/-- Order codes (R98). -/
def Order.code : Order → Nat
  | .rlx => 0
  | .acq => 1
  | .rel => 2
  | .ar => 3

/-- MODE codes of `vld` and `vst` (R148). -/
def vmodeOfCode (n : Nat) : VMode :=
  if n = 0 then .u else if n = 1 then .s else if n = 2 then .x else .e

/-- MODE codes of `vld` and `vst` (R148). -/
def VMode.code : VMode → Nat
  | .u => 0
  | .s => 1
  | .x => 2
  | .e => 3

/-- OP 0x01 (R143). -/
def decodeInteger (w : Nat) : Except DecodeError Instr :=
  let g := guardField w
  let d := regField w 17
  let a := regField w 12
  let b := regField w 7
  match wordField w 0 7 with
  | 0 => .ok (.add g d a b)
  | 1 => .ok (.sub g d a b)
  | 2 => .ok (.and g d a b)
  | 3 => .ok (.or g d a b)
  | 4 => .ok (.xor g d a b)
  | 5 => .ok (.sll g d a b)
  | 6 => .ok (.srl g d a b)
  | 7 => .ok (.sra g d a b)
  | 8 => .ok (.min g d a b)
  | 9 => .ok (.max g d a b)
  | 10 => .ok (.minu g d a b)
  | 11 => .ok (.maxu g d a b)
  | 12 => whenZero b.val (.popc g d a)
  | 13 => whenZero b.val (.clz g d a)
  | 14 => whenZero b.val (.ctz g d a)
  | _ => .error .reservedFunction

/-- OP 0x06 (R143): the kind in IMM12[11:10], IMM12[9:6] zero, the amount in IMM12[5:0]. -/
def decodeShiftImm (w : Nat) : Except DecodeError Instr :=
  let g := guardField w
  let d := regField w 17
  let a := regField w 12
  let n : Fin 64 := Fin.ofNat 64 (wordField w 0 6)
  match wordField w 10 2 with
  | 0 => whenZero (wordField w 6 4) (.slli g d a n)
  | 1 => whenZero (wordField w 6 4) (.srli g d a n)
  | 2 => whenZero (wordField w 6 4) (.srai g d a n)
  | _ => .error .reservedFunction

/-- OP 0x07 (R143). -/
def decodeMulDiv (w : Nat) : Except DecodeError Instr :=
  let g := guardField w
  let d := regField w 17
  let a := regField w 12
  let b := regField w 7
  match wordField w 0 7 with
  | 0 => .ok (.mul g d a b)
  | 1 => .ok (.mulh g d a b)
  | 2 => .ok (.mulhu g d a b)
  | 4 => .ok (.div g d a b)
  | 5 => .ok (.divu g d a b)
  | 6 => .ok (.rem g d a b)
  | 7 => .ok (.remu g d a b)
  | _ => .error .reservedFunction

/-- OP 0x15: `cmp` (R144). -/
def decodeCmp (w : Nat) : Except DecodeError Instr :=
  match condOfCode (wordField w 12 4) with
  | some c => .ok (.cmp (guardField w) (predField w 19) (predField w 16) c (regField w 7) (regField w 2)
      (combOfCode (wordField w 0 2)))
  | none => .error .reservedFunction

/-- OP 0x16: `cmpi` (R144). -/
def decodeCmpi (w : Nat) : Except DecodeError Instr :=
  match condOfCode (wordField w 12 4) with
  | some c => .ok (.cmpi (guardField w) (predField w 19) (predField w 16) c (regField w 7)
      (Fin.ofNat 128 (wordField w 0 7)))
  | none => .error .reservedFunction

/-- OP 0x17: predicate operations; a predicate in a 5-bit field has bits [4:3] = 0 (R144). -/
def decodePred (w : Nat) : Except DecodeError Instr :=
  let g := guardField w
  let dHi := wordField w 20 2
  let aHi := wordField w 15 2
  let bHi := wordField w 10 2
  let d := predField w 17
  let a := predField w 12
  let b := predField w 7
  match wordField w 0 7 with
  | 0 => if dHi = 0 ∧ aHi = 0 ∧ bHi = 0 then .ok (.pand g d a b) else .error .fieldOutOfRange
  | 1 => if dHi = 0 ∧ aHi = 0 ∧ bHi = 0 then .ok (.por g d a b) else .error .fieldOutOfRange
  | 2 => if dHi = 0 ∧ aHi = 0 ∧ bHi = 0 then .ok (.pxor g d a b) else .error .fieldOutOfRange
  | 3 => if dHi = 0 ∧ aHi = 0 ∧ bHi = 0 then .ok (.pandn g d a b) else .error .fieldOutOfRange
  | 4 => if aHi = 0 then whenZero (wordField w 7 5) (.pgetx g (regField w 17) a) else .error .fieldOutOfRange
  | 5 => if dHi = 0 then whenZero (wordField w 7 5) (.psetx g d (regField w 12)) else .error .fieldOutOfRange
  | _ => .error .reservedFunction

/-- OP 0x1B: `amow` (R145). -/
def decodeAmow (w : Nat) : Except DecodeError Instr :=
  let g := guardField w
  let d := regField w 17
  let a := regField w 12
  let b := regField w 7
  let ord := orderOfCode (wordField w 2 2)
  let sc : Fin 4 := Fin.ofNat 4 (wordField w 0 2)
  match wordField w 4 3 with
  | 0 => .ok (.amowSwap g d a b ord sc)
  | 1 => .ok (.amowAdd g d a b ord sc)
  | 2 => .ok (.amowAnd g d a b ord sc)
  | 3 => .ok (.amowOr g d a b ord sc)
  | 4 => .ok (.amowXor g d a b ord sc)
  | 5 => .ok (.amowMin g d a b ord sc)
  | 6 => .ok (.amowMax g d a b ord sc)
  | _ => .ok (.amowCas g d a b ord sc)

/-- OP 0x1C: `amod` (R145). -/
def decodeAmod (w : Nat) : Except DecodeError Instr :=
  let g := guardField w
  let d := regField w 17
  let a := regField w 12
  let b := regField w 7
  let ord := orderOfCode (wordField w 2 2)
  let sc : Fin 4 := Fin.ofNat 4 (wordField w 0 2)
  match wordField w 4 3 with
  | 0 => .ok (.amodSwap g d a b ord sc)
  | 1 => .ok (.amodAdd g d a b ord sc)
  | 2 => .ok (.amodAnd g d a b ord sc)
  | 3 => .ok (.amodOr g d a b ord sc)
  | 4 => .ok (.amodXor g d a b ord sc)
  | 5 => .ok (.amodMin g d a b ord sc)
  | 6 => .ok (.amodMax g d a b ord sc)
  | _ => .ok (.amodCas g d a b ord sc)

/-- OP 0x1D: `lda` with F[6] = 0, `stl` with F[6] = 1 (R146). -/
def decodeAcqRel (w : Nat) : Except DecodeError Instr :=
  match scopeOfCode (wordField w 0 3) with
  | none => .error .reservedFunction
  | some sc =>
    if wordField w 3 3 ≠ 0 then .error .fieldNotZero
    else if wordField w 6 1 = 0 then whenZero (wordField w 7 5) (.lda (guardField w) (regField w 17) (regField w 12) sc)
    else whenZero (wordField w 17 5) (.stl (guardField w) (regField w 12) (regField w 7) sc)

/-- OP 0x1E: fences (R146). -/
def decodeFence (w : Nat) : Except DecodeError Instr :=
  let g := guardField w
  match scopeOfCode (wordField w 0 3) with
  | none => .error .reservedFunction
  | some sc =>
    if wordField w 3 2 ≠ 0 ∨ wordField w 7 15 ≠ 0 then .error .fieldNotZero
    else
      match wordField w 5 2 with
      | 0 => .ok (.fence g sc)
      | 1 => .ok (.fenceSv g sc)
      | 2 => .ok (.fenceVs g sc)
      | _ => .ok (.fenceE g sc)

/-- OP 0x1F: CSR instructions (R147). -/
def decodeCsr (w : Nat) : Except DecodeError Instr :=
  let g := guardField w
  let d := regField w 17
  let a := regField w 12
  let n : Fin 1024 := Fin.ofNat 1024 (wordField w 0 10)
  match wordField w 10 2 with
  | 0 => if a.val = 0 then whenLegal (.csrr g d n) else .error .fieldNotZero
  | 1 => whenLegal (.csrw g d a n)
  | 2 => whenLegal (.csrs g d a n)
  | _ => whenLegal (.csrc g d a n)

/-- OP 0x20: thread control (R147). -/
def decodeThread (w : Nat) : Except DecodeError Instr :=
  let g := guardField w
  let d := regField w 17
  let a := regField w 12
  let lo := wordField w 0 8
  match wordField w 8 4 with
  | 0 => whenZero (wordField w 12 10) (.trap g (Fin.ofNat 256 lo))
  | 1 => whenZero (d.val + lo) (.icinv g a)
  | 2 => whenZero (d.val + lo) (.park g a)
  | 3 => whenZero (wordField w 12 10 + lo) (.yield g)
  | 4 => whenZero (wordField w 12 10 + lo) (.exit g)
  | 5 => whenZero lo (.spawn g d a)
  | 6 =>
    match lo with
    | 0 => .ok (.vtctlResume g d a)
    | 1 => .ok (.vtctlKill g d a)
    | 2 => .ok (.vtctlWake g d a)
    | _ => .error .reservedFunction
  | _ => .error .reservedFunction

/-- OP 0x21: barriers and waits (R147). -/
def decodeBarrier (w : Nat) : Except DecodeError Instr :=
  let g := guardField w
  let bn : Fin 16 := Fin.ofNat 16 (wordField w 0 4)
  match wordField w 4 3 with
  | 0 => whenZero (wordField w 7 15) (.bar g bn)
  | 1 => whenZero (wordField w 7 15) (.bara g bn)
  | 2 => whenZero (wordField w 7 15) (.barw g bn)
  | 3 =>
    match mcondOfCode (wordField w 0 3) with
    | some c => .ok (.mwait g (regField w 17) (regField w 12) (regField w 7) (wordField w 3 1 == 1) c)
    | none => .error .reservedFunction
  | 4 =>
    if wordField w 12 10 ≠ 0 ∨ wordField w 2 2 ≠ 0 then .error .fieldNotZero
    else whenLegal (.waitd g (regField w 7) (Fin.ofNat 4 (wordField w 0 2)))
  | _ => .error .reservedFunction

/-- OP 0x22: futures (R147). -/
def decodeFuture (w : Nat) : Except DecodeError Instr :=
  let g := guardField w
  let d := regField w 17
  let a := regField w 12
  let b := regField w 7
  match wordField w 0 7 with
  | 0 => whenZero (wordField w 7 10) (.fnew g d)
  | 1 => .ok (.fput g d a b)
  | 2 => whenZero b.val (.fget g d a)
  | 3 => whenZero b.val (.ftake g d a)
  | 4 => .ok (.ftry g d a b)
  | 5 => whenZero (d.val + b.val) (.ffree g a)
  | _ => .error .reservedFunction

/-- OP 0x23: `enq`, `enqy` (R148). -/
def decodeEnq (w : Nat) : Except DecodeError Instr :=
  let g := guardField w
  let d := regField w 17
  let a := regField w 12
  let b := regField w 7
  let eng : Fin 8 := Fin.ofNat 8 (wordField w 4 3)
  let dc := wordField w 2 2
  match wordField w 0 2 with
  | 0 => if d.val + b.val = 0 then whenLegal (.enq g a eng (Fin.ofNat 4 dc)) else .error .fieldNotZero
  | 1 => if dc = 0 then whenLegal (.enqy g d a b eng) else .error .fieldNotZero
  | _ => .error .reservedFunction

/-- OP 0x24: `deq`, `deqt` (R148). -/
def decodeDeq (w : Nat) : Except DecodeError Instr :=
  let g := guardField w
  let d := regField w 17
  let eng : Fin 8 := Fin.ofNat 8 (wordField w 4 3)
  let dc : Fin 4 := Fin.ofNat 4 (wordField w 2 2)
  match wordField w 0 2 with
  | 0 => if wordField w 7 10 = 0 then whenLegal (.deq g d eng dc) else .error .fieldNotZero
  | 1 => if wordField w 7 10 = 0 then whenLegal (.deqt g d eng dc) else .error .fieldNotZero
  | _ => .error .reservedFunction

/-- OP 0x25: vector control (R148). -/
def decodeVectorControl (w : Nat) : Except DecodeError Instr :=
  let g := guardField w
  let d := regField w 17
  let a := regField w 12
  let b := regField w 7
  match wordField w 0 7 with
  | 0 => whenLegal (.setvl g d a b)
  | 1 => whenZero b.val (.setcfg g d a)
  | 2 => whenZero (d.val + b.val) (.setmt g a)
  | 3 => whenZero (d.val + b.val) (.setem g a)
  | 4 => whenZero (wordField w 19 3 + b.val) (.setseg g (Fin.ofNat 4 (wordField w 17 2)) a)
  | 5 => whenZero (wordField w 7 15) (.vjoin g)
  | 6 => whenZero (d.val + b.val) (.xseed g a)
  | 7 => whenZero (wordField w 7 10) (.xdrain g d)
  | 8 => if b.val = 0 then whenLegal (.vbcast g d a) else .error .fieldNotZero
  | 9 => whenLegal (.vextract g d a b)
  | _ => .error .reservedFunction

/-- OP 0x28 and 0x29: `vld` and `vst` (R148, R191). -/
def decodeVmem (load : Bool) (w : Nat) : Except DecodeError Instr :=
  let g := guardField w
  let v := regField w 17
  let a := regField w 12
  let b := regField w 7
  let mode := vmodeOfCode (wordField w 5 2)
  let dc : Fin 4 := Fin.ofNat 4 (wordField w 3 2)
  let q := wordField w 2 1 == 1
  match hintOfCode (wordField w 0 2) with
  | none => .error .reservedFunction
  | some h => whenLegal (if load then .vld g v a b mode dc q h else .vst g v a b mode dc q h)

/-- OP 0x2A: floating-point operations (R149). -/
def decodeFloat (w : Nat) : Except DecodeError Instr :=
  let g := guardField w
  let d := regField w 17
  let a := regField w 12
  let b := regField w 7
  match wordField w 0 7 with
  | 0 => .ok (.fadd g d a b)
  | 1 => .ok (.fsub g d a b)
  | 2 => .ok (.fmul g d a b)
  | 3 => .ok (.fmin g d a b)
  | 4 => .ok (.fmax g d a b)
  | 5 => .ok (.fdiv g d a b)
  | 8 => whenZero b.val (.fsqrt g d a)
  | 9 => whenZero b.val (.frcp g d a)
  | 10 => whenZero b.val (.frsq g d a)
  | 11 => whenZero b.val (.fexp2 g d a)
  | 12 => whenZero b.val (.flog2 g d a)
  | 16 => whenZero b.val (.fabs g d a)
  | 17 => whenZero b.val (.fneg g d a)
  | 19 => whenZero b.val (.fclass g d a)
  | 18 => .ok (.fsgnj g d a b)
  | _ => .error .reservedFunction

/-- OP 0x2B: fused operations (R149). -/
def decodeFused (w : Nat) : Except DecodeError Instr :=
  let g := guardField w
  let d := regField w 17
  let a := regField w 12
  let b := regField w 7
  let c := regField w 2
  match wordField w 0 2 with
  | 0 => .ok (.fma g d a b c)
  | 1 => .ok (.fms g d a b c)
  | 2 => .ok (.fnma g d a b c)
  | _ => .ok (.fnms g d a b c)

/-- OP 0x2C: `fcmp` (R144). -/
def decodeFcmp (w : Nat) : Except DecodeError Instr :=
  match fcondOfCode (wordField w 12 4) with
  | some c => .ok (.fcmp (guardField w) (predField w 19) (predField w 16) c (regField w 7) (regField w 2)
      (combOfCode (wordField w 0 2)))
  | none => .error .reservedFunction

/-- OP 0x2D: conversions; B holds the source format, F[4:0] the destination format (R149). -/
def decodeConvert (w : Nat) : Except DecodeError Instr :=
  match fmtOfCode (wordField w 7 5), fmtOfCode (wordField w 0 5) with
  | some src, some dst =>
    match wordField w 5 2 with
    | 0 => whenLegal (.cvt (guardField w) (regField w 17) (regField w 12) src dst)
    | 1 => whenLegal (.cvts (guardField w) (regField w 17) (regField w 12) src dst)
    | _ => .error .reservedFunction
  | _, _ => .error .reservedFunction

/-- OP 0x2E: saturating and averaging operations (R149). -/
def decodeSaturating (w : Nat) : Except DecodeError Instr :=
  let g := guardField w
  let d := regField w 17
  let a := regField w 12
  let b := regField w 7
  match wordField w 0 7 with
  | 0 => .ok (.adds g d a b)
  | 1 => .ok (.subs g d a b)
  | 2 => .ok (.addsu g d a b)
  | 3 => .ok (.subsu g d a b)
  | 4 => .ok (.avg g d a b)
  | 5 => .ok (.avgu g d a b)
  | 6 => whenZero b.val (.abs g d a)
  | 7 => .ok (.absd g d a b)
  | _ => .error .reservedFunction

/-- OP 0x2F: byte permutes and zips (R149). -/
def decodePermute (w : Nat) : Except DecodeError Instr :=
  let g := guardField w
  let d := regField w 17
  let a := regField w 12
  let b := regField w 7
  match wordField w 0 7 with
  | 0 => .ok (.permb g d a b)
  | 1 => .ok (.shufb g d a b)
  | 2 => .ok (.zipl g d a b)
  | 3 => .ok (.ziph g d a b)
  | 4 => .ok (.uzpe g d a b)
  | 5 => .ok (.uzpo g d a b)
  | _ => .error .reservedFunction

/-- OP 0x30: `xsend`, `xrecv` (R149, R212). -/
def decodeTransfer (w : Nat) : Except DecodeError Instr :=
  let g := guardField w
  let d := regField w 17
  let a := regField w 12
  let b := regField w 7
  match wordField w 0 7 with
  | 0 => whenZero (d.val + b.val) (.xsend g a)
  | 1 => whenZero (a.val + b.val) (.xrecv g d)
  | _ => .error .reservedFunction

/-- OP 0x31: wide operations (R149, R214, R215). -/
def decodeWide (w : Nat) : Except DecodeError Instr :=
  let g := guardField w
  let d := regField w 17
  let a := regField w 12
  let b := regField w 7
  let f64 := wordField w 4 3
  let fl := wordField w 6 1 == 1
  let f54 := wordField w 4 2
  match wordField w 0 4 with
  | 0 => if f64 + b.val ≠ 0 then .error .fieldNotZero
         else if wordField w 20 2 = 0 ∧ wordField w 15 2 = 0 then .ok (.vany g (predField w 17) (predField w 12))
         else .error .fieldOutOfRange
  | 1 => if f64 + b.val ≠ 0 then .error .fieldNotZero
         else if wordField w 20 2 = 0 ∧ wordField w 15 2 = 0 then .ok (.vall g (predField w 17) (predField w 12))
         else .error .fieldOutOfRange
  | 2 => if f64 + b.val ≠ 0 then .error .fieldNotZero
         else if wordField w 15 2 = 0 then .ok (.vballot g d (predField w 12))
         else .error .fieldOutOfRange
  | 3 => whenZero (f64 + b.val) (.vmatch g d a)
  | 4 => whenZero f64 (.vshfl g d a b)
  | 5 => whenZero (f54 + b.val) (.vredAdd g d a fl)
  | 6 => whenZero (f54 + b.val) (.vredMin g d a fl)
  | 7 => whenZero (f54 + b.val) (.vredMax g d a fl)
  | 8 => whenZero (f54 + b.val) (.vscanAdd g d a fl)
  | _ => .error .reservedFunction

/-- OP 0x32: `ldv` (R149, R216). -/
def decodeLdv (w : Nat) : Except DecodeError Instr :=
  .ok (.ldv (guardField w) (regField w 17) (regField w 12) (Fin.ofNat 4 (wordField w 10 2))
    (Fin.ofNat 8 (wordField w 7 3)) (Fin.ofNat 128 (wordField w 0 7)))

/-- OP 0x33: `stv` (R149, R216). -/
def decodeStv (w : Nat) : Except DecodeError Instr :=
  whenLegal (.stv (guardField w) (regField w 17) (regField w 12) (Fin.ofNat 4 (wordField w 10 2))
    (Fin.ofNat 8 (wordField w 7 3)) (Fin.ofNat 128 (wordField w 0 7)))

/-- OP 0x34, format C (R138, R149). -/
def decodeMove (w : Nat) : Except DecodeError Instr :=
  let g := guardField w
  let d := regField w 12
  let a := regField w 7
  let b := regField w 2
  let lo := wordField w 0 2
  match wordField w 17 5 with
  | 0 => .ok (.fetch g (Fin.ofNat 131072 (wordField w 0 17)))
  | 1 => whenZero (wordField w 0 12) (.fetchr g (regField w 12))
  | 2 => whenZero (a.val + b.val + lo) (.vpid g d)
  | 3 => whenZero (a.val + b.val + lo) (.ltmask g d)
  | 4 => whenZero (b.val + lo) (.mov g d a)
  | 5 => whenZero lo (.sel g d a b)
  | _ => .error .reservedFunction

/-- OP 0x35: matrix operations, format M (R138, R150). -/
def decodeMatrix (w : Nat) : Except DecodeError Instr :=
  let g := guardField w
  let acc : Fin 2 := Fin.ofNat 2 (wordField w 21 1)
  let va := regField w 16
  let vb := regField w 11
  let vs := regField w 6
  match wordField w 0 6 with
  | 0 => whenZero (acc.val + vb.val + vs.val) (.mxon g va)
  | 1 => whenZero (acc.val + va.val + vb.val + vs.val) (.mxoff g)
  | 2 => if vs.val = 0 then whenLegal (.mopO g acc va vb) else .error .fieldNotZero
  | 3 => if vs.val = 0 then whenLegal (.mopR g acc va vb) else .error .fieldNotZero
  | 4 => whenLegal (.mopsO g acc va vb vs)
  | 5 => whenLegal (.mopsR g acc va vb vs)
  | 6 => whenZero (va.val + vb.val + vs.val) (.mopz g acc)
  | 7 => if vb.val = 0 then whenLegal (.mova g acc va vs) else .error .fieldNotZero
  | 8 => if vb.val = 0 then whenLegal (.movta g acc va vs) else .error .fieldNotZero
  | _ => .error .reservedFunction

/-- The instruction a word stands for, by its major opcode (R142). -/
def decodeNat (w : Nat) : Except DecodeError Instr :=
  let g := guardField w
  let d := regField w 17
  let a := regField w 12
  let i12 : Fin 4096 := Fin.ofNat 4096 (wordField w 0 12)
  let i17 : Fin 131072 := Fin.ofNat 131072 (wordField w 0 17)
  let i22 : Fin 4194304 := Fin.ofNat 4194304 (wordField w 0 22)
  let sImm : Fin 4096 := Fin.ofNat 4096 (wordField w 17 5 * 128 + wordField w 0 7)
  let b := regField w 7
  match wordField w 26 6 with
  | 0x01 => decodeInteger w
  | 0x02 => .ok (.addi g d a i12)
  | 0x03 => .ok (.andi g d a i12)
  | 0x04 => .ok (.ori g d a i12)
  | 0x05 => .ok (.xori g d a i12)
  | 0x06 => decodeShiftImm w
  | 0x07 => decodeMulDiv w
  | 0x08 => .ok (.lui g d i17)
  | 0x09 => .ok (.auipc g d i17)
  | 0x0A => .ok (.ldb g d a i12)
  | 0x0B => .ok (.ldbu g d a i12)
  | 0x0C => .ok (.ldh g d a i12)
  | 0x0D => .ok (.ldhu g d a i12)
  | 0x0E => .ok (.ldw g d a i12)
  | 0x0F => .ok (.ldwu g d a i12)
  | 0x10 => .ok (.ldd g d a i12)
  | 0x11 => .ok (.stb g a b sImm)
  | 0x12 => .ok (.sth g a b sImm)
  | 0x13 => .ok (.stw g a b sImm)
  | 0x14 => .ok (.std g a b sImm)
  | 0x15 => decodeCmp w
  | 0x16 => decodeCmpi w
  | 0x17 => decodePred w
  | 0x18 => .ok (.br g i22)
  | 0x19 => .ok (.jal g d i17)
  | 0x1A => .ok (.jalr g d a i12)
  | 0x1B => decodeAmow w
  | 0x1C => decodeAmod w
  | 0x1D => decodeAcqRel w
  | 0x1E => decodeFence w
  | 0x1F => decodeCsr w
  | 0x20 => decodeThread w
  | 0x21 => decodeBarrier w
  | 0x22 => decodeFuture w
  | 0x23 => decodeEnq w
  | 0x24 => decodeDeq w
  | 0x25 => decodeVectorControl w
  | 0x26 => .ok (.vf g i22)
  | 0x27 => whenZero d.val (.vfr g a i12)
  | 0x28 => decodeVmem true w
  | 0x29 => decodeVmem false w
  | 0x2A => decodeFloat w
  | 0x2B => decodeFused w
  | 0x2C => decodeFcmp w
  | 0x2D => decodeConvert w
  | 0x2E => decodeSaturating w
  | 0x2F => decodePermute w
  | 0x30 => decodeTransfer w
  | 0x31 => decodeWide w
  | 0x32 => decodeLdv w
  | 0x33 => decodeStv w
  | 0x34 => decodeMove w
  | 0x35 => decodeMatrix w
  | 0x36 => .error .header
  | _ => .error .reservedOpcode

/-- The instruction an instruction word stands for, or why it is none (R151). -/
def decode (w : Word32) : Except DecodeError Instr := decodeNat w.toNat

/-- The decoder as the opcode table numbers an instruction's bits. -/
def decodeTableWord (nbits w : Nat) : Option Instr :=
  if nbits ≤ 32 then
    match decodeNat (w % 2 ^ nbits) with
    | .ok i => some i
    | .error _ => none
  else none

/-- The word of four little-endian bytes (R4, R136). -/
def wordOfBytes (b0 b1 b2 b3 : Byte) : Word32 := b3 ++ b2 ++ b1 ++ b0

/-- Where an instruction runs (R140). -/
inductive Context where
  | ctOnly
  | vpOnly
  | shared
  | device
deriving DecidableEq, Repr

/-- The fields of a block header (R139). -/
structure Header where
  len : Nat
  wide : Bool
  lqn : Nat
  sqn : Nat
  xqs : Nat
  xqr : Nat
deriving DecidableEq, Repr

/-- Why a header fails its check (R328). -/
inductive HeaderError where
  | illop
  | queue
deriving DecidableEq, Repr

/-- The header check (R139, R328): ILLOP before QUEUE. -/
def decodeHeader (w : Word32) : Except HeaderError Header :=
  let n := w.toNat
  let h : Header :=
    { len := wordField n 21 5, wide := wordField n 20 1 == 1, lqn := wordField n 16 4, sqn := wordField n 12 4,
      xqs := wordField n 9 3, xqr := wordField n 6 3 }
  if wordField n 26 6 ≠ 0x36 ∨ h.len = 0 ∨ wordField n 0 6 ≠ 0 then .error .illop
  else if h.lqn > 8 ∨ h.sqn > 8 ∨ h.xqs > 4 ∨ h.xqr > 4 then .error .queue
  else .ok h

/-- The word of a header. -/
def Header.encode (h : Header) : Word32 :=
  BitVec.ofNat 32 (0x36 * 2 ^ 26 + h.len * 2 ^ 21 + h.wide.toNat * 2 ^ 20 + h.lqn * 2 ^ 16 + h.sqn * 2 ^ 12
    + h.xqs * 2 ^ 9 + h.xqr * 2 ^ 6)

/-- Bits [31:22]: OP, G and N (R136). -/
def encHead (op : Nat) (g : Guard) : Nat := op * 2 ^ 26 + g.p.val * 2 ^ 23 + g.neg.toNat * 2 ^ 22

/-- Format R (R138). -/
def encR (op : Nat) (g : Guard) (d a b f : Nat) : Nat := encHead op g + d * 2 ^ 17 + a * 2 ^ 12 + b * 2 ^ 7 + f

/-- Format I (R138). -/
def encI (op : Nat) (g : Guard) (d a i : Nat) : Nat := encHead op g + d * 2 ^ 17 + a * 2 ^ 12 + i

/-- Format S (R138): the offset is IMMH above IMML. -/
def encS (op : Nat) (g : Guard) (a b i : Nat) : Nat :=
  encHead op g + i / 2 ^ 7 * 2 ^ 17 + a * 2 ^ 12 + b * 2 ^ 7 + i % 2 ^ 7

/-- Format J (R138). -/
def encJ (op : Nat) (g : Guard) (i : Nat) : Nat := encHead op g + i

/-- Format U (R138). -/
def encU (op : Nat) (g : Guard) (d i : Nat) : Nat := encHead op g + d * 2 ^ 17 + i

/-- Formats P and PI (R138): `lo` is B and F2, or IMM7. -/
def encP (op : Nat) (g : Guard) (pd1 pd2 c a lo : Nat) : Nat :=
  encHead op g + pd1 * 2 ^ 19 + pd2 * 2 ^ 16 + c * 2 ^ 12 + a * 2 ^ 7 + lo

/-- Format V (R138). -/
def encV (op : Nat) (g : Guard) (v a b mode dc q h : Nat) : Nat :=
  encHead op g + v * 2 ^ 17 + a * 2 ^ 12 + b * 2 ^ 7 + mode * 2 ^ 5 + dc * 2 ^ 3 + q * 2 ^ 2 + h

/-- Format X (R138). -/
def encX (op : Nat) (g : Guard) (d a b eng dc f : Nat) : Nat :=
  encHead op g + d * 2 ^ 17 + a * 2 ^ 12 + b * 2 ^ 7 + eng * 2 ^ 4 + dc * 2 ^ 2 + f

/-- Format L (R138). -/
def encL (op : Nat) (g : Guard) (d a seg sz i : Nat) : Nat :=
  encHead op g + d * 2 ^ 17 + a * 2 ^ 12 + seg * 2 ^ 10 + sz * 2 ^ 7 + i

/-- Format C (R138): the sub-operation above 17 bits. -/
def encC (g : Guard) (sub lo : Nat) : Nat := encHead 0x34 g + sub * 2 ^ 17 + lo

/-- Format M (R138). -/
def encM (g : Guard) (acc va vb vs f : Nat) : Nat :=
  encHead 0x35 g + acc * 2 ^ 21 + va * 2 ^ 16 + vb * 2 ^ 11 + vs * 2 ^ 6 + f

/-- Format RC (R138). -/
def encRC (g : Guard) (d a b c f : Nat) : Nat :=
  encHead 0x2B g + d * 2 ^ 17 + a * 2 ^ 12 + b * 2 ^ 7 + c * 2 ^ 2 + f

/-- The F field of an atomic (R145). -/
def encAtomF (op : Nat) (ord : Order) (sc : Fin 4) : Nat := op * 2 ^ 4 + ord.code * 2 ^ 2 + sc.val

/-- The word of an instruction as a natural number (R136 to R150); an operation of the device has none. -/
def encodeNat : Instr → Option Nat
  | .add g d a b => some (encR 0x01 g d a b 0)
  | .sub g d a b => some (encR 0x01 g d a b 1)
  | .and g d a b => some (encR 0x01 g d a b 2)
  | .or g d a b => some (encR 0x01 g d a b 3)
  | .xor g d a b => some (encR 0x01 g d a b 4)
  | .sll g d a b => some (encR 0x01 g d a b 5)
  | .srl g d a b => some (encR 0x01 g d a b 6)
  | .sra g d a b => some (encR 0x01 g d a b 7)
  | .min g d a b => some (encR 0x01 g d a b 8)
  | .max g d a b => some (encR 0x01 g d a b 9)
  | .minu g d a b => some (encR 0x01 g d a b 10)
  | .maxu g d a b => some (encR 0x01 g d a b 11)
  | .popc g d a => some (encR 0x01 g d a 0 12)
  | .clz g d a => some (encR 0x01 g d a 0 13)
  | .ctz g d a => some (encR 0x01 g d a 0 14)
  | .addi g d a i => some (encI 0x02 g d a i)
  | .andi g d a i => some (encI 0x03 g d a i)
  | .ori g d a i => some (encI 0x04 g d a i)
  | .xori g d a i => some (encI 0x05 g d a i)
  | .slli g d a n => some (encI 0x06 g d a (0 * 2 ^ 10 + n))
  | .srli g d a n => some (encI 0x06 g d a (1 * 2 ^ 10 + n))
  | .srai g d a n => some (encI 0x06 g d a (2 * 2 ^ 10 + n))
  | .mul g d a b => some (encR 0x07 g d a b 0)
  | .mulh g d a b => some (encR 0x07 g d a b 1)
  | .mulhu g d a b => some (encR 0x07 g d a b 2)
  | .div g d a b => some (encR 0x07 g d a b 4)
  | .divu g d a b => some (encR 0x07 g d a b 5)
  | .rem g d a b => some (encR 0x07 g d a b 6)
  | .remu g d a b => some (encR 0x07 g d a b 7)
  | .lui g d i => some (encU 0x08 g d i)
  | .auipc g d i => some (encU 0x09 g d i)
  | .ldb g d a i => some (encI 0x0A g d a i)
  | .ldbu g d a i => some (encI 0x0B g d a i)
  | .ldh g d a i => some (encI 0x0C g d a i)
  | .ldhu g d a i => some (encI 0x0D g d a i)
  | .ldw g d a i => some (encI 0x0E g d a i)
  | .ldwu g d a i => some (encI 0x0F g d a i)
  | .ldd g d a i => some (encI 0x10 g d a i)
  | .stb g a b i => some (encS 0x11 g a b i)
  | .sth g a b i => some (encS 0x12 g a b i)
  | .stw g a b i => some (encS 0x13 g a b i)
  | .std g a b i => some (encS 0x14 g a b i)
  | .cmp g p q c a b f => some (encP 0x15 g p q c.code a (b * 2 ^ 2 + f.code))
  | .cmpi g p q c a i => some (encP 0x16 g p q c.code a i)
  | .pand g d a b => some (encR 0x17 g d a b 0)
  | .por g d a b => some (encR 0x17 g d a b 1)
  | .pxor g d a b => some (encR 0x17 g d a b 2)
  | .pandn g d a b => some (encR 0x17 g d a b 3)
  | .pgetx g d a => some (encR 0x17 g d a 0 4)
  | .psetx g d a => some (encR 0x17 g d a 0 5)
  | .br g i => some (encJ 0x18 g i)
  | .jal g d i => some (encU 0x19 g d i)
  | .jalr g d a i => some (encI 0x1A g d a i)
  | .amowSwap g d a b ord sc => some (encR 0x1B g d a b (encAtomF 0 ord sc))
  | .amowAdd g d a b ord sc => some (encR 0x1B g d a b (encAtomF 1 ord sc))
  | .amowAnd g d a b ord sc => some (encR 0x1B g d a b (encAtomF 2 ord sc))
  | .amowOr g d a b ord sc => some (encR 0x1B g d a b (encAtomF 3 ord sc))
  | .amowXor g d a b ord sc => some (encR 0x1B g d a b (encAtomF 4 ord sc))
  | .amowMin g d a b ord sc => some (encR 0x1B g d a b (encAtomF 5 ord sc))
  | .amowMax g d a b ord sc => some (encR 0x1B g d a b (encAtomF 6 ord sc))
  | .amowCas g d a b ord sc => some (encR 0x1B g d a b (encAtomF 7 ord sc))
  | .amodSwap g d a b ord sc => some (encR 0x1C g d a b (encAtomF 0 ord sc))
  | .amodAdd g d a b ord sc => some (encR 0x1C g d a b (encAtomF 1 ord sc))
  | .amodAnd g d a b ord sc => some (encR 0x1C g d a b (encAtomF 2 ord sc))
  | .amodOr g d a b ord sc => some (encR 0x1C g d a b (encAtomF 3 ord sc))
  | .amodXor g d a b ord sc => some (encR 0x1C g d a b (encAtomF 4 ord sc))
  | .amodMin g d a b ord sc => some (encR 0x1C g d a b (encAtomF 5 ord sc))
  | .amodMax g d a b ord sc => some (encR 0x1C g d a b (encAtomF 6 ord sc))
  | .amodCas g d a b ord sc => some (encR 0x1C g d a b (encAtomF 7 ord sc))
  | .lda g d a sc => some (encR 0x1D g d a 0 sc.code)
  | .stl g a b sc => some (encR 0x1D g 0 a b (64 + sc.code))
  | .fence g sc => some (encR 0x1E g 0 0 0 (0 * 2 ^ 5 + sc.code))
  | .fenceSv g sc => some (encR 0x1E g 0 0 0 (1 * 2 ^ 5 + sc.code))
  | .fenceVs g sc => some (encR 0x1E g 0 0 0 (2 * 2 ^ 5 + sc.code))
  | .fenceE g sc => some (encR 0x1E g 0 0 0 (3 * 2 ^ 5 + sc.code))
  | .csrr g d n => some (encI 0x1F g d 0 n)
  | .csrw g d a n => some (encI 0x1F g d a (1 * 2 ^ 10 + n))
  | .csrs g d a n => some (encI 0x1F g d a (2 * 2 ^ 10 + n))
  | .csrc g d a n => some (encI 0x1F g d a (3 * 2 ^ 10 + n))
  | .trap g n => some (encI 0x20 g 0 0 n)
  | .icinv g a => some (encI 0x20 g 0 a (1 * 2 ^ 8))
  | .park g a => some (encI 0x20 g 0 a (2 * 2 ^ 8))
  | .yield g => some (encI 0x20 g 0 0 (3 * 2 ^ 8))
  | .exit g => some (encI 0x20 g 0 0 (4 * 2 ^ 8))
  | .spawn g d a => some (encI 0x20 g d a (5 * 2 ^ 8))
  | .vtctlResume g d a => some (encI 0x20 g d a (6 * 2 ^ 8 + 0))
  | .vtctlKill g d a => some (encI 0x20 g d a (6 * 2 ^ 8 + 1))
  | .vtctlWake g d a => some (encI 0x20 g d a (6 * 2 ^ 8 + 2))
  | .bar g b => some (encR 0x21 g 0 0 0 (0 * 2 ^ 4 + b))
  | .bara g b => some (encR 0x21 g 0 0 0 (1 * 2 ^ 4 + b))
  | .barw g b => some (encR 0x21 g 0 0 0 (2 * 2 ^ 4 + b))
  | .mwait g d a b word c => some (encR 0x21 g d a b (3 * 2 ^ 4 + word.toNat * 2 ^ 3 + c.code))
  | .waitd g n dc => some (encR 0x21 g 0 0 n (4 * 2 ^ 4 + dc))
  | .fnew g d => some (encR 0x22 g d 0 0 0)
  | .fput g d a b => some (encR 0x22 g d a b 1)
  | .fget g d a => some (encR 0x22 g d a 0 2)
  | .ftake g d a => some (encR 0x22 g d a 0 3)
  | .ftry g d a b => some (encR 0x22 g d a b 4)
  | .ffree g a => some (encR 0x22 g 0 a 0 5)
  | .enq g a eng dc => some (encX 0x23 g 0 a 0 eng dc 0)
  | .enqy g d a b eng => some (encX 0x23 g d a b eng 0 1)
  | .deq g d eng dc => some (encX 0x24 g d 0 0 eng dc 0)
  | .deqt g d eng dc => some (encX 0x24 g d 0 0 eng dc 1)
  | .setvl g d a b => some (encR 0x25 g d a b 0)
  | .setcfg g d a => some (encR 0x25 g d a 0 1)
  | .setmt g a => some (encR 0x25 g 0 a 0 2)
  | .setem g a => some (encR 0x25 g 0 a 0 3)
  | .setseg g k a => some (encR 0x25 g k a 0 4)
  | .vjoin g => some (encR 0x25 g 0 0 0 5)
  | .xseed g a => some (encR 0x25 g 0 a 0 6)
  | .xdrain g d => some (encR 0x25 g d 0 0 7)
  | .vbcast g d a => some (encR 0x25 g d a 0 8)
  | .vextract g d a b => some (encR 0x25 g d a b 9)
  | .vf g i => some (encJ 0x26 g i)
  | .vfr g a i => some (encI 0x27 g 0 a i)
  | .vld g v a b m dc q h => some (encV 0x28 g v a b m.code dc q.toNat h.code)
  | .vst g v a b m dc q h => some (encV 0x29 g v a b m.code dc q.toNat h.code)
  | .fadd g d a b => some (encR 0x2A g d a b 0)
  | .fsub g d a b => some (encR 0x2A g d a b 1)
  | .fmul g d a b => some (encR 0x2A g d a b 2)
  | .fmin g d a b => some (encR 0x2A g d a b 3)
  | .fmax g d a b => some (encR 0x2A g d a b 4)
  | .fdiv g d a b => some (encR 0x2A g d a b 5)
  | .fsqrt g d a => some (encR 0x2A g d a 0 8)
  | .frcp g d a => some (encR 0x2A g d a 0 9)
  | .frsq g d a => some (encR 0x2A g d a 0 10)
  | .fexp2 g d a => some (encR 0x2A g d a 0 11)
  | .flog2 g d a => some (encR 0x2A g d a 0 12)
  | .fabs g d a => some (encR 0x2A g d a 0 16)
  | .fneg g d a => some (encR 0x2A g d a 0 17)
  | .fsgnj g d a b => some (encR 0x2A g d a b 18)
  | .fclass g d a => some (encR 0x2A g d a 0 19)
  | .fma g d a b c => some (encRC g d a b c 0)
  | .fms g d a b c => some (encRC g d a b c 1)
  | .fnma g d a b c => some (encRC g d a b c 2)
  | .fnms g d a b c => some (encRC g d a b c 3)
  | .fcmp g p q c a b f => some (encP 0x2C g p q c.code a (b * 2 ^ 2 + f.code))
  | .cvt g d a src dst => some (encR 0x2D g d a src.code dst.code)
  | .cvts g d a src dst => some (encR 0x2D g d a src.code (1 * 2 ^ 5 + dst.code))
  | .adds g d a b => some (encR 0x2E g d a b 0)
  | .subs g d a b => some (encR 0x2E g d a b 1)
  | .addsu g d a b => some (encR 0x2E g d a b 2)
  | .subsu g d a b => some (encR 0x2E g d a b 3)
  | .avg g d a b => some (encR 0x2E g d a b 4)
  | .avgu g d a b => some (encR 0x2E g d a b 5)
  | .abs g d a => some (encR 0x2E g d a 0 6)
  | .absd g d a b => some (encR 0x2E g d a b 7)
  | .permb g d a b => some (encR 0x2F g d a b 0)
  | .shufb g d a b => some (encR 0x2F g d a b 1)
  | .zipl g d a b => some (encR 0x2F g d a b 2)
  | .ziph g d a b => some (encR 0x2F g d a b 3)
  | .uzpe g d a b => some (encR 0x2F g d a b 4)
  | .uzpo g d a b => some (encR 0x2F g d a b 5)
  | .xsend g a => some (encR 0x30 g 0 a 0 0)
  | .xrecv g d => some (encR 0x30 g d 0 0 1)
  | .vany g d a => some (encR 0x31 g d a 0 0)
  | .vall g d a => some (encR 0x31 g d a 0 1)
  | .vballot g d a => some (encR 0x31 g d a 0 2)
  | .vmatch g d a => some (encR 0x31 g d a 0 3)
  | .vshfl g d a b => some (encR 0x31 g d a b 4)
  | .vredAdd g d a fl => some (encR 0x31 g d a 0 (fl.toNat * 2 ^ 6 + 5))
  | .vredMin g d a fl => some (encR 0x31 g d a 0 (fl.toNat * 2 ^ 6 + 6))
  | .vredMax g d a fl => some (encR 0x31 g d a 0 (fl.toNat * 2 ^ 6 + 7))
  | .vscanAdd g d a fl => some (encR 0x31 g d a 0 (fl.toNat * 2 ^ 6 + 8))
  | .ldv g d a seg sz i => some (encL 0x32 g d a seg sz i)
  | .stv g d a seg sz i => some (encL 0x33 g d a seg sz i)
  | .fetch g i => some (encC g 0 i)
  | .fetchr g a => some (encC g 1 (a * 2 ^ 12))
  | .vpid g d => some (encC g 2 (d * 2 ^ 12))
  | .ltmask g d => some (encC g 3 (d * 2 ^ 12))
  | .mov g d a => some (encC g 4 (d * 2 ^ 12 + a * 2 ^ 7))
  | .sel g d a b => some (encC g 5 (d * 2 ^ 12 + a * 2 ^ 7 + b * 2 ^ 2))
  | .mxon g va => some (encM g 0 va 0 0 0)
  | .mxoff g => some (encM g 0 0 0 0 1)
  | .mopO g acc va vb => some (encM g acc va vb 0 2)
  | .mopR g acc va vb => some (encM g acc va vb 0 3)
  | .mopsO g acc va vb vs => some (encM g acc va vb vs 4)
  | .mopsR g acc va vb vs => some (encM g acc va vb vs 5)
  | .mopz g acc => some (encM g acc 0 0 0 6)
  | .mova g acc va vs => some (encM g acc va 0 vs 7)
  | .movta g acc va vs => some (encM g acc va 0 vs 8)
  | _ => none

/-- The word of an instruction; an operation of the device has none. -/
def encode (i : Instr) : Option Word32 := (encodeNat i).map (BitVec.ofNat 32)

/-- Where the instruction of a word runs, by its major opcode (R140, R142). -/
def contextOfOp (op : Nat) : Context :=
  if (1 ≤ op ∧ op ≤ 0x08) ∨ (0x15 ≤ op ∧ op ≤ 0x17) ∨ op = 0x1B ∨ op = 0x1C then .shared
  else if 0x2A ≤ op ∧ op ≤ 0x34 then .vpOnly
  else .ctOnly

/-- Where an instruction runs (R140). -/
def Instr.context (i : Instr) : Context :=
  match encodeNat i with
  | some w => contextOfOp (wordField w 26 6)
  | none => .device

end Sys2Proof
end

