-- ==== Sys2Proof/Machine/Map.lean ====
section
/-! DEFINITION. Tables with sparse natural keys, and bytes with sparse addresses, as sorted lists. -/

namespace Sys2Proof

/-- The entry of key `n`. -/
def SMap.get? {α : Type} : SMap α → Nat → Option α
  | [], _ => none
  | (k, a) :: t, n => if k = n then some a else SMap.get? t n

/-- `a` at key `n`. -/
def SMap.set {α : Type} : SMap α → Nat → α → SMap α
  | [], n, a => [(n, a)]
  | (k, b) :: t, n, a =>
    if n < k then (n, a) :: (k, b) :: t
    else if n = k then (n, a) :: t
    else (k, b) :: SMap.set t n a

/-- No entry at key `n`. -/
def SMap.erase {α : Type} : SMap α → Nat → SMap α
  | [], _ => []
  | (k, b) :: t, n => if k = n then t else (k, b) :: SMap.erase t n

/-- The entry of key `n`, or the value that an absent entry has. -/
def SMap.getD {α : Type} (m : SMap α) (n : Nat) (a : α) : α := (m.get? n).getD a

/-- `f` applied to every entry. -/
def SMap.mapVals {α : Type} (f : Nat → α → α) : SMap α → SMap α
  | [] => []
  | (k, a) :: t => (k, f k a) :: SMap.mapVals f t

/-- The least number at or above `n`, within `fuel` of it, that `p` accepts. -/
def findFrom (p : Nat → Bool) : Nat → Nat → Option Nat
  | _, 0 => none
  | n, fuel + 1 => if p n then some n else findFrom p (n + 1) fuel

end Sys2Proof
end

