-- ==== Sys2Proof/Machine/Memory.lean ====
section
/-! DEFINITION. Bytes by address in one canonical form: addresses strictly rising, no zero byte listed. An unlisted
byte reads as 0 (R73, R74; for global storage log 4). Words are little-endian (R4). -/

namespace Sys2Proof

/-- The byte at `a`. -/
def Memory.read : List Host.Cell → Nat → Byte
  | [], _ => 0
  | (k, b) :: t, a => if k = a then b else Memory.read t a

/-- `b` at `a`; a zero byte is not listed. -/
def Memory.write : List Host.Cell → Nat → Byte → List Host.Cell
  | [], a, b => if b = 0 then [] else [(a, b)]
  | (k, c) :: t, a, b =>
    if a < k then (if b = 0 then (k, c) :: t else (a, b) :: (k, c) :: t)
    else if a = k then (if b = 0 then t else (a, b) :: t)
    else (k, c) :: Memory.write t a b

/-- The canonical form: every address above `lo`, rising, no zero byte. -/
def Memory.wfFrom : Nat → List Host.Cell → Bool
  | _, [] => true
  | lo, (k, b) :: t => decide (lo ≤ k) && b != 0 && Memory.wfFrom (k + 1) t

/-- The canonical form. -/
def Memory.wf (m : List Host.Cell) : Bool := Memory.wfFrom 0 m

/-- The `n` bytes from `a`, lowest first. -/
def Memory.readBytes (m : List Host.Cell) (a : Nat) : Nat → List Byte
  | 0 => []
  | n + 1 => Memory.read m a :: Memory.readBytes m (a + 1) n

/-- The bytes `bs` from `a`. -/
def Memory.writeBytes (m : List Host.Cell) (a : Nat) : List Byte → List Host.Cell
  | [] => m
  | b :: bs => Memory.writeBytes (Memory.write m a b) (a + 1) bs

/-- The bytes whose mask bit is 1, from `a`. -/
def Memory.writeMasked (m : List Host.Cell) (a : Nat) : List (Byte × Bool) → List Host.Cell
  | [] => m
  | (b, w) :: bs => Memory.writeMasked (if w then Memory.write m a b else m) (a + 1) bs

/-- The value of little-endian bytes (R4). -/
def leNat : List Byte → Nat
  | [] => 0
  | b :: bs => b.toNat + 256 * leNat bs

/-- `n` little-endian bytes of a value (R4). -/
def leBytes : Nat → Nat → List Byte
  | 0, _ => []
  | n + 1, v => BitVec.ofNat 8 v :: leBytes n (v / 256)

end Sys2Proof
end

