-- ==== Sys2Proof/Machine/Bits.lean ====
section
/-! DEFINITION. Fields, sign extension and elements of registers (R55, R116, R138). -/

namespace Sys2Proof

/-- An `n`-bit field read as two's complement (R138). -/
def sext (n v : Nat) : Int := if v < 2 ^ (n - 1) then (v : Int) else (v : Int) - (2 ^ n : Nat)

/-- Bits [lo + n - 1 : lo] of a 64-bit value. -/
def bits64 (w : Word64) (lo n : Nat) : Nat := w.toNat / 2 ^ lo % 2 ^ n

/-- A 64-bit value of an integer, modulo 2^64. -/
def word64 (v : Int) : Word64 := BitVec.ofInt 64 v

/-- Element `k` of `e` bits (R116). -/
def elem (e : Nat) (v : VReg) (k : Nat) : BitVec e := v.extractLsb' (e * k) e

/-- The number whose digits in base 2^e are the elements, lowest first. -/
def packElems {e : Nat} : List (BitVec e) → Nat
  | [] => 0
  | x :: xs => x.toNat + 2 ^ e * packElems xs

/-- `old` with its lowest elements replaced; the bits above them are kept. -/
def writeElems {e : Nat} (old : VReg) (xs : List (BitVec e)) : VReg :=
  BitVec.ofNat 1024 (packElems xs + 2 ^ (e * xs.length) * (old.toNat / 2 ^ (e * xs.length)))

/-- `v` with element `k` of `e` bits replaced. -/
def setElem (e : Nat) (v : VReg) (k x : Nat) : VReg :=
  (v &&& ~~~(BitVec.ofNat 1024 (2 ^ e - 1) <<< (e * k))) ||| (BitVec.ofNat 1024 (x % 2 ^ e) <<< (e * k))

/-- The `n` lowest elements of `e` bits. -/
def elemsOf (e n : Nat) (v : VReg) : List (BitVec e) := (List.range n).map (elem e v)

/-- Bit `k` of a predicate. -/
def predBit (p : Pred) (k : Nat) : Bool := p.getLsbD k

/-- The `n` lowest bits set. -/
def lowOnes (w n : Nat) : BitVec w := BitVec.ofNat w (2 ^ n - 1)

/-- The indices of the set bits of a mask of VPs, rising. -/
def maskIndices (m : BitVec 32) : List (Fin 32) := (List.finRange 32).filter fun i => m.getLsbD i.val

/-- A predicate whose bit `k < n` is `f k`; the bits above are those of `old`. -/
def writePred (n : Nat) (old : Pred) (f : Nat → Bool) : Pred :=
  BitVec.ofNat 256 (packElems ((List.range n).map fun k => BitVec.ofBool (f k)) + 2 ^ n * (old.toNat / 2 ^ n))

/-- A VP register of its `W` bytes, lowest first. -/
def regOfBytes (bs : List Byte) : VReg := BitVec.ofNat 1024 (leNat bs)

/-- The `n` lowest bytes of a register. -/
def bytesOfReg (v : VReg) (n : Nat) : List Byte := leBytes n v.toNat

/-- The number of 1 bits among the `n` lowest. -/
def countOnes (v : Nat) : Nat → Nat
  | 0 => 0
  | n + 1 => v % 2 + countOnes (v / 2) n

/-- The number of 0 bits below the lowest 1 bit, at most `n`. -/
def countTrailing (v : Nat) : Nat → Nat
  | 0 => 0
  | n + 1 => if v % 2 = 1 then 0 else 1 + countTrailing (v / 2) n

/-- The number of 0 bits above the highest 1 bit of an `n`-bit value. -/
def countLeading (v : Nat) : Nat → Nat
  | 0 => 0
  | n + 1 => if v / 2 ^ n % 2 = 1 then 0 else 1 + countLeading v n

/-- Bytes cut or filled with zeros to `n`. -/
def padTo (n : Nat) (bs : List Byte) : List Byte := (bs ++ List.replicate n (0 : Byte)).take n

end Sys2Proof
end

