-- ==== Sys2Proof/Machine/State.lean ====
section
/-! DEFINITION. The state of the device as plain data, the reasons a step can stop, and the state after reset. -/

namespace Sys2Proof.Machine

/-- Why the machine stops. -/
inductive Fault where
  /-- Raised by `step` alone, when a fatal error has stopped the device and nothing comes from outside any more: R323
  says nothing further runs until device reset. Safe: the hardware executes nothing there either. -/
  | stoppedByFatalError
deriving DecidableEq, Repr

/-- Why an instruction has no meaning. -/
inductive Refusal where
  /-- Raised by an arm of `exec` for a row of the opcode table that has no meaning yet. Safe. -/
  | notModelled (mnemonic : String)
deriving DecidableEq, Repr

/-- Who executes the next instruction (R96). -/
inductive Agent where
  | ct (vt : Nat)
  | vp (vt : Nat) (i : Fin 32)
  | device
deriving DecidableEq, Repr

/-- The local clocks (R17). -/
inductive Clock where
  | core (c : Nat)
  | tile (t : TileId)
  | fw (k : Nat)
deriving DecidableEq, Repr

/-- The addresses of a port: one unicast MAC address and one IPv6 address (R274). -/
structure PortAddr where
  mac : BitVec 48 := 0
  ip : BitVec 128 := 0
deriving DecidableEq, Repr

/-- One turn of the schedule: which agent moves next, or what arrives from outside (log 2). -/
inductive Turn where
  /-- Slot `slot` of core `core` issues from the VT it chooses (R52). -/
  | issue (core slot : Nat)
  /-- VP `i` executes the next instruction of its running block. -/
  | vp (vt : Nat) (i : Fin 32)
  /-- An operation or event of the device takes place. -/
  | op (e : Instr)
  /-- A UDP payload arrives, marked CE or not: port 0 is HOST, 1 to 8 are PP0 to PP7 (R274, R276). -/
  | packet (port : Nat) (ce : Bool) (bytes : List Byte)
  /-- A packet that fails a check of R274 below PLT arrives at a port. -/
  | badPacket (port : Nat)
  /-- Cycles of a local clock pass (R17, R18). -/
  | elapse (c : Clock) (n : Nat)
  /-- MGMT sets a domain's EVRING and maps the ring's pages (R62, R316, log 19). -/
  | setEvring (domain : Nat) (value : Word64)
  /-- Requests of other agents hold `used` miss entries of a slice (R90). -/
  | occupy (slice used : Nat)
  /-- MGMT sets the injection allowance of a tile kind (R350). -/
  | setAllowance (kind limit : Nat)
  /-- A tile corrects `n` soft errors (R345). -/
  | corrected (t : TileId) (n : Nat)
  /-- A tile's BIST at device reset ends (R296). -/
  | bist (t : TileId) (pass : Bool)
  /-- A core holds back the relaxed scalar stores of a VT, or does so no more; it performs the `k`-th store that it
  holds (R87, R102, R105, log 5). -/
  | delayStores (vt : Nat) (on : Bool)
  | performStore (core k : Nat)
  /-- MGMT sets a port's MAC and IPv6 addresses (R274, log 62). -/
  | setPort (port : Nat) (a : PortAddr)
deriving DecidableEq, Repr

/-- Cause codes of R310. -/
inductive Cause where
  | illop | illcfg | misalign | xlate | perm | lost | cordon | eccu | bound | queue | futh | engcmd | domain | trapi
deriving DecidableEq, Repr

/-- What a `vf` or `vfr` captures (R141). -/
structure Capture where
  vcfg : Word64
  seg : Vector Word64 4
deriving DecidableEq, Repr

/-- An operation of a VP's sequence (R25). -/
inductive SeqOp where
  /-- A block: its address, the PC of the `vf` or `vfr`, the capture, WIDE, the VPs it was sent to, and the binding it
  was sent under: lowest quad and span (R44, R181). -/
  | block (addr pc : Word64) (cap : Capture) (wide : Bool) (active : BitVec 32) (lane : Nat × Nat)
  /-- Element of a vector memory instruction, by in-flight entry. -/
  | mem (entry : Fin 8)
  /-- A broadcast of `value` as elements of `bits` bits into register d (R188). -/
  | bcast (d : Reg) (value : Word64) (bits : Nat)
deriving DecidableEq, Repr

/-- A waiting operation with the mask of the VPs in whose sequences it still waits (R68). -/
structure WaitOp where
  op : SeqOp
  mask : BitVec 32
  instr : Instr
deriving DecidableEq, Repr

/-- A store element that was performed while a lower one of its instruction was not: its number, address and bytes.
`again`: a fault stop with a lower start element has it performed a second time (R104, R314). -/
structure Ahead where
  elem : Nat
  addr : Int
  bytes : List (Byte × Bool)
  again : Bool
deriving DecidableEq, Repr

/-- An entry of the in-flight table (R66). -/
structure InFlight where
  idx : Fin 8
  instr : Instr
  pc : Word64
  isStore : Bool
  queueForm : Bool
  v : Reg
  b : Reg
  mode : VMode
  dc : Fin 4
  hint : Hint
  space : Nat
  base : Word64
  stride : Word64
  /-- VCFG.IT at issue. -/
  it : Nat
  active : BitVec 32
  /-- The start element that the last stop recorded (R199, R314). -/
  start : Nat
  /-- How many of its elements each VP has had performed, in the order of their numbers. -/
  prog : Vector Nat 32 := Vector.replicate 32 0
  /-- Its store elements performed ahead of a lower one, in the order of their performing. -/
  ahead : List Ahead := []
  strip : Nat
  done : Bool
  /-- The slices that have accepted a header of it, at each of which it holds a miss entry (R90, R91). -/
  held : List Nat
deriving DecidableEq, Repr

/-- A block that runs, or is suspended, on a VP (R26, R312). `words` holds the header and words 1 to LEN. -/
structure Run where
  addr : Word64
  words : List Word32
  idx : Nat
  pc : Word64
  cap : Capture
  wide : Bool
  thread : Bool
  parts : BitVec 32
  named : Option Word64
  suspended : Bool
deriving DecidableEq, Repr

/-- An entry of a load queue: reserved by an in-flight entry, with the elements that it has, or filled (R39). -/
inductive LoadEntry where
  | pending (entry : Fin 8) (data : VReg)
  | filled (data : VReg)
deriving DecidableEq, Repr

/-- An entry of a store queue: its bytes and write mask, one bit a byte (R40). -/
structure StoreEntry where
  data : VReg
  mask : BitVec 128
deriving DecidableEq, Repr

/-- A virtual processor (R20, R55). Position 31 of `v` is no register and stays 0. -/
structure VP where
  v : Vector VReg 32 := Vector.replicate 32 0
  p : Vector Pred 8 := Vector.replicate 8 0
  thread : Bool := false
  next : Word64 := 0
  /-- Capture and `vf` of the chain a THREAD-mode VP runs (R69, R325). -/
  chain : Option (Capture × Word64) := none
  inbound : List VReg := []
  loadQ : List LoadEntry := []
  storeQ : List StoreEntry := []
  cntL : Nat := 0
  cntS : Nat := 0
  /-- The quad whose lane carries its present operation, or its chain (R44, R181). -/
  quad : Nat := 0
  run : Option Run := none
deriving DecidableEq, Repr

/-- A matrix claim (R61, R220). Element [i][j] of an accumulator is entry 32 i + j. -/
structure Claim where
  mcfg : Word64
  mstat : Word64
  acc0 : Vector (BitVec 32) 1024
  acc1 : Vector (BitVec 32) 1024
deriving DecidableEq, Repr

/-- A `mop` in progress (R228): block `t` of `nb` is its next, or runs on the engines with the operands that it read when
it started. -/
structure Mop where
  acc : Fin 2
  scaled : Bool
  reassoc : Bool
  va : Reg
  vb : Reg
  vs : Reg
  t : Nat
  nb : Nat
  running : Bool
  aOps : List (BitVec 4096)
  bOps : List (BitVec 4096)
  aScales : List Byte
  bScales : List Byte
  /-- Reassociated forms: the values of each element not yet added together (R226). -/
  pool : SMap (List (BitVec 32))
  /-- `mopz`s that take effect after it, in matrix order (R230). -/
  clears : List (Fin 2)
deriving DecidableEq, Repr

/-- What a parked VT waits for (R48). -/
inductive ParkReason where
  | park (since : Nat) (timeout : Nat)
  /-- `past`: the word's home is the storage itself, past L2 (R99). `found` is the first value of the word that satisfied
  the condition after registration (R237). -/
  | mwait (addr : Word64) (loc : Nat) (past word : Bool) (c : MCond) (cmp : Word64) (d : Reg) (found : Option Word64)
  | fut (key gen : Nat) (take : Bool) (d : Reg)
  | barw (b : Fin 16)
  | enqy (cmd : Nat) (d : Reg) (cont : Word64)
  | deq (chan : Fin 8) (d : Reg)
deriving DecidableEq, Repr

/-- States of R47. PARKED is resident or stored as the VT's `resident` says. -/
inductive VState where
  | new | ready | readyOut | parked | faulted | frozen | ended
deriving DecidableEq, Repr

/-- A fault that has been detected, as FAULTREC records it (R315). -/
structure FaultInfo where
  cause : Cause
  place : Nat
  vp : Nat
  elem : Nat
  infl : Nat
  code : Nat
  pc : Word64
  iaddr : Word64
  daddr : Word64
  /-- A domain violation of the CT's own fetch, whose address FAULTREC does not give (R315, R322). -/
  fetch : Bool := false
deriving DecidableEq, Repr

/-- A completion channel (R249). Each record has the numbers of the 64-byte lines that its command wrote, which a pop
acquires (R110). -/
structure Channel where
  reserved : Nat := 0
  records : List (Word64 × List Nat) := []
  frozen : Bool := false
deriving DecidableEq, Repr

/-- A store that its core holds until it is performed: location, leaf of the page, masked bytes. `shown`: a line of the
core's L1 has taken it in, so that accesses of the core may have read it (R87, R100). -/
structure PendStore where
  loc : Nat
  leaf : Word64
  data : List (Byte × Bool)
  shown : Bool := false
deriving DecidableEq, Repr

/-- A vector thread (R20, R47, R55). -/
structure VT where
  domain : Nat
  gang : Nat
  gangId : Nat
  rank : Nat
  launch : Option SlotRef
  /-- The number of its launch, and its index in it (R263). -/
  launchNo : Nat
  launchIndex : Nat
  prio : Nat
  wsel : Fin 6
  codebase : Word64
  tcmwin : Nat
  /-- Service interval; 0 for normal class (R53). -/
  interval : Nat
  persistent : Bool
  spillbase : Word64
  spillx : BitVec 32
  spillv : BitVec 32
  st : VState := .new
  resident : Bool := false
  /-- Frames and a TCM window are kept for it on its core, for the swap-in that follows its placement (R266). -/
  reserved : Bool := false
  core : Nat := 0
  slot : Nat := 0
  span : Nat := 0
  /-- The lowest quad of its slot, as it was bound (R44, R45). -/
  quad0 : Nat := 0
  admitted : Bool := false
  /-- It is to be bound again at its next pre-emption point (R45). -/
  rebind : Bool := false
  /-- The span that a `setvl` requested while a `mop` ran; 0 for none (R228). -/
  wantSpan : Nat := 0
  /-- When its CT came to the `mop` that it stands at, as a CYCLE of its core (R223). -/
  mopSince : Option Nat := none
  /-- Its CT stalls at an `mxon` for a claim store (R220). -/
  claimWait : Bool := false
  /-- What is added to its core's CYCLE to give the VT's own time in core cycles, which runs on when it changes its core.
  The five times below are in it, and so is a `park`'s (R17, R18). -/
  skew : Int := 0
  lastIssue : Nat := 0
  readyAt : Nat := 0
  aged : Bool := false
  swappedInAt : Nat := 0
  parkedAt : Nat := 0
  pc : Word64
  x : Vector Word64 32 := Vector.replicate 32 0
  p : Vector Bool 8 := Vector.replicate 8 false
  d : Vector Nat 4 := Vector.replicate 4 0
  seg : Vector Word64 4 := Vector.replicate 4 0
  vl : Nat := 32
  vcfg : Word64
  vmt : Nat := 0
  em : BitVec 32 := 0xFFFFFFFF
  fflags : BitVec 5 := 0
  vps : Vector VP 32 := Vector.replicate 32 {}
  drain : List VReg := []
  waiting : List WaitOp := []
  inflight : List InFlight := []
  strip : Nat := 0
  claim : Option Claim := none
  mop : Option Mop := none
  faultrec : Vector Word64 4 := Vector.replicate 4 0
  issued : Word64 := 0
  preempts : Word64 := 0
  park : Option (ParkReason × Word64) := none
  detected : List FaultInfo := []
  /-- The domain violation met in the present stop (R322). -/
  violation : Option FaultInfo := none
  stopping : Bool := false
  /-- Killed: ends at its next pre-emption point (R179). -/
  killed : Bool := false
  /-- The registers that `vtctl.kill`s of this VT write when their targets have ENDED, with the targets (R179). -/
  waitStatus : List (Reg × Nat) := []
  tcm : List Host.Cell := []
  /-- Its relaxed scalar stores are held back (R87, log 5). -/
  delays : Bool := false
  /-- The VPs whose own elements its CT's stalled instruction waits for (R189, R228). -/
  awaited : BitVec 32 := 0
  /-- Where its context record lies in the domain's context store area, and its length (R65). -/
  ctx : Option (Nat × Nat) := none
  channels : Vector Channel 8 := Vector.replicate 8 {}
  poison : List RegUnit := []
  tcmPoison : List Nat := []
deriving DecidableEq, Repr

/-- A barrier of a gang (R233). -/
structure Barrier where
  arr : BitVec 1024 := 0
  pend : BitVec 1024 := 0
  phase : Bool := false
  count : Nat := 0
  poisoned : Bool := false
deriving DecidableEq, Repr

/-- States of a gang (R266). -/
inductive GangState where
  | waiting | aged | placed | stored | ended
deriving DecidableEq, Repr

/-- A gang (R20, R233, R266): `frames` and `tcmwin` are each member's demand, `cspwin` and `base` count units of 2 KiB. -/
structure Gang where
  domain : Nat
  id : Nat
  size : Nat
  st : GangState := .waiting
  cluster : Nat := 0
  frames : Nat := 1
  tcmwin : Nat := 0
  overtakes : Nat := 0
  agedAt : Nat := 0
  /-- The order of its last placement, and of its save. -/
  placedAt : Nat := 0
  savedAt : Nat := 0
  launch : Option SlotRef := none
  launchNo : Nat := 0
  index : Nat := 0
  clusters : BitVec 32 := 0
  prio : Nat := 0
  /-- It has been placed before (R271). -/
  restored : Bool := false
  members : List Nat := []
  cspwin : Nat := 0
  base : Nat := 0
  csp : List Host.Cell := []
  cspPoison : List Nat := []
  mem : BitVec 1024 := 0
  barriers : Vector Barrier 16 := Vector.replicate 16 {}
  hasBarriers : Bool := true
  /-- Where its gang record lies in the context store area, and its length (R270). -/
  ctx : Option (Nat × Nat) := none
deriving DecidableEq, Repr

/-- A cached translation (R85): domain and page, with the leaf entry and its level. -/
structure TlbEntry where
  domain : Nat
  page : Nat
  level : Nat
  word : Word64
deriving DecidableEq, Repr

/-- A line of an L1: its number, its bytes, and a mark for each poisoned unit of 8 bytes (R87, R346). -/
structure L1Line where
  line : Nat
  data : BitVec 512
  poison : BitVec 8
deriving DecidableEq, Repr

/-- A core (R12, R43, R62, R85, R87). The L1 holds lines newest first; the caches hold physical 128-byte lines. -/
structure Core where
  cycle : Word64 := 0
  lpr : Word32 := 0
  l1 : List L1Line := []
  icache : List (Nat × BitVec 1024) := []
  lanes : Vector (List (Nat × BitVec 1024)) 4 := Vector.replicate 4 []
  tlb : List TlbEntry := []
  /-- The stores of its CTs that it holds until they are performed, oldest first (R87, log 5). -/
  pend : List PendStore := []
  /-- Frames and 4 KiB units of TCM held for an AGED gang (R266). -/
  heldFrames : Nat := 0
  heldTcm : Nat := 0
deriving DecidableEq, Repr

/-- A cluster tile's placement queue and TLB (R85, R266). -/
structure Cluster where
  queue : List Nat := []
  tlb : List TlbEntry := []
  /-- The 2 KiB units of CSP held for an AGED gang (R266). -/
  heldCsp : BitVec 4096 := 0
deriving DecidableEq, Repr

/-- A line present at its home slice (R84, R88, R92). `old` holds the storage's bytes where they may differ from the
line's: while it is dirty, or after an access that went past L2. -/
structure L2Line where
  line : Nat
  dirty : Bool
  old : Option (BitVec 512)
  /-- The marks of storage's poisoned units, where `old` holds its bytes (R345, R346). -/
  oldMarks : BitVec 8 := 0
  pinned : Bool
  /-- A stream line enters as the first to evict. -/
  first : Bool
deriving DecidableEq, Repr

/-- Who sends a request to a slice (R89): an agent for its present instruction, a vector memory instruction by VT and
in-flight entry, an engine command, an operation or event of the device, a message of a connection, a post to the event
ring of a domain. -/
inductive Requester where
  | agent (a : Agent)
  | vector (vt : Nat) (entry : Fin 8)
  | command (id : Nat)
  | event (e : Instr)
  | message (key : ConnKey)
  | post (domain : Nat)
deriving DecidableEq, Repr

/-- A request that a slice has rejected (R91): the slice, the retry count, when it was last sent, who waits. `granted`: the
slice has taken it since, and its access is about to be performed. -/
structure Rejected where
  id : Nat
  slice : Nat
  count : Nat
  sentAt : Nat
  who : Requester
  granted : Bool := false
deriving DecidableEq, Repr

/-- Miss entries in use at a slice and its aged requests in order of first aged arrival (R90, R91). -/
structure Slice where
  used : Nat := 0
  aged : List Nat := []
deriving DecidableEq, Repr

/-- State of a future entry (R240). -/
inductive FutState where
  | free | empty | full | cordon
deriving DecidableEq, Repr

/-- A future entry (R240). -/
structure Future where
  st : FutState := .free
  gen : Nat := 1
  domain : Nat := 0
  owner : Nat := 0
  value : Word64 := 0
  /-- Waiting VTs in order of registration; `true` for `ftake`. -/
  waiters : List (Nat × Bool) := []
  /-- Its owner was lost while it was FULL: the first `ftake` leaves it CORDON (R362). -/
  lostOwner : Bool := false
  poisoned : Bool := false
deriving DecidableEq, Repr

/-- Where a command's completion goes (R249, R251). -/
inductive CmdDest where
  | channel (c : Fin 8)
  | enqy
deriving DecidableEq, Repr

/-- The progress of a command (R244, R250). -/
inductive CmdPhase where
  | queued
  | running
  | ended (status bytes : Nat)
  /-- It met a reserved region at this address: no record is pushed (R322). -/
  | frozen (addr : Word64)
deriving DecidableEq, Repr

/-- An engine command (R245). -/
structure Command where
  id : Nat
  domain : Nat
  vt : Nat
  eng : Fin 2
  /-- Cluster of a copy engine, die of a link engine. -/
  unit : Nat
  chan : Fin 8
  dest : CmdDest
  words : Vector Word64 4
  phase : CmdPhase := .queued
  /-- The gang of its VT, whose CSP window it names. -/
  gang : Nat := 0
  /-- Its VT has ENDED: its record is discarded, and writes into its TCM window are (R73, R177). -/
  orphan : Bool := false
  /-- Its gang has ENDED. -/
  gone : Bool := false
  /-- The 64-byte lines it wrote. -/
  written : List Nat := []
  /-- Link commands: bytes put into messages, messages not yet acknowledged, the lowest offset that failed and why. -/
  sent : Nat := 0
  pending : Nat := 0
  failAt : Option (Nat × Nat) := none
deriving DecidableEq, Repr

/-- Per-domain state: EVRING and the event ring's last sequence (R62, R316). -/
structure Domain where
  evring : Word64 := 0
  seq : Nat := 0
deriving DecidableEq, Repr

/-- Node states (R256). -/
inductive NodeState where
  | idle | pending | released | done | failed | aborted
deriving DecidableEq, Repr

/-- What SCHED keeps of a slot (R257, R258). -/
structure Slot where
  seen : Bool := false
  cred : Nat := 0
  st : NodeState := .idle
  order : Nat := 0
  /-- The slot as SCHED took it, and the slot IDs of its successors (R257). -/
  body : List Byte := []
  succ : List Nat := []
  /-- It has been handed to its agent (R259). -/
  handed : Bool := false
  /-- The register image of a LAUNCH as read at its release: header and registers, or the RESULT of a read that failed (R262). -/
  image : List Byte × List Byte := ([], [])
  imageFail : Option Nat := none
  /-- The action's outcome before its completion: `failed`, RESULT. -/
  outcome : Option (Bool × Nat) := none
  /-- A credit reached it after release (R386). -/
  overCredit : Bool := false
deriving DecidableEq, Repr

/-- Queue states (R254). -/
inductive QueueState where
  | active | destroying | destroyed
deriving DecidableEq, Repr

/-- A queue (R254, R272, R387). -/
structure Queue where
  ring : Word64
  log2n : Nat
  prio : Nat
  bitmap : Word64
  doorbell : Word64
  st : QueueState := .active
  drain : Nat := 0
  /-- DESTROYING: its waiting nodes are still to be aborted, which SCHED does once it serves (R273, R379). -/
  stopDue : Bool := false
  qfault : Word64 := 0
  /-- A DOORBELL or SUBMIT message asks for a scan that a pause of SCHED delays (R257, R290). -/
  scan : Bool := false
  aborted : Nat := 0
  ended : Nat := 0
  slots : SMap Slot := []
deriving DecidableEq, Repr

/-- A launch as read at its release (R261, R262). -/
structure Launch where
  slot : SlotRef
  no : Nat
  codebase : Word64
  entry : Word64
  spillbase : Word64
  spillx : BitVec 32
  spillv : BitVec 32
  interval : Nat
  wsel : Fin 6
  tcmwin : Nat
  gang : Nat
  gangs : Nat
  cspwin : Nat
  clusters : BitVec 32
  persist : Bool
  restart : Bool
  prio : Nat
  x : Vector Word64 32
  vl : Nat
  vcfgReq : Nat
  em : BitVec 32
  vmt : Nat
  seg : Vector Word64 4
  /-- Registers present in the image: number and the 32 VPs' values. -/
  v : List (Nat × List VReg)
  placedGangs : Nat := 0
  endedGangs : Nat := 0
  lostGangs : Nat := 0
  /-- Causes a RESULT may name (R264), in order of occurrence. -/
  causes : List Nat := []
deriving DecidableEq, Repr

/-- A packet the device sends (R276). `key` is the connection, `conn` its number at the receiver, `psn` its sequence
number (0 for control messages). -/
structure Sent where
  key : ConnKey
  conn : Nat
  kind : Nat
  psn : Nat
  apsn : Nat
  flags : Nat
  addr : Word64
  len : Nat
  tag : Nat
  payload : List Byte
  /-- The link command it belongs to, if any, and its offset in it. -/
  cmd : Option Nat := none
  off : Nat := 0
  /-- A READ that is acknowledged and waits for its response. -/
  acked : Bool := false
deriving DecidableEq, Repr

/-- A PLT connection (R275, R278 to R280). -/
structure Conn where
  domain : Nat := 0
  port : Nat := 0
  addrHi : Word64 := 0
  addrLo : Word64 := 0
  remote : Nat := 0
  frozen : Bool := false
  /-- The address of a domain violation by a message, until FREEZE freezes the connection (R322). -/
  violated : Option Word64 := none
  expected : Nat := 0
  nakSent : Bool := false
  nextPsn : Nat := 0
  unacked : List Sent := []
  /-- Messages that wait for room among the unacknowledged ones (R279). -/
  backlog : List Sent := []
  timeouts : Nat := 0
  lastProgress : Nat := 0
  /-- Rc is `rate` Mb/s divided by 8 to the power `rateDiv`, exactly (R280). -/
  rate : Nat := 1600000
  rateDiv : Nat := 0
  lastCnp : Nat := 0
  /-- When the device last sent a CNP on it (R280). -/
  cnpSent : Option Nat := none
  /-- Messages received that failed, with their causes (R278). -/
  failures : List (Nat × Nat) := []
  /-- READs without their response: PSN, command, offset in it, bytes. -/
  reads : List (Nat × Nat × Nat × Nat) := []
deriving DecidableEq, Repr

/-- A firmware image as staged, banked or in flash (R285). -/
structure Image where
  bytes : List Byte
deriving DecidableEq, Repr

/-- An instance of an image (R284, R290). -/
structure FwInst where
  running : Bool := false
  /-- Running the new image of the Slack Water in progress. -/
  isNew : Bool := false
  stopped : Bool := false
  stoppedAt : Nat := 0
  startedAt : Nat := 0
  lastBeat : Nat := 0
  beats : Nat := 0
  accepted : Bool := false
  /-- A new instance between a beat and the next turn that is none of firmware: its acts are visible now (R379, log 42). -/
  window : Bool := false
  handOver : List Byte := []
  region : List Byte := []
  /-- When a fall-back restarted the old instance, which has given no beat since (R380). -/
  restartedAt : Option Nat := none
deriving DecidableEq, Repr

/-- What the device keeps for one KIND of image (R284 to R288, R375). -/
structure FwKind where
  rsaHash : BitVec 384 := 0
  slhHash : BitVec 384 := 0
  minSvn : Nat := 0
  flash0 : List Byte := []
  flash1 : List Byte := []
  /-- Which flash copy is marked current. -/
  flashCur : Bool := false
  /-- The acceptable copy that start has read, or the image staged in its place, until it is measured and placed (R287,
  R376). -/
  found : List Byte := []
  /-- The image in force has been staged while start had not completed, and is to be written to the boot flash (R376). -/
  flashDue : Bool := false
  bankA : List Byte := []
  bankB : List Byte := []
  /-- The active bank: `false` A, `true` B. -/
  active : Bool := false
  boot : Nat := 3
  cur : BitVec 384 := 0
  insts : Vector FwInst 6 := Vector.replicate 6 {}
deriving DecidableEq, Repr

/-- The Slack Water in progress: KIND, the pending digest and the accepted image, which the new instances run (R290); `committed` once steps 1 to 4 of its
commit are done (R293). -/
structure SlackWater where
  kind : Nat
  digest : BitVec 384
  image : List Byte
  committed : Bool := false
deriving DecidableEq, Repr

/-- Firmware, security tile, power (R284 to R299, R375, log 21). -/
structure Firmware where
  kinds : Vector FwKind 3 := Vector.replicate 3 {}
  ms : Vector (BitVec 384) 8 := Vector.replicate 8 0
  slack : Option SlackWater := none
  /-- Firmware cores released: MGMT runs (R287). -/
  mgmtUp : Bool := false
  /-- After a fatal error MGMT cannot run: the security tile serves connection 0 (R388). -/
  mgmtDead : Bool := false
  power : Nat := 0
  inlet : Nat := 0
  clk : Vector Nat 8 := Vector.replicate 8 7
  overtemp : Bool := false
  overpower : Bool := false
deriving DecidableEq, Repr

/-- What a cordon did in each domain, for its records (R367): the domain of each VT that it ended, of each gang that it
handed on, of each future entry that it resolved, of each page that it marked LOST. -/
structure CordonTally where
  ended : List Nat := []
  gangs : List Nat := []
  futures : List Nat := []
  pages : List Nat := []
  /-- Launches and gang indices that SCHED has yet to hand on again (R362). -/
  again : List (Nat × Nat) := []
  /-- Gangs of its placement queues that SCHED has yet to hand on, in order (R265). -/
  handOn : List Nat := []
deriving DecidableEq, Repr

/-- A CORDON record that FAB has yet to post: EVENT 1 CORDONED, 2 READMITTED, 3 RETIRED, and what it says of a cordon (R366,
R367). -/
structure CordonNote where
  event : Nat
  cause : Nat := 0
  tally : CordonTally := {}
deriving DecidableEq, Repr

/-- A router's own Tidewatch state (R297, R356). -/
structure Tile where
  seq : Nat := 0
  st : Nat := 0
  appeals : Nat := 0
  health : Nat := 0
  /-- Accusers whose ACCUSE this tile has received and not seen withdrawn or expired: sender and time. -/
  accusers : List (TileId × Nat) := []
  lastSend : Nat := 0
  sentAny : Bool := false
  /-- The outcome of its BIST at device reset; a self-test that passes sets it as well (R296, R356). -/
  bist : Option Bool := none
  /-- When it entered SELFTEST. -/
  testAt : Nat := 0
  /-- The device treats it as cordoned (R354), as retired (R356). -/
  cordoned : Bool := false
  retired : Bool := false
  /-- Step 2 of its last cordon is done, step 3, all to step 4 (R366); `handled` where there was none. -/
  remapped : Bool := false
  marked : Bool := false
  handled : Bool := true
  owed : List CordonNote := []
  /-- A cordoned slice: the 4 KiB storage pages of its dirty-page summary at its closure, or, with neither HBM tile of the
  die in service, all CXL pages that the die homes (R363). -/
  pages : List Nat := []
  blind : Bool := false
  /-- What its cordon has done so far in each domain (R367). -/
  tally : CordonTally := {}
  /-- Out of service until device reset, whatever its STATE (R344, R360). -/
  out : Bool := false
  /-- Corrected soft errors, with the time of each report (R345). -/
  corrected : List (Nat × Nat) := []
  /-- The cause of the accusation that brought the first router to its quorum (R367). -/
  firstCause : Nat := 0
deriving DecidableEq, Repr

/-- A witness's view of a subject (R297, R350 to R357). -/
structure View where
  lastSeq : Nat := 0
  verdict : Nat := 0
  missed : Nat := 0
  clean : Nat := 0
  /-- Accusations held: sender, time received, cause. -/
  held : List (TileId × Nat × Nat) := []
  lastJudged : Nat := 0
  arrivals : List Nat := []
  injections : List Nat := []
  /-- When the closed port last let a flit of the subject pass (R354). -/
  passed : List Nat := []
  lastAccuse : Nat := 0
  cause : Nat := 0
  /-- Fresh count of clean heartbeats of an appeal (R357). -/
  fresh : Option Nat := none
  /-- Consents a neighbour holds for the subject. -/
  consents : List TileId := []
  portClosed : Bool := false
  /-- The quorum is known here, or another neighbour's CORDONED came (R354); the cause that completed the quorum (R367). -/
  quorumKnown : Bool := false
  quorumCause : Nat := 0
deriving DecidableEq, Repr

/-- A die (R11, R361, R364, R365). -/
structure Die where
  sliceMask : BitVec 12 := 0xFFF
  severed : Bool := false
  /-- The die whose steward serves this die's roles. -/
  steward : Option Nat := none
  futuresLost : Bool := false
  /-- HBM halves in service. -/
  hbm0 : Bool := true
  hbm1 : Bool := true
deriving DecidableEq, Repr

/-- State of a CXL link (R80, R347). -/
inductive LinkState where
  | up
  | down (since : Nat)
  | lost
deriving DecidableEq, Repr

/-- A CXL link (R16, R80): installed capacity in bytes, lanes, rate in GT/s (log 22). -/
structure Link where
  capacity : Nat := 0
  st : LinkState := .up
  width : Nat := 16
  rate : Nat := 64
deriving DecidableEq, Repr

/-- A post to an event ring whose writes wait for its storage: domain, slot address, record, sequence number (R316, R347). -/
structure DuePost where
  domain : Nat
  va : Nat
  record : List Byte
  seq : Nat
deriving DecidableEq, Repr

/-- The device. -/
structure State where
  who : Agent
  schedule : List Turn
  /-- How many free values have been drawn (log 10). -/
  picks : Nat
  fatal : Option Nat
  /-- The dump of a fatal error: REASON, and the number of the draw that its free bytes depend on (R323, log 27). -/
  dump : Option (Nat × Nat)
  vts : SMap VT
  gangs : SMap Gang
  launches : List Launch
  cores : SMap Core
  clusters : SMap Cluster
  mem : List Host.Cell
  l2 : List L2Line
  poison : List Nat
  slices : SMap Slice
  rejected : List Rejected
  /-- MGMT's copy of every table entry, by domain, level and address (R86, R341). -/
  tables : SMap Word64
  /-- The 4 KiB page that holds a table below the root, by domain, level and address (R81). -/
  tablePages : SMap Nat
  reserved : List (Nat × Nat)
  futures : SMap Future
  commands : List Command
  nextCmd : Nat
  /-- VTs that stall at a full engine FIFO, in order of arrival: engine, unit, VT (R244). -/
  fifoWait : List (Nat × Nat × Nat)
  domains : SMap Domain
  mseq : BitVec 32
  cordons : BitVec 32
  queues : SMap Queue
  nextOrder : Nat
  conns : SMap Conn
  outbox : List Sent
  /-- Management messages that wait for the next beat of a new instance of MGMT, in order (R379, log 42). -/
  heldMgmt : List Packet
  drops : SMap Nat
  /-- The addresses of the ports: 0 HOST, 1 to 8 PP0 to PP7 (R274, log 62). -/
  ports : SMap PortAddr
  fw : Firmware
  tiles : SMap Tile
  views : SMap View
  allowance : SMap Nat
  /-- Flits on the heartbeat sideband: receiver and flit (R352). -/
  sideband : List (TileId × Word64)
  dies : SMap Die
  links : Vector Link 4
  tileClock : SMap Nat
  fwClock : SMap Nat
  records : List (List Byte)
  /-- Posts to event rings that wait for their storage, in order (R316, R347). -/
  duePosts : List DuePost
  /-- The slices at which the accesses of the present operation or event need an entry, and whether one of them has to wait,
  with the table line that holds its walk (R90, R91, R341, R347). -/
  wants : List Nat
  stalled : Option (Option Nat)
deriving DecidableEq, Repr

/-- The regions that MGMT reserves (R76): the dump region of R298 at the start of CD0's stack, the tables' region after it
(log 15, log 59), and in each die's stack 8 GiB for the context store areas of the domains (log 59). -/
def reservedAtReset : List (Nat × Nat) :=
  [(0, 0x40000000), (0x40000000, 0x40000000)] ++ (List.range 8).map fun d => (d * 2 ^ 36 + 2 ^ 32, 2 ^ 33)

/-- The device right after reset: no vector thread, empty caches and tables, memory all zero, MSEQ, CORDONS and the
measurement slots 0, every tile with its reset registers, before the boot ROM's start (R6, R62, R287, R288, R297).
MGMT's reserved regions are those of logs 15 and 59. -/
def State.reset : State where
  who := .device
  schedule := []
  picks := 0
  fatal := none
  dump := none
  vts := []
  gangs := []
  launches := []
  cores := []
  clusters := []
  mem := []
  l2 := []
  poison := []
  slices := []
  rejected := []
  tables := []
  tablePages := []
  reserved := reservedAtReset
  futures := []
  commands := []
  nextCmd := 0
  fifoWait := []
  domains := []
  mseq := 0
  cordons := 0
  queues := []
  nextOrder := 0
  conns := []
  outbox := []
  heldMgmt := []
  drops := []
  ports := []
  fw := {}
  tiles := []
  views := []
  allowance := []
  sideband := []
  dies := []
  links := Vector.replicate 4 {}
  tileClock := []
  fwClock := []
  records := []
  duePosts := []
  wants := []
  stalled := none

end Sys2Proof.Machine
end

