-- ==== Sys2Proof/Machine/Operands.lean ====
section
/-! DEFINITION. Integer results on elements (R118, R158 to R163, R208), and the operand forms of an instruction: x
registers, v registers and the queue port v31, predicates and guards (R40, R137, R138, R200). -/

namespace Sys2Proof.Machine

open Sys2Proof

/-! ### Integer results, for any element width -/

/-- The low log2(e) bits of a shift amount (R159). -/
def shiftAmount {e : Nat} (b : BitVec e) : Nat := b.toNat % e

def intSll {e : Nat} (a b : BitVec e) : BitVec e := a <<< shiftAmount b
def intSrl {e : Nat} (a b : BitVec e) : BitVec e := a >>> shiftAmount b
def intSra {e : Nat} (a b : BitVec e) : BitVec e := a.sshiftRight (shiftAmount b)
def intMin {e : Nat} (a b : BitVec e) : BitVec e := if a.toInt ≤ b.toInt then a else b
def intMax {e : Nat} (a b : BitVec e) : BitVec e := if b.toInt ≤ a.toInt then a else b
def intMinu {e : Nat} (a b : BitVec e) : BitVec e := if a.toNat ≤ b.toNat then a else b
def intMaxu {e : Nat} (a b : BitVec e) : BitVec e := if b.toNat ≤ a.toNat then a else b
def intPopc {e : Nat} (a : BitVec e) : BitVec e := BitVec.ofNat e (countOnes a.toNat e)
def intClz {e : Nat} (a : BitVec e) : BitVec e := BitVec.ofNat e (countLeading a.toNat e)
def intCtz {e : Nat} (a : BitVec e) : BitVec e := BitVec.ofNat e (countTrailing a.toNat e)
def intMulh {e : Nat} (a b : BitVec e) : BitVec e := BitVec.ofInt e (a.toInt * b.toInt / (2 ^ e : Nat))
def intMulhu {e : Nat} (a b : BitVec e) : BitVec e := BitVec.ofNat e (a.toNat * b.toNat / 2 ^ e)

/-- Signed division, towards zero; by zero every bit set (R118, R161). -/
def intDiv {e : Nat} (a b : BitVec e) : BitVec e := if b = 0 then BitVec.allOnes e else BitVec.ofInt e (a.toInt.tdiv b.toInt)

/-- Unsigned division; by zero every bit set. -/
def intDivu {e : Nat} (a b : BitVec e) : BitVec e := if b = 0 then BitVec.allOnes e else BitVec.ofNat e (a.toNat / b.toNat)

/-- Signed remainder, with the sign of the dividend; by zero the dividend. -/
def intRem {e : Nat} (a b : BitVec e) : BitVec e := if b = 0 then a else BitVec.ofInt e (a.toInt.tmod b.toInt)

/-- Unsigned remainder; by zero the dividend. -/
def intRemu {e : Nat} (a b : BitVec e) : BitVec e := if b = 0 then a else BitVec.ofNat e (a.toNat % b.toNat)

/-- Clamp to the signed range of `e` bits (R118). -/
def satS (e : Nat) (v : Int) : BitVec e :=
  BitVec.ofInt e (max (-(2 ^ (e - 1) : Nat)) (min v ((2 ^ (e - 1) : Nat) - 1)))

/-- Clamp to the unsigned range of `e` bits (R118). -/
def satU (e : Nat) (v : Int) : BitVec e := BitVec.ofInt e (max 0 (min v ((2 ^ e : Nat) - 1)))

def intAdds {e : Nat} (a b : BitVec e) : BitVec e := satS e (a.toInt + b.toInt)
def intSubs {e : Nat} (a b : BitVec e) : BitVec e := satS e (a.toInt - b.toInt)
def intAddsu {e : Nat} (a b : BitVec e) : BitVec e := satU e ((a.toNat : Int) + b.toNat)
def intSubsu {e : Nat} (a b : BitVec e) : BitVec e := satU e ((a.toNat : Int) - b.toNat)
def intAvg {e : Nat} (a b : BitVec e) : BitVec e := BitVec.ofInt e ((a.toInt + b.toInt + 1) / 2)
def intAvgu {e : Nat} (a b : BitVec e) : BitVec e := BitVec.ofNat e ((a.toNat + b.toNat + 1) / 2)
def intAbs {e : Nat} (a : BitVec e) : BitVec e := satS e (max a.toInt (-a.toInt))

/-- The absolute difference; signed operands for an i type, unsigned for an n type (R208). -/
def intAbsd {e : Nat} (signed : Bool) (a b : BitVec e) : BitVec e :=
  if signed then BitVec.ofInt e (max (a.toInt - b.toInt) (b.toInt - a.toInt))
  else BitVec.ofNat e (max a.toNat b.toNat - min a.toNat b.toNat)

/-- The conditions of `cmp` and `cmpi` (R162). -/
def condHolds {e : Nat} (c : Cond) (a b : BitVec e) : Bool :=
  match c with
  | .eq => a == b
  | .ne => a != b
  | .lt => a.toInt < b.toInt
  | .le => a.toInt ≤ b.toInt
  | .gt => b.toInt < a.toInt
  | .ge => b.toInt ≤ a.toInt
  | .ltu => a.toNat < b.toNat
  | .leu => a.toNat ≤ b.toNat
  | .gtu => b.toNat < a.toNat
  | .geu => b.toNat ≤ a.toNat
  | .tst => (a &&& b) != 0
  | .ntst => (a &&& b) == 0

/-- The new value of p[PD1] in one element from its old value and the condition (R162). -/
def combine (f : Comb) (old c : Bool) : Bool :=
  match f with
  | .plain => c
  | .nar => old && c
  | .wid => old || c
  | .cut => old && !c

/-! ### Widths and types of a VT -/

/-- W in bytes: 2^(WSEL + 2) (R59). -/
def widthOf (wsel : Fin 6) : Nat := 4 * 2 ^ wsel.val

/-- VCFG.IT (R59). -/
def vcfgIt (v : Word64) : Nat := bits64 v 3 3

/-- VCFG.FT (R59). -/
def vcfgFt (v : Word64) : Nat := bits64 v 6 3

/-- VCFG.FRM (R59). -/
def vcfgFrm (v : Word64) : Nat := bits64 v 9 2

/-- VCFG.ILL (R59). -/
def vcfgIll (v : Word64) : Bool := v.getLsbD 63

/-- The element width of an IT code in bits (R117). -/
def itBits (it : Nat) : Nat := 8 * 2 ^ (it / 2)

/-- Whether an IT code is an i type (R117). -/
def itSigned (it : Nat) : Bool := it % 2 == 0

/-! ### Registers of the control thread -/

/-- x[r]; x0 reads zero (R55). -/
def VT.readX (vt : VT) (r : Reg) : Word64 := if r = 0 then 0 else vt.x[r]

/-- Write x[r]; a write to x0 is discarded (R55). It replaces a status of a `vtctl` that is still to arrive there. -/
def VT.writeX (vt : VT) (r : Reg) (v : Word64) : VT :=
  if r = 0 then vt else { vt with x := vt.x.set r v, waitStatus := vt.waitStatus.filter fun p => p.1 != r }

/-- p[r] of the control thread; p7 reads true (R55). -/
def VT.readP (vt : VT) (r : Fin 8) : Bool := if r = 7 then true else vt.p[r]

/-- Write p[r]; a write to p7 is discarded (R55). -/
def VT.writeP (vt : VT) (r : Fin 8) (b : Bool) : VT := if r = 7 then vt else { vt with p := vt.p.set r b }

/-- The guard of a CT instruction (R137). -/
def VT.guardHolds (vt : VT) (g : Guard) : Bool := vt.readP g.p ^^ g.neg

/-! ### Registers, predicates and the queue port of a virtual processor -/

/-- p[r] of a VP; p7 reads all ones (R55). -/
def VP.readP (vp : VP) (r : Fin 8) : Pred := if r = 7 then BitVec.allOnes 256 else vp.p[r]

/-- Write p[r] of a VP; a write to p7 is discarded (R55). -/
def VP.writeP (vp : VP) (r : Fin 8) (v : Pred) : VP := if r = 7 then vp else { vp with p := vp.p.set r v }

/-- p[G] XOR N of a VP: bit k guards element k, bit 0 an instruction without elements (R137). -/
def VP.guardOf (vp : VP) (g : Guard) : Pred := if g.neg then ~~~(vp.readP g.p) else vp.readP g.p

/-- A source operand: v[r], or the oldest entry of the load queue for v31. `none` where the entry is not yet filled:
the pop waits for it (R40). -/
def VP.source (vp : VP) (r : Reg) : Option (VReg × VP) :=
  if r = 31 then
    match vp.loadQ with
    | .filled x :: rest => some (x, { vp with loadQ := rest })
    | _ => none
  else some (vp.v[r], vp)

/-- A destination operand: v[r], or a push into the store queue for v31. `none` where the queue is full: the push waits
(R42). -/
def VP.dest (vp : VP) (r : Reg) (value : VReg) (mask : BitVec 128) : Option VP :=
  if r = 31 then
    if vp.storeQ.length < 8 then some { vp with storeQ := vp.storeQ ++ [{ data := value, mask }] } else none
  else some { vp with v := vp.v.set r value }

/-- What the destination holds before the write: v[r], or zeros for an entry of the store queue (R200). -/
def VP.destOld (vp : VP) (r : Reg) : VReg := if r = 31 then 0 else vp.v[r]

/-- The write mask of an entry: a byte's bit is 1 when the guard is 1 for some element in the byte (R40, R200). -/
def entryMask (e n w : Nat) (guard : Nat → Bool) : BitVec 128 :=
  BitVec.ofNat 128 (packElems ((List.range w).map fun j =>
    BitVec.ofBool ((List.range n).any fun k => guard k && e * k / 8 ≤ j && j ≤ (e * k + e - 1) / 8)))

/-- The effect frame of R158 and R200: element k of v[d] becomes `f k` where its guard is 1. -/
def VP.writeFrame (vp : VP) (w e n : Nat) (guard : Nat → Bool) (d : Reg) (f : Nat → BitVec e) : Option VP :=
  let old := vp.destOld d
  vp.dest d (writeElems old ((List.range n).map fun k => if guard k then f k else elem e old k))
    (entryMask e n w guard)

/-- An instruction of one source, element by element. -/
def VP.unary (vp : VP) (w e n : Nat) (guard : Nat → Bool) (d a : Reg) (f : BitVec e → BitVec e) : Option VP :=
  match vp.source a with
  | none => none
  | some (x, vp) => vp.writeFrame w e n guard d fun k => f (elem e x k)

/-- An instruction of two sources, element by element; the pops are in the order A, B (R40). -/
def VP.binary (vp : VP) (w e n : Nat) (guard : Nat → Bool) (d a b : Reg) (f : BitVec e → BitVec e → BitVec e) :
    Option VP :=
  match vp.source a with
  | none => none
  | some (x, vp) =>
    match vp.source b with
    | none => none
    | some (y, vp) => vp.writeFrame w e n guard d fun k => f (elem e x k) (elem e y k)

/-- The pair of predicates that a compare writes: bit k of PD2 is the complement of bit k of PD1, and PD1 is written
last (R162). -/
def VP.writeCompare (vp : VP) (n : Nat) (guard : Nat → Bool) (pd1 pd2 : Fin 8) (f : Comb) (c : Nat → Bool) : VP :=
  let old1 := vp.readP pd1
  let q : Nat → Bool := fun k => combine f (predBit old1 k) (c k)
  let old2 := vp.readP pd2
  let vp := vp.writeP pd2 (writePred n old2 fun k => if guard k then !(q k) else predBit old2 k)
  let old1 := vp.readP pd1
  vp.writeP pd1 (writePred n old1 fun k => if guard k then q k else predBit old1 k)

/-- The pair of predicates that a CT compare writes (R162). -/
def VT.writeCompare (vt : VT) (pd1 pd2 : Fin 8) (f : Comb) (c : Bool) : VT :=
  let q := combine f (vt.readP pd1) c
  (vt.writeP pd2 (!q)).writeP pd1 q

/-! ### The v registers that a word names (R25, R40, R41) -/

/-- The v register, with 31 for the queue port, that an instruction of a block writes; a `cvts` also writes the register
after it (R207). -/
def vDests : Instr → List Reg
  | .add _ d .. | .sub _ d .. | .and _ d .. | .or _ d .. | .xor _ d .. | .sll _ d .. | .srl _ d .. | .sra _ d ..
  | .min _ d .. | .max _ d .. | .minu _ d .. | .maxu _ d .. | .popc _ d .. | .clz _ d .. | .ctz _ d .. => [d]
  | .addi _ d .. | .andi _ d .. | .ori _ d .. | .xori _ d .. | .slli _ d .. | .srli _ d .. | .srai _ d ..
  | .lui _ d .. => [d]
  | .mul _ d .. | .mulh _ d .. | .mulhu _ d .. | .div _ d .. | .divu _ d .. | .rem _ d .. | .remu _ d .. => [d]
  | .pgetx _ d _ => [d]
  | .amowSwap _ d .. | .amowAdd _ d .. | .amowAnd _ d .. | .amowOr _ d .. | .amowXor _ d .. | .amowMin _ d ..
  | .amowMax _ d .. | .amowCas _ d .. | .amodSwap _ d .. | .amodAdd _ d .. | .amodAnd _ d .. | .amodOr _ d ..
  | .amodXor _ d .. | .amodMin _ d .. | .amodMax _ d .. | .amodCas _ d .. => [d]
  | .fadd _ d .. | .fsub _ d .. | .fmul _ d .. | .fmin _ d .. | .fmax _ d .. | .fdiv _ d .. | .fsqrt _ d ..
  | .frcp _ d .. | .frsq _ d .. | .fexp2 _ d .. | .flog2 _ d .. | .fabs _ d .. | .fneg _ d .. | .fsgnj _ d ..
  | .fclass _ d .. | .fma _ d .. | .fms _ d .. | .fnma _ d .. | .fnms _ d .. | .cvt _ d .. => [d]
  | .cvts _ d _ _ _ => [d, d + 1]
  | .adds _ d .. | .subs _ d .. | .addsu _ d .. | .subsu _ d .. | .avg _ d .. | .avgu _ d .. | .abs _ d ..
  | .absd _ d .. | .permb _ d .. | .shufb _ d .. | .zipl _ d .. | .ziph _ d .. | .uzpe _ d .. | .uzpo _ d .. => [d]
  | .xrecv _ d | .vballot _ d _ | .vmatch _ d _ | .vshfl _ d _ _ | .vredAdd _ d .. | .vredMin _ d .. | .vredMax _ d ..
  | .vscanAdd _ d .. => [d]
  | .ldv _ d .. | .vpid _ d | .ltmask _ d | .mov _ d _ | .sel _ d .. => [d]
  | _ => []

/-- The v registers, with 31 for the queue port, that an instruction of a block reads, in the order of its pops (R40). -/
def vSources : Instr → List Reg
  | .add _ _ a b | .sub _ _ a b | .and _ _ a b | .or _ _ a b | .xor _ _ a b | .sll _ _ a b | .srl _ _ a b
  | .sra _ _ a b | .min _ _ a b | .max _ _ a b | .minu _ _ a b | .maxu _ _ a b | .mul _ _ a b | .mulh _ _ a b
  | .mulhu _ _ a b | .div _ _ a b | .divu _ _ a b | .rem _ _ a b | .remu _ _ a b => [a, b]
  | .popc _ _ a | .clz _ _ a | .ctz _ _ a | .addi _ _ a _ | .andi _ _ a _ | .ori _ _ a _ | .xori _ _ a _
  | .slli _ _ a _ | .srli _ _ a _ | .srai _ _ a _ | .cmpi _ _ _ _ a _ | .psetx _ _ a => [a]
  | .cmp _ _ _ _ a b _ | .fcmp _ _ _ _ a b _ => [a, b]
  | .amowSwap _ _ a b .. | .amowAdd _ _ a b .. | .amowAnd _ _ a b .. | .amowOr _ _ a b .. | .amowXor _ _ a b ..
  | .amowMin _ _ a b .. | .amowMax _ _ a b .. | .amodSwap _ _ a b .. | .amodAdd _ _ a b .. | .amodAnd _ _ a b ..
  | .amodOr _ _ a b .. | .amodXor _ _ a b .. | .amodMin _ _ a b .. | .amodMax _ _ a b .. => [a, b]
  | .amowCas _ d a b .. | .amodCas _ d a b .. => [a, b, d]
  | .fadd _ _ a b | .fsub _ _ a b | .fmul _ _ a b | .fmin _ _ a b | .fmax _ _ a b | .fdiv _ _ a b
  | .fsgnj _ _ a b => [a, b]
  | .fsqrt _ _ a | .frcp _ _ a | .frsq _ _ a | .fexp2 _ _ a | .flog2 _ _ a | .fabs _ _ a | .fneg _ _ a
  | .fclass _ _ a | .cvt _ _ a _ _ | .cvts _ _ a _ _ | .abs _ _ a => [a]
  | .fma _ _ a b c | .fms _ _ a b c | .fnma _ _ a b c | .fnms _ _ a b c => [a, b, c]
  | .adds _ _ a b | .subs _ _ a b | .addsu _ _ a b | .subsu _ _ a b | .avg _ _ a b | .avgu _ _ a b | .absd _ _ a b
  | .permb _ _ a b | .shufb _ _ a b | .zipl _ _ a b | .ziph _ _ a b | .uzpe _ _ a b | .uzpo _ _ a b
  | .vshfl _ _ a b | .sel _ _ a b => [a, b]
  | .xsend _ a | .vmatch _ _ a | .vredAdd _ _ a _ | .vredMin _ _ a _ | .vredMax _ _ a _ | .vscanAdd _ _ a _
  | .ldv _ _ a _ _ _ | .fetchr _ a | .mov _ _ a => [a]
  | .stv _ d a _ _ _ => [a, d]
  | _ => []

/-- Every v register that an instruction of a block names. -/
def vNamed (i : Instr) : List Reg := vDests i ++ vSources i

end Sys2Proof.Machine
end

