-- ==== Sys2Proof/Machine/Flags.lean ====
section
/-! DEFINITION. The flags of FFLAGS (R60, R127), the rounding modes (R123), and the one rounding of an exact value to a
format with the flags it raises (R119 to R125, R129). -/

namespace Sys2Proof.Machine

open Sys2Proof

/-- NV, DZ, OF, UF and NX in bits 4 to 0, as in FFLAGS (R60). -/
abbrev FFlags := BitVec 5

def flagNV : FFlags := 0b10000
def flagDZ : FFlags := 0b01000
def flagOF : FFlags := 0b00100
def flagUF : FFlags := 0b00010
def flagNX : FFlags := 0b00001

/-- Rounding modes (R123). -/
inductive Rounding where
  | rne | rtz | rdn | rup
deriving DecidableEq, Repr

/-- FRM codes (R59). -/
def roundingOf (frm : Nat) : Rounding :=
  if frm = 0 then .rne else if frm = 1 then .rtz else if frm = 2 then .rdn else .rup

/-- A floating-point format (R119). `maxEnc` is the largest finite magnitude's encoding. -/
structure FloatFormat where
  eb : Nat
  mb : Nat
  bias : Nat
  maxEnc : Nat
  /-- It has infinities, at the encoding above `maxEnc`. -/
  hasInf : Bool
  /-- Its NaNs: none, the one encoding above `maxEnc`, or every one above the infinity. -/
  hasNan : Bool
  /-- A NaN whose top fraction bit is 0 is signalling (R126). -/
  hasSignalling : Bool
  canonicalNan : Nat
deriving DecidableEq, Repr

def fp32Format : FloatFormat := ⟨8, 23, 127, 0x7F7FFFFF, true, true, true, 0x7FC00000⟩
def fp16Format : FloatFormat := ⟨5, 10, 15, 0x7BFF, true, true, true, 0x7E00⟩
def bf16Format : FloatFormat := ⟨8, 7, 127, 0x7F7F, true, true, true, 0x7FC0⟩
def e4m3Format : FloatFormat := ⟨4, 3, 7, 0x7E, false, true, false, 0x7F⟩
def e5m2Format : FloatFormat := ⟨5, 2, 15, 0x7B, true, true, false, 0x7E⟩
def e3m2Format : FloatFormat := ⟨3, 2, 3, 0x1F, false, false, false, 0⟩
def e2m3Format : FloatFormat := ⟨2, 3, 1, 0x1F, false, false, false, 0⟩
def e2m1Format : FloatFormat := ⟨2, 1, 1, 0x7, false, false, false, 0⟩

/-- Value bits of a format: sign, exponent, fraction. -/
def FloatFormat.bits (f : FloatFormat) : Nat := 1 + f.eb + f.mb

/-- The position of the sign bit. -/
def FloatFormat.signBit (f : FloatFormat) : Nat := 2 ^ (f.eb + f.mb)

/-- The exponent of the lowest fraction bit of the smallest values: 1 - bias - M (R120). -/
def FloatFormat.minQuantum (f : FloatFormat) : Int := 1 - (f.bias : Int) - f.mb

/-- What an encoding stands for: a NaN, an infinity, or (-1)^neg * m * 2^x (R119, R120). -/
inductive FValue where
  | nan (signalling : Bool)
  | inf (neg : Bool)
  | fin (neg : Bool) (m : Nat) (x : Int)
deriving DecidableEq, Repr

/-- The value of an encoding (R119, R120). -/
def FloatFormat.decode (f : FloatFormat) (enc : Nat) : FValue :=
  let neg := enc / f.signBit % 2 == 1
  let mag := enc % f.signBit
  let ex := mag / 2 ^ f.mb
  let fr := mag % 2 ^ f.mb
  if f.maxEnc < mag then
    if f.hasInf ∧ mag = f.maxEnc + 1 then .inf neg
    else .nan (f.hasSignalling && fr / 2 ^ (f.mb - 1) == 0)
  else if ex = 0 then .fin neg fr f.minQuantum
  else .fin neg (2 ^ f.mb + fr) (f.minQuantum + (ex - 1 : Nat))

/-- The encoding of a magnitude with a sign. -/
def FloatFormat.withSign (f : FloatFormat) (neg : Bool) (mag : Nat) : Nat := if neg then f.signBit + mag else mag

/-- Whether a discarded part, as twice its remainder against the unit with a non-zero rest below it, rounds the
magnitude up (R123). -/
def roundsUp (r : Rounding) (neg odd : Bool) (rem unit : Nat) (sticky : Bool) : Bool :=
  match r with
  | .rne => unit < 2 * rem || (2 * rem == unit && (sticky || odd))
  | .rtz => false
  | .rdn => neg && (rem != 0 || sticky)
  | .rup => !neg && (rem != 0 || sticky)

/-- The magnitude m * 2^x, plus a rest below 2^x when `sticky`, as a multiple of 2^q rounded, and whether it is inexact.
With `sticky`, q lies above x. -/
def roundAt (r : Rounding) (neg : Bool) (m : Nat) (x q : Int) (sticky : Bool) : Nat × Bool :=
  if q ≤ x then (m * 2 ^ (x - q).toNat, sticky)
  else
    let unit := 2 ^ (q - x).toNat
    let low := m / unit
    let rem := m % unit
    (if roundsUp r neg (low % 2 == 1) rem unit sticky then low + 1 else low, rem != 0 || sticky)

/-- What a result beyond the largest finite magnitude becomes. -/
inductive Overflow where
  /-- R125. -/
  | ieee
  /-- Saturation of a conversion to a narrow format (R129). -/
  | saturate
deriving DecidableEq, Repr

/-- The encoding and the flags of an exact non-zero value rounded once to a format: UF when tiny after rounding and
inexact (R124), OF and NX on overflow (R125, R129, log 56). -/
def FloatFormat.round (f : FloatFormat) (r : Rounding) (ov : Overflow) (neg : Bool) (m : Nat) (x : Int) (sticky : Bool) :
    Nat × FFlags :=
  let top : Int := (Nat.log2 m : Int) + x
  let free := roundAt r neg m x (top - f.mb) sticky
  let q := max (top - f.mb) f.minQuantum
  let at' := roundAt r neg m x q sticky
  let mag := at'.1 + (q - f.minQuantum).toNat * 2 ^ f.mb
  let minNormalExp : Int := 1 - (f.bias : Int)
  let tiny := top < minNormalExp && !(top == minNormalExp - 1 && free.1 == 2 ^ (f.mb + 1))
  if f.maxEnc < mag then
    let toInf : Bool :=
      match r with
      | .rne => true
      | .rtz => false
      | .rdn => neg
      | .rup => !neg
    (f.withSign neg (if ov = .ieee ∧ toInf then f.maxEnc + 1 else f.maxEnc), flagOF ||| flagNX)
  else
    (f.withSign neg mag, (if at'.2 then flagNX else 0) ||| (if tiny && at'.2 then flagUF else 0))

/-- The encoding of an exact value of which zero is a case: a zero has the given sign and raises nothing. -/
def FloatFormat.roundFin (f : FloatFormat) (r : Rounding) (ov : Overflow) (neg : Bool) (m : Nat) (x : Int) : Nat × FFlags :=
  if m = 0 then (f.withSign neg 0, 0) else f.round r ov neg m x false

/-- The infinity of a sign. -/
def FloatFormat.infinity (f : FloatFormat) (neg : Bool) : Nat := f.withSign neg (f.maxEnc + 1)

/-- The flags of an operation with these inputs when nothing else is raised: NV for a signalling NaN (R127). -/
def signallingFlags (vs : List FValue) : FFlags := if vs.any (· == .nan true) then flagNV else 0

end Sys2Proof.Machine
end

