-- ==== Sys2Proof/Machine/Tiles.lean ====
section
/-! DEFINITION. The tiles of the device and their 16-bit IDs (R10 to R14, R294). -/

namespace Sys2Proof.Machine

open Sys2Proof

/-- DIE in [15:12], COL in [11:8], ROW in [7:4] (R294). -/
def tileAt (die col row : Nat) : TileId := die * 4096 + col * 256 + row * 16

def tileDie (t : TileId) : Nat := t / 4096
def tileCol (t : TileId) : Nat := t / 256 % 16
def tileRow (t : TileId) : Nat := t / 16 % 16

/-- What a tile is, with its number among its kind on its die (R11) or on the device (R14). -/
inductive TileRole where
  | cluster (k : Nat)
  | slice (k : Nat)
  | hbm (h : Nat)
  | steward
  | ringBridge
  | firmware
  | security
  | hostPort
  | sram (k : Nat)
  | peerPort (k : Nat)
  | cxl (k : Nat)
deriving DecidableEq, Repr

/-- The stops of the Strand ring in its listed order (R10). -/
def ringOrder : List Nat := [8, 0, 1, 2, 3, 9, 4, 5, 6, 7]

/-- The stop of a die on the ring. -/
def ringStop (die : Nat) : Nat := (ringOrder.findIdx? fun d => d == die).getD 0

/-- The dies between two dies in the listed order. -/
def ringPath (a b : Nat) : List Nat :=
  (List.range ((ringStop b + 10 - ringStop a) % 10 - 1)).map fun k => ringOrder.getD ((ringStop a + 1 + k) % 10) 0

/-- The mesh of a compute die, rows of columns 0 to 4 (R11). -/
def computeMesh : List (List TileRole) :=
  [[.hbm 0, .slice 0, .slice 1, .slice 2, .hbm 1],
   [.slice 3, .cluster 0, .steward, .cluster 1, .slice 4],
   [.slice 5, .cluster 2, .slice 6, .cluster 3, .slice 7],
   [.slice 8, .slice 9, .ringBridge, .slice 10, .slice 11]]

/-- The mesh of IO0 (R14). -/
def io0Mesh : List (List TileRole) :=
  [[.ringBridge, .firmware, .security, .sram 0],
   [.hostPort, .peerPort 0, .peerPort 1, .peerPort 2],
   [.cxl 0, .sram 1, .sram 2, .cxl 1]]

/-- The mesh of IO1 (R14). -/
def io1Mesh : List (List TileRole) :=
  [[.ringBridge, .firmware, .sram 3, .sram 4],
   [.peerPort 3, .peerPort 4, .peerPort 5, .peerPort 6],
   [.cxl 2, .sram 5, .peerPort 7, .cxl 3]]

/-- The mesh of a die: CD0 to CD7, IO0 = 8, IO1 = 9. -/
def dieMesh (die : Nat) : List (List TileRole) :=
  if die < 8 then computeMesh else if die = 8 then io0Mesh else if die = 9 then io1Mesh else []

/-- Columns and rows of a die's mesh. -/
def dieCols (die : Nat) : Nat := if die < 8 then 5 else 4
def dieRows (die : Nat) : Nat := if die < 8 then 4 else 3

/-- The role of a tile; `none` for an ID that names no tile. -/
def tileRole (t : TileId) : Option TileRole :=
  if t % 16 = 0 then
    match (dieMesh (tileDie t))[tileRow t]? with
    | some row => row[tileCol t]?
    | none => none
  else none

/-- The tiles of a die, in increasing tile ID. -/
def dieTiles (die : Nat) : List TileId :=
  (List.range (dieCols die)).flatMap fun c => (List.range (dieRows die)).map fun r => tileAt die c r

/-- All 184 tiles, in increasing tile ID. -/
def allTiles : List TileId := (List.range 10).flatMap dieTiles

/-- The tile of a role on a die. -/
def roleTile (die : Nat) (r : TileRole) : TileId := ((dieTiles die).find? fun t => tileRole t == some r).getD 0

/-- The tile of device cluster g (R13). -/
def clusterTile (g : Nat) : TileId := roleTile (g / 4) (.cluster (g % 4))

/-- The tile of L2S k of a die. -/
def sliceTile (die k : Nat) : TileId := roleTile die (.slice k)

/-- The HA or HB tile of a die. -/
def hbmTile (die h : Nat) : TileId := roleTile die (.hbm h)

/-- The tile of SS k. -/
def sramTile (k : Nat) : TileId := roleTile (if k < 3 then 8 else 9) (.sram k)

/-- The tile of CX k. -/
def cxlTile (k : Nat) : TileId := roleTile (if k < 2 then 8 else 9) (.cxl k)

/-- The tile of PP k. -/
def peerTile (k : Nat) : TileId := roleTile (if k < 3 then 8 else 9) (.peerPort k)

/-- The firmware tiles of IO0 and IO1 and the HOST port tile (R317). -/
def fw0Tile : TileId := 0x8100
def fw1Tile : TileId := 0x9100
def hostTile : TileId := 0x8010

/-- The cluster of a device core (R13). -/
def clusterOfCore (c : Nat) : Nat := c / 48

/-- The die of a device core. -/
def dieOfCore (c : Nat) : Nat := c / 192

end Sys2Proof.Machine
end

