-- ==== Sys2Proof/Machine/Access.lean ====
section
/-! DEFINITION. Global memory: translation and its checks (R70 to R86, R339 to R347), the L1 data cache (R87), the home of
each location with its L2 line (R78, R84, R88, R95, R99, R361), monitors (R237), poison (R345, R346). The performing of
an access is one operation on the one value that each storage location has at its home. -/

namespace Sys2Proof.Machine

open Sys2Proof

/-! ### Parts of the state -/

def State.vt? (s : State) (id : Nat) : Option VT := s.vts.get? id
def State.setVt (s : State) (id : Nat) (v : VT) : State := { s with vts := s.vts.set id v }
def State.core (s : State) (c : Nat) : Core := s.cores.getD c {}
def State.setCore (s : State) (c : Nat) (v : Core) : State := { s with cores := s.cores.set c v }
def State.cluster (s : State) (g : Nat) : Cluster := s.clusters.getD g {}
def State.setCluster (s : State) (g : Nat) (v : Cluster) : State := { s with clusters := s.clusters.set g v }
def State.tile (s : State) (t : TileId) : Tile := s.tiles.getD t {}
def State.setTile (s : State) (t : TileId) (v : Tile) : State := { s with tiles := s.tiles.set t v }
def State.die (s : State) (d : Nat) : Die := s.dies.getD d {}
def State.setDie (s : State) (d : Nat) (v : Die) : State := { s with dies := s.dies.set d v }
def State.slice (s : State) (k : Nat) : Slice := s.slices.getD k {}
def State.setSlice (s : State) (k : Nat) (v : Slice) : State := { s with slices := s.slices.set k v }
def State.domain (s : State) (d : Nat) : Domain := s.domains.getD d {}
def State.setDomain (s : State) (d : Nat) (v : Domain) : State := { s with domains := s.domains.set d v }

/-- The clock of a core. -/
def State.coreCycle (s : State) (c : Nat) : Nat := (s.core c).cycle.toNat

/-- The clock of a tile's router (R17). -/
def State.tileCycle (s : State) (t : TileId) : Nat := s.tileClock.getD t 0

/-- The clock of a firmware core (R17). -/
def State.fwCycle (s : State) (k : Nat) : Nat := s.fwClock.getD k 0

/-! ### Storage locations (R76 to R79) -/

/-- The storage locations of HBM: die times 2^36 plus the offset in its stack (R77). -/
def hbmEnd : Nat := 2 ^ 39
def sramBase : Nat := 2 ^ 39
def sramSize : Nat := 0x02000000
def cxlBase : Nat := 2 ^ 40
def cxlSize : Nat := 2 ^ 39

def isHbm (loc : Nat) : Bool := loc < hbmEnd
def isSram (loc : Nat) : Bool := sramBase ≤ loc && loc < sramBase + 6 * sramSize
def isCxl (loc : Nat) : Bool := cxlBase ≤ loc && loc < cxlBase + 4 * cxlSize

/-- The SS tile of a shared-SRAM location. -/
def sramOf (loc : Nat) : Nat := (loc - sramBase) / sramSize

/-- The CXL link of a location. -/
def cxlOf (loc : Nat) : Fin 4 := Fin.ofNat 4 ((loc - cxlBase) / cxlSize)

/-- The HBM location that a PA names under HOME (R77). -/
def hbmLoc (pa : Nat) (home : Bool) : Nat :=
  if home then pa / 2 ^ 12 % 8 * 2 ^ 36 + pa / 2 ^ 15 * 2 ^ 12 + pa % 2 ^ 12 else pa

/-- The PA that names an HBM location under HOME: the inverse of `hbmLoc`. -/
def hbmPa (loc : Nat) (home : Bool) : Nat :=
  if home then loc % 2 ^ 36 / 2 ^ 12 * 2 ^ 15 + loc / 2 ^ 36 * 2 ^ 12 + loc % 2 ^ 12 else loc

/-- The storage location of a PA that the installed storage covers (R76, R80). -/
def State.locOf (s : State) (pa : Nat) (home : Bool) : Option Nat :=
  if pa < hbmEnd then some (hbmLoc pa home)
  else if isSram pa then some pa
  else if isCxl pa then
    if (pa - cxlBase) % cxlSize < (s.links[cxlOf pa]).capacity then some pa else none
  else none

/-- The die that homes a line of HBM or CXL (R78). -/
def homeDie (loc : Nat) : Nat := if isHbm loc then loc / 2 ^ 36 else loc / 2 ^ 12 % 8

/-- n of R78. -/
def homeN (loc : Nat) : Nat :=
  if isHbm loc then loc % 2 ^ 36 / 64 else loc / 2 ^ 15 % 2 ^ 27 * 64 + loc / 64 % 64

/-- The set bits of a slice mask, rising. -/
def maskBits (m : BitVec 12) : List Nat := (List.range 12).filter fun k => m.getLsbD k

/-- The home slice of a line on its die under a SLICEMASK, and its set; `none` with no slice left (R78, R361). -/
def sliceUnder (m : BitVec 12) (loc : Nat) : Option (Nat × Nat) :=
  let n := homeN loc
  let set := n / 12 % 4096
  if m.getLsbD (n % 12) then some (n % 12, set)
  else
    match (maskBits m)[n / 12 % (maskBits m).length]? with
    | some k => some (k, set)
    | none => none

/-- The home slice of a line, and its set. -/
def State.homeSlice (s : State) (loc : Nat) : Option (Nat × Nat) := sliceUnder (s.die (homeDie loc)).sliceMask loc

/-- The tile that performs accesses to a location (R99, R361). -/
def State.homeTile (s : State) (loc : Nat) : TileId :=
  if isSram loc then sramTile (sramOf loc)
  else
    match s.homeSlice loc with
    | some (k, _) => sliceTile (homeDie loc) k
    | none => if isHbm loc then hbmTile (homeDie loc) (loc % 2 ^ 36 / 2 ^ 35) else cxlTile (cxlOf loc).val

/-- The half of an HBM stack that a location lies in is in service. -/
def State.halfInService (s : State) (loc : Nat) : Bool :=
  let d := s.die (loc / 2 ^ 36)
  if loc % 2 ^ 36 < 2 ^ 35 then d.hbm0 else d.hbm1

/-- Nothing passes between a tile and the rest of the device: it is cordoned, or its die is severed (R358, R365). -/
def State.cutOff (s : State) (t : TileId) : Bool := (s.tile t).cordoned || (s.die (tileDie t)).severed

/-- The stops that a message crosses between two dies on the Strand ring (R10): those of the direction with fewer hops, of
two alike the listed order; those of the other direction where one of the first is cordoned. With the ring cut in two
places the message still gets through (log 60). -/
def State.ringRoute (s : State) (a b : Nat) : List Nat :=
  let fwd := ringPath a b
  let back := ringPath b a
  let shut (l : List Nat) : Bool := l.any fun d => (s.die d).severed
  if fwd.length ≤ back.length then (if shut fwd then back.reverse else fwd)
  else if shut back then fwd else back.reverse

/-- The line has moved from a cordoned slice to a new home, and its page is among those that wait for their LOST mark
(R363). -/
def State.pageListed (s : State) (loc : Nat) : Bool :=
  s.tiles.any fun e => e.2.cordoned && e.2.remapped && !e.2.marked && homeDie loc == tileDie e.1
    && (e.2.pages.contains (loc / 4096) || (e.2.blind && isCxl loc))
    && match tileRole e.1 with
      | some (.slice k) => (sliceUnder ((s.die (tileDie e.1)).sliceMask ||| BitVec.twoPow 12 k) loc).any fun h => h.1 == k
      | _ => false

/-- A request to the location receives a CORDON completion (R344, R360, R363, R365): its home tile is cordoned and not yet
remapped, its page waits for its LOST mark, its storage is behind a cordoned HBM tile or ring bridge, or its SS tile is out
of service. A ring cut in two takes no die out of reach that is not itself severed (R10, log 60). -/
def State.unreachable (s : State) (loc : Nat) : Bool :=
  if isSram loc then (s.tile (sramTile (sramOf loc))).cordoned || (s.tile (sramTile (sramOf loc))).out
  else
    (s.die (homeDie loc)).severed
      || (isHbm loc && !(s.halfInService loc))
      || (s.tile (s.homeTile loc)).cordoned
      || s.pageListed loc

/-- The CXL link of a location is not up: a request that needs its storage waits while it retrains (R347). -/
def State.linkDown (s : State) (loc : Nat) : Bool :=
  isCxl loc && match (s.links[cxlOf loc]).st with
    | .up => false
    | _ => true

/-! ### Table entries (R81, R82) -/

/-- The key of the level-`l` entry that translates `va` in domain `dom`. -/
def tableKey (dom l va : Nat) : Nat := (dom * 8 + l) * 2 ^ 36 + va / 2 ^ (48 - 9 * l)

def entryV (w : Word64) : Bool := w.getLsbD 0
def entryLeafBit (w : Word64) : Bool := w.getLsbD 1
def entryR (w : Word64) : Bool := w.getLsbD 2
def entryW (w : Word64) : Bool := w.getLsbD 3
def entryX (w : Word64) : Bool := w.getLsbD 4
def entryDevice (w : Word64) : Bool := w.getLsbD 5
def entryPolicy (w : Word64) : Nat := bits64 w 6 2
def entryHome (w : Word64) : Bool := w.getLsbD 8
def entryLost (w : Word64) : Bool := w.getLsbD 9

/-- log2 of the bytes that a leaf at a level maps. -/
def levelShift (l : Nat) : Nat := if l = 2 then 30 else if l = 3 then 21 else 12

/-- The entry is a leaf at its level: LEAF is ignored at level 4 (R82). -/
def entryIsLeaf (l : Nat) (w : Word64) : Bool := l == 4 || entryLeafBit w

/-- The entry is malformed at its level (R81, R82). -/
def entryMalformed (l : Nat) (w : Word64) : Bool :=
  bits64 w 48 16 != 0 || bits64 w 10 2 != 0
    || (entryLeafBit w && (l == 1 || (l == 2 && bits64 w 12 18 != 0) || (l == 3 && bits64 w 12 9 != 0)))

/-! ### Tables in HBM (R81, R85, R341) -/

/-- MGMT's region for table pages: 1 GiB of CD0's stack, the root of domain d in its page d (log 59). -/
def tableBase : Nat := 0x40000000
def tableSize : Nat := 0x40000000
def rootPage (dom : Nat) : Nat := tableBase / 4096 + dom

/-- A line of a location lies in the table region. -/
def isTableLoc (loc : Nat) : Bool := tableBase ≤ loc && loc < tableBase + tableSize

/-- The key of the table that holds an entry. -/
def tableOf (key : Nat) : Nat := key / 2 ^ 36 * 2 ^ 36 + key % 2 ^ 36 / 512

/-- The key of the table that a non-leaf entry leads to. -/
def childTable (key : Nat) : Nat := (key / 2 ^ 36 + 1) * 2 ^ 36 + key % 2 ^ 36

/-- The page of a table. -/
def pageOfTable (pages : SMap Nat) (t : Nat) : Option Nat :=
  if t / 2 ^ 36 % 8 = 1 then some (rootPage (t / 2 ^ 36 / 8)) else pages.get? t

/-- The location of an entry in its table. -/
def entryLoc (pages : SMap Nat) (key : Nat) : Option Nat :=
  (pageOfTable pages (tableOf key)).map fun p => p * 4096 + 8 * (key % 512)

/-- Some 8-byte unit of a 64-byte line is poisoned. -/
def State.lineBroken (s : State) (loc : Nat) : Bool :=
  (List.range 8).any fun k => s.poison.contains (loc / 64 * 8 + k)

/-- What a walk finds: a leaf with its level, nothing, a line with an uncorrectable error, or a line out of reach. -/
inductive Walk where
  | leaf (l : Nat) (w : Word64)
  | absent
  | broken (loc : Nat)
  | lost (loc : Nat)
deriving DecidableEq, Repr

/-- The levels of a walk that remain, from the table in a page. -/
def State.walkLevels (s : State) (va : Nat) : Nat → List Nat → Walk
  | _, [] => .absent
  | p, l :: ls =>
    let loc := p * 4096 + 8 * (va / 2 ^ (48 - 9 * l) % 512)
    if s.unreachable loc then .lost loc
    else if s.lineBroken loc then .broken loc
    else
      let w : Word64 := BitVec.ofNat 64 (leNat (Memory.readBytes s.mem loc 8))
      if !(entryV w) || entryMalformed l w then .absent
      else if entryIsLeaf l w then .leaf l w
      else s.walkLevels va (bits64 w 12 36) ls

/-- The walk of domain `dom` for `va` (R81, R85). -/
def State.walkAll (s : State) (dom va : Nat) : Walk := s.walkLevels va (rootPage dom) [1, 2, 3, 4]

/-- The leaf that a walk of domain `dom` finds for `va`, with its level. -/
def State.walk (s : State) (dom va : Nat) : Option (Nat × Word64) :=
  match s.walkAll dom va with
  | .leaf l w => some (l, w)
  | _ => none

/-- MGMT rewrites a table line from its copy: bytes and ECC of the line are whole again (R341). -/
def State.rewriteTable (s : State) (loc : Nat) : State :=
  let b := loc / 64 * 64
  let mem := s.tables.foldl (fun m e => match entryLoc s.tablePages e.1 with
    | some a => if a / 64 = loc / 64 then Memory.writeBytes m a (leBytes 8 e.2.toNat) else m
    | none => m) (Memory.writeBytes s.mem b (List.replicate 64 0))
  { s with mem, poison := s.poison.filter fun u => u / 8 != loc / 64 }

/-- A walk that a line stopped: one that it met while the line's home was out of reach is lost, and MGMT will rewrite it
(R341). -/
def State.breakLine (s : State) (loc : Nat) : State :=
  if s.lineBroken loc then s else { s with poison := s.poison ++ [loc / 64 * 8] }

/-- The PA of `va` under a leaf. -/
def leafPa (l : Nat) (w : Word64) (va : Nat) : Nat :=
  bits64 w 12 36 * 2 ^ 12 / 2 ^ levelShift l * 2 ^ levelShift l + va % 2 ^ levelShift l

/-- A translated address: its location and its leaf. -/
structure Trans where
  loc : Nat
  leaf : Word64
  level : Nat
deriving DecidableEq, Repr

/-- The entry of a TLB that covers `va` (R85). -/
def tlbFind (t : List TlbEntry) (dom va : Nat) : Option TlbEntry :=
  t.find? fun e => e.domain == dom && e.page == va / 2 ^ levelShift e.level

/-- The leaf that core `c` uses: micro-TLB, cluster TLB, walk (R85). -/
def State.leafFor (s : State) (c dom va : Nat) : Option (Nat × Word64) :=
  match tlbFind (s.core c).tlb dom va with
  | some e => some (e.level, e.word)
  | none =>
    match tlbFind (s.cluster (clusterOfCore c)).tlb dom va with
    | some e => some (e.level, e.word)
    | none => s.walk dom va

/-- A complete translation enters the micro-TLB and the cluster TLB; the oldest entries leave (R85). -/
def State.tlbFill (s : State) (c dom va l : Nat) (w : Word64) : State :=
  let e : TlbEntry := { domain := dom, page := va / 2 ^ levelShift l, level := l, word := w }
  let k := s.core c
  let g := s.cluster (clusterOfCore c)
  let s := if (tlbFind k.tlb dom va).isSome then s else s.setCore c { k with tlb := (e :: k.tlb).take 64 }
  if (tlbFind g.tlb dom va).isSome then s
  else s.setCluster (clusterOfCore c) { g with tlb := (e :: g.tlb).take 4096 }

/-- The location is on a CXL link that is lost (R347). -/
def State.linkLost (s : State) (loc : Nat) : Bool := isCxl loc && (s.links[cxlOf loc]).st == .lost

/-- The location of `va` under a leaf; `none` where the address is out of range or has no storage (R71, R76). Over a lost
link there is none once LOST is cleared (R347). -/
def State.resolve (s : State) (va : Nat) (leaf : Option (Nat × Word64)) : Option Trans :=
  if va < 2 ^ 48 then
    match leaf with
    | none => none
    | some (l, w) =>
      match s.locOf (leafPa l w va) (entryHome w) with
      | none => none
      | some loc => if s.linkLost loc && !(entryLost w) then none else some { loc, leaf := w, level := l }
  else none

/-! ### Checks of an access -/

/-- What an access needs (R83). -/
inductive AccessKind where
  | load | store | atomic | fetch
deriving DecidableEq, Repr

def kindPermitted (k : AccessKind) (w : Word64) : Bool :=
  match k with
  | .load => entryR w
  | .store => entryW w
  | .atomic => entryR w && entryW w
  | .fetch => entryX w

/-- What came of an access. -/
inductive Access (α : Type) where
  | ok (a : α) (s : State)
  | fault (c : Cause) (s : State)
  /-- A domain violation: the master is frozen (R83, R322). -/
  | violation
  /-- The access waits (R49, R91, R341, R347). -/
  | wait (s : State)

/-- A location lies in a region that MGMT reserves (R76). -/
def State.isReserved (s : State) (loc : Nat) : Bool := s.reserved.any fun r => r.1 ≤ loc && loc < r.1 + r.2

/-- The 64-byte lines that `n` bytes from `loc` touch, by number. -/
def linesOf (loc n : Nat) : List Nat :=
  (List.range ((loc + n - 1) / 64 - loc / 64 + 1)).map fun k => loc / 64 + k

/-- The 8-byte units that `n` bytes from `loc` touch, by number (R345). -/
def unitsOf (loc n : Nat) : List Nat :=
  (List.range ((loc + n - 1) / 8 - loc / 8 + 1)).map fun k => loc / 8 + k

/-- Some unit of the bytes is poisoned at its home. -/
def State.poisoned (s : State) (loc n : Nat) : Bool := (unitsOf loc n).any fun u => s.poison.contains u

/-! ### Marking pages LOST (R342, R343) -/

/-- The level of a table key. -/
def keyLevel (key : Nat) : Nat := key / 2 ^ 36 % 8
def keyDomain (key : Nat) : Nat := key / 2 ^ 36 / 8

/-- The lowest virtual address that a key's entry translates. -/
def keyVa (key : Nat) : Nat := key % 2 ^ 36 * 2 ^ (48 - 9 * keyLevel key)

/-- The PA that names a location under a leaf's HOME attribute. -/
def paOfLoc (loc : Nat) (w : Word64) : Nat := if isHbm loc then hbmPa loc (entryHome w) else loc

/-- A leaf maps the location. -/
def leafMaps (key : Nat) (w : Word64) (loc : Nat) : Bool :=
  let l := keyLevel key
  entryV w && !(entryMalformed l w) && entryIsLeaf l w
    && paOfLoc loc w / 2 ^ levelShift l == bits64 w 12 36 * 2 ^ 12 / 2 ^ levelShift l

/-- A leaf of 2 MiB or 1 GiB becomes a table of 512 leaves of the next level with the same attributes (R342). -/
def splitLeaf (t : SMap Word64) (key : Nat) (w : Word64) : SMap Word64 :=
  let l := keyLevel key
  let attr := w.toNat % 2 ^ 12
  let base := bits64 w 12 36
  let step := 2 ^ (levelShift (l + 1) - 12)
  let t := t.set key 1
  (List.range 512).foldl (fun t j =>
    t.set ((keyDomain key * 8 + l + 1) * 2 ^ 36 + key % 2 ^ 36 * 512 + j)
      (BitVec.ofNat 64 ((base + j * step) * 2 ^ 12 + attr))) t

/-- The entry leads to a table. -/
def leadsOn (key : Nat) (w : Word64) : Bool :=
  entryV w && !(entryMalformed (keyLevel key) w) && !(entryIsLeaf (keyLevel key) w)

/-- The lowest page of the table region, after the roots, that no table has. -/
def freshPage (pages : SMap Nat) : Nat :=
  let used := pages.map Prod.snd
  (findFrom (fun n => !(used.contains n)) (rootPage 64) (pages.length + 1)).getD (rootPage 64)

/-- MGMT makes the tables these: pages are found for new ones and given back by those that are gone, a non-leaf entry names
the page of its table, and every entry that changes is written to storage (R81, R82, R86, log 59). -/
def State.putTables (s : State) (t : SMap Word64) : State :=
  let need := ((t.filter fun e => leadsOn e.1 e.2).map fun e => childTable e.1)
  let kept : SMap Nat := s.tablePages.filter fun e => need.contains e.1
  let pages := need.foldl (fun (m : SMap Nat) k => if (m.get? k).isSome then m else m.set k (freshPage m)) kept
  let t := t.mapVals fun key w =>
    if leadsOn key w then
      match pageOfTable pages (childTable key) with
      | some p => BitVec.ofNat 64 (p * 2 ^ 12 + w.toNat % 2 ^ 12)
      | none => w
    else w
  let put (m : List Host.Cell) (a : Nat) (w : Word64) : List Host.Cell := Memory.writeBytes m a (leBytes 8 w.toNat)
  let mem := s.tables.foldl (fun m e => if (t.get? e.1).isSome then m else match entryLoc s.tablePages e.1 with
    | some a => put m a 0
    | none => m) s.mem
  let mem := t.foldl (fun m e => if s.tables.get? e.1 = some e.2 ∧ entryLoc s.tablePages e.1 = entryLoc pages e.1 then m
    else match entryLoc pages e.1 with
      | some a => put m a e.2
      | none => m) mem
  { s with tables := t, tablePages := pages, mem }

/-- Every leaf that maps one of the locations, split down to 4 KiB pages and marked LOST. -/
def markPages (t : SMap Word64) (hit : Nat → Word64 → Bool) : SMap Word64 :=
  let split (t : SMap Word64) (l : Nat) : SMap Word64 :=
    t.foldl (fun acc e => if keyLevel e.1 == l && entryV e.2 && entryLeafBit e.2 && !(entryMalformed l e.2) && hit e.1 e.2
      then splitLeaf acc e.1 e.2 else acc) t
  let t := split t 2
  let t := split t 3
  t.mapVals fun key w => if keyLevel key == 4 && entryV w && !(entryMalformed 4 w) && hit key w then w ||| 0x200 else w

/-- Drop every cached translation (R86): a walk finds it again. -/
def State.tlbFlush (s : State) : State :=
  { s with cores := s.cores.mapVals fun _ k => { k with tlb := [] }
           clusters := s.clusters.mapVals fun _ g => { g with tlb := [] } }

/-- The page of a location is marked LOST in every leaf of every domain that maps it, as a reducing change (R342). -/
def State.markLost (s : State) (loc : Nat) : State :=
  (s.putTables (markPages s.tables fun key w => leafMaps key w loc)).tlbFlush

/-- Every page of HBM or CXL storage of which `p` holds for the 4 KiB page number is marked LOST (R360, R363, R365). A
2 MiB or 1 GiB leaf is split where some of its pages is meant. -/
def State.markLostPages (s : State) (p : Nat → Bool) : State :=
  let covers (key : Nat) (w : Word64) : Bool :=
    let sh := levelShift (keyLevel key)
    let base := bits64 w 12 36 * 2 ^ 12 / 2 ^ sh * 2 ^ sh
    (List.range (2 ^ (sh - 12))).any fun j =>
      let pa := base + j * 4096
      p ((if pa < hbmEnd then hbmLoc pa (entryHome w) else pa) / 4096)
  (s.putTables (markPages s.tables covers)).tlbFlush

/-- Lines whose contents are lost read as zeros in storage, with their poison gone (R343). -/
def State.zeroBytes (s : State) (loc n : Nat) : State :=
  { s with mem := s.mem.filter fun c => !(loc ≤ c.1 && c.1 < loc + n)
           poison := s.poison.filter fun u => !(loc ≤ u * 8 && u * 8 < loc + n) }

/-- The storage of a location is in reach, though its home may not be (R343). -/
def State.storageReachable (s : State) (loc : Nat) : Bool :=
  if isSram loc then false
  else if isHbm loc then !(s.die (homeDie loc)).severed && s.halfInService loc
  else !(s.linkLost loc)

/-- A store or atomic that meets CORDON: its page is marked LOST, and a line it may have changed, whose storage is in
reach, reads as zeros once that is cleared (R343, R344). -/
def State.cordonLoss (s : State) (k : AccessKind) (loc n : Nat) : State :=
  match k with
  | .load | .fetch => s
  | .store | .atomic =>
    ((linesOf loc n).foldl (fun s l =>
      if s.unreachable (l * 64) && s.storageReachable (l * 64) then s.zeroBytes (l * 64) 64 else s) s).markLost loc

/-- The checks of R83 on a translation. -/
def State.checkTrans (s : State) (k : AccessKind) (t : Option Trans) : Access Trans :=
  match t with
  | none => .fault .xlate s
  | some t =>
    if s.isReserved t.loc then .violation
    else if !(kindPermitted k t.leaf) then .fault .perm s
    else if entryLost t.leaf then .fault .lost s
    else .ok t s

/-- A request for the `n` bytes from a location comes to their homes, or receives CORDON (R313, R344). -/
def State.reach (s : State) (k : AccessKind) (loc n : Nat) : Access Unit :=
  if (linesOf loc n).any fun l => s.unreachable (l * 64) then .fault .cordon (s.cordonLoss k loc n) else .ok () s

/-! ### L2 lines (R84, R88, R92, R95) and monitors (R237) -/

/-- Two lines lie in one set of one slice. -/
def State.sameSet (s : State) (a b : Nat) : Bool :=
  homeDie (a * 64) == homeDie (b * 64) && s.homeSlice (a * 64) == s.homeSlice (b * 64)

def State.l2Find (s : State) (line : Nat) : Option L2Line := s.l2.find? fun l => l.line == line

/-- The bytes of a line as the home holds them. -/
def State.lineData (s : State) (line : Nat) : BitVec 512 :=
  BitVec.ofNat 512 (leNat (Memory.readBytes s.mem (line * 64) 64))

/-- The bytes of a line as storage holds them (R84, R88). -/
def State.storageLine (s : State) (line : Nat) : BitVec 512 :=
  match s.l2Find line with
  | some l => l.old.getD (s.lineData line)
  | none => s.lineData line

/-- The marks of a line's poisoned units as its home has them. -/
def State.lineMarks (s : State) (line : Nat) : BitVec 8 :=
  BitVec.ofNat 8 ((List.range 8).foldl (fun n k => if s.poison.contains (line * 8 + k) then n + 2 ^ k else n) 0)

/-- The units of a line that bear these marks. -/
def markedUnits (line : Nat) (m : BitVec 8) : List Nat := ((List.range 8).filter fun k => m.getLsbD k).map fun k => line * 8 + k

/-- The marks of a line's poisoned units as storage has them. -/
def State.storageMarks (s : State) (line : Nat) : BitVec 8 :=
  match s.l2Find line with
  | some l => if l.old.isSome then l.oldMarks else s.lineMarks line
  | none => s.lineMarks line

/-- Bytes as storage holds them. -/
def State.storageBytes (s : State) (loc n : Nat) : List Byte :=
  (List.range n).map fun j => BitVec.ofNat 8 ((s.storageLine ((loc + j) / 64)).toNat / 2 ^ (8 * ((loc + j) % 64)))

/-- The conditions of `mwait` on m-byte values (R236). -/
def mcondHolds {e : Nat} (c : MCond) (v w : BitVec e) : Bool :=
  match c with
  | .eq => v == w
  | .ne => v != w
  | .lt => v.toInt < w.toInt
  | .ge => w.toInt ≤ v.toInt
  | .ltu => v.toNat < w.toNat
  | .geu => w.toNat ≤ v.toNat

/-- The condition of an `mwait` on the low bytes of two values. -/
def mwaitHolds (word : Bool) (c : MCond) (v w : Word64) : Bool :=
  if word then mcondHolds c (v.setWidth 32) (w.setWidth 32) else mcondHolds c v w

/-- The word that an `mwait` watches, as its home holds it, sign-extended to 64 bits (R99, R236). -/
def State.watchedWord (s : State) (loc : Nat) (past word : Bool) : Word64 :=
  let bs (n : Nat) : List Byte := if past then s.storageBytes loc n else Memory.readBytes s.mem loc n
  if word then (BitVec.ofNat 32 (leNat (bs 4))).signExtend 64 else BitVec.ofNat 64 (leNat (bs 8))

/-- After the home's value of the `n` bytes from `loc` may have changed, the monitor notes the first value that satisfies each
waiter. -/
def State.notify (s : State) (loc n : Nat) : State :=
  { s with vts := s.vts.mapVals fun _ v =>
      match v.park with
      | some (.mwait a l q w c x d none, pc) =>
        let m := if w then 4 else 8
        if l < loc + n ∧ loc < l + m then
          let y := s.watchedWord l q w
          if mwaitHolds w c y x then { v with park := some (.mwait a l q w c x d (some y), pc) } else v
        else v
      | _ => v }

/-- The line leaves the list of those present; what the home held is what storage holds. -/
def State.l2Drop (s : State) (line : Nat) : State := { s with l2 := s.l2.filter fun l => l.line != line }

/-- What storage holds of a present line counts again, with storage's own marks (R94, R345, R346). -/
def State.fromStorage (s : State) (l : L2Line) : State :=
  match l.old with
  | some o =>
    { s with mem := Memory.writeBytes s.mem (l.line * 64) (leBytes 64 o.toNat)
             poison := (s.poison.filter fun u => u / 8 != l.line) ++ markedUnits l.line l.oldMarks }
  | none => s

/-- The line leaves L2 without being written back: what storage held counts again. -/
def State.l2Revert (s : State) (line : Nat) : State :=
  match s.l2Find line with
  | some l =>
    match l.old with
    | some _ => ((s.l2Drop line).fromStorage l).notify (line * 64) 64
    | none => s.l2Drop line
  | none => s

/-- A present line moves to the front of the list, as most recently used. -/
def State.l2Front (s : State) (l : L2Line) : State := { s.l2Drop l.line with l2 := l :: (s.l2Drop l.line).l2 }

/-- The ways of the line's set. -/
def State.ways (s : State) (line : Nat) : List L2Line := s.l2.filter fun l => s.sameSet l.line line

/-- The line that a full set evicts: the last stream line among the unpinned, of several the one that has been in use
least recently (log 57), else the least recently used unpinned line; `none` where all are pinned (R88, R95). The list
keeps the most recently used first. -/
def State.victim (s : State) (line : Nat) : Option L2Line :=
  let free := (s.ways line).filter fun l => !l.pinned
  match (free.filter fun l => l.first).getLast? with
  | some l => some l
  | none => free.getLast?

/-- A line is evicted: a dirty one is written back, and with a poisoned unit it makes its page LOST and reads as zeros once
that is cleared (R88, R343, R346). -/
def State.l2Evict (s : State) (l : L2Line) : State :=
  if l.dirty then
    let s := (s.l2Drop l.line).notify (l.line * 64) 64
    if s.poisoned (l.line * 64) 64 then (s.zeroBytes (l.line * 64) 64).markLost (l.line * 64) else s
  else s.l2Revert l.line

/-- A line is brought in at the front of the list, with the room made. `none` where the set is full of pinned lines or
no slice is left. -/
def State.l2Insert (s : State) (l : L2Line) : Option State :=
  match s.homeSlice (l.line * 64) with
  | none => none
  | some _ =>
    if (s.ways l.line).length < 16 then some { s with l2 := l :: s.l2 }
    else
      match s.victim l.line with
      | none => none
      | some v => some { s.l2Evict v with l2 := l :: (s.l2Evict v).l2 }

/-- How an access treats L2 and L1 (R84). -/
structure Caching where
  /-- Reads look up L1 first. -/
  lookL1 : Bool
  allocL1 : Bool
  /-- The home is an L2 slice; otherwise the storage. -/
  atL2 : Bool
  allocL2 : Bool
  first : Bool
  through : Bool
deriving DecidableEq, Repr

/-- The table of R84 for a page and a hint. -/
def cachingOf (w : Word64) (loc : Nat) (h : Hint) : Caching :=
  if entryDevice w || entryPolicy w == 2 then
    { lookL1 := false, allocL1 := false, atL2 := false, allocL2 := false, first := false, through := false }
  else
    let stream := entryPolicy w == 3 || h == .str
    { lookL1 := true
      allocL1 := !stream && h != .na
      atL2 := !(isSram loc)
      allocL2 := !(isSram loc) && h != .na
      first := stream
      through := entryPolicy w == 1 }

/-- A read or a write of a cacheable line at its home: the line becomes the most recently used, an absent line is
brought in where the page and hint allocate. A write makes the line dirty and keeps what storage holds, unless it is
written through. A use that is none of a stream ends a line's standing as first to evict (log 57). To be applied before the
bytes are written. -/
def State.l2Touch (s : State) (k : Caching) (line : Nat) (write : Bool) : State :=
  if !k.atL2 then s
  else
    let dirties := write && !k.through
    match s.l2Find line with
    | some l =>
      let old := if dirties then some (l.old.getD (s.lineData line)) else if write then none else l.old
      s.l2Front { l with old, oldMarks := s.storageMarks line, dirty := if write then dirties else l.dirty
                         first := l.first && k.first }
    | none =>
      if k.allocL2 then
        (s.l2Insert { line, dirty := dirties, old := if dirties then some (s.lineData line) else none
                      oldMarks := s.lineMarks line, pinned := false, first := k.first }).getD s
      else s

/-- `l2Touch` for every line of a range. -/
def State.l2TouchAll (s : State) (k : Caching) (lines : List Nat) (write : Bool) : State :=
  lines.foldl (fun s l => s.l2Touch k l write) s

/-! ### Reads and writes at the home -/

/-- A byte of the home's value of a location. -/
def State.byteAt (s : State) (loc : Nat) : Byte := Memory.read s.mem loc

/-- The poison marks after a write of these bytes with these masks: a unit written whole is cleared (R346). -/
def State.clearPoison (s : State) (loc : Nat) (ms : List Bool) : State :=
  { s with poison := s.poison.filter fun u =>
      !((List.range 8).all fun k => loc ≤ u * 8 + k && u * 8 + k < loc + ms.length && (ms[u * 8 + k - loc]?).getD false) }

/-- The `n` bytes at offset `off` of a line. -/
def lineBytes (l : BitVec 512) (off n : Nat) : List Byte := leBytes n (l.toNat / 2 ^ (8 * off))

/-- A line with the masked bytes replaced from offset `off`. -/
def patchLine (l : BitVec 512) (off : Nat) (bs : List (Byte × Bool)) : BitVec 512 :=
  BitVec.ofNat 512 (leNat ((List.range 64).map fun i =>
    let old := BitVec.ofNat 8 (l.toNat / 2 ^ (8 * i))
    if off ≤ i then
      match bs[i - off]? with
      | some (b, true) => b
      | _ => old
    else old))

/-- The bytes written from a location lie in the line. -/
def touchesLine (line loc n : Nat) : Bool := decide (line * 64 < loc + n) && decide (loc < line * 64 + 64)

/-- A line with the masked bytes that are written from a location. -/
def patchAt (l : BitVec 512) (line loc : Nat) (bs : List (Byte × Bool)) : BitVec 512 :=
  if loc ≤ line * 64 then patchLine l 0 (bs.drop (line * 64 - loc)) else patchLine l (loc - line * 64) bs

/-- The marks of a line after a masked write: a unit written whole loses its own. -/
def clearMarks (m : BitVec 8) (line loc : Nat) (bs : List (Byte × Bool)) : BitVec 8 :=
  m &&& ~~~(BitVec.ofNat 8 ((List.range 8).foldl (fun n k =>
    if (List.range 8).all (fun j =>
        let a := line * 64 + 8 * k + j
        decide (loc ≤ a) && ((bs[a - loc]?).map Prod.snd).getD false) then n + 2 ^ k else n) 0))

/-- A write past L2: storage takes the bytes; a line that is present keeps its own (R84). -/
def State.storageWrite (s : State) (loc : Nat) (bs : List (Byte × Bool)) : State :=
  let away := bs.zipIdx.map fun p => (p.1.1, p.1.2 && (s.l2Find ((loc + p.2) / 64)).isNone)
  let l2 := s.l2.map fun (l : L2Line) =>
    if touchesLine l.line loc bs.length then
      { l with old := some (patchAt (l.old.getD (s.lineData l.line)) l.line loc bs)
               oldMarks := clearMarks (s.storageMarks l.line) l.line loc bs }
    else l
  { s with l2, mem := Memory.writeMasked s.mem loc away }.clearPoison loc (away.map Prod.snd)

/-- The page's accesses go past L2, to storage (R84). -/
def Caching.past (k : Caching) (loc : Nat) : Bool := !k.atL2 && !(isSram loc)

/-- A write is performed at the home: the masked bytes take their place, L2 and poison follow, monitors are told. -/
def State.homeWrite (s : State) (k : Caching) (loc : Nat) (bs : List (Byte × Bool)) : State :=
  let s :=
    if k.past loc then s.storageWrite loc bs
    else
      let s := s.l2TouchAll k (linesOf loc bs.length) true
      { s with mem := Memory.writeMasked s.mem loc bs }.clearPoison loc (bs.map Prod.snd)
  s.notify loc bs.length

/-- The bytes at the home, or in storage for accesses that go past L2. -/
def State.homeRead (s : State) (k : Caching) (loc n : Nat) : List Byte :=
  if k.past loc then s.storageBytes loc n else Memory.readBytes s.mem loc n

/-- Some unit of the bytes is poisoned at the home, or in storage for accesses that go past L2. -/
def State.homePoisoned (s : State) (k : Caching) (loc n : Nat) : Bool :=
  if k.past loc then (unitsOf loc n).any fun u => (s.storageMarks (u / 8)).getLsbD (u % 8) else s.poisoned loc n

/-! ### Requests to a slice (R89 to R91, R347) -/

/-- The number of a slice on the device. -/
def sliceKey (die k : Nat) : Nat := die * 12 + k

/-- A read, or a write of a whole line or of less. -/
inductive LineUse where
  | read | part | whole
deriving DecidableEq, Repr

/-- A request for a line needs a miss entry at its home slice (R90). -/
def State.needsEntry (s : State) (k : Caching) (line : Nat) (u : LineUse) : Bool :=
  !(isSram (line * 64)) && (!k.atL2 || ((s.l2Find line).isNone && match u with
    | .read => true
    | .part => k.allocL2
    | .whole => false))

/-- A request for a line needs its storage (R84, R88). -/
def State.needsStorage (s : State) (k : Caching) (line : Nat) (u : LineUse) : Bool :=
  !k.atL2 || match u with
    | .read => (s.l2Find line).isNone
    | .part => k.through || (s.l2Find line).isNone
    | .whole => k.through || ((s.l2Find line).isNone && !k.allocL2)

/-- The lines of an access with what it does to each. -/
def lineUses (k : AccessKind) (loc n : Nat) : List (Nat × LineUse) :=
  (linesOf loc n).map fun l =>
    (l, match k with
      | .load | .fetch => .read
      | .atomic => .part
      | .store => if loc ≤ l * 64 && l * 64 + 64 ≤ loc + n then .whole else .part)

/-- Some line of an access waits for its CXL link (R347). -/
def State.linkWaits (s : State) (c : Caching) (k : AccessKind) (loc n : Nat) : Bool :=
  (lineUses k loc n).any fun u => s.linkDown (u.1 * 64) && s.needsStorage c u.1 u.2

/-- The slices at which an access needs an entry. -/
def State.slicesOf (s : State) (c : Caching) (k : AccessKind) (loc n : Nat) : List Nat :=
  ((lineUses k loc n).filterMap fun u =>
    if s.needsEntry c u.1 u.2 then (s.homeSlice (u.1 * 64)).map fun h => sliceKey (homeDie (u.1 * 64)) h.1 else none).eraseDups

/-- The entries of a slice that vector memory instructions hold. -/
def State.heldAt (s : State) (k : Nat) : Nat :=
  (s.vts.flatMap fun e => e.2.inflight.filter fun x => !x.done && x.held.contains k).length

/-- A slice rejects a request for which it has no entry: 240 entries serve any request, 16 more the aged ones (R90). -/
def State.sliceFull (s : State) (k : Nat) (aged : Bool) : Bool :=
  (if aged then 256 else 240) ≤ (s.slice k).used + s.heldAt k

/-- The tile on whose clock a requester counts. -/
def State.requesterTile (s : State) (w : Requester) : TileId :=
  let ofVt (id : Nat) : TileId := match s.vt? id with
    | some v => clusterTile (clusterOfCore v.core)
    | none => fw0Tile
  match w with
  | .agent (.ct id) | .agent (.vp id _) | .vector id _ => ofVt id
  | .agent .device => fw0Tile
  | .command id =>
    match s.commands.find? fun (c : Command) => c.id == id with
    | some c => if c.eng = 0 then clusterTile c.unit else roleTile c.unit .steward
    | none => fw0Tile
  | .event _ | .message _ | .post _ => fw0Tile

/-- A slice rejects a request: it will be sent again (R91). -/
def State.reject (s : State) (w : Requester) (k : Nat) : State :=
  { s with rejected := s.rejected ++
      [{ id := s.rejected.foldl (fun n r => max n (r.id + 1)) 0, slice := k, count := 0
         sentAt := s.tileCycle (s.requesterTile w), who := w }] }

/-- The requests of an access to its slices: all taken, or the rest to be sent again (R90, R91). An entry that an access of
one step takes is free again when it is performed. -/
def State.gate (s : State) (w : Requester) (slices : List Nat) : Except State State :=
  let s := { s with rejected := s.rejected.filter fun r => r.who != w || slices.contains r.slice }
  let mine := s.rejected.filter fun r => r.who == w
  let full := slices.filter fun k => s.sliceFull k false && !(mine.any fun r => r.slice == k)
  if full.isEmpty && mine.all fun r => r.granted then .ok { s with rejected := s.rejected.filter fun r => r.who != w }
  else .error (full.foldl (fun s k => s.reject w k) s)

/-- Slices at which an access of the present operation or event needs an entry: one without an entry there holds it (R90,
R91). -/
def State.want (s : State) (slices : List Nat) : State := if slices = [] then s else { s with wants := s.wants ++ slices }

/-- `want` for the accesses of an operation or event; those of CTs and VPs are gated one by one. -/
def State.wantAs (s : State) (slices : List Nat) : State :=
  match s.who with
  | .device => s.want slices
  | .ct _ | .vp _ _ => s

/-- The requests of an access of the present agent: those of an operation or event are gated with it (R90, R91). -/
def State.gateHere (s : State) (slices : List Nat) : Except State State :=
  match s.who with
  | .device => .ok (s.want slices)
  | a => s.gate (.agent a) slices

/-- A walk that was held at a table line is lost with it. -/
def State.heldLine (s : State) (l : Option (Option Nat)) : State :=
  match l with
  | some (some loc) => s.breakLine loc
  | _ => s

/-- An access of the present operation or event has to wait: all of it is tried again later (R341, R347). -/
def State.stallOn (s : State) (dom va : Nat) : State :=
  { s with stalled := some (if va < 2 ^ 48 then match s.walkAll dom va with
      | .lost loc => some loc
      | _ => none else none) }

/-! ### The walker (R85, R341) -/

/-- The locations of the entries that a walk reads, as far as it comes. -/
def State.walkLocs (s : State) (va : Nat) : Nat → List Nat → List Nat
  | _, [] => []
  | p, l :: ls =>
    let loc := p * 4096 + 8 * (va / 2 ^ (48 - 9 * l) % 512)
    if s.unreachable loc || s.lineBroken loc then []
    else
      let w : Word64 := BitVec.ofNat 64 (leNat (Memory.readBytes s.mem loc 8))
      loc :: (if !(entryV w) || entryMalformed l w || entryIsLeaf l w then [] else s.walkLocs va (bits64 w 12 36) ls)

/-- The locations of the entries that a walk of domain `dom` for `va` reads. -/
def State.walkReads (s : State) (dom va : Nat) : List Nat :=
  if va < 2 ^ 48 then s.walkLocs va (rootPage dom) [1, 2, 3, 4] else []

/-- A walk reads its entries through the home L2 slices as normal lines. -/
def State.walkTouch (s : State) (dom va : Nat) : State :=
  s.l2TouchAll (cachingOf 0 0 .normal) ((s.walkReads dom va).map fun loc => loc / 64) false

/-- The slices at which a walk needs entries (R90). -/
def State.walkSlices (s : State) (dom va : Nat) : List Nat :=
  ((s.walkReads dom va).flatMap fun loc => s.slicesOf (cachingOf 0 loc .normal) .load loc 8).eraseDups

/-- The translation of an address by a walk (R85). A broken table line is rewritten by MGMT before the walker reports XLATE;
over one that is out of reach the walk is held (R341). -/
def State.translate (s : State) (dom va : Nat) : Access Trans :=
  if va < 2 ^ 48 then
    let s := s.wantAs (s.walkSlices dom va)
    match s.walkAll dom va with
    | .broken loc => .fault .xlate (s.rewriteTable loc)
    | .lost loc => .wait (s.breakLine loc)
    | .absent => .fault .xlate (s.walkTouch dom va)
    | .leaf l w =>
      match (s.walkTouch dom va).resolve va (some (l, w)) with
      | some t => .ok t (s.walkTouch dom va)
      | none => .fault .xlate (s.walkTouch dom va)
  else .fault .xlate s

/-- What follows an access that succeeds. -/
def Access.bind {α β : Type} (a : Access α) (f : α → State → Access β) : Access β :=
  match a with
  | .ok x s => f x s
  | .fault c s => .fault c s
  | .violation => .violation
  | .wait s => .wait s

/-- The translation and checks of an access by a walk (R83, R85). -/
def State.accessWalk (s : State) (dom va : Nat) (k : AccessKind) : Access Trans :=
  (s.translate dom va).bind fun t s => s.checkTrans k (some t)

/-- The entry of the TLBs of core `c` that covers an address (R85). -/
def State.tlbHit (s : State) (c dom va : Nat) : Option TlbEntry :=
  match tlbFind (s.core c).tlb dom va with
  | some e => some e
  | none => tlbFind (s.cluster (clusterOfCore c)).tlb dom va

/-- The translation of an address at core `c`: by its TLBs, else by a walk (R85). -/
def State.translateAt (s : State) (c dom va : Nat) : Access Trans :=
  match s.tlbHit c dom va with
  | some e =>
    match (if va < 2 ^ 48 then s.resolve va (some (e.level, e.word)) else none) with
    | some t => .ok t s
    | none => .fault .xlate s
  | none => s.translate dom va

/-- The translation and checks of an access from core `c`. A complete translation enters the TLBs (R85). -/
def State.access (s : State) (c dom va : Nat) (k : AccessKind) : Access Trans :=
  ((s.translateAt c dom va).bind fun t s => s.checkTrans k (some t)).bind fun t s =>
    .ok t (s.tlbFill c dom va t.level t.leaf)

/-- The slices at which core `c` needs entries to translate an address: none where a TLB covers it. -/
def State.missSlices (s : State) (c dom va : Nat) : List Nat :=
  if (s.tlbHit c dom va).isSome then [] else s.walkSlices dom va

/-- What core `c` does with an address once the slices take the requests of its walk (R85, R90). -/
def State.afterWalk {α : Type} (s : State) (c dom va : Nat) (f : State → Access α) : Access α :=
  match s.missSlices c dom va with
  | [] => f s
  | q =>
    match s.gateHere q with
    | .error s => .wait s
    | .ok s => f s

/-- The translation and checks of an access from core `c`, once the slices take the requests of its walk. -/
def State.gatedAccess (s : State) (c dom va : Nat) (k : AccessKind) : Access Trans :=
  s.afterWalk c dom va fun s => s.access c dom va k

/-! ### The L1 data cache (R87, R100) -/

def l1Find (l1 : List L1Line) (line : Nat) : Option L1Line := l1.find? fun e => e.line == line

/-- A line read from its home, with its marks (R346). -/
def State.l1Line (s : State) (line : Nat) : L1Line := { line, data := s.lineData line, poison := s.lineMarks line }

/-- A line with the masked bytes of a write that touches it. -/
def L1Line.patched (e : L1Line) (loc : Nat) (bs : List (Byte × Bool)) : L1Line :=
  if touchesLine e.line loc bs.length then
    { e with data := patchAt e.data e.line loc bs, poison := clearMarks e.poison e.line loc bs }
  else e

/-- A store or an atomic updates a present line of the core's L1 (R87). -/
def State.l1Update (s : State) (c loc : Nat) (bs : List (Byte × Bool)) : State :=
  s.setCore c { s.core c with l1 := (s.core c).l1.map fun e => e.patched loc bs }

/-- A line with those of the stores of a list that touch it. -/
def L1Line.merged (l : L1Line) (ps : List PendStore) : L1Line := ps.foldl (fun (l : L1Line) p => l.patched p.loc p.data) l

/-- Bytes from a location with those of the stores of a list. -/
def overlay (ps : List PendStore) (loc : Nat) (bs : List Byte) : List Byte :=
  ps.foldl (fun bs p => bs.zipIdx.map fun b =>
    if p.loc ≤ loc + b.2 then
      match p.data[loc + b.2 - p.loc]? with
      | some (x, true) => x
      | _ => b.1
    else b.1) bs

/-- The held stores that a line of the core's L1 has taken in. -/
def State.shownStores (s : State) (c : Nat) : List PendStore := (s.core c).pend.filter fun p => p.shown

/-- Every line of a core's L1 takes in the stores that the core holds (R87). -/
def State.showStores (s : State) (c : Nat) : State :=
  let k := s.core c
  if k.pend = [] then s
  else
    s.setCore c { k with
      l1 := k.l1.map fun l => l.merged k.pend
      pend := k.pend.map fun p =>
        { p with shown := p.shown || k.l1.any fun l => touchesLine l.line p.loc p.data.length } }

/-- An acquire at cluster scope or wider drops every line of the core's L1 (R87). -/
def State.l1Invalidate (s : State) (c : Nat) : State := s.setCore c { s.core c with l1 := [] }

/-- A missing line is read into L1, newest first, the oldest leaving beyond 1,024 lines (R15, R87, log 7), with the held
stores that accesses of the core may have read already (R100). -/
def State.l1Fill (s : State) (c line : Nat) : State :=
  let k := s.core c
  s.setCore c { k with
    l1 := ((s.l1Line line).merged (s.shownStores c) :: k.l1.filter fun e => e.line != line).take 1024 }

/-- Some unit that `n` bytes at an offset of a line touch is marked. -/
def L1Line.marked (l : L1Line) (off n : Nat) : Bool :=
  (List.range 8).any fun k => l.poison.getLsbD k && decide (8 * k < off + n) && decide (off < 8 * k + 8)

/-- The SS tile of a shared-SRAM location is out of service: every access to it receives CORDON, caches or no (R344, R360). -/
def State.sramCut (s : State) (loc : Nat) : Bool := isSram loc && s.unreachable loc

/-- Part of a read that lies in one line comes to the line in L1, where the page allows and it is present, else to its home
(R84, R87, R344). -/
def State.reachLine (s : State) (c : Nat) (k : Caching) (loc n : Nat) : Access (Option L1Line) :=
  match (if k.lookL1 then l1Find (s.core c).l1 (loc / 64) else none) with
  | some l => if s.sramCut loc then .fault .cordon s else .ok (some l) s
  | none => (s.reach .load loc n).bind fun _ s => .ok none s

/-- Part of a read that lies in one line (R84, R87, R344, R346, R347). -/
def State.readLine (s : State) (c : Nat) (k : Caching) (loc n : Nat) : Access (List Byte) :=
  (s.reachLine c k loc n).bind fun l s =>
    match l with
    | some l => if l.marked (loc % 64) n then .fault .eccu s else .ok (lineBytes l.data (loc % 64) n) s
    | none =>
      if s.linkWaits k .load loc n then .wait s
      else if s.homePoisoned k loc n then .fault .eccu s
      else
        let bs := overlay (s.shownStores c) loc (s.homeRead k loc n)
        let s := s.l2Touch k (loc / 64) false
        .ok bs (if k.allocL1 then s.l1Fill c (loc / 64) else s)

/-- A load of `n` bytes, aligned to their size and at most 128, by a core (R84, R87). The lines that it brings in have yet to
take in the stores that the core holds. -/
def State.loadRaw (s : State) (c dom va n : Nat) (h : Hint) : Access (List Byte) :=
  (s.access c dom va .load).bind fun t s =>
    let k := cachingOf t.leaf t.loc h
    if n ≤ 64 then s.readLine c k t.loc n
    else
      (s.reachLine c k t.loc 64).bind fun _ s =>
        (s.reachLine c k (t.loc + 64) (n - 64)).bind fun _ s =>
          (s.readLine c k t.loc 64).bind fun b1 s =>
            (s.readLine c k (t.loc + 64) (n - 64)).bind fun b2 s => .ok (b1 ++ b2) s

/-- A load of a core, after which its L1 has the stores that it holds (R87). -/
def State.loadGlobal (s : State) (c dom va n : Nat) (h : Hint) : Access (List Byte) :=
  (s.loadRaw c dom va n h).bind fun bs s => .ok bs (s.showStores c)

/-- A write or an atomic comes to the homes of its bytes, and to their storage where it needs that. -/
def State.reachHome (s : State) (k : AccessKind) (t : Trans) (n : Nat) (h : Hint) : Access Unit :=
  (s.reach k t.loc n).bind fun _ s =>
    if s.linkWaits (cachingOf t.leaf t.loc h) k t.loc n then .wait s else .ok () s

/-- A store that a core held is performed at its home (R87, R99). -/
def State.performPend (s : State) (c : Nat) (p : PendStore) : State :=
  match s.reach .store p.loc p.data.length with
  | .ok _ s => (s.homeWrite (cachingOf p.leaf p.loc .normal) p.loc p.data).l1Update c p.loc p.data
  | .fault _ s | .wait s => s
  | .violation => s

/-- Every store that a core holds is performed, in order. -/
def State.flushCore (s : State) (c : Nat) : State :=
  let ps := (s.core c).pend
  if ps = [] then s
  else
    let s := ps.foldl (fun s p => s.performPend c p) s
    s.setCore c { s.core c with pend := [] }

/-- Every store that the core of a VT holds is performed. -/
def State.flushVt (s : State) (id : Nat) : State :=
  match s.vt? id with
  | none => s
  | some v => s.flushCore v.core

/-- Every store that some core holds is performed. -/
def State.flushAll (s : State) : State := s.cores.foldl (fun s e => s.flushCore e.1) s

/-- Two writes touch a common line. -/
def PendStore.meets (p : PendStore) (loc n : Nat) : Bool := (linesOf p.loc p.data.length).any (linesOf loc n).contains

/-- The k-th store that a core holds is performed, where none before it touches its lines (R102). -/
def State.performStore (s : State) (c k : Nat) : State :=
  match (s.core c).pend[k]? with
  | none => s
  | some p =>
    if ((s.core c).pend.take k).any fun q => q.meets p.loc p.data.length then s
    else
      let s := s.performPend c p
      (s.setCore c { s.core c with pend := (s.core c).pend.eraseIdx k }).showStores c

/-- A write or an atomic of a core to lines of stores that it holds comes after them: a CT's own in program order (R102),
another's where some access of the core may have read them (R100). -/
def State.settleHeld (s : State) (own : Bool) (c loc n : Nat) : State :=
  if (s.core c).pend.any fun p => (own || p.shown) && p.meets loc n then s.flushCore c else s

/-- A store of masked bytes by a core, once translated (R84, R87). -/
def State.storeAt (s : State) (own : Bool) (c : Nat) (t : Trans) (bs : List (Byte × Bool)) (h : Hint) : Access Unit :=
  ((s.settleHeld own c t.loc bs.length).reachHome .store t bs.length h).bind fun _ s =>
    .ok () ((s.homeWrite (cachingOf t.leaf t.loc h) t.loc bs).l1Update c t.loc bs)

/-- A store of masked bytes by a core. -/
def State.storeGlobal (s : State) (c dom va : Nat) (bs : List (Byte × Bool)) (h : Hint) : Access Unit :=
  (s.access c dom va .store).bind fun t s => s.storeAt false c t bs h

/-- The checks that such a store passes (R83, R344, R347). -/
def State.storeCheck (s : State) (c dom va n : Nat) (h : Hint) : Access Unit :=
  (s.access c dom va .store).bind fun t s => s.reachHome .store t n h

/-- An atomic of `n` bytes by a core: `f` gives the new value, or none for no write. It answers the old value
(R167, R169). -/
def State.atomicGlobal (s : State) (c dom va n : Nat) (f : Nat → Option Nat) : Access Nat :=
  (s.access c dom va .atomic).bind fun t s =>
    ((s.settleHeld false c t.loc n).reachHome .atomic t n .normal).bind fun _ s =>
      let k := cachingOf t.leaf t.loc .normal
      if s.homePoisoned k t.loc n then .fault .eccu s
      else
        let old := leNat (s.homeRead k t.loc n)
        match f old with
        | none =>
          .ok old ((s.l2TouchAll k (linesOf t.loc n) false).l1Update c t.loc ((leBytes n old).map fun b => (b, true)))
        | some v =>
          let bs := (leBytes n v).map fun b => (b, true)
          .ok old ((s.homeWrite k t.loc bs).l1Update c t.loc bs)

/-- A relaxed scalar store of a CT: performed at once, or held by the core, whose L1 it updates (R87, R102). An access to a
DEVICE page is not held (R107). -/
def State.storeScalar (s : State) (v : VT) (va : Nat) (bs : List (Byte × Bool)) : Access Unit :=
  (s.access v.core v.domain va .store).bind fun t s =>
    if v.delays && !(entryDevice t.leaf) then
      (s.reachHome .store t bs.length .normal).bind fun _ s =>
        let k := s.core v.core
        .ok () ((s.setCore v.core { k with pend := k.pend ++ [{ loc := t.loc, leaf := t.leaf, data := bs }] }).showStores
          v.core)
    else s.storeAt true v.core t bs .normal

/-- The slices at which a core's access of `n` bytes at `va` needs entries, those of its walk among them: one that L1 serves,
or that its translation stops, needs none for its data (R84, R89, R90). -/
def State.entriesOf (s : State) (c dom va n : Nat) (k : AccessKind) (h : Hint) : List Nat :=
  let walk := s.missSlices c dom va
  let data := match s.resolve va (s.leafFor c dom va) with
    | none => []
    | some t =>
      let q := cachingOf t.leaf t.loc h
      let hit := k == .load && q.lookL1 && (linesOf t.loc n).all fun l => (l1Find (s.core c).l1 l).isSome
      if hit || !(kindPermitted k t.leaf) || entryLost t.leaf || s.isReserved t.loc then [] else s.slicesOf q k t.loc n
  (walk ++ data).eraseDups

/-- The requests of a core's access to the slices. -/
def State.gated (s : State) (c dom va n : Nat) (k : AccessKind) (h : Hint) : Except State State :=
  match s.entriesOf c dom va n k h with
  | [] => .ok s
  | q => s.gate (.agent s.who) q

/-! ### Instruction fetch (R29, R174) -/

def icFind (l : List (Nat × BitVec 1024)) (line : Nat) : Option (BitVec 1024) := (l.find? fun e => e.1 == line).map Prod.snd

/-- The 128-byte line of a location, as an instruction fetch under this caching reads it. -/
def State.codeLine (s : State) (k : Caching) (loc : Nat) : BitVec 1024 :=
  BitVec.ofNat 1024 (leNat (s.homeRead k (loc / 128 * 128) 128))

/-- Where the words that a fetch needs of a 128-byte line start and end, once its bytes are known. -/
abbrev FetchSpan := BitVec 1024 → Nat × Nat

/-- The line of `va` through the core's instruction cache, which it fills: 512 lines of 128 bytes (R15). On a miss only the
words of the span are fetched: no error and no home of any other stops it (R139). A line of which some part could not be
read is not kept (log 57). -/
def State.fetchLine (s : State) (c dom va : Nat) (span : FetchSpan) : Access (BitVec 1024) :=
  (s.gatedAccess c dom (va / 128 * 128) .fetch).bind fun t s =>
    let base := t.loc / 128 * 128
    match icFind (s.core c).icache (t.loc / 128) with
    | some l => if s.sramCut t.loc then .fault .cordon s else .ok l s
    | none =>
      let k := cachingOf t.leaf t.loc .normal
      let l := s.codeLine k t.loc
      let lo := base + (span l).1
      let n := (span l).2 - (span l).1
      match s.gateHere (s.slicesOf k .fetch lo n) with
      | .error s => .wait s
      | .ok s =>
        (s.reach .fetch lo n).bind fun _ s =>
          if s.linkWaits k .fetch lo n then .wait s
          else if s.homePoisoned k lo n then .fault .eccu s
          else
            let s := s.l2TouchAll k (linesOf lo n) false
            let x := s.core c
            let whole := !(s.homePoisoned k base 128) && (linesOf base 128).all fun l => !(s.unreachable (l * 64))
            .ok l (if whole then s.setCore c { x with icache := ((t.loc / 128, l) :: x.icache).take 512 } else s)

/-- The line of `va` through the lane instruction buffer of quad `q`, which fills from the core's instruction cache on a
miss: 32 lines (R15, R29). -/
def State.fetchLaneLine (s : State) (c q dom va : Nat) (span : FetchSpan) : Access (BitVec 1024) :=
  (s.gatedAccess c dom (va / 128 * 128) .fetch).bind fun t s =>
    let qi : Fin 4 := Fin.ofNat 4 q
    match icFind ((s.core c).lanes[qi]) (t.loc / 128) with
    | some l => if s.sramCut t.loc then .fault .cordon s else .ok l s
    | none =>
      (s.fetchLine c dom va span).bind fun l s =>
        let k := s.core c
        .ok l (if (icFind k.icache (t.loc / 128)).isSome then
            s.setCore c { k with lanes := k.lanes.set qi (((t.loc / 128, l) :: k.lanes[qi]).take 32) }
          else s)

/-- `icinv` of a line: every instruction cache and lane buffer of the device drops it (R174). -/
def State.dropCodeLine (s : State) (line : Nat) : State :=
  { s with cores := s.cores.mapVals fun _ k =>
      { k with icache := k.icache.filter fun e => e.1 != line
               lanes := k.lanes.map fun b => b.filter fun e => e.1 != line } }

/-! ### Engines and other agents at the home -/

/-- An access of `n` bytes by an agent without an L1, translated, checked for what the page must permit, and at its home. -/
def State.atHome (s : State) (dom va n : Nat) (permit k : AccessKind) : Access Trans :=
  (s.accessWalk dom va permit).bind fun t s =>
    ((s.want (s.slicesOf (cachingOf t.leaf t.loc .normal) k t.loc n)).reachHome k t n .normal).bind fun _ s => .ok t s

/-- A read of `n` bytes of one line or page part by an agent without an L1, with what the page must permit. -/
def State.readFor (s : State) (dom va n : Nat) (permit : AccessKind) : Access (List Byte) :=
  (s.atHome dom va n permit .load).bind fun t s =>
    let k := cachingOf t.leaf t.loc .normal
    if s.homePoisoned k t.loc n then .fault .eccu s
    else .ok (s.homeRead k t.loc n) (s.l2TouchAll k (linesOf t.loc n) false)

/-- A write of bytes by an agent without an L1, with what the page must permit. -/
def State.writeFor (s : State) (dom va : Nat) (bs : List Byte) (permit : AccessKind) : Access Unit :=
  (s.atHome dom va bs.length permit .store).bind fun t s =>
    .ok () (s.homeWrite (cachingOf t.leaf t.loc .normal) t.loc (bs.map fun b => (b, true)))

/-- A read of `n` bytes of one line or page part by an agent without an L1. -/
def State.readHome (s : State) (dom va n : Nat) : Access (List Byte) := s.readFor dom va n .load

/-- A write of bytes by an agent without an L1. -/
def State.writeHome (s : State) (dom va : Nat) (bs : List Byte) : Access Unit := s.writeFor dom va bs .store

end Sys2Proof.Machine
end

