-- ==== Sys2Proof/Machine/Float.lean ====
section
/-! DEFINITION. Floating-point results on encodings (R122 to R133, R201 to R207): every result is the exact value rounded
once. -/

namespace Sys2Proof.Machine

open Sys2Proof

/-- The FT formats (R59). -/
def ftFormat (ft : Nat) : FloatFormat := if ft = 0 then fp32Format else if ft = 1 then fp16Format else bf16Format

/-- Element bits of an FT type (R200). -/
def ftBits (ft : Nat) : Nat := if ft = 0 then 32 else 16

/-- Whether a value is a NaN. -/
def FValue.isNan : FValue → Bool
  | .nan _ => true
  | _ => false

/-- The sign bit of an encoding. -/
def FloatFormat.signOf (f : FloatFormat) (enc : Nat) : Bool := enc / f.signBit % 2 == 1

/-- The canonical NaN with NV. -/
def FloatFormat.invalid (f : FloatFormat) : Nat × FFlags := (f.canonicalNan, flagNV)

/-- (-1)^neg * m as an integer. -/
def signed (neg : Bool) (m : Nat) : Int := if neg then -(m : Int) else m

/-- The exact sum of two finite values as an integer multiple of a power of two. -/
def exactSum (n1 : Bool) (m1 : Nat) (x1 : Int) (n2 : Bool) (m2 : Nat) (x2 : Int) : Int × Int :=
  let x := min x1 x2
  (signed n1 (m1 * 2 ^ (x1 - x).toNat) + signed n2 (m2 * 2 ^ (x2 - x).toNat), x)

/-- The sign of an exact zero sum: like zeros keep their sign, else -0 under RDN alone (R124). -/
def zeroSumSign (r : Rounding) (n1 n2 : Bool) : Bool := if n1 == n2 then n1 else r == .rdn

/-- Two finite values added and rounded once. -/
def FloatFormat.addFin (f : FloatFormat) (r : Rounding) (n1 : Bool) (m1 : Nat) (x1 : Int) (n2 : Bool) (m2 : Nat) (x2 : Int) :
    Nat × FFlags :=
  let s := exactSum n1 m1 x1 n2 m2 x2
  if s.1 = 0 then (f.withSign (if m1 = 0 ∧ m2 = 0 then zeroSumSign r n1 n2 else r == .rdn) 0, 0)
  else f.round r .ieee (s.1 < 0) s.1.natAbs s.2 false

/-- The negative of a value. -/
def FValue.neg : FValue → FValue
  | .nan s => .nan s
  | .inf n => .inf !n
  | .fin n m x => .fin (!n) m x

/-- a + b (R201). -/
def FloatFormat.add (f : FloatFormat) (r : Rounding) (a b : FValue) : Nat × FFlags :=
  match a, b with
  | .nan _, _ | _, .nan _ => (f.canonicalNan, signallingFlags [a, b])
  | .inf n1, .inf n2 => if n1 == n2 then (f.infinity n1, 0) else f.invalid
  | .inf n, .fin _ _ _ | .fin _ _ _, .inf n => (f.infinity n, 0)
  | .fin n1 m1 x1, .fin n2 m2 x2 => f.addFin r n1 m1 x1 n2 m2 x2

/-- a * b (R201). -/
def FloatFormat.mul (f : FloatFormat) (r : Rounding) (a b : FValue) : Nat × FFlags :=
  match a, b with
  | .nan _, _ | _, .nan _ => (f.canonicalNan, signallingFlags [a, b])
  | .inf n1, .inf n2 => (f.infinity (n1 ^^ n2), 0)
  | .inf n1, .fin n2 m _ | .fin n2 m _, .inf n1 => if m = 0 then f.invalid else (f.infinity (n1 ^^ n2), 0)
  | .fin n1 m1 x1, .fin n2 m2 x2 => f.roundFin r .ieee (n1 ^^ n2) (m1 * m2) (x1 + x2)

/-- a quotient of two non-zero magnitudes with more bits than any format keeps, its exponent, and whether a rest is
left. -/
def quotient (m1 : Nat) (x1 : Int) (m2 : Nat) (x2 : Int) : Nat × Int × Bool :=
  let k := 64 + Nat.log2 m2
  (m1 * 2 ^ k / m2, x1 - k - x2, m1 * 2 ^ k % m2 != 0)

/-- a / b (R201). -/
def FloatFormat.div (f : FloatFormat) (r : Rounding) (a b : FValue) : Nat × FFlags :=
  match a, b with
  | .nan _, _ | _, .nan _ => (f.canonicalNan, signallingFlags [a, b])
  | .inf _, .inf _ => f.invalid
  | .inf n1, .fin n2 _ _ => (f.infinity (n1 ^^ n2), 0)
  | .fin n1 _ _, .inf n2 => (f.withSign (n1 ^^ n2) 0, 0)
  | .fin n1 m1 x1, .fin n2 m2 x2 =>
    if m2 = 0 then if m1 = 0 then f.invalid else (f.infinity (n1 ^^ n2), flagDZ)
    else if m1 = 0 then (f.withSign (n1 ^^ n2) 0, 0)
    else
      let q := quotient m1 x1 m2 x2
      f.round r .ieee (n1 ^^ n2) q.1 q.2.1 q.2.2

/-- (a * b) + c (R204); the callers negate the product or c before. `negProd` negates the product. -/
def FloatFormat.fused (f : FloatFormat) (r : Rounding) (negProd : Bool) (a b c : FValue) : Nat × FFlags :=
  let addInf (n : Bool) : Nat × FFlags :=
    match c with
    | .nan _ => (f.canonicalNan, signallingFlags [a, b, c])
    | .inf n3 => if n == n3 then (f.infinity n, 0) else f.invalid
    | .fin _ _ _ => (f.infinity n, 0)
  match a, b with
  | .nan _, _ | _, .nan _ => (f.canonicalNan, signallingFlags [a, b, c])
  | .inf n1, .inf n2 => addInf (n1 ^^ n2 ^^ negProd)
  | .inf n1, .fin n2 m _ | .fin n2 m _, .inf n1 => if m = 0 then f.invalid else addInf (n1 ^^ n2 ^^ negProd)
  | .fin n1 m1 x1, .fin n2 m2 x2 =>
    match c with
    | .nan _ => (f.canonicalNan, signallingFlags [a, b, c])
    | .inf n3 => (f.infinity n3, 0)
    | .fin n3 m3 x3 => f.addFin r (n1 ^^ n2 ^^ negProd) (m1 * m2) (x1 + x2) n3 m3 x3

/-- Whether a < b for two values that are no NaN; -0 and +0 are equal (R205). -/
def FValue.lt : FValue → FValue → Bool
  | .inf n1, .inf n2 => n1 && !n2
  | .inf n, .fin _ _ _ => n
  | .fin _ _ _, .inf n => !n
  | .fin n1 m1 x1, .fin n2 m2 x2 => decide ((exactSum n1 m1 x1 (!n2) m2 x2).1 < 0)
  | _, _ => false

/-- Whether a = b for two values that are no NaN. -/
def FValue.eqv (a b : FValue) : Bool := !(a.lt b) && !(b.lt a)

/-- The sign of a value. -/
def FValue.isNeg : FValue → Bool
  | .nan _ => false
  | .inf n => n
  | .fin n _ _ => n

/-- Minimum and maximum on encodings; -0 orders below +0 (R133). -/
def FloatFormat.minMax (f : FloatFormat) (isMax : Bool) (ea eb : Nat) : Nat × FFlags :=
  let a := f.decode ea
  let b := f.decode eb
  let below (a b : FValue) : Bool := a.lt b || (a.eqv b && a.isNeg && !b.isNeg)
  let fl := signallingFlags [a, b]
  if a.isNan && b.isNan then (f.canonicalNan, fl)
  else if a.isNan then (eb, fl)
  else if b.isNan then (ea, fl)
  else if isMax then (if below a b then eb else ea, fl)
  else (if below b a then eb else ea, fl)

/-- The integer square root of `n`: bits from `2^k` down. -/
def isqrtFrom (n : Nat) : Nat → Nat → Nat
  | r, 0 => r
  | r, k + 1 =>
    let c := r + 2 ^ k
    isqrtFrom n (if c * c ≤ n then c else r) k

/-- The integer square root. -/
def isqrt (n : Nat) : Nat := isqrtFrom n 0 (Nat.log2 n / 2 + 1)

/-- The square root (R202). -/
def FloatFormat.sqrt (f : FloatFormat) (r : Rounding) : FValue → Nat × FFlags
  | .nan s => (f.canonicalNan, if s then flagNV else 0)
  | .inf n => if n then f.invalid else (f.infinity false, 0)
  | .fin n m x =>
    if m = 0 then (f.withSign n 0, 0)
    else if n then f.invalid
    else
      let k := 128 + (x % 2).toNat
      let m' := m * 2 ^ k
      let q := isqrt m'
      f.round r .ieee false q ((x - k) / 2) (q * q != m')

/-- The reciprocal (R202). -/
def FloatFormat.rcp (f : FloatFormat) (r : Rounding) : FValue → Nat × FFlags
  | .nan s => (f.canonicalNan, if s then flagNV else 0)
  | .inf n => (f.withSign n 0, 0)
  | .fin n m x =>
    if m = 0 then (f.infinity n, flagDZ)
    else
      let q := quotient 1 0 m x
      f.round r .ieee n q.1 q.2.1 q.2.2

/-- The reciprocal square root (R202). -/
def FloatFormat.rsq (f : FloatFormat) (r : Rounding) : FValue → Nat × FFlags
  | .nan s => (f.canonicalNan, if s then flagNV else 0)
  | .inf n => if n then f.invalid else (f.withSign false 0, 0)
  | .fin n m x =>
    if m = 0 then (f.infinity n, flagDZ)
    else if n then f.invalid
    else
      -- 1 / sqrt (m' * 2^(2 h)) with m' = m or 2 m: the root of 2^(2 k) / m' times 2^(-k - h)
      let odd := (x % 2).toNat
      let m' := m * 2 ^ odd
      let h := (x - odd) / 2
      let k := 64 + Nat.log2 m'
      let q := isqrt (2 ^ (2 * k) / m')
      f.round r .ieee false q (-k - h) (q * q * m' != 2 ^ (2 * k))

/-- Fixed-point precision of `fexp2` in bits (log 25). -/
def expPrecision : Nat := 320

/-- The sum of 2^(p - k) / k for k from `n` down to 1: ln 2 times 2^p. -/
def ln2Sum (p : Nat) : Nat → Nat
  | 0 => 0
  | n + 1 => 2 ^ (p - (n + 1)) / (n + 1) + ln2Sum p n

/-- ln 2 in fixed point. -/
def ln2Fixed : Nat := ln2Sum (expPrecision + 16) (expPrecision + 16) / 2 ^ 16

/-- The exponential series from term `i`: `t` is the term before, `y` the exponent in fixed point. -/
def expSeries (p y : Nat) : Nat → Nat → Nat → Nat
  | 0, _, _ => 0
  | fuel + 1, i, t =>
    let t' := t * y / 2 ^ p / i
    t' + expSeries p y fuel (i + 1) t'

/-- 2^f for f = num / 2^k in (0, 1), in fixed point between 1 and 2, truncated. -/
def exp2Fixed (num k : Nat) : Nat :=
  let p := expPrecision
  let y := num * ln2Fixed / 2 ^ k
  2 ^ p + expSeries p y 96 1 (2 ^ p)

/-- 2^a (R202). -/
def FloatFormat.exp2 (f : FloatFormat) (r : Rounding) : FValue → Nat × FFlags
  | .nan s => (f.canonicalNan, if s then flagNV else 0)
  | .inf n => if n then (f.withSign false 0, 0) else (f.infinity false, 0)
  | .fin n m x =>
    if m = 0 then f.round r .ieee false 1 0 false
    else if 0 ≤ x then
      -- an integer; beyond 2^12 it overflows or is far below every format
      let v := m * 2 ^ (min x 64).toNat
      f.round r .ieee false 1 (signed n (min v 4096)) false
    else
      let k := (-x).toNat
      let v := signed n m
      let ip := v / (2 ^ k : Nat)
      let fp := (v % (2 ^ k : Nat)).toNat
      if 4096 ≤ ip then f.round r .ieee false 1 4096 false
      else if ip < -4096 then f.round r .ieee false 1 (-4096) false
      else if fp = 0 then f.round r .ieee false 1 ip false
      else f.round r .ieee false (exp2Fixed fp k) (ip - expPrecision) true

/-- Fraction bits of `flog2`, and of the values it squares (log 25). -/
def logBits : Nat := 160
def logPrecision : Nat := 360

/-- The next `n` bits of log2 of y / 2^p in [1, 2): square, and halve where it reaches 2. -/
def log2Bits (p : Nat) : Nat → Nat → Nat → Nat
  | 0, _, acc => acc
  | n + 1, y, acc =>
    let y2 := y * y / 2 ^ p
    if 2 ^ (p + 1) ≤ y2 then log2Bits p n (y2 / 2) (2 * acc + 1) else log2Bits p n y2 (2 * acc)

/-- log2 a (R202). -/
def FloatFormat.log2 (f : FloatFormat) (r : Rounding) : FValue → Nat × FFlags
  | .nan s => (f.canonicalNan, if s then flagNV else 0)
  | .inf n => if n then f.invalid else (f.infinity false, 0)
  | .fin n m x =>
    if m = 0 then (f.infinity true, flagDZ)
    else if n then f.invalid
    else
      let top := Nat.log2 m
      let ip : Int := (top : Int) + x
      if m = 2 ^ top then f.roundFin r .ieee (ip < 0) ip.natAbs 0
      else
        let y := m * 2 ^ (logPrecision - top)
        let fr := log2Bits logPrecision logBits y 0
        if 0 ≤ ip then f.round r .ieee false (ip.toNat * 2 ^ logBits + fr) (-logBits) true
        else f.round r .ieee true (ip.natAbs * 2 ^ logBits - fr - 1) (-logBits) true

/-- `fabs`, `fneg` and `fsgnj`: the encoding with another sign bit, or the canonical NaN (R203). -/
def FloatFormat.signOp (f : FloatFormat) (enc : Nat) (neg : Bool) (inputs : List FValue) : Nat × FFlags :=
  if (f.decode enc).isNan then (f.canonicalNan, signallingFlags inputs)
  else (f.withSign neg (enc % f.signBit), signallingFlags inputs)

/-- The class mask (R203). -/
def FloatFormat.classOf (f : FloatFormat) (enc : Nat) : Nat :=
  let sub (m : Nat) : Bool := m < 2 ^ f.mb
  match f.decode enc with
  | .nan true => 2 ^ 8
  | .nan false => 2 ^ 9
  | .inf true => 2 ^ 0
  | .inf false => 2 ^ 7
  | .fin true m _ => if m = 0 then 2 ^ 3 else if sub m then 2 ^ 2 else 2 ^ 1
  | .fin false m _ => if m = 0 then 2 ^ 4 else if sub m then 2 ^ 5 else 2 ^ 6

/-- The conditions of `fcmp` and the flag they raise (R205). -/
def fcondHolds (c : FCond) (a b : FValue) : Bool × FFlags :=
  let sn := signallingFlags [a, b]
  if a.isNan || b.isNan then
    match c with
    | .eq => (false, sn)
    | .ne => (true, sn)
    | .lt | .le | .gt | .ge => (false, flagNV)
    | .ord => (false, sn)
    | .unord => (true, sn)
  else
    (match c with
      | .eq => a.eqv b
      | .ne => !(a.eqv b)
      | .lt => a.lt b
      | .le => !(b.lt a)
      | .gt => b.lt a
      | .ge => !(a.lt b)
      | .ord => true
      | .unord => false, 0)

/-! ### Conversions -/

/-- The floating-point format of a conversion code. -/
def fmtFloat : Fmt → Option FloatFormat
  | .fp32 => some fp32Format
  | .fp16 => some fp16Format
  | .bf16 => some bf16Format
  | .e4m3 => some e4m3Format
  | .e5m2 => some e5m2Format
  | .e3m2 => some e3m2Format
  | .e2m3 => some e2m3Format
  | .e2m1 => some e2m1Format
  | _ => none

/-- Storage bits of an element of a conversion code (R206). -/
def fmtBits : Fmt → Nat
  | .i4 | .n4 | .e2m1 => 4
  | .e4m3 | .e5m2 | .e3m2 | .e2m3 | .e8m0 | .i8 | .n8 => 8
  | .fp16 | .bf16 | .i16 | .n16 => 16
  | .fp32 | .i32 | .n32 => 32
  | .i64 | .n64 => 64

/-- Whether an integer code is signed. -/
def fmtSigned : Fmt → Bool
  | .i4 | .i8 | .i16 | .i32 | .i64 => true
  | _ => false

/-- The ends of an integer code's range (R117). -/
def fmtRange (t : Fmt) : Int × Int :=
  let n := fmtBits t
  if fmtSigned t then (-(2 ^ (n - 1) : Nat), (2 ^ (n - 1) : Nat) - 1) else (0, (2 ^ n : Nat) - 1)

/-- Clamp into a range. -/
def clampInt (r : Int × Int) (v : Int) : Int := max r.1 (min v r.2)

/-- E8M0 as a value (R121). -/
def decodeE8m0 (enc : Nat) : FValue := if enc = 255 then .nan false else .fin false 1 ((enc : Int) - 127)

/-- The value of an encoding of a source format that is no integer; bits above a 6-bit element are ignored (R116). -/
def fmtValue (t : Fmt) (enc : Nat) : FValue :=
  match t with
  | .e8m0 => decodeE8m0 enc
  | t =>
    match fmtFloat t with
    | some f => f.decode (enc % 2 ^ f.bits)
    | none => .nan false

/-- Conversion to a narrow format: RNE, saturating (R129). -/
def toNarrow (f : FloatFormat) (v : FValue) : Nat × FFlags :=
  match v with
  | .nan s => if f.hasNan then (f.canonicalNan, if s then flagNV else 0) else (0, flagNV)
  | .inf n => if f.hasInf then (f.infinity n, 0) else (f.withSign n f.maxEnc, flagNV)
  | .fin n m x => f.roundFin .rne .saturate n m x

/-- Conversion to FP32, FP16 or BF16 (R128, R130). -/
def toWide (f : FloatFormat) (r : Rounding) (v : FValue) : Nat × FFlags :=
  match v with
  | .nan s => (f.canonicalNan, if s then flagNV else 0)
  | .inf n => (f.infinity n, 0)
  | .fin n m x => f.roundFin r .ieee n m x

/-- Conversion of a value to an integer code (R130). -/
def toInteger (t : Fmt) (r : Rounding) (v : FValue) : Int × FFlags :=
  let rg := fmtRange t
  match v with
  | .nan _ => (0, flagNV)
  | .inf n => (if n then rg.1 else rg.2, flagNV)
  | .fin n m x =>
    let q := roundAt r n m x 0 false
    let i := signed n q.1
    if i < rg.1 ∨ rg.2 < i then (clampInt rg i, flagNV) else (i, if q.2 then flagNX else 0)

/-- One element of `cvt`: the encoding of the result and its flags (R206). -/
def convertElement (src dst : Fmt) (r : Rounding) (enc : Nat) : Nat × FFlags :=
  if src.isInt then
    let v : Int := if fmtSigned src then sext (fmtBits src) enc else enc
    match fmtFloat dst with
    | some f => f.roundFin r .ieee (v < 0) v.natAbs 0
    | none => ((clampInt (fmtRange dst) v % (2 ^ fmtBits dst : Nat)).toNat, 0)
  else
    let v := fmtValue src enc
    if dst.isInt then
      let q := toInteger dst r v
      ((q.1 % (2 ^ fmtBits dst : Nat)).toNat, q.2)
    else
      match fmtFloat dst with
      | some f => if dst.isWide then toWide f r v else toNarrow f v
      | none => (0, 0)

/-- emax of R131. -/
def fmtEmax : Fmt → Int
  | .e4m3 => 8
  | .e5m2 => 15
  | .e3m2 => 4
  | _ => 2

/-- floor (log2 |v|) of a finite non-zero value, or none. -/
def FValue.topExp : FValue → Option Int
  | .fin _ m x => if m = 0 then none else some ((Nat.log2 m : Int) + x)
  | _ => none

/-- The scale of a block of `cvts` (R131): none for 0xFF. -/
def blockScale (dst : Fmt) (vs : List FValue) : Option Int :=
  if vs.any fun v => match v with
    | .fin _ _ _ => false
    | _ => true
  then none
  else
    let s : Int :=
      match (vs.filterMap FValue.topExp).max? with
      | none => -127
      | some t => t - fmtEmax dst
    some (max (-127) (min s 127))

/-- One element of `cvts` under the block's scale (R132). -/
def scaledElement (dst : Fmt) (scale : Option Int) (v : FValue) : Nat × FFlags :=
  match scale, v, fmtFloat dst with
  | some s, .fin n m x, some f => toNarrow f (.fin n m (x - s))
  | _, _, _ => (0, 0)

end Sys2Proof.Machine
end

