-- ==== Sys2Proof/Machine/Ops.lean ====
section
/-! DEFINITION. The named operations that instructions and events share: issuing a control-thread instruction, running an
instruction on a virtual processor, windows and segments (R70 to R74), order within a VT (R105 to R110), parking and
waking (R47, R48), event records (R316), taking a fault and resuming from it (R311 to R321), the end of a VT (R177,
R179, R235). -/

namespace Sys2Proof.Machine

open Sys2Proof

/-! ### The device's choices -/

/-- The next free value: a choice the spec leaves to the device (log 10). -/
def State.draw (s : State) : Nat × State := (Config.choice s.picks, { s with picks := s.picks + 1 })

/-- An instance of a firmware image runs and takes slots and requests (R287, R290). -/
def FwInst.serves (x : FwInst) : Bool := x.running && !x.stopped && (!x.isNew || x.window)

/-! ### Vector threads -/

/-- `f` applied to a VT, where it exists. -/
def State.modVt (s : State) (id : Nat) (f : VT → VT) : State :=
  match s.vt? id with
  | some v => s.setVt id (f v)
  | none => s

/-- W in bytes (R21). -/
def VT.w (vt : VT) : Nat := widthOf vt.wsel

/-- The VT's own time in core cycles: its core's CYCLE, carried on over a change of core (R17, R18). -/
def State.vtNow (s : State) (vt : VT) : Nat := ((s.coreCycle vt.core : Int) + vt.skew).toNat

/-- The VT belongs to core `c`; its own time runs on. -/
def State.onCore (s : State) (vt : VT) (c : Nat) : VT :=
  { vt with core := c, skew := (s.vtNow vt : Int) - s.coreCycle c }

/-- A CT instruction has issued: the next one follows it, and ISSUED counts it (R62, R137). -/
def VT.retire (vt : VT) : VT := { vt with pc := vt.pc + 4, issued := vt.issued + 1 }

/-- A jump has issued (R166). -/
def VT.jump (vt : VT) (target : Word64) : VT := { vt with pc := target, issued := vt.issued + 1 }

/-- VP i is active: i < VL and EM[i] = 1 (R24). -/
def VT.active (vt : VT) : BitVec 32 := vt.em &&& lowOnes 32 vt.vl

/-- What a `vf` or `vfr` captures (R141). -/
def VT.capture (vt : VT) : Capture := { vcfg := vt.vcfg, seg := vt.seg }

/-! ### A VT's sequences (R25 to R32) -/

/-- The first operation that waits in VP i's sequence (R25, R68). -/
def VT.seqHead (vt : VT) (i : Fin 32) : Option WaitOp := vt.waiting.find? fun o => o.mask.getLsbD i.val

/-- Operations that have arrived at VP i and not started (R27). -/
def VT.seqLength (vt : VT) (i : Fin 32) : Nat := (vt.waiting.filter fun o => o.mask.getLsbD i.val).length

/-- VP i no longer waits for the first operation of its sequence; an operation that no VP waits for leaves the list. -/
def seqPop (i : Fin 32) : List WaitOp → List WaitOp
  | [] => []
  | o :: os =>
    if o.mask.getLsbD i.val then
      let m := o.mask &&& ~~~(BitVec.twoPow 32 i.val)
      if m = 0 then os else { o with mask := m } :: os
    else o :: seqPop i os

/-- An operation enters the sequence of every VP of a mask (R25). -/
def VT.enqueue (vt : VT) (o : SeqOp) (mask : BitVec 32) (i : Instr) : VT :=
  if mask = 0 then vt else { vt with waiting := vt.waiting ++ [{ op := o, mask, instr := i }] }

/-- A ninth operation would wait in the sequence of some VP of the mask: the CT stalls (R27). -/
def VT.seqFull (vt : VT) (mask : BitVec 32) : Bool := (maskIndices mask).any fun i => 8 ≤ vt.seqLength i

/-- The elements of each VP of a vector memory instruction (R192). -/
def InFlight.perVp (e : InFlight) (w : Nat) : Nat := if e.mode = .e then 8 * w / itBits e.it else 1

/-- Every element of VP i has been performed. -/
def InFlight.vpDone (e : InFlight) (w : Nat) (i : Fin 32) : Bool :=
  e.done || !(e.active.getLsbD i.val) || decide (e.perVp w ≤ e.prog[i])

/-- VP i's next element: the first that is to be performed again after a fault stop, else the first that has not been
performed (R192, R314). -/
def InFlight.next (e : InFlight) (w : Nat) (i : Fin 32) : Nat :=
  match e.ahead.find? fun a => a.again && a.elem / e.perVp w == i.val with
  | some a => a.elem % e.perVp w
  | none => e.prog[i]

/-- No element of VP i is to be performed any more. -/
def InFlight.vpPerformed (e : InFlight) (w : Nat) (i : Fin 32) : Bool :=
  e.done || !(e.active.getLsbD i.val) || decide (e.perVp w ≤ e.next w i)

/-- The number of VP i's next element (R192). -/
def InFlight.nextNumber (e : InFlight) (w : Nat) (i : Fin 32) : Nat := i.val * e.perVp w + e.next w i

/-- The lowest element that an active VP carries and that is to be performed; one above the last where there is none. -/
def InFlight.lowest (e : InFlight) (w : Nat) : Nat :=
  match (List.finRange 32).find? fun i => !(e.vpPerformed w i) with
  | some i => e.nextNumber w i
  | none => 32 * e.perVp w

/-- One above the highest element performed, or 0 (R199). -/
def InFlight.highest (e : InFlight) (w : Nat) : Nat :=
  (List.finRange 32).foldl (fun n i => if e.active.getLsbD i.val && e.next w i != 0 then e.nextNumber w i else n) 0

/-- The vector memory instructions that VP i's sequence has passed and that have yet to return VP i's elements (R25). -/
def VT.pendingLoads (vt : VT) (i : Fin 32) : List InFlight :=
  vt.inflight.filter fun e => !(e.vpDone vt.w i) && !(vt.waiting.any fun o => o.op == .mem e.idx && o.mask.getLsbD i.val)

/-- An instruction of VP i that names these registers waits for an element of an earlier register-form `vld` (R25). -/
def VT.interlocked (vt : VT) (i : Fin 32) (rs : List Reg) : Bool :=
  (vt.pendingLoads i).any fun e => !e.queueForm && rs.contains e.v

/-- VP i goes through the operations at the head of its sequence that need no block: a broadcast writes its register
(R188), and a load whose address the CT has fixed is left to return its data later (R25, log 6). -/
def VT.settleFrom (vt : VT) (i : Fin 32) : Nat → VT
  | 0 => vt
  | n + 1 =>
    if vt.vps[i].run.isSome || vt.vps[i].thread then vt
    else
      match vt.seqHead i with
      | some ⟨.bcast d x e, _, _⟩ =>
        if vt.interlocked i [d] then vt
        else
          let vp := vt.vps[i]
          let v := writeElems vp.v[d] (List.replicate (8 * vt.w / e) (x.setWidth e))
          VT.settleFrom { vt with vps := vt.vps.set i { vp with v := vp.v.set d v }, waiting := seqPop i vt.waiting } i n
      | some ⟨.mem k, _, _⟩ =>
        if vt.inflight.any fun e => e.idx == k && !e.isStore && (e.mode == .u || e.mode == .s) then
          VT.settleFrom { vt with waiting := seqPop i vt.waiting } i n
        else vt
      | _ => vt

/-- `settleFrom` through all of VP i's sequence, which holds at most 8 operations (R27). -/
def VT.settleVp (vt : VT) (i : Fin 32) : VT := vt.settleFrom i 9

/-- No block runs, waits or is chained on any VP: the VT is reconverged (R32). -/
def VT.reconverged (vt : VT) : Bool :=
  (vt.vps.toList.all fun vp => vp.run.isNone && !vp.thread)
    && vt.waiting.all fun o => match o.op with
      | .block .. => false
      | _ => true

/-- Every CT vector memory instruction issued has been performed (R196). -/
def VT.memoryDone (vt : VT) : Bool := vt.inflight.all fun e => e.done

/-- Every earlier access of the VT is performed: the release set of R110, and the earlier sets of `fence.vs` and
`fence.e` (R109). The stores that its core held have been performed before (log 5). -/
def VT.accessesDone (vt : VT) : Bool := vt.reconverged && vt.memoryDone

/-- An acquire at cluster scope or wider (R87, R108). -/
def State.acquire (s : State) (vt : VT) : State := s.l1Invalidate vt.core

/-- An acquire of exactly these lines (R110). -/
def State.acquireLines (s : State) (core : Nat) (lines : List Nat) : State :=
  s.setCore core { s.core core with l1 := (s.core core).l1.filter fun e => !(lines.contains e.line) }

/-! ### Poison of register units (R345, R346) -/

def VT.isPoisoned (vt : VT) (u : RegUnit) : Bool := vt.poison.contains u

/-- Some unit of the `n` bytes from `lo` of v[r] of VP i is poisoned. -/
def VT.regPoisoned (vt : VT) (i : Fin 32) (r : Reg) (lo n : Nat) : Bool :=
  (List.finRange 16).any fun u => decide (8 * u.val < lo + n) && decide (lo < 8 * u.val + 8) && vt.isPoisoned (.v i r u)

/-- Some unit of p[r] of VP i is poisoned. -/
def VT.predPoisoned (vt : VT) (i : Fin 32) (r : Fin 8) : Bool := (List.finRange 4).any fun u => vt.isPoisoned (.vp i r u)

/-- One of the `n` oldest entries of a queue of VP i is poisoned. -/
def VT.queuePoisoned (vt : VT) (i : Fin 32) (q : QueueKind) (n : Nat) : Bool :=
  (List.range n).any fun k => vt.isPoisoned (.queue i q k)

/-- The poisoned units after `n` entries of a queue of VP i have left it. -/
def popPoison (i : Fin 32) (q : QueueKind) (n : Nat) (l : List RegUnit) : List RegUnit :=
  l.filterMap fun u => match u with
    | .queue j k m => if j = i ∧ k = q then (if m < n then none else some (.queue j k (m - n))) else some u
    | _ => some u

/-- The poisoned units once VP i's inbound and load queues are those of `vp`, of which entries have left. -/
def VT.poisonAfter (vt : VT) (i : Fin 32) (vp : VP) : List RegUnit :=
  popPoison i .inbound (vt.vps[i].inbound.length - vp.inbound.length)
    (popPoison i .load (vt.vps[i].loadQ.length - vp.loadQ.length) vt.poison)

/-- A CT instruction reads a poisoned unit. -/
def VT.ctPoisoned (vt : VT) (g : Guard) (xs : List Reg) (ps : List (Fin 8)) : Bool :=
  xs.any (fun r => r != 0 && vt.isPoisoned (.x r)) || (g.p :: ps).any (fun p => p != 7 && vt.isPoisoned (.p p))

/-- A VP instruction reads a poisoned unit. Of each register it reads the low bytes that `vs` gives; each v31 pops an entry of
the load queue. -/
def VT.vpPoisoned (vt : VT) (i : Fin 32) (g : Guard) (vs : List (Reg × Nat)) (ps : List (Fin 8)) : Bool :=
  vs.any (fun r => r.1 != 31 && vt.regPoisoned i r.1 0 (min r.2 vt.w))
    || vt.queuePoisoned i .load (vs.filter fun r => r.1 == 31).length
    || (g.p :: ps).any (fun p => p != 7 && vt.predPoisoned i p)

/-- Registers that an instruction reads whole. -/
def wholeRegs (rs : List Reg) : List (Reg × Nat) := rs.map fun r => (r, 128)

/-! ### Detecting a fault (R311, R325) -/

/-- A part of the VT has detected a fault: the CT issues no further instruction until the stop is done. -/
def State.detect (s : State) (id : Nat) (f : FaultInfo) : State :=
  s.modVt id fun vt => { vt with detected := vt.detected ++ [f], stopping := true }

/-- A fault of a CT instruction at issue: WHERE 0 (R325). `daddr` is the address for a data cause, else 0. -/
def State.ctFault (s : State) (id : Nat) (vt : VT) (c : Cause) (daddr : Word64) : State :=
  s.detect id { cause := c, place := 0, vp := 0, elem := 0, infl := 0, code := 0, pc := vt.pc, iaddr := vt.pc, daddr }

/-- The VT leaves the list of every future it waits on (R242). -/
def State.leaveFutures (s : State) (id : Nat) : State :=
  { s with futures := s.futures.mapVals fun _ f => { f with waiters := f.waiters.filter fun w => w.1 != id } }

/-- A domain violation of the VT: its waits in future tables are gone, and it will be frozen (R322). -/
def State.violate (s : State) (id : Nat) (f : FaultInfo) : State :=
  (s.leaveFutures id).modVt id fun vt => { vt with violation := some (vt.violation.getD f), stopping := true }

/-- A domain violation of a CT instruction. -/
def State.ctViolation (s : State) (id : Nat) (vt : VT) (addr : Word64) : State :=
  s.violate id { cause := .domain, place := 0, vp := 0, elem := 0, infl := 0, code := 0, pc := vt.pc, iaddr := vt.pc,
                 daddr := addr }

/-- The record of a fault of VP i at the present instruction of its run (R325): WHERE 2, or 3 in a THREAD-mode block. -/
def vpFaultInfo (i : Fin 32) (r : Run) (place : Nat) (c : Cause) (daddr : Word64) (elem : Nat) : FaultInfo :=
  { cause := c, place, vp := i.val, elem, infl := 0, code := 0, pc := r.pc,
    iaddr := r.addr + BitVec.ofNat 64 (4 * r.idx), daddr }

/-- VP i is suspended at its present instruction (R312). -/
def VT.suspend (vt : VT) (i : Fin 32) : VT :=
  let vp := vt.vps[i]
  { vt with vps := vt.vps.set i { vp with run := vp.run.map fun r => { r with suspended := true } } }

/-- A fault of VP i with WHERE 2 or 3. -/
def State.vpFault (s : State) (id : Nat) (i : Fin 32) (r : Run) (c : Cause) (daddr : Word64) (elem : Nat) : State :=
  (s.modVt id fun vt => vt.suspend i).detect id (vpFaultInfo i r (if r.thread then 3 else 2) c daddr elem)

/-- A domain violation of VP i. -/
def State.vpViolation (s : State) (id : Nat) (i : Fin 32) (r : Run) (addr : Word64) (elem : Nat) : State :=
  (s.modVt id fun vt => vt.suspend i).violate id (vpFaultInfo i r (if r.thread then 3 else 2) .domain addr elem)

/-! ### Issuing a CT instruction (R137, R324) -/

/-- An x register of the list waits for the status of a `vtctl` (R179). -/
def VT.awaitsStatus (vt : VT) (xs : List Reg) : Bool := xs.any fun r => vt.waitStatus.any fun p => p.1 == r

/-- The body of a CT instruction whose guard is true; a false guard issues and does nothing else. `xs` and `ps` are the
registers and predicates it reads; it stalls while one of them waits for a status. -/
def State.ctIssue (s : State) (id : Nat) (g : Guard) (xs : List Reg) (ps : List (Fin 8)) (body : VT → State) : State :=
  match s.vt? id with
  | none => s
  | some vt =>
    if vt.ctPoisoned g [] [] then s.ctFault id vt .eccu 0
    else if vt.guardHolds g then
      if vt.awaitsStatus xs then s
      else if vt.ctPoisoned g xs ps then s.ctFault id vt .eccu 0
      else body vt
    else s.setVt id vt.retire

/-- The run of VP i, where it is running. -/
def VT.runOf (vt : VT) (i : Fin 32) : Option Run :=
  match vt.vps[i].run with
  | some r => if r.suspended then none else some r
  | none => none

/-- A CT-only instruction. On a VP the word is not an instruction (R140); the device executes none. -/
def State.ctOnly (s : State) (g : Guard) (xs : List Reg) (ps : List (Fin 8)) (body : Nat → VT → State) : State :=
  match s.who with
  | .ct id => s.ctIssue id g xs ps (body id)
  | .vp id i =>
    match s.vt? id with
    | none => s
    | some vt =>
      match vt.runOf i with
      | none => s
      | some r => s.vpFault id i r .illop 0 0
  | .device => s

/-- A cause that a CT instruction finds at issue from the VT's state, before it waits for anything (R324). -/
def State.preFault (s : State) (id : Nat) (g : Guard) (pre : VT → Option Cause) : Option State :=
  match s.vt? id with
  | none => none
  | some vt =>
    if vt.guardHolds g && !(vt.ctPoisoned g [] []) then (pre vt).map fun c => s.ctFault id vt c 0 else none

/-- A CT-only instruction with checks that no register it reads settles: they come before its waits (R324). -/
def State.ctOnlyIf (s : State) (pre : VT → Option Cause) (g : Guard) (xs : List Reg) (ps : List (Fin 8))
    (body : Nat → VT → State) : State :=
  match s.who with
  | .ct id => (s.preFault id g pre).getD (s.ctOnly g xs ps body)
  | _ => s.ctOnly g xs ps body

/-- A CT instruction that reads and writes registers alone. -/
def State.ctRegs (s : State) (g : Guard) (xs : List Reg) (f : VT → VT) : State :=
  s.ctOnly g xs [] fun id vt => s.setVt id (f vt).retire

/-! ### Running an instruction on a VP (R26, R28, R200) -/

/-- What an instruction of a block sees besides its VP's registers. -/
structure VpEnv where
  w : Nat
  it : Nat
  ft : Nat
  frm : Nat
  i : Fin 32
deriving DecidableEq, Repr

/-- The environment of a run: the captured VCFG (R141). -/
def VT.env (vt : VT) (r : Run) (i : Fin 32) : VpEnv :=
  { w := vt.w, it := vcfgIt r.cap.vcfg, ft := vcfgFt r.cap.vcfg, frm := vcfgFrm r.cap.vcfg, i }

/-- Bits and number of IT elements (R200). -/
def VpEnv.eInt (e : VpEnv) : Nat := itBits e.it
def VpEnv.nInt (e : VpEnv) : Nat := 8 * e.w / itBits e.it

/-- Bits and number of FT elements (R200). -/
def VpEnv.eFlt (e : VpEnv) : Nat := ftBits e.ft
def VpEnv.nFlt (e : VpEnv) : Nat := 8 * e.w / ftBits e.ft

/-- The number of instructions of a block: its header's LEN, which is the number of words after the header. -/
def Run.len (r : Run) : Nat := r.words.length - 1

/-- The end of a block: a named successor puts the VP into THREAD mode, else it is in LOCKSTEP (R28). -/
def VP.endBlock (vp : VP) (r : Run) : VP :=
  match r.named with
  | some a => { vp with run := none, thread := true, next := a, chain := some (r.cap, r.pc) }
  | none => { vp with run := none, thread := false, next := 0, chain := none }

/-- The VP goes on to its block's next instruction, or ends the block. -/
def VP.advance (vp : VP) (r : Run) : VP :=
  if r.idx < r.len then { vp with run := some { r with idx := r.idx + 1 } } else vp.endBlock r

/-- A VP instruction has completed with these flags. -/
def VT.vpRetire (vt : VT) (i : Fin 32) (r : Run) (vp : VP) (fl : FFlags) : VT :=
  ({ vt with vps := vt.vps.set i (vp.advance r), fflags := vt.fflags ||| fl, poison := vt.poisonAfter i vp } : VT).settleVp i

/-- The present instruction of a run. -/
def Run.instr (r : Run) : Option Instr :=
  match r.words[r.idx]? with
  | none => none
  | some w =>
    match decode w with
    | .ok x => some x
    | .error _ => none

/-- The v registers that the present instruction of a run names. -/
def Run.vNames (r : Run) : List Reg := (r.instr.map vNamed).getD []

/-- The body of a VP instruction; `vs` and `ps` are the registers and predicates it reads. Flow control is by guards
inside the instruction. -/
def State.vpIssue (s : State) (id : Nat) (i : Fin 32) (g : Guard) (vs : List (Reg × Nat)) (ps : List (Fin 8))
    (body : VT → Run → State) : State :=
  match s.vt? id with
  | none => s
  | some vt =>
    match vt.runOf i with
    | none => s
    | some r =>
      if vt.interlocked i r.vNames then s
      else if vt.vpPoisoned i g vs ps then s.vpFault id i r .eccu 0 0
      else body vt r

/-- A VP-only instruction. In CT code the word is not an instruction (R140, R327). -/
def State.vpOnly (s : State) (g : Guard) (vs : List (Reg × Nat)) (ps : List (Fin 8)) (body : Nat → Fin 32 → VT → Run → State) :
    State :=
  match s.who with
  | .vp id i => s.vpIssue id i g vs ps (body id i)
  | .ct id =>
    match s.vt? id with
    | none => s
    | some vt => s.ctFault id vt .illop 0
  | .device => s

/-- A VP instruction on registers alone; `none` where it waits for a queue (R40, R42). -/
def State.vpRegs (s : State) (g : Guard) (vs : List Reg) (ps : List (Fin 8))
    (f : VpEnv → Run → VP → Option (VP × FFlags)) : State :=
  s.vpOnly g (wholeRegs vs) ps fun id i vt r =>
    match f (vt.env r i) r vt.vps[i] with
    | none => s
    | some (vp, fl) => s.setVt id (vt.vpRetire i r vp fl)

/-- A VP write of a whole register under one guard bit: an unguarded write changes nothing, and a push carries the guard
in every mask bit (R40, R137). -/
def VP.writeWhole (vp : VP) (w : Nat) (guard : Bool) (d : Reg) (value : VReg) : Option VP :=
  if d = 31 then vp.dest d (if guard then value else 0) (if guard then lowOnes 128 w else 0)
  else if guard then vp.dest d value 0 else some vp

/-- A shared instruction on registers alone (R140, R158). -/
def State.shared (s : State) (g : Guard) (rs : List Reg) (ps : List (Fin 8)) (ct : VT → VT)
    (vp : VpEnv → VP → Option VP) : State :=
  match s.who with
  | .ct id => s.ctIssue id g rs ps fun vt => s.setVt id (ct vt).retire
  | .vp _ _ => s.vpRegs g rs ps fun e _ v => (vp e v).map fun v => (v, 0)
  | .device => s

/-! ### Spaces and windows (R70 to R74, R337) -/

/-- The bytes of a window of the VT: 1 CSP, 2 TCM. -/
def State.windowSize (s : State) (vt : VT) (space : Nat) : Nat :=
  if space = 1 then (match s.gangs.get? vt.gang with
    | some g => g.cspwin * 2048
    | none => 0)
  else vt.tcmwin * 4096

/-- The contents of a window. -/
def State.window (s : State) (vt : VT) (space : Nat) : List Host.Cell :=
  if space = 1 then (match s.gangs.get? vt.gang with
    | some g => g.csp
    | none => [])
  else vt.tcm

/-- Some unit of the bytes of a window is poisoned: words of 4 bytes in CSP, units of 8 in TCM (R345). -/
def State.windowPoisoned (s : State) (vt : VT) (space off n : Nat) : Bool :=
  let units (k : Nat) (l : List Nat) : Bool :=
    (List.range ((off + n - 1) / k - off / k + 1)).any fun j => l.contains (off / k + j)
  if space = 1 then (match s.gangs.get? vt.gang with
    | some g => units 4 g.cspPoison
    | none => false)
  else units 8 vt.tcmPoison

/-- Units of `k` bytes that a masked write covers whole lose their mark. -/
def clearUnits (k : Nat) (l : List Nat) (off : Nat) (ms : List Bool) : List Nat :=
  l.filter fun u =>
    !((List.range k).all fun j => off ≤ u * k + j && u * k + j < off + ms.length && (ms[u * k + j - off]?).getD false)

/-- Masked bytes written into a gang's CSP window. -/
def State.cspWrite (s : State) (gang off : Nat) (bs : List (Byte × Bool)) : State :=
  match s.gangs.get? gang with
  | none => s
  | some g =>
    let g := { g with csp := Memory.writeMasked g.csp off bs
                      cspPoison := clearUnits 4 g.cspPoison off (bs.map Prod.snd) }
    { s with gangs := s.gangs.set gang g }

/-- Masked bytes written into a VT's TCM window. -/
def State.tcmWrite (s : State) (id off : Nat) (bs : List (Byte × Bool)) : State :=
  s.modVt id fun vt => { vt with tcm := Memory.writeMasked vt.tcm off bs
                                 tcmPoison := clearUnits 8 vt.tcmPoison off (bs.map Prod.snd) }

/-- Masked bytes written into a window of the VT `id`. -/
def State.windowWrite (s : State) (id : Nat) (vt : VT) (space off : Nat) (bs : List (Byte × Bool)) : State :=
  if space = 1 then s.cspWrite vt.gang off bs else s.tcmWrite id off bs

/-- A load of `n` bytes of a space by the VT: a 64-bit address in global space, a window offset otherwise. -/
def State.loadSpace (s : State) (vt : VT) (space : Nat) (addr : Int) (n : Nat) (h : Hint) : Access (List Byte) :=
  if space = 0 then s.loadGlobal vt.core vt.domain addr.toNat n h
  else if addr < 0 ∨ (s.windowSize vt space : Int) < addr + n then .fault .bound s
  else if s.windowPoisoned vt space addr.toNat n then .fault .eccu s
  else .ok (Memory.readBytes (s.window vt space) addr.toNat n) s

/-- A store of masked bytes to a space by the VT `id`. -/
def State.storeSpace (s : State) (id : Nat) (vt : VT) (space : Nat) (addr : Int) (bs : List (Byte × Bool)) (h : Hint) :
    Access Unit :=
  if space = 0 then s.storeGlobal vt.core vt.domain addr.toNat bs h
  else if addr < 0 ∨ (s.windowSize vt space : Int) < addr + bs.length then .fault .bound s
  else .ok () (s.windowWrite id vt space addr.toNat bs)

/-- The checks of a store of `n` bytes to a space, without the store. -/
def State.checkSpace (s : State) (vt : VT) (space : Nat) (addr : Int) (n : Nat) (h : Hint) : Access Unit :=
  if space = 0 then s.storeCheck vt.core vt.domain addr.toNat n h
  else if addr < 0 ∨ (s.windowSize vt space : Int) < addr + n then .fault .bound s
  else .ok () s

/-- An atomic on a space by the VT `id` (R167, R169). -/
def State.atomicSpace (s : State) (id : Nat) (vt : VT) (space : Nat) (addr : Int) (n : Nat) (f : Nat → Option Nat) :
    Access Nat :=
  if space = 0 then s.atomicGlobal vt.core vt.domain addr.toNat n f
  else if addr < 0 ∨ (s.windowSize vt space : Int) < addr + n then .fault .bound s
  else if s.windowPoisoned vt space addr.toNat n then .fault .eccu s
  else
    let old := leNat (Memory.readBytes (s.window vt space) addr.toNat n)
    match f old with
    | none => .ok old s
    | some v => .ok old (s.windowWrite id vt space addr.toNat ((leBytes n v).map fun b => (b, true)))

/-- A sum in a space: modulo 2^64 in global space, exact in a window (R71). -/
def spaceAddr (space : Nat) (a : Int) : Int := if space = 0 then a % (2 ^ 64 : Nat) else a

/-- TAG and BASE of a segment register (R60). -/
def segTag (v : Word64) : Nat := bits64 v 62 2
def segBase (v : Word64) : Nat := bits64 v 0 48

/-- Space and address of a VP access: the captured segment's TAG, and its BASE plus the low 4 bytes of a register plus an
offset (R71, R216). -/
def Run.segAddr (r : Run) (seg : Fin 4) (ix : VReg) (off : Int) : Nat × Int :=
  let v := r.cap.seg[seg]
  (segTag v, spaceAddr (segTag v) ((segBase v : Int) + (elem 32 ix 0).toNat + off))

/-- The bytes of a sized form, and whether an `ldv` of it sign-extends (R216); SZ 7 is the whole register. -/
def sizedBytes (sz : Fin 8) : Nat := if sz.val ≤ 1 then 1 else if sz.val ≤ 3 then 2 else if sz.val ≤ 5 then 4 else 8
def sizedSigned (sz : Fin 8) : Bool := sz.val % 2 == 0

/-! ### Vector memory in flight (R192, R193, R25, R106) -/

/-- Bytes of an element (R192). -/
def InFlight.elemBytes (e : InFlight) (w : Nat) : Nat := if e.mode = .e then itBits e.it / 8 else w

/-- Element numbers of the instruction (R192). -/
def InFlight.count (e : InFlight) (w : Nat) : Nat := 32 * e.perVp w

/-- The address of VP i's k-th element, from the index register where the mode has one (R193). -/
def InFlight.addr (e : InFlight) (w : Nat) (vp : VP) (i : Fin 32) (k : Nat) : Int :=
  let base : Int := if e.space = 0 then (e.base.toNat : Int) else e.base.toInt
  spaceAddr e.space (match e.mode with
    | .u => base + i.val * w
    | .s => base + i.val * e.stride.toInt
    | .x => base + (vp.v[e.b].toNat % 2 ^ 32 : Nat)
    | .e =>
      let b := itBits e.it
      let ix := (elem b vp.v[e.b] k).toNat
      base + (if itSigned e.it then sext b ix else (ix : Int)) * (b / 8 : Nat))

/-- The mode reads an index register. -/
def InFlight.indexed (e : InFlight) : Bool := e.mode == .x || e.mode == .e

/-- The vector memory instruction of an in-flight entry. -/
def VT.entry (vt : VT) (k : Fin 8) : Option InFlight := vt.inflight.find? fun e => e.idx == k

/-- An entry replaced. -/
def VT.setEntry (vt : VT) (x : InFlight) : VT :=
  { vt with inflight := vt.inflight.map fun e => if e.idx = x.idx then x else e }

/-- The operation is at the head of VP i's sequence, and VP i is between blocks in LOCKSTEP. -/
def VT.atHead (vt : VT) (k : Fin 8) (i : Fin 32) : Bool :=
  vt.vps[i].run.isNone && !vt.vps[i].thread && (vt.seqHead i).any fun o => o.op == .mem k

/-- VP i's sequence has reached the instruction: one that reads VP i's registers or queues is at its head; another load
has left the sequence (R25, log 6). An element that is performed again has been reached before. -/
def VT.reached (vt : VT) (e : InFlight) (i : Fin 32) : Bool :=
  if e.next vt.w i != e.prog[i] then true
  else if e.isStore || e.indexed then vt.atHead e.idx i
  else !(vt.waiting.any fun o => o.op == .mem e.idx && o.mask.getLsbD i.val)

/-- The registers of VP i that the instruction reads or writes. -/
def InFlight.names (e : InFlight) : List Reg := (if e.queueForm then [] else [e.v]) ++ if e.indexed then [e.b] else []

/-- VP i's elements wait for an older load to one of its registers (R25). -/
def VT.behindLoad (vt : VT) (e : InFlight) (i : Fin 32) : Bool :=
  ((vt.pendingLoads i).takeWhile fun o => o.idx != e.idx).any fun o => !o.isStore && !o.queueForm && e.names.contains o.v

/-- Nothing of VP i's sequence stands between it and its elements of the instruction. -/
def VT.mayAttempt (vt : VT) (e : InFlight) (i : Fin 32) : Bool := vt.reached e i && !(vt.behindLoad e i)

/-- The lowest fault or violation of an element of the instruction in the present stop. -/
def VT.faultedAt (vt : VT) (e : InFlight) : Option Nat :=
  ((vt.detected ++ vt.violation.toList).filter fun f => f.place == 1 && f.infl == e.idx.val).foldl
    (fun b f => match b with
      | some n => some (min n f.elem)
      | none => some f.elem) none

/-- The VPs whose next elements of an instruction no request of theirs can perform: their sequences have not come to it, they
have faulted, or they wait for such an element of an older instruction (R25, R103, R348). `older` lists the older instructions
with such VPs. -/
def VT.stuckOf (vt : VT) (older : List (InFlight × List (Fin 32))) (e : InFlight) : List (Fin 32) :=
  (List.finRange 32).filter fun i => !(e.vpPerformed vt.w i)
    && (!(vt.reached e i) || (vt.faultedAt e).any (fun f => f ≤ e.nextNumber vt.w i)
      || older.any fun o => (decide (o.1.strip < e.strip) && o.2 != [])
        || (o.2.contains i && !o.1.isStore && !o.1.queueForm && e.names.contains o.1.v))

/-- The instructions in flight, oldest first, each with its stuck VPs. -/
def VT.stuckFrom (vt : VT) (older : List (InFlight × List (Fin 32))) : List InFlight → List (InFlight × List (Fin 32))
  | [] => older
  | e :: es => VT.stuckFrom vt (older ++ [(e, vt.stuckOf older e)]) es

/-- The stuck VPs of an instruction in flight. -/
def VT.stuck (vt : VT) (e : InFlight) : List (Fin 32) :=
  (((vt.stuckFrom [] vt.inflight).find? fun o => o.1.idx == e.idx).map Prod.snd).getD []

/-- The elements below this number are performed before a stop or a pre-emption: those up to the highest performed, and those
below one that faults (R199, R314). -/
def VT.boundaryOf (vt : VT) (e : InFlight) : Nat := max (e.highest vt.w) ((vt.faultedAt e).getD 0)

/-- The start element that a stop records: the lowest faulting one, with every element below it performed; else one above
the highest performed (R199, R314). An element below those that a stuck VP carries is named instead (log 14). -/
def VT.startElement (vt : VT) (e : InFlight) : Nat :=
  max e.start (min (e.lowest vt.w) (match vt.faultedAt e with
    | some n => n
    | none => e.highest vt.w))

/-- The instruction stands at an element boundary (R199, R314). A stuck VP is not waited for (R54, log 14). -/
def VT.atBoundary (vt : VT) (e : InFlight) : Bool :=
  e.done || (List.finRange 32).all fun i => e.vpPerformed vt.w i || decide (vt.boundaryOf e ≤ e.nextNumber vt.w i)
    || (vt.stuck e).contains i

/-- Two ranges of bytes of one space share a byte. -/
def rangesMeet (a : Int) (m : Nat) (b : Int) (n : Nat) : Bool := a < b + n && b < a + m

/-- An element of VP i that comes earlier in its sequence and has not been performed shares a byte with its access (R106):
only a load whose address the CT fixed can be so. -/
def VT.ordersBehind (vt : VT) (i : Fin 32) (space : Nat) (addr : Int) (n : Nat) : Bool :=
  (vt.pendingLoads i).any fun e =>
    e.space == space && rangesMeet (e.addr vt.w vt.vps[i] i 0) (e.elemBytes vt.w) addr n

/-- An access of VP i waits for its earlier elements: those of the same bytes, or, under an order other than relaxed, all
of them (R106). -/
def VT.memHeld (vt : VT) (i : Fin 32) (space : Nat) (addr : Int) (n : Nat) (relaxed : Bool) : Bool :=
  if relaxed then vt.ordersBehind i space addr n else !(vt.pendingLoads i).isEmpty

/-- Space, address and bytes of the access of a VP instruction, and whether its order is relaxed (R167, R216). -/
def VT.vpTarget (vt : VT) (i : Fin 32) (r : Run) (x : Instr) : Option (Nat × Int × Nat × Bool) :=
  let at' (a : Reg) (seg : Fin 4) (off : Int) (m : Nat) (relaxed : Bool) : Option (Nat × Int × Nat × Bool) :=
    (vt.vps[i].source a).map fun v =>
      let t := r.segAddr seg v.1 off
      (t.1, t.2, m, relaxed)
  match x with
  | .ldv _ _ a seg sz imm | .stv _ _ a seg sz imm =>
    let m := if sz = 7 then vt.w else sizedBytes sz
    at' a seg (sext 7 imm.val * m) m true
  | .amowSwap _ _ x _ o sc | .amowAdd _ _ x _ o sc | .amowAnd _ _ x _ o sc | .amowOr _ _ x _ o sc
  | .amowXor _ _ x _ o sc | .amowMin _ _ x _ o sc | .amowMax _ _ x _ o sc | .amowCas _ _ x _ o sc => at' x sc 0 4 (o == .rlx)
  | .amodSwap _ _ x _ o sc | .amodAdd _ _ x _ o sc | .amodAnd _ _ x _ o sc | .amodOr _ _ x _ o sc
  | .amodXor _ _ x _ o sc | .amodMin _ _ x _ o sc | .amodMax _ _ x _ o sc | .amodCas _ _ x _ o sc => at' x sc 0 8 (o == .rlx)
  | _ => none

/-- A CT scalar access: its effect on the state, its fault, its violation, or the wait. -/
def State.ctAccess {α : Type} (s : State) (id : Nat) (vt : VT) (addr : Word64) (r : Access α) (k : α → State → State) :
    State :=
  match r with
  | .ok a s' => k a s'
  | .fault c s' => s'.ctFault id vt c addr
  | .violation => s.ctViolation id vt addr
  | .wait s' => s'

/-- What a CT access finds before it is performed: MISALIGN, then what its translation finds; `none` where that lets it
pass (R313, R324). -/
def State.earlyFault (s : State) (id : Nat) (vt : VT) (addr : Word64) (n : Nat) (k : AccessKind) : Option State :=
  if addr.toNat % n ≠ 0 then some (s.ctFault id vt .misalign addr)
  else
    match s.gatedAccess vt.core vt.domain addr.toNat k with
    | .ok .. => none
    | .fault c s => some (s.ctFault id vt c addr)
    | .violation => some (s.ctViolation id vt addr)
    | .wait s => some s

/-- A CT instruction, while some of `xs` waits for a status: the checks that need `as` alone come before its stall
(R324). -/
def State.ctEarly (s : State) (g : Guard) (as xs : List Reg) (early : Nat → VT → Option State) (k : State) : State :=
  match s.who with
  | .ct id =>
    match s.vt? id with
    | some vt =>
      if vt.guardHolds g && vt.awaitsStatus xs && !(vt.awaitsStatus as) && !(vt.ctPoisoned g as []) then (early id vt).getD k
      else k
    | none => k
  | _ => k

/-- A CT access of `n` bytes once the slices take its requests; until then the CT stalls (R89 to R91). -/
def State.ctGated (s : State) (vt : VT) (addr : Word64) (n : Nat) (k : AccessKind) (f : State → State) : State :=
  match s.gated vt.core vt.domain addr.toNat n k .normal with
  | .error s' => s'
  | .ok s' => f s'

/-! ### Parking and waking (R47, R48, R50) -/

/-- The VT parks after the instruction at its PC. -/
def State.parkVt (s : State) (id : Nat) (vt : VT) (r : ParkReason) : State :=
  s.setVt id { vt.retire with st := .parked, park := some (r, vt.pc), parkedAt := s.vtNow vt }

/-- What a wake does to a VT before it is READY: `f` writes the parking instruction's result. With a fault of that instruction
held it has no result, and issues again after RESUME (R321, R359). -/
def VT.woken (vt : VT) (f : VT → VT) : VT :=
  match vt.park with
  | some (_, pc) => if vt.detected.any fun e => e.place == 0 && e.pc == pc then { vt with pc } else f vt
  | none => f vt

/-- The VT once it has woken: READY where the context is resident, else READY-OUT; `f` writes the instruction's result. A
fault held while the VT was parked is then taken (R311). A VT that a violation freezes is registered nowhere any more
(R322). -/
def VT.awake (vt : VT) (now : Nat) (f : VT → VT) : VT :=
  if vt.violation.isSome then vt
  else
    { vt.woken f with park := none, st := if vt.resident then .ready else .readyOut, readyAt := now, aged := false }

/-- STATE, PC and x1 to x31 in the stored record of a VT (R66). -/
def State.rewriteRecord (s : State) (vt : VT) : State :=
  match vt.ctx with
  | none => s
  | some c =>
    let mem := Memory.writeBytes s.mem (c.1 + 0x06) (leBytes 1 (if vt.st = .readyOut then 2 else 3))
    let regs := leBytes 8 vt.pc.toNat ++ (vt.x.toList.drop 1).flatMap fun v => leBytes 8 v.toNat
    { s with mem := Memory.writeBytes mem (c.1 + 0x40) regs }

/-- The VT stood in a cluster that is cordoned, or on a severed die, and nothing reaches it any more; a VT of a stored gang
stands in none (R253, R359, R362, R365). -/
def State.vtCut (s : State) (v : VT) : Bool :=
  !((s.gangs.get? v.gang).any fun g => g.st == .stored) && s.cutOff (clusterTile (clusterOfCore v.core))

/-- A wake. What it writes for a VT that is stored goes into its context record (R66). -/
def State.wake (s : State) (id : Nat) (f : VT → VT) : State :=
  match s.vt? id with
  | none => s
  | some vt =>
    let w := vt.awake (s.vtNow vt) f
    (if vt.resident then s else s.rewriteRecord w).setVt id w

/-- A wake that acquires (R110). A swap-in drops the L1 as well (log 6). -/
def State.wakeAcquire (s : State) (id : Nat) (f : VT → VT) : State :=
  match s.vt? id with
  | some vt => (if vt.resident then s.acquire vt else s).wake id f
  | none => s

/-- A wake whose instruction faults: it is taken at the parking instruction, which issues again after RESUME (R242,
R311, R321). -/
def State.wakeFault (s : State) (id : Nat) (c : Cause) (daddr : Word64) : State :=
  match s.vt? id with
  | none => s
  | some vt =>
    match vt.park with
    | none => s
    | some (_, pc) =>
      let vt' := { vt with pc }
      (s.wake id fun v => { v with pc }).ctFault id vt' c daddr

/-! ### Event records (R113, R316, R317) -/

/-- `bs` with bytes replaced from an offset. -/
def putBytes (bs : List Byte) (off : Nat) (xs : List Byte) : List Byte := bs.take off ++ xs ++ bs.drop (off + xs.length)

/-- The 128 bytes of a record with its fields at their offsets. -/
def recordBytes (fields : List (Nat × List Byte)) : List Byte :=
  fields.foldl (fun bs f => putBytes bs f.1 f.2) (List.replicate 128 0)

/-- The slot of a record, where the post can write it: a failure of any part writes nothing (R316). It waits for a link that
retrains, for a walk that is held, and for entries at the slices (R90, R341, R347). -/
def State.postSlot (s : State) (dom va : Nat) : Access Trans :=
  let data := match s.resolve va (s.walk dom va) with
    | some t => s.slicesOf (cachingOf t.leaf t.loc .normal) .store t.loc 128
    | none => []
  match s.gate (.post dom) (s.walkSlices dom va ++ data).eraseDups with
  | .error s => .wait s
  | .ok s => (s.accessWalk dom va .store).bind fun t s => (s.reachHome .store t 128 .normal).bind fun _ s => .ok t s

/-- A post's writes: SEQ 0, the body, SEQ k (R316). -/
def State.postBytes (s : State) (t : Trans) (rec' : List Byte) (k : Nat) : State :=
  let put (s : State) (off : Nat) (bs : List Byte) : State :=
    s.homeWrite (cachingOf t.leaf t.loc .normal) (t.loc + off) (bs.map fun b => (b, true))
  put (put (put s 0 (leBytes 8 0)) 8 (rec'.drop 8)) 0 (leBytes 8 k)

/-- A post is tried: `false` where it waits. What it needs of the slices is no request of the operation around it. -/
def State.tryPost (s : State) (p : DuePost) : State × Bool :=
  match s.postSlot p.domain p.va with
  | .ok t s' => ({ s' with wants := s.wants }.postBytes t p.record p.seq, true)
  | .wait s' => ({ s' with wants := s.wants }, false)
  | .fault _ s' => ({ s' with wants := s.wants }, true)
  | .violation => (s, true)

/-- A post is made, or stands behind those of its domain that wait. -/
def State.postOrWait (s : State) (p : DuePost) : State :=
  if s.duePosts.any fun q => q.domain == p.domain then { s with duePosts := s.duePosts ++ [p] }
  else
    match s.tryPost p with
    | (s, true) => s
    | (s, false) => { s with duePosts := s.duePosts ++ [p] }

/-- The posts that wait are tried again, those of each domain in their order. -/
def State.settlePosts (s : State) : State :=
  if s.duePosts = [] then s
  else s.duePosts.foldl State.postOrWait { s with duePosts := [] }

/-- A record is posted to the domain's event ring: SEQ 0, the body, SEQ k (R316). A failed write consumes the sequence
number; a domain whose EVRING is 0 has no ring (log 19). FAULT, FREEZE and CORDON records are kept for the dump (R323). -/
def State.post (s : State) (dom typ source : Nat) (fields : List (Nat × List Byte)) : State :=
  let d := s.domain dom
  let k := d.seq + 1
  let s := s.setDomain dom { d with seq := k }
  let n := 2 ^ (bits64 d.evring 48 4 + 5)
  let va := bits64 d.evring 12 36 * 4096 + (k - 1) % n * 128
  let rec' := recordBytes ([(8, leBytes 1 typ), (9, leBytes 1 1), (10, leBytes 2 source), (12, leBytes 4 s.mseq.toNat)]
    ++ fields)
  let s := if d.evring = 0 then s else s.postOrWait { domain := dom, va, record := rec', seq := k }
  if typ = 1 ∨ typ = 2 ∨ typ = 0x10 then
    { s with records := (s.records ++ [putBytes rec' 0 (leBytes 8 k)]).drop (s.records.length + 1 - 65536) }
  else s

/-- One record to every domain (R317). -/
def State.postAll (s : State) (typ source : Nat) (fields : Nat → List (Nat × List Byte)) : State :=
  (List.range 64).foldl (fun s d => s.post d typ source (fields d)) s

/-- A slot ID: queue in [27:16], slot in [15:0] (R255). -/
def slotId (r : SlotRef) : Nat := r.queue * 2 ^ 16 + r.slot

/-! ### Taking a fault (R311, R315, R318) -/

/-- Cause codes (R310). -/
def Cause.code : Cause → Nat
  | .illop => 0x01
  | .illcfg => 0x02
  | .misalign => 0x03
  | .xlate => 0x04
  | .perm => 0x05
  | .lost => 0x06
  | .cordon => 0x07
  | .eccu => 0x08
  | .bound => 0x09
  | .queue => 0x0A
  | .futh => 0x0B
  | .engcmd => 0x0C
  | .domain => 0x0D
  | .trapi => 0x10

/-- FAULTREC words 0 to 3 (R315). -/
def faultWords (f : FaultInfo) : Vector Word64 4 :=
  #v[BitVec.ofNat 64 (f.elem * 2 ^ 40 + f.vp * 2 ^ 35 + f.infl * 2 ^ 32 + f.place * 2 ^ 28 + f.code * 2 ^ 8 + f.cause.code),
     f.pc, f.iaddr, if f.fetch then 0 else f.daddr]

/-- The bytes of FAULTREC, ISSUED and the identity of a VT at the offsets of a FAULT record (R318). -/
def faultFields (id : Nat) (vt : VT) : List (Nat × List Byte) :=
  [(0x10, leBytes 4 id), (0x14, leBytes 4 vt.gangId), (0x18, leBytes 2 vt.rank),
   (0x1C, leBytes 4 (match vt.launch with
     | some r => slotId r
     | none => 0)),
   (0x20, vt.faultrec.toList.flatMap fun w => leBytes 8 w.toNat), (0x40, leBytes 8 vt.issued.toNat)]

/-- The stores that were performed ahead of an element that faulted are to be performed again (R314). -/
def VT.repeatAhead (vt : VT) (e : InFlight) : List Ahead :=
  match vt.faultedAt e with
  | some f => e.ahead.map fun a => { a with again := a.again || decide (f < a.elem) }
  | none => e.ahead

/-- Frames, TCM window and claim store are released; the context is stored, each instruction in flight with its start
element and without its entries at the slices (R311, R47, R199). -/
def VT.evict (vt : VT) : VT :=
  { vt with resident := false, reserved := false, claimWait := false, mopSince := none, awaited := 0
            inflight := vt.inflight.map fun e =>
              { e with start := vt.startElement e, held := [], ahead := vt.repeatAhead e } }

/-- Frames of a VT (R21). -/
def VT.frames (vt : VT) : Nat := 2 ^ vt.wsel.val

/-- A gang of the placement queue of cluster `g` is AGED (R266). -/
def State.agedWaiting (s : State) (g : Nat) : Bool :=
  (s.cluster g).queue.any fun k => match s.gangs.get? k with
    | some x => x.st == .aged
    | none => false

/-- What a VT that leaves its core frees is held for an AGED gang of the cluster (R266). To be applied before it leaves. -/
def State.holdFreed (s : State) (vt : VT) : State :=
  if (vt.resident || vt.reserved) && s.agedWaiting (clusterOfCore vt.core) then
    let k := s.core vt.core
    s.setCore vt.core { k with heldFrames := k.heldFrames + vt.frames, heldTcm := k.heldTcm + vt.tcmwin }
  else s

/-- The CSP units of a placed gang. -/
def Gang.units (g : Gang) : BitVec 4096 := lowOnes 4096 g.cspwin <<< g.base

/-- The CSP window of a placed gang is freed; an AGED gang of the cluster holds it (R266). -/
def State.holdCsp (s : State) (g : Gang) : State :=
  if g.st = .placed ∧ s.agedWaiting g.cluster = true then
    let c := s.cluster g.cluster
    s.setCluster g.cluster { c with heldCsp := c.heldCsp ||| g.units }
  else s

/-- With no AGED gang left in a cluster nothing is held there (R266). -/
def State.settleHold (s : State) (g : Nat) : State :=
  if s.agedWaiting g then s
  else
    { s.setCluster g { s.cluster g with heldCsp := 0 } with
      cores := s.cores.mapVals fun n k => if clusterOfCore n = g then { k with heldFrames := 0, heldTcm := 0 } else k }

/-- A VT stalls at no engine FIFO any more: what it waited with enters again where it issues again (R244). -/
def State.leaveFifo (s : State) (id : Nat) : State := { s with fifoWait := s.fifoWait.filter fun w => w.2.2 != id }

/-- TAKING A FAULT: the record is written into FAULTREC, the VT leaves its core and is FAULTED, and a FAULT record is
posted to the domain's event ring (R311 step 4, R315, R318). What is left in place is detected again after RESUME. -/
def State.takeFault (s : State) (id : Nat) (f : FaultInfo) : State :=
  match s.vt? id with
  | none => s
  | some vt0 =>
    let vt := { vt0.evict with faultrec := faultWords f, st := .faulted, stopping := false, detected := [] }
    (((s.holdFreed vt0).leaveFifo id).setVt id vt).post vt.domain 1 (clusterTile (clusterOfCore vt.core)) (faultFields id vt)

/-- A suspended VP goes on after RESUME (R312). -/
def VP.unsuspend (vp : VP) : VP := { vp with run := vp.run.map fun r => { r with suspended := false } }

/-- THE RETURN FROM A FAULT: a FAULTED VT becomes READY-OUT, with its suspended VPs at their instructions; what faulted
is attempted again (R312, R320, R321). -/
def VT.resume (vt : VT) : VT := { vt with st := .readyOut, vps := vt.vps.map VP.unsuspend, aged := false }

/-- The fault that a stop records, of those detected: CT instructions at issue, then CT vector memory by age and
element, then the lowest VP (R313). -/
def chooseFault (vt : VT) (fs : List FaultInfo) : Option FaultInfo :=
  let age (f : FaultInfo) : Nat := (vt.inflight.findIdx? fun e => e.idx.val == f.infl).getD 8
  let rank (f : FaultInfo) : Nat :=
    if f.place = 0 ∨ f.place = 4 then 0
    else if f.place = 1 then 1 + age f * 65536 + f.elem
    else 1048576 + f.vp
  fs.foldl (fun best f => match best with
    | none => some f
    | some b => if rank f < rank b then some f else some b) none

/-! ### Barriers (R233 to R235) -/

/-- A member's wait on barrier `b` ends (R234). -/
def State.endBarrierWait (s : State) (gang : Nat) (b : Fin 16) (id : Nat) : State :=
  match s.vt? id with
  | none => s
  | some vt =>
    match vt.park, s.gangs.get? gang with
    | some (.barw b', _), some g =>
      if b' = b then
        let bar := g.barriers[b]
        let g := { g with barriers := g.barriers.set b { bar with pend := bar.pend &&& ~~~(BitVec.twoPow 1024 vt.rank) } }
        ({ s with gangs := s.gangs.set gang g }).wakeAcquire id fun v => v
      else s
    | _, _ => s

/-- The phase of barrier `b` completes: PHASE inverts, ARR and COUNT clear, every waiting member wakes (R234). -/
def State.completeBarrier (s : State) (gang : Nat) (b : Fin 16) : State :=
  match s.gangs.get? gang with
  | none => s
  | some g =>
    let bar := g.barriers[b]
    let g' := { g with barriers := g.barriers.set b { bar with phase := !bar.phase, arr := 0, count := 0 } }
    g.members.foldl (fun s id => s.endBarrierWait gang b id) { s with gangs := s.gangs.set gang g' }

/-- MEM is not empty and every bit of MEM is set in ARR (R233). -/
def Gang.phaseComplete (g : Gang) (b : Fin 16) : Bool := g.mem != 0 && g.mem &&& g.barriers[b].arr == g.mem

/-- Barrier `b` completes where its phase is complete. -/
def State.settleBarrier (s : State) (gang : Nat) (b : Fin 16) : State :=
  match s.gangs.get? gang with
  | some g => if g.phaseComplete b then s.completeBarrier gang b else s
  | none => s

/-- A member leaves MEM, ARR and PEND of its gang's barriers; a phase that this completes ends (R235). -/
def State.leaveBarriers (s : State) (gang rank : Nat) : State :=
  match s.gangs.get? gang with
  | none => s
  | some g =>
    let m : BitVec 1024 := ~~~(BitVec.twoPow 1024 rank)
    let g' := { g with
      mem := g.mem &&& m
      barriers := g.barriers.map fun b =>
        { b with arr := b.arr &&& m, pend := b.pend &&& m
                 count := if b.arr.getLsbD rank then b.count - 1 else b.count } }
    (List.finRange 16).foldl (fun s b => s.settleBarrier gang b) { s with gangs := s.gangs.set gang g' }

/-! ### The end of a VT (R47, R177, R179, R235) -/

/-- Every member of the gang has ENDED: the gang is ENDED, and its launch counts it (R264, R266). -/
def State.settleGang (s : State) (gang : Nat) : State :=
  match s.gangs.get? gang with
  | none => s
  | some g =>
    if g.st ≠ .ended ∧ g.members ≠ [] ∧ g.members.all (fun id => match s.vt? id with
        | some v => v.st == .ended || v.gang != gang
        | none => true) then
      let s := s.holdCsp g
      let s := { s with
        clusters := s.clusters.mapVals fun _ c => { c with queue := c.queue.filter fun k => k != gang }
        gangs := s.gangs.set gang { g with st := .ended, csp := [], cspPoison := [] }
        commands := s.commands.map fun (c : Command) => if c.gang = gang then { c with gone := true } else c
        launches := s.launches.map fun l =>
          if g.launch.isSome && l.no == g.launchNo then { l with endedGangs := l.endedGangs + 1 } else l }
      if g.st = .aged then s.settleHold g.cluster else s
    else s

/-- The VTs whose `vtctl.kill` waits for `id` receive DONE (R179). -/
def State.tellKillers (s : State) (id : Nat) : State :=
  { s with vts := s.vts.mapVals fun _ v =>
      (v.waitStatus.filter fun p => p.2 == id).foldl (fun v p => v.writeX p.1 0) v }

/-- A matrix instruction of the VT is in its engines (R228). -/
def VT.matrixBusy (vt : VT) : Bool := vt.mop.any fun m => m.running

/-- A VT enters ENDED: frames, window, claim and channels are released, its registrations are removed, it leaves its
gang's barriers, and its gang ends with its last member (R47, R177, R235, R249). -/
def State.endVt (s : State) (id : Nat) : State :=
  match s.vt? id with
  | none => s
  | some vt =>
    if vt.st = .ended then s
    else
      let s := ((s.flushVt id).holdFreed vt).setVt id { vt.evict with
        st := .ended, park := none, waiting := [], inflight := [], claim := none, mop := none, admitted := false
        detected := [], violation := none, stopping := false, waitStatus := [], tcm := [], tcmPoison := []
        channels := Vector.replicate 8 {}, vps := vt.vps.map fun vp => { vp with run := none, thread := false } }
      let ofVt (w : Requester) : Bool := match w with
        | .agent (.ct v) | .agent (.vp v _) | .vector v _ => v == id
        | .agent .device | .command _ | .event _ | .message _ | .post _ => false
      let s := { s with rejected := s.rejected.filter fun r => !(ofVt r.who)
                        commands := s.commands.map fun (c : Command) => if c.vt = id then { c with orphan := true } else c }
      let s := (s.leaveFutures id).leaveFifo id
      let s := s.leaveBarriers vt.gang vt.rank
      let s := s.tellKillers id
      s.settleGang vt.gang

/-- VP i waits for an element of a vector memory instruction: by the interlock of R25, at a pop of R40, or by the order of
R106. -/
def VT.awaitsLoad (vt : VT) (i : Fin 32) (r : Run) : Bool :=
  vt.interlocked i r.vNames
    || (r.vNames.contains 31 && match vt.vps[i].loadQ with
      | .pending k _ :: _ => vt.inflight.any fun e => e.idx == k
      | _ => false)
    || (match r.instr with
      | some x => (vt.vpTarget i r x).any fun t => vt.memHeld i t.1 t.2.1 t.2.2.1 t.2.2.2
      | none => false)

/-- A stop leaves VP i's next element of the instruction to be performed after RESUME (R199, R314). -/
def VT.leftAt (vt : VT) (e : InFlight) (i : Fin 32) : Bool :=
  vt.stopping && !(e.vpPerformed vt.w i)
    && (decide (vt.boundaryOf e ≤ e.nextNumber vt.w i) || (vt.stuck e).contains i)

/-- The VT with those instructions in flight alone whose next element of VP i a stop leaves. -/
def VT.withLeft (vt : VT) (i : Fin 32) : VT := { vt with inflight := vt.inflight.filter fun e => vt.leftAt e i }

/-- A stop keeps VP i from the next block of its sequence: an operation before it is left to be performed after RESUME. -/
def VT.lagging (vt : VT) (i : Fin 32) : Bool :=
  vt.vps[i].run.isNone && match vt.seqHead i with
    | some ⟨.mem k, _, _⟩ => (vt.withLeft i).inflight.any fun e => e.idx == k
    | some ⟨.bcast d _ _, _, _⟩ => (vt.withLeft i).interlocked i [d]
    | _ => false

/-- VP i cannot go on without a suspended participant (R312): it is at an instruction of OP 0x31 that some participant
will not reach, or at an `xrecv` whose entry a suspended participant has not pushed. In a stop, a VP that waits for an
element that will only be performed after RESUME is held at that instruction too (R314, log 14). -/
def VT.blocked (vt : VT) (halted : Fin 32 → Bool) (i : Fin 32) : Bool :=
  let out (j : Fin 32) : Bool := halted j || vt.lagging j
  match vt.vps[i].run with
  | none => false
  | some r =>
    (vt.withLeft i).awaitsLoad i r || match r.words[r.idx]?, r.instr with
    | some _, some (.xrecv ..) =>
      vt.vps[i].inbound.isEmpty && ((maskIndices r.parts).filter fun j => j < i).getLast?.any out
    | some w, some _ =>
      contextOfOp (wordField w.toNat 26 6) == .vpOnly && wordField w.toNat 26 6 == 0x31 && (maskIndices r.parts).any out
    | _, _ => false

/-- The VPs that are suspended, or that wait for one that is, from the lowest up. -/
def VT.haltedVps (vt : VT) : List (Fin 32) :=
  let one (l : List (Fin 32)) : List (Fin 32) :=
    (List.finRange 32).foldl (fun l i =>
      if l.contains i then l
      else if (vt.vps[i].run.any fun r => r.suspended) || vt.blocked (fun j => l.contains j) i then l ++ [i] else l) l
  one (one [])

/-- Every running block has completed or is suspended: step 3 of R311 is done, and the VT is between blocks (R51). -/
def VT.blocksSettled (vt : VT) : Bool :=
  let h := vt.haltedVps
  (List.finRange 32).all fun i => vt.vps[i].run.isNone || h.contains i

/-- A VT at a pre-emption point: no block runs on a VP, each instruction in flight stands at an element boundary, and no
matrix block is in its engines (R51, R269). -/
def VT.atPoint (vt : VT) : Bool := vt.blocksSettled && vt.inflight.all vt.atBoundary && !vt.matrixBusy

/-- A killed VT ends at its next pre-emption point (R179, R269). -/
def State.settleKill (s : State) (id : Nat) : State :=
  match s.vt? id with
  | none => s
  | some vt => if vt.killed && (!vt.resident || vt.atPoint) then s.endVt id else s

end Sys2Proof.Machine
end

