-- ==== Sys2Proof/Machine/ScalarMemory.lean ====
section
/-! DEFINITION. Scalar memory access: the loads and stores of the CT (R164, R165), the atomics of the CT and of a VP
(R167 to R169), acquire loads and release stores (R170), fences (R109, R171), `ldv` and `stv` of a VP (R216, R217). -/

namespace Sys2Proof.Machine

open Sys2Proof

/-! ### CT loads and stores -/

/-- x[a] + sext(offset, 12), modulo 2^64 (R164). -/
def VT.offsetAddr (vt : VT) (a : Reg) (imm : Fin 4096) : Word64 := vt.readX a + word64 (sext 12 imm.val)

/-- The 64-bit value of `n` loaded bytes (R164). -/
def extendLoad (signed : Bool) (bs : List Byte) : Word64 :=
  let v := leNat bs
  if signed then word64 (sext (8 * bs.length) v) else BitVec.ofNat 64 v

/-- A CT load of `n` bytes into x[d] (R164). A load to x0 is performed and its value discarded (R165). -/
def State.ctLoad (s : State) (n : Nat) (signed : Bool) (g : Guard) (d a : Reg) (imm : Fin 4096) : State :=
  s.ctOnly g [a] [] fun id vt =>
    let addr := vt.offsetAddr a imm
    if addr.toNat % n ≠ 0 then s.ctFault id vt .misalign addr
    else s.ctGated vt addr n .load fun s =>
      s.ctAccess id vt addr (s.loadGlobal vt.core vt.domain addr.toNat n .normal) fun bs s =>
        s.modVt id fun v => (v.writeX d (extendLoad signed bs)).retire

/-- Bytes written whole. -/
def wholeBytes (n v : Nat) : List (Byte × Bool) := (leBytes n v).map fun b => (b, true)

/-- A CT store of the low `n` bytes of x[b] (R164). -/
def State.ctStore (s : State) (n : Nat) (g : Guard) (a b : Reg) (imm : Fin 4096) : State :=
  s.ctEarly g [a] [b] (fun id vt => s.earlyFault id vt (vt.offsetAddr a imm) n .store) <| s.ctOnly g [a, b] [] fun id vt =>
    let addr := vt.offsetAddr a imm
    if addr.toNat % n ≠ 0 then s.ctFault id vt .misalign addr
    else s.ctGated vt addr n .store fun s =>
      s.ctAccess id vt addr (s.storeScalar vt addr.toNat (wholeBytes n (vt.readX b).toNat))
        fun _ s => s.modVt id VT.retire

/-- `ldb`: 1 byte, sign-extended (R164). -/
def execLdb (g : Guard) (d a : Reg) (imm : Fin 4096) (s : State) : Host.Outcome State Fault Refusal :=
  .next (s.ctLoad 1 true g d a imm)

/-- `ldbu`: 1 byte, zero-extended (R164). -/
def execLdbu (g : Guard) (d a : Reg) (imm : Fin 4096) (s : State) : Host.Outcome State Fault Refusal :=
  .next (s.ctLoad 1 false g d a imm)

/-- `ldh`: 2 bytes, sign-extended (R164). -/
def execLdh (g : Guard) (d a : Reg) (imm : Fin 4096) (s : State) : Host.Outcome State Fault Refusal :=
  .next (s.ctLoad 2 true g d a imm)

/-- `ldhu`: 2 bytes, zero-extended (R164). -/
def execLdhu (g : Guard) (d a : Reg) (imm : Fin 4096) (s : State) : Host.Outcome State Fault Refusal :=
  .next (s.ctLoad 2 false g d a imm)

/-- `ldw`: 4 bytes, sign-extended (R164). -/
def execLdw (g : Guard) (d a : Reg) (imm : Fin 4096) (s : State) : Host.Outcome State Fault Refusal :=
  .next (s.ctLoad 4 true g d a imm)

/-- `ldwu`: 4 bytes, zero-extended (R164). -/
def execLdwu (g : Guard) (d a : Reg) (imm : Fin 4096) (s : State) : Host.Outcome State Fault Refusal :=
  .next (s.ctLoad 4 false g d a imm)

/-- `ldd`: 8 bytes, sign-extended (R164). -/
def execLdd (g : Guard) (d a : Reg) (imm : Fin 4096) (s : State) : Host.Outcome State Fault Refusal :=
  .next (s.ctLoad 8 true g d a imm)

/-- `stb`: 1 byte (R164). -/
def execStb (g : Guard) (a b : Reg) (imm : Fin 4096) (s : State) : Host.Outcome State Fault Refusal :=
  .next (s.ctStore 1 g a b imm)

/-- `sth`: 2 bytes (R164). -/
def execSth (g : Guard) (a b : Reg) (imm : Fin 4096) (s : State) : Host.Outcome State Fault Refusal :=
  .next (s.ctStore 2 g a b imm)

/-- `stw`: 4 bytes (R164). -/
def execStw (g : Guard) (a b : Reg) (imm : Fin 4096) (s : State) : Host.Outcome State Fault Refusal :=
  .next (s.ctStore 4 g a b imm)

/-- `std`: 8 bytes (R164). -/
def execStd (g : Guard) (a b : Reg) (imm : Fin 4096) (s : State) : Host.Outcome State Fault Refusal :=
  .next (s.ctStore 8 g a b imm)

/-! ### Atomics -/

/-- The kinds of an atomic (R145, R167). -/
inductive AmoKind where
  | swap | add | and | or | xor | min | max | cas
deriving DecidableEq, Repr

/-- The value an atomic of `m` bytes writes, from the old value, b and the expected value; `none` for a `cas` that finds
another value (R167). -/
def amoValue (k : AmoKind) (m old b exp : Nat) : Option Nat :=
  match k with
  | .swap => some b
  | .add => some ((old + b) % 2 ^ (8 * m))
  | .and => some (old &&& b)
  | .or => some (old ||| b)
  | .xor => some (old ^^^ b)
  | .min => some (if sext (8 * m) old ≤ sext (8 * m) b then old else b)
  | .max => some (if sext (8 * m) b ≤ sext (8 * m) old then old else b)
  | .cas => if old = exp then some b else none

/-- The order includes an acquire (R98). -/
def orderAcquires : Order → Bool
  | .acq | .ar => true
  | .rlx | .rel => false

/-- A CT atomic of `m` bytes (R167, R168). Its release set is performed in the steps before it (log 5); as an acquire it
drops the core's L1, since its scope is cluster or wider (R108). -/
def State.ctAmo (s : State) (id : Nat) (vt : VT) (m : Nat) (k : AmoKind) (d a b : Reg) (ord : Order) : State :=
  let addr := vt.readX a
  let low (r : Reg) : Nat := (vt.readX r).toNat % 2 ^ (8 * m)
  if addr.toNat % m ≠ 0 then s.ctFault id vt .misalign addr
  else s.ctGated vt addr m .atomic fun s =>
    s.ctAccess id vt addr (s.atomicGlobal vt.core vt.domain addr.toNat m fun old => amoValue k m old (low b) (low d))
      fun old s =>
        (if orderAcquires ord then s.l1Invalidate vt.core else s).modVt id fun v =>
          (v.writeX d (word64 (sext (8 * m) old))).retire

/-- An access of VP i at its present instruction: what follows it, its fault, its violation, or the wait. -/
def State.vpAccess {α : Type} (s : State) (id : Nat) (i : Fin 32) (r : Run) (addr : Int) (elem : Nat) (x : Access α)
    (k : α → State → State) : State :=
  match x with
  | .ok a s' => k a s'
  | .fault c s' => s'.vpFault id i r c (word64 addr) elem
  | .violation => s.vpViolation id i r (word64 addr) elem
  | .wait s' => s'

/-- A VP access of `n` bytes of a space once the slices take its requests (R89 to R91). -/
def State.vpGated (s : State) (vt : VT) (space : Nat) (addr : Int) (n : Nat) (k : AccessKind) (f : State → State) : State :=
  if space = 0 then
    match s.gated vt.core vt.domain addr.toNat n k .normal with
    | .error s' => s'
    | .ok s' => f s'
  else f s

/-- Whether a guard holds for an instruction without elements (R137). -/
def VP.guard0 (vp : VP) (g : Guard) : Bool := predBit (vp.guardOf g) 0

/-- The operands of a VP atomic in the order A, B, and D for a `cas` with D = 31: address, b, the expected value (R168). -/
def VP.amoSources (vp : VP) (k : AmoKind) (d a b : Reg) : Option (VReg × VReg × VReg × VP) :=
  match vp.source a with
  | none => none
  | some (x, vp) =>
    match vp.source b with
    | none => none
    | some (y, vp) =>
      if k = .cas then
        match vp.source d with
        | none => none
        | some (z, vp) => some (x, y, z, vp)
      else some (x, y, 0, vp)

/-- What a VP atomic leaves in v[d]: the old value in the low `m` bytes, or an entry of the store queue (R167, R168). -/
def VP.amoDest (vp : VP) (w m : Nat) (guard : Bool) (d : Reg) (old : Nat) : Option VP :=
  vp.writeWhole w guard d (writeElems (vp.destOld d) [BitVec.ofNat (8 * m) old])

/-- A VP atomic of `m` bytes (R167, R168). It is performed after the VP's earlier accesses to the same bytes, or after all
of them where its order is not relaxed (R106, R108), and as an acquire
it drops the core's L1, since its scope is the device. -/
def State.vpAmo (s : State) (id : Nat) (i : Fin 32) (vt : VT) (r : Run) (m : Nat) (k : AmoKind) (g : Guard) (d a b : Reg)
    (ord : Order) (sc : Fin 4) : State :=
  let vp := vt.vps[i]
  if vt.w < m then s.vpFault id i r .illop 0 0
  else
    match vp.amoSources k d a b with
    | none => s
    | some (x, y, z, vp) =>
      match vp.amoDest vt.w m (vp.guard0 g) d 0 with
      | none => s
      | some skipped =>
        if !(vp.guard0 g) then s.setVt id (vt.vpRetire i r skipped 0)
        else
          let at' := r.segAddr sc x 0
          let low (v : VReg) : Nat := v.toNat % 2 ^ (8 * m)
          if vt.memHeld i at'.1 at'.2 m (ord == .rlx) then s
          else if at'.2 % m ≠ 0 then s.vpFault id i r .misalign (word64 at'.2) 0
          else s.vpGated vt at'.1 at'.2 m .atomic fun s =>
            s.vpAccess id i r at'.2 0
              (s.atomicSpace id vt at'.1 at'.2 m fun old => amoValue k m old (low y) (low z)) fun old s =>
                (if orderAcquires ord then s.l1Invalidate vt.core else s).modVt id fun v =>
                  v.vpRetire i r ((vp.amoDest vt.w m true d old).getD vp) 0

/-- An atomic, which the CT and a VP share (R140, R167). -/
def State.amo (s : State) (m : Nat) (k : AmoKind) (g : Guard) (d a b : Reg) (ord : Order) (sc : Fin 4) : State :=
  let reads : List Reg := if k = .cas then [a, b, d] else [a, b]
  match s.who with
  | .ct id =>
    s.ctEarly g [a] (reads.drop 1) (fun id vt => s.earlyFault id vt (vt.readX a) m .atomic)
      (s.ctIssue id g reads [] fun vt => s.ctAmo id vt m k d a b ord)
  | .vp id i => s.vpIssue id i g (reads.map fun r => (r, if r = a then 4 else m)) [] fun vt r => s.vpAmo id i vt r m k g d a b ord sc
  | .device => s

/-- `amow.swap`: 4 bytes (R167). -/
def execAmowSwap (g : Guard) (d a b : Reg) (ord : Order) (sc : Fin 4) (s : State) : Host.Outcome State Fault Refusal :=
  .next (s.amo 4 .swap g d a b ord sc)

/-- `amow.add`: 4 bytes (R167). -/
def execAmowAdd (g : Guard) (d a b : Reg) (ord : Order) (sc : Fin 4) (s : State) : Host.Outcome State Fault Refusal :=
  .next (s.amo 4 .add g d a b ord sc)

/-- `amow.and`: 4 bytes (R167). -/
def execAmowAnd (g : Guard) (d a b : Reg) (ord : Order) (sc : Fin 4) (s : State) : Host.Outcome State Fault Refusal :=
  .next (s.amo 4 .and g d a b ord sc)

/-- `amow.or`: 4 bytes (R167). -/
def execAmowOr (g : Guard) (d a b : Reg) (ord : Order) (sc : Fin 4) (s : State) : Host.Outcome State Fault Refusal :=
  .next (s.amo 4 .or g d a b ord sc)

/-- `amow.xor`: 4 bytes (R167). -/
def execAmowXor (g : Guard) (d a b : Reg) (ord : Order) (sc : Fin 4) (s : State) : Host.Outcome State Fault Refusal :=
  .next (s.amo 4 .xor g d a b ord sc)

/-- `amow.min`: 4 bytes (R167). -/
def execAmowMin (g : Guard) (d a b : Reg) (ord : Order) (sc : Fin 4) (s : State) : Host.Outcome State Fault Refusal :=
  .next (s.amo 4 .min g d a b ord sc)

/-- `amow.max`: 4 bytes (R167). -/
def execAmowMax (g : Guard) (d a b : Reg) (ord : Order) (sc : Fin 4) (s : State) : Host.Outcome State Fault Refusal :=
  .next (s.amo 4 .max g d a b ord sc)

/-- `amow.cas`: 4 bytes (R167). -/
def execAmowCas (g : Guard) (d a b : Reg) (ord : Order) (sc : Fin 4) (s : State) : Host.Outcome State Fault Refusal :=
  .next (s.amo 4 .cas g d a b ord sc)

/-- `amod.swap`: 8 bytes (R167). -/
def execAmodSwap (g : Guard) (d a b : Reg) (ord : Order) (sc : Fin 4) (s : State) : Host.Outcome State Fault Refusal :=
  .next (s.amo 8 .swap g d a b ord sc)

/-- `amod.add`: 8 bytes (R167). -/
def execAmodAdd (g : Guard) (d a b : Reg) (ord : Order) (sc : Fin 4) (s : State) : Host.Outcome State Fault Refusal :=
  .next (s.amo 8 .add g d a b ord sc)

/-- `amod.and`: 8 bytes (R167). -/
def execAmodAnd (g : Guard) (d a b : Reg) (ord : Order) (sc : Fin 4) (s : State) : Host.Outcome State Fault Refusal :=
  .next (s.amo 8 .and g d a b ord sc)

/-- `amod.or`: 8 bytes (R167). -/
def execAmodOr (g : Guard) (d a b : Reg) (ord : Order) (sc : Fin 4) (s : State) : Host.Outcome State Fault Refusal :=
  .next (s.amo 8 .or g d a b ord sc)

/-- `amod.xor`: 8 bytes (R167). -/
def execAmodXor (g : Guard) (d a b : Reg) (ord : Order) (sc : Fin 4) (s : State) : Host.Outcome State Fault Refusal :=
  .next (s.amo 8 .xor g d a b ord sc)

/-- `amod.min`: 8 bytes (R167). -/
def execAmodMin (g : Guard) (d a b : Reg) (ord : Order) (sc : Fin 4) (s : State) : Host.Outcome State Fault Refusal :=
  .next (s.amo 8 .min g d a b ord sc)

/-- `amod.max`: 8 bytes (R167). -/
def execAmodMax (g : Guard) (d a b : Reg) (ord : Order) (sc : Fin 4) (s : State) : Host.Outcome State Fault Refusal :=
  .next (s.amo 8 .max g d a b ord sc)

/-- `amod.cas`: 8 bytes (R167). -/
def execAmodCas (g : Guard) (d a b : Reg) (ord : Order) (sc : Fin 4) (s : State) : Host.Outcome State Fault Refusal :=
  .next (s.amo 8 .cas g d a b ord sc)

/-! ### Acquire loads, release stores, fences -/

/-- The core drops its L1 at cluster scope or wider (R87, R109). -/
def State.acquireAt (s : State) (c : Nat) (sc : Scope) : State := if sc = .core then s else s.l1Invalidate c

/-- `lda`: a load of 8 bytes, then an acquire at the scope (R170). -/
def execLda (g : Guard) (d a : Reg) (sc : Scope) (s : State) : Host.Outcome State Fault Refusal :=
  .next (s.ctOnly g [a] [] fun id vt =>
    let addr := vt.readX a
    if addr.toNat % 8 ≠ 0 then s.ctFault id vt .misalign addr
    else s.ctGated vt addr 8 .load fun s =>
      s.ctAccess id vt addr (s.loadGlobal vt.core vt.domain addr.toNat 8 .normal) fun bs s =>
        (s.acquireAt vt.core sc).modVt id fun v => (v.writeX d (extendLoad false bs)).retire)

/-- `stl`: a store of 8 bytes, performed after its release set: the CT scalar accesses before it, of which none is held when
it issues (R108, R170, log 5). -/
def execStl (g : Guard) (a b : Reg) (_sc : Scope) (s : State) : Host.Outcome State Fault Refusal :=
  .next (s.ctEarly g [a] [b] (fun id vt => s.earlyFault id vt (vt.readX a) 8 .store) <| s.ctOnly g [a, b] [] fun id vt =>
    let addr := vt.readX a
    if addr.toNat % 8 ≠ 0 then s.ctFault id vt .misalign addr
    else s.ctGated vt addr 8 .store fun s =>
      s.ctAccess id vt addr (s.storeGlobal vt.core vt.domain addr.toNat (wholeBytes 8 (vt.readX b).toNat) .normal)
        fun _ s => s.modVt id VT.retire)

/-- A fence: it stalls until its earlier set is performed, and drops the core's L1 at cluster scope or wider (R109,
R171). `vector` says that the earlier set is that of the vector accesses. -/
def State.fence (s : State) (vector : Bool) (g : Guard) (sc : Scope) : State :=
  s.ctOnly g [] [] fun id vt =>
    if vector && !vt.accessesDone then s
    else (s.setVt id vt.retire).acquireAt vt.core sc

/-- `fence`: CT scalar accesses before it, before those after it (R109). -/
def execFence (g : Guard) (sc : Scope) (s : State) : Host.Outcome State Fault Refusal := .next (s.fence false g sc)

/-- `fence.sv`: CT scalar accesses before it, before vector accesses after it (R109). -/
def execFenceSv (g : Guard) (sc : Scope) (s : State) : Host.Outcome State Fault Refusal := .next (s.fence false g sc)

/-- `fence.vs`: vector accesses before it, before CT scalar accesses after it (R109). -/
def execFenceVs (g : Guard) (sc : Scope) (s : State) : Host.Outcome State Fault Refusal := .next (s.fence true g sc)

/-- `fence.e`: vector accesses before it, before vector accesses after it (R109). -/
def execFenceE (g : Guard) (sc : Scope) (s : State) : Host.Outcome State Fault Refusal := .next (s.fence true g sc)

/-! ### `ldv` and `stv` -/

/-- A value extended to the 8W bits of a register. -/
def extendReg (w : Nat) (v : Int) : VReg := BitVec.ofInt 1024 (v % (2 ^ (8 * w) : Nat))

/-- The guarded IT elements of a whole-register access, rising. -/
def VP.guardedElems (vp : VP) (g : Guard) (n : Nat) : List Nat := (List.range n).filter (predBit (vp.guardOf g))

/-- A sized access or a whole-register one, of guarded elements: without one it cannot fault, whatever is poisoned (R217). -/
def State.vpElements (s : State) (g : Guard) (sz : Fin 8) (vs : List (Reg × Nat))
    (body : Nat → Fin 32 → VT → Run → State) : State :=
  s.vpOnly g [] [] fun id i vt r =>
    let vp := vt.vps[i]
    let acts : Bool := if sz = 7 then !(vp.guardedElems g (vt.env r i).nInt).isEmpty else vp.guard0 g
    if acts && vt.vpPoisoned i g vs [] then s.vpFault id i r .eccu 0 0 else body id i vt r

/-- The elements of a whole-register load, of `b` bytes each, in increasing order: their bytes, or the first that fails. -/
def State.loadElems (s : State) (vt : VT) (space : Nat) (addr : Int) (b : Nat) :
    List Nat → (SMap (List Byte)) → Access (SMap (List Byte)) × Nat
  | [], acc => (.ok acc s, 0)
  | k :: ks, acc =>
    match s.loadSpace vt space (spaceAddr space (addr + b * k)) b .normal with
    | .ok bs s' => State.loadElems s' vt space addr b ks (acc.set k bs)
    | .fault c s' => (.fault c s', k)
    | .violation => (.violation, k)
    | .wait s' => (.wait s', k)

/-- The elements of a whole-register store in increasing order. Those below a failing one are performed (R314); the state
is that after them. -/
def State.storeElems (s : State) (id : Nat) (vt : VT) (space : Nat) (addr : Int) (b : Nat) (v : VReg) :
    List Nat → State × Access Unit × Nat
  | [] => (s, .ok () s, 0)
  | k :: ks =>
    match s.storeSpace id vt space (spaceAddr space (addr + b * k))
        (wholeBytes b (elem (8 * b) v k).toNat) .normal with
    | .ok _ s' => State.storeElems s' id vt space addr b v ks
    | .fault c s' => (s', .fault c s', k)
    | .violation => (s, .violation, k)
    | .wait s' => (s, .wait s', k)

/-- The write of a whole-register `ldv`: each loaded element under its guard. -/
def VP.writeLoaded (vp : VP) (e : VpEnv) (g : Guard) (d : Reg) (m : SMap (List Byte)) : Option VP :=
  vp.writeFrame e.w e.eInt e.nInt (predBit (vp.guardOf g)) d fun k => BitVec.ofNat e.eInt (leNat (m.getD k []))

/-- The sized `ldv`, once its address is popped (R216, R217). -/
def State.ldvSized (s : State) (id : Nat) (i : Fin 32) (vt : VT) (r : Run) (vp : VP) (g : Guard) (d : Reg) (sz : Fin 8)
    (space : Nat) (addr : Int) : State :=
  let m := sizedBytes sz
  match vp.writeWhole vt.w (vp.guard0 g) d 0 with
  | none => s
  | some skipped =>
    if !(vp.guard0 g) then s.setVt id (vt.vpRetire i r skipped 0)
    else if vt.w < m then s.vpFault id i r .illop 0 0
    else if vt.ordersBehind i space addr m then s
    else if addr % m ≠ 0 then s.vpFault id i r .misalign (word64 addr) 0
    else s.vpGated vt space addr m .load fun s =>
      s.vpAccess id i r addr 0 (s.loadSpace vt space addr m .normal) fun bs s =>
        let v : Int := if sizedSigned sz then sext (8 * m) (leNat bs) else leNat bs
        s.modVt id fun t => t.vpRetire i r ((vp.writeWhole vt.w true d (extendReg vt.w v)).getD vp) 0

/-- The whole-register `ldv`: a faulting element leaves everything as it was (R217, R312). -/
def State.ldvWhole (s : State) (id : Nat) (i : Fin 32) (vt : VT) (r : Run) (vp : VP) (g : Guard) (d : Reg)
    (space : Nat) (addr : Int) : State :=
  let e := vt.env r i
  let ks := vp.guardedElems g e.nInt
  let b := e.eInt / 8
  match vp.writeLoaded e g d [] with
  | none => s
  | some skipped =>
    match ks with
    | [] => s.setVt id (vt.vpRetire i r skipped 0)
    | k :: _ =>
      if vt.ordersBehind i space addr vt.w then s
      else if addr % vt.w ≠ 0 then s.vpFault id i r .misalign (word64 (spaceAddr space (addr + b * k))) k
      else s.vpGated vt space addr vt.w .load fun s =>
        let x := s.loadElems vt space addr b ks []
        s.vpAccess id i r (spaceAddr space (addr + b * x.2)) x.2 x.1 fun m s =>
          s.modVt id fun t => t.vpRetire i r ((vp.writeLoaded e g d m).getD vp) 0

/-- `ldv` (R216, R217). -/
def execLdv (g : Guard) (d a : Reg) (seg : Fin 4) (sz : Fin 8) (imm : Fin 128) (s : State) :
    Host.Outcome State Fault Refusal :=
  .next (s.vpElements g sz [(a, 4)] fun id i vt r =>
    match vt.vps[i].source a with
    | none => s
    | some (x, vp) =>
      let m := if sz = 7 then vt.w else sizedBytes sz
      let t := r.segAddr seg x (sext 7 imm.val * m)
      if sz = 7 then s.ldvWhole id i vt r vp g d t.1 t.2 else s.ldvSized id i vt r vp g d sz t.1 t.2)

/-- The sized `stv`, once its address and data are popped. -/
def State.stvSized (s : State) (id : Nat) (i : Fin 32) (vt : VT) (r : Run) (vp : VP) (g : Guard) (sz : Fin 8) (v : VReg)
    (space : Nat) (addr : Int) : State :=
  let m := sizedBytes sz
  if !(vp.guard0 g) then s.setVt id (vt.vpRetire i r vp 0)
  else if vt.w < m then s.vpFault id i r .illop 0 0
  else if vt.ordersBehind i space addr m then s
  else if addr % m ≠ 0 then s.vpFault id i r .misalign (word64 addr) 0
  else s.vpGated vt space addr m .store fun s =>
    s.vpAccess id i r addr 0 (s.storeSpace id vt space addr (wholeBytes m (v.toNat % 2 ^ (8 * m))) .normal)
      fun _ s => s.modVt id fun t => t.vpRetire i r vp 0

/-- The whole-register `stv`: elements below a faulting one are performed (R314). One that waits is performed whole
later. -/
def State.stvWhole (s : State) (id : Nat) (i : Fin 32) (vt : VT) (r : Run) (vp : VP) (g : Guard) (v : VReg)
    (space : Nat) (addr : Int) : State :=
  let e := vt.env r i
  let b := e.eInt / 8
  match vp.guardedElems g e.nInt with
  | [] => s.setVt id (vt.vpRetire i r vp 0)
  | k :: ks =>
    if vt.ordersBehind i space addr vt.w then s
    else if addr % vt.w ≠ 0 then s.vpFault id i r .misalign (word64 (spaceAddr space (addr + b * k))) k
    else s.vpGated vt space addr vt.w .store fun s =>
      let x := s.storeElems id vt space addr b v (k :: ks)
      match x.2.1 with
      | .wait _ => s
      | y => x.1.vpAccess id i r (spaceAddr space (addr + b * x.2.2)) x.2.2 y fun _ s =>
          s.modVt id fun t => t.vpRetire i r vp 0

/-- `stv` (R216, R217): the address entry is popped first, then the data entry. -/
def execStv (g : Guard) (d a : Reg) (seg : Fin 4) (sz : Fin 8) (imm : Fin 128) (s : State) :
    Host.Outcome State Fault Refusal :=
  .next (s.vpElements g sz [(a, 4), (d, if sz = 7 then 128 else sizedBytes sz)] fun id i vt r =>
    match vt.vps[i].source a with
    | none => s
    | some (x, vp) =>
      match vp.source d with
      | none => s
      | some (v, vp) =>
        let m := if sz = 7 then vt.w else sizedBytes sz
        let t := r.segAddr seg x (sext 7 imm.val * m)
        if sz = 7 then s.stvWhole id i vt r vp g v t.1 t.2 else s.stvSized id i vt r vp g sz v t.1 t.2)

end Sys2Proof.Machine
end

