-- ==== Sys2Proof/Machine/Blocks.lean ====
section
/-! DEFINITION. Blocks: the header check and the words check (R139, R326 to R329), the start of a block on a VP (R25,
R26, R174), thread-mode fetch (R28 to R30, R330), `fetch` and `fetchr` (R218, R331). -/

namespace Sys2Proof.Machine

open Sys2Proof

/-! ### The checks of a block -/

/-- The 32 words of a 128-byte line. -/
def wordsOfLine (l : BitVec 1024) : List Word32 := (List.range 32).map fun k => l.extractLsb' (32 * k) 32

/-- The limits that depend on VCFG or W (R326). -/
def widthLegal (w it : Nat) : Instr → Bool
  | .slli _ _ _ n | .srli _ _ _ n | .srai _ _ _ n => n.val < itBits it
  | .amodSwap .. | .amodAdd .. | .amodAnd .. | .amodOr .. | .amodXor .. | .amodMin .. | .amodMax .. | .amodCas .. => w != 4
  | .ldv _ _ _ _ sz _ | .stv _ _ _ _ sz _ => !(w == 4 && sz == 6)
  | .cvt _ _ _ s t => max (fmtBits s) (fmtBits t) ≤ 8 * w
  | _ => true

/-- A word of a block decodes to this instruction; `none` where the word is not an instruction there (R327, R328). -/
def blockInstr (w it : Nat) (x : Word32) : Option Instr :=
  if contextOfOp (wordField x.toNat 26 6) == .ctOnly then none
  else
    match decode x with
    | .ok i => if widthLegal w it i then some i else none
    | .error _ => none

/-- The instructions of the words, where all of them are instructions. -/
def blockInstrs (w it : Nat) : List Word32 → Option (List Instr)
  | [] => some []
  | x :: xs =>
    match blockInstr w it x, blockInstrs w it xs with
    | some i, some is => some (i :: is)
    | _, _ => none

/-- Words of OP 0x30 and of OP 0x31. -/
def isXsend : Instr → Bool
  | .xsend .. => true
  | _ => false

def isXrecv : Instr → Bool
  | .xrecv .. => true
  | _ => false

def wordIsWide (x : Word32) : Bool := wordField x.toNat 26 6 == 0x31

/-- The words check (R328): the cause that it finds. -/
def wordsCheck (w it : Nat) (h : Header) (xs : List Word32) : Option Cause :=
  match blockInstrs w it xs with
  | none => some .illop
  | some is =>
    let count (f : Instr → List Reg) : Nat := ((is.flatMap f).filter fun r => r == 31).length
    let wide := xs.any wordIsWide
    if h.lqn ≠ count vSources ∨ h.sqn ≠ count vDests ∨ h.xqs ≠ (is.filter isXsend).length
        ∨ h.xqr ≠ (is.filter isXrecv).length ∨ (!h.wide && (wide || is.any isXsend || is.any isXrecv)) = true
        ∨ (wide && (h.xqs != 0 || h.xqr != 0)) = true then some .queue
    else none

/-- The header and words 1 to LEN of a line. -/
def blockWords (h : Header) (l : BitVec 1024) : List Word32 := (wordsOfLine l).take (h.len + 1)

/-- The cause of a header error. -/
def headerCause : HeaderError → Cause
  | .illop => .illop
  | .queue => .queue

/-- The bytes of a block that a fetch of its line needs: the header, and words 1 to LEN where the header is legal (R139). -/
def blockSpan (l : BitVec 1024) : Nat × Nat :=
  match decodeHeader (l.extractLsb' 0 32) with
  | .ok h => (0, 4 * (h.len + 1))
  | .error _ => (0, 4)

/-- The bytes that the header read of a `vf` needs: with no active VP the words are not read (R185, R329). An error in a word
shows with the header's, before the queue checks (log 64). -/
def headerSpan (active : Bool) (l : BitVec 1024) : Nat × Nat := if active then blockSpan l else (0, 4)

/-! ### The start of a block -/

/-- The binding of a VT: the lowest quad of its slot, and its span (R44). A write of LPR changes it at the next pre-emption
point (R45). -/
def VT.lane (vt : VT) : Nat × Nat := (vt.quad0, vt.span)

/-- The quad of VP i under a binding: eight lanes to a quad (R44). -/
def quadIn (lane : Nat × Nat) (i : Fin 32) : Nat := (lane.1 + i.val % (8 * max 1 lane.2) / 8) % 4

/-- A fault in the reading or checking of a block: WHERE 4 for one that a `vf` sent, WHERE 5 at a thread-mode fetch
(R325). -/
def State.blockFault (s : State) (id : Nat) (i : Fin 32) (thread : Bool) (pc addr : Word64) (c : Cause) : State :=
  s.detect id { cause := c, place := if thread then 5 else 4, vp := if thread then i.val else 0, elem := 0, infl := 0
                code := 0, pc, iaddr := addr, daddr := addr }

/-- The line of a block that starts. A thread-mode fetch reads the words only after its header has passed (R330). -/
def State.startLine (s : State) (vt : VT) (r : Run) (quad : Nat) : Access (BitVec 1024) :=
  let read (s : State) (span : FetchSpan) : Access (BitVec 1024) :=
    s.fetchLaneLine vt.core quad vt.domain r.addr.toNat span
  if r.thread then
    (read s (headerSpan false)).bind fun l s =>
      match decodeHeader (l.extractLsb' 0 32) with
      | .ok h => if h.wide || h.lqn != 0 || h.sqn != 0 then .ok l s else read s blockSpan
      | .error _ => .ok l s
  else read s blockSpan

/-- VP i starts the block at an address, fetched whole from its lane instruction buffer as it now stands (R26, R29,
R174). A thread-mode fetch makes the header check and the words check (R330). What a `vf` sent is fetched again as it
starts; a fault of that is recorded as one of the `vf` (log 58). -/
def State.startBlock (s : State) (id : Nat) (i : Fin 32) (vt : VT) (r : Run) (quad : Nat) : State :=
  match s.startLine vt r quad with
  | .wait s => s
  | .fault c s => s.blockFault id i r.thread r.pc r.addr c
  | .violation =>
    s.violate id { cause := .domain, place := if r.thread then 5 else 4, vp := if r.thread then i.val else 0, elem := 0, infl := 0, code := 0
                   pc := r.pc, iaddr := r.addr, daddr := r.addr }
  | .ok l s =>
    match (wordsOfLine l).head? with
    | none => s
    | some hw =>
      match decodeHeader hw with
      | .error e => s.blockFault id i r.thread r.pc r.addr (headerCause e)
      | .ok h =>
        let ws := blockWords h l
        if r.thread && (h.wide || h.lqn != 0 || h.sqn != 0) then s.blockFault id i true r.pc r.addr .queue
        else
          match (if r.thread then wordsCheck vt.w (vcfgIt r.cap.vcfg) h ws.tail else none) with
          | some c => s.blockFault id i true r.pc r.addr c
          | none =>
            s.modVt id fun v =>
              let vp := v.vps[i]
              let v := if r.thread then v else { v with waiting := seqPop i v.waiting }
              { v with vps := v.vps.set i { vp with quad, run := some { r with words := ws, idx := 1 } } }

/-- The VT's VPs may start blocks: it is resident and no stop has begun (R31, R47, R175). -/
def VT.running (vt : VT) : Bool :=
  vt.resident && !vt.stopping && !vt.killed && (vt.st == .ready || vt.st == .parked)

/-- A participant runs the wide block that the `vf` or `vfr` at this PC sent. The others then start it too, whatever stops the
VT: it completes on all of them or on none (R31, R179, R213). -/
def VT.wideBegun (vt : VT) (addr pc : Word64) : Bool :=
  vt.resident && vt.vps.toList.any fun vp => vp.run.any fun r =>
    r.wide && r.addr == addr && r.pc == pc && !r.thread && !r.suspended

/-- A block starts on a VP in LOCKSTEP: it stands at the head of the VP's sequence (R25, R26). -/
def execBlockStart (vt : Nat) (vp : Fin 32) (s : State) : Host.Outcome State Fault Refusal :=
  .next (match s.vt? vt with
    | none => s
    | some v =>
      if v.vps[vp].run.isSome || v.vps[vp].thread then s
      else
        match v.seqHead vp with
        | some ⟨.block addr pc cap wide parts lane, _, _⟩ =>
          if !(v.running || (wide && v.wideBegun addr pc)) then s
          else
            s.startBlock vt vp v { addr, words := [], idx := 1, pc, cap, wide, thread := false, parts, named := none
                                   suspended := false } (quadIn lane vp)
        | _ => s)

/-- A VP in THREAD mode fetches its next block (R29, R330). -/
def execThreadFetch (vt : Nat) (vp : Fin 32) (s : State) : Host.Outcome State Fault Refusal :=
  .next (match s.vt? vt with
    | none => s
    | some v =>
      let p := v.vps[vp]
      if !v.running || p.run.isSome || !p.thread then s
      else
        match p.chain with
        | none => s
        | some (cap, pc) =>
          s.startBlock vt vp v { addr := p.next, words := [], idx := 1, pc, cap, wide := false, thread := true, parts := 0
                                 named := none, suspended := false } p.quad)

/-! ### Naming a successor -/

/-- A fault of a `fetch` or `fetchr` at its target: WHERE 6 (R325, R331). -/
def State.fetchFault (s : State) (id : Nat) (i : Fin 32) (r : Run) (c : Cause) (target : Word64) : State :=
  (s.modVt id fun vt => vt.suspend i).detect id (vpFaultInfo i r 6 c target 0)

/-- The target lies from CODEBASE to CODEBASE + 32 GiB - 128 (R218). -/
def inCodeReach (codebase target : Word64) : Bool :=
  codebase.toNat ≤ target.toNat && target.toNat ≤ codebase.toNat + 2 ^ 35 - 128

/-- A target names the VP's next block, once it translates with X permission and is not LOST (R218). -/
def State.nameSuccessor (s : State) (id : Nat) (i : Fin 32) (vt : VT) (r : Run) (vp : VP) (target : Word64) : State :=
  match s.gatedAccess vt.core vt.domain target.toNat .fetch with
  | .fault c s => s.fetchFault id i r c target
  | .violation => (s.modVt id fun vt => vt.suspend i).violate id (vpFaultInfo i r 6 .domain target 0)
  | .wait s => s
  | .ok _ s => s.modVt id fun v => v.vpRetire i { r with named := some target } vp 0

/-- `fetch`: 128 * sext(IMM17, 17) from the header of the running block (R218). -/
def execFetch (g : Guard) (imm : Fin 131072) (s : State) : Host.Outcome State Fault Refusal :=
  .next (s.vpOnly g [] [] fun id i vt r =>
    let vp := vt.vps[i]
    if !(vp.guard0 g) then s.setVt id (vt.vpRetire i r vp 0)
    else
      let target := r.addr + word64 (128 * sext 17 imm.val)
      if !(inCodeReach vt.codebase target) then s.fetchFault id i r .illop target
      else s.nameSuccessor id i vt r vp target)

/-- `fetchr`: CODEBASE + zext(bytes [3:0] of v[A], 32) (R218). -/
def execFetchr (g : Guard) (a : Reg) (s : State) : Host.Outcome State Fault Refusal :=
  .next (s.vpOnly g [(a, 4)] [] fun id i vt r =>
    match vt.vps[i].source a with
    | none => s
    | some (x, vp) =>
      if !(vp.guard0 g) then s.setVt id (vt.vpRetire i r vp 0)
      else
        let target := vt.codebase + BitVec.ofNat 64 (elem 32 x 0).toNat
        if target.toNat % 128 ≠ 0 then s.fetchFault id i r .misalign target
        else s.nameSuccessor id i vt r vp target)

end Sys2Proof.Machine
end

