-- ==== Sys2Proof/Machine/Control.lean ====
section
/-! DEFINITION. Jumps (R166), CSR access (R56 to R64, R172), and thread control (R173 to R179). -/

namespace Sys2Proof.Machine

open Sys2Proof

/-! ### Jumps -/

/-- PC + 4 * sext(imm, n) (R166). -/
def VT.relative (vt : VT) (n imm : Nat) : Word64 := vt.pc + word64 (4 * sext n imm)

/-- `br` (R166). -/
def execBr (g : Guard) (imm : Fin 4194304) (s : State) : Host.Outcome State Fault Refusal :=
  .next (s.ctOnly g [] [] fun id vt => s.setVt id (vt.jump (vt.relative 22 imm.val)))

/-- `jal`: the link is written after the target is formed (R166). -/
def execJal (g : Guard) (d : Reg) (imm : Fin 131072) (s : State) : Host.Outcome State Fault Refusal :=
  .next (s.ctOnly g [] [] fun id vt => s.setVt id ((vt.writeX d (vt.pc + 4)).jump (vt.relative 17 imm.val)))

/-- `jalr`: a target that is no multiple of 4 faults, with nothing written (R166). -/
def execJalr (g : Guard) (d a : Reg) (imm : Fin 4096) (s : State) : Host.Outcome State Fault Refusal :=
  .next (s.ctOnly g [a] [] fun id vt =>
    let t := vt.offsetAddr a imm
    if t.toNat % 4 ≠ 0 then s.ctFault id vt .misalign t else s.setVt id ((vt.writeX d (vt.pc + 4)).jump t))

/-! ### CSR access -/

/-- MSTAT: BLKIDX, ACC and PENDING of a `mop` in progress, CLAIM (R61). -/
def VT.mstat (vt : VT) : Word64 :=
  match vt.claim with
  | some c => c.mstat
  | none => 0

/-- MCFG (R61). -/
def VT.mcfg (vt : VT) : Word64 :=
  match vt.claim with
  | some c => c.mcfg
  | none => 0

/-- The value of a CSR (R56 to R64). -/
def State.readCsr (s : State) (id : Nat) (vt : VT) (n : Nat) : Word64 :=
  match n with
  | 0x000 => BitVec.ofNat 64 vt.vl
  | 0x001 => vt.vcfg
  | 0x002 => BitVec.ofNat 64 vt.vmt
  | 0x003 => vt.em.setWidth 64
  | 0x004 => vt.fflags.setWidth 64
  | 0x008 => vt.seg[0]
  | 0x009 => vt.seg[1]
  | 0x00A => vt.seg[2]
  | 0x00B => vt.seg[3]
  | 0x010 => vt.mcfg
  | 0x011 => vt.mstat
  | 0x040 => BitVec.ofNat 64 id
  | 0x041 => BitVec.ofNat 64 (vt.span * 2 ^ 13 + vt.slot * 2 ^ 11 + vt.core)
  | 0x042 => BitVec.ofNat 64 vt.gangId
  | 0x043 => BitVec.ofNat 64 vt.rank
  | 0x044 => BitVec.ofNat 64 vt.domain
  | 0x080 => (s.core vt.core).cycle
  | 0x081 => vt.issued
  | 0x082 => vt.preempts
  | 0x0C0 => s.mseq.setWidth 64
  | 0x0C1 => s.cordons.setWidth 64
  | 0x0C2 => (s.domain vt.domain).evring
  | 0x0C8 => vt.faultrec[0]
  | 0x0C9 => vt.faultrec[1]
  | 0x0CA => vt.faultrec[2]
  | 0x0CB => vt.faultrec[3]
  | _ => 0

/-- SEGk := v, where its TAG is not 3; the reserved bits stay 0 (R60, R184). -/
def VT.writeSeg (vt : VT) (k : Fin 4) (v : Word64) : VT :=
  if segTag v = 3 then vt else { vt with seg := vt.seg.set k (v &&& 0xC000FFFFFFFFFFFF) }

/-- VMT.SPACE := v[1:0], where it is not 3 (R60, R184). -/
def VT.writeVmt (vt : VT) (v : Word64) : VT := if bits64 v 0 2 = 3 then vt else { vt with vmt := bits64 v 0 2 }

/-- EM := v[31:0] (R60, R184). -/
def VT.writeEm (vt : VT) (v : Word64) : VT := { vt with em := v.setWidth 32 }

/-- A write of a CSR; RO fields ignore it (R57, R172). -/
def VT.writeCsr (vt : VT) (n : Nat) (v : Word64) : VT :=
  match n with
  | 0x002 => vt.writeVmt v
  | 0x003 => vt.writeEm v
  | 0x004 => { vt with fflags := v.setWidth 5 }
  | 0x008 => vt.writeSeg 0 v
  | 0x009 => vt.writeSeg 1 v
  | 0x00A => vt.writeSeg 2 v
  | 0x00B => vt.writeSeg 3 v
  | _ => vt

/-- An access to FFLAGS is held until the VT is reconverged and its matrix work is done (R57). -/
def VT.csrHeld (vt : VT) (n : Nat) : Bool := n == 0x004 && !(vt.reconverged && !vt.matrixBusy)

/-- A CSR instruction: the CSR is read, then written where `f` gives a value, then the old value goes to x[d]. -/
def State.csrAccess (s : State) (g : Guard) (d : Reg) (xs : List Reg) (n : Nat) (f : Word64 → VT → Option Word64) :
    State :=
  s.ctOnly g xs [] fun id vt =>
    if vt.csrHeld n then s
    else
      let old := s.readCsr id vt n
      let vt' := match f old vt with
        | some v => vt.writeCsr n v
        | none => vt
      s.setVt id (vt'.writeX d old).retire

/-- `csrr` (R172). -/
def execCsrr (g : Guard) (d : Reg) (csr : Fin 1024) (s : State) : Host.Outcome State Fault Refusal :=
  .next (s.csrAccess g d [] csr.val fun _ _ => none)

/-- `csrw` (R172). -/
def execCsrw (g : Guard) (d a : Reg) (csr : Fin 1024) (s : State) : Host.Outcome State Fault Refusal :=
  .next (s.csrAccess g d [a] csr.val fun _ vt => some (vt.readX a))

/-- `csrs`: with A = 0 there is no write (R172). -/
def execCsrs (g : Guard) (d a : Reg) (csr : Fin 1024) (s : State) : Host.Outcome State Fault Refusal :=
  .next (s.csrAccess g d [a] csr.val fun old vt => if a = 0 then none else some (old ||| vt.readX a))

/-- `csrc`: with A = 0 there is no write (R172). -/
def execCsrc (g : Guard) (d a : Reg) (csr : Fin 1024) (s : State) : Host.Outcome State Fault Refusal :=
  .next (s.csrAccess g d [a] csr.val fun old vt => if a = 0 then none else some (old &&& ~~~(vt.readX a)))

/-! ### Thread control -/

/-- `trap`: it completes, and the VT stops with TRAPI and the code; RESUME continues after it (R173, R321, log 50). -/
def execTrap (g : Guard) (code : Fin 256) (s : State) : Host.Outcome State Fault Refusal :=
  .next (s.ctOnly g [] [] fun id vt =>
    (s.setVt id vt.retire).detect id
      { cause := .trapi, place := 0, vp := 0, elem := 0, infl := 0, code := code.val, pc := vt.pc, iaddr := vt.pc, daddr := 0 })

/-- `icinv`: every instruction cache and lane buffer drops the physical line of the address; only XLATE can fault
(R174). -/
def execIcinv (g : Guard) (a : Reg) (s : State) : Host.Outcome State Fault Refusal :=
  .next (s.ctOnly g [a] [] fun id vt =>
    let c := vt.core
    let va := (vt.readX a).toNat
    s.ctAccess id vt (vt.readX a) (s.afterWalk c vt.domain va fun s => s.translateAt c vt.domain va) fun t s =>
      ((s.tlbFill c vt.domain va t.level t.leaf).dropCodeLine (t.loc / 128)).setVt id vt.retire)

/-- `park`: a timeout of 0 is none (R175). -/
def execPark (g : Guard) (a : Reg) (s : State) : Host.Outcome State Fault Refusal :=
  .next (s.ctOnly g [a] [] fun id vt => s.parkVt id vt (.park (s.vtNow vt) (vt.readX a).toNat))

/-- `yield`: the VT counts as if it had become ready now (R176). -/
def execYield (g : Guard) (s : State) : Host.Outcome State Fault Refusal :=
  .next (s.ctOnly g [] [] fun id vt => s.setVt id { vt.retire with readyAt := s.vtNow vt, aged := false })

/-! ### Spill at `exit` (R263) -/

/-- Parts of 64 bytes of a run of bytes from an address. -/
def chunks64 (va : Nat) (bs : List Byte) : Nat → List (Nat × List Byte)
  | 0 => []
  | n + 1 => if bs = [] then [] else (va, bs.take 64) :: chunks64 (va + 64) (bs.drop 64) n

/-- A part of a spill record: its address and bytes, and whether it would be read from a poisoned unit (R263, R346). -/
structure SpillPart where
  va : Nat
  bytes : List Byte
  poisoned : Bool

/-- The parts of a VT's spill record in the order of R263, in the layout of R262. -/
def VT.spillParts (vt : VT) : List SpillPart :=
  let vs := maskIndices vt.spillv
  let base := vt.spillbase.toNat + vt.launchIndex * (384 + 32 * vt.w * vs.length)
  let xs := (maskIndices vt.spillx).map fun k =>
    { va := base + 8 * k.val, bytes := leBytes 8 (vt.readX k).toNat, poisoned := k != 0 && vt.isPoisoned (.x k) : SpillPart }
  let regs := vs.zipIdx.flatMap fun (k, j) => (chunks64 0 (vt.vps.toList.flatMap fun vp => bytesOfReg vp.v[k] vt.w) 64).map
    fun c =>
      let units := (List.range c.2.length).any fun (n : Nat) =>
        vt.regPoisoned (Fin.ofNat 32 ((c.1 + n) / vt.w)) k ((c.1 + n) % vt.w) 1
      ({ va := base + 0x180 + 32 * vt.w * j + c.1, bytes := c.2, poisoned := units } : SpillPart)
  xs ++ [⟨base + 0x140, leBytes 4 vt.spillv.toNat, false⟩] ++ regs

/-- The causes of a failed LAUNCH part gain one (R264). -/
def State.noteCause (s : State) (no : Nat) (c : Nat) : State :=
  { s with launches := s.launches.map fun x => if x.no = no then { x with causes := x.causes ++ [c] } else x }

/-- The parts are written as stores of the VT; a failed one, or one whose unit is poisoned, ends the writing and names its
cause. A write that waits is named by its address. -/
def State.spill (s : State) (vt : VT) : List SpillPart → Except Nat State
  | [] => .ok s
  | p :: ps =>
    if p.poisoned then .ok (s.noteCause vt.launchNo Cause.eccu.code)
    else
      match s.storeGlobal vt.core vt.domain (p.va % 2 ^ 64) (p.bytes.map fun b => (b, true)) .normal with
      | .ok _ s' => State.spill s' vt ps
      | .fault c s' => .ok (s'.noteCause vt.launchNo c.code)
      | .violation => .ok (s.noteCause vt.launchNo 0x0E)
      | .wait _ => .error (p.va % 2 ^ 64)

/-- The requests of a spill record's writes to the slices: all of it is written once they are taken (R90, R91). -/
def State.gateSpill (s : State) (vt : VT) (ps : List SpillPart) : Except State State :=
  match (ps.flatMap fun p => s.entriesOf vt.core vt.domain (p.va % 2 ^ 64) p.bytes.length .store .normal).eraseDups with
  | [] => .ok s
  | q => s.gate (.agent s.who) q

/-- `exit`: it stalls until the VT is reconverged and its accesses and matrix work are done (R220), writes the spill record, and ends the
VT (R177). With both masks of the spill list 0 nothing is written, not the VMASK word either (R263, log 63). -/
def execExit (g : Guard) (s : State) : Host.Outcome State Fault Refusal :=
  .next (s.ctOnly g [] [] fun id vt =>
    if !vt.accessesDone || vt.matrixBusy then s
    else
      let parts := if vt.spillx = 0 ∧ vt.spillv = 0 then [] else vt.spillParts
      match s.gateSpill vt parts with
      | .error s => s
      | .ok t =>
        match t.spill vt parts with
        | .error va => match s.translateAt vt.core vt.domain va with
          | .wait s => s
          | _ => s
        | .ok s => (s.modVt id VT.retire).endVt id)

/-! ### `spawn` (R178) -/

/-- A VTID that no VT which has not ENDED bears; which one is the device's choice (R62, log 11). -/
def State.freshVt (s : State) : Nat × State :=
  let (k, s) := s.draw
  let free (n : Nat) : Bool := match s.vt? (n % 2 ^ 32) with
    | some v => v.st == .ended
    | none => true
  (((findFrom free (k % 2 ^ 32) (s.vts.length + 1)).getD 0) % 2 ^ 32, s)

/-- The key of a gang of a domain (log 53). -/
def gangKey (dom gid : Nat) : Nat := dom * 2 ^ 32 + gid

/-- A GANGID that no gang of the domain which has not ENDED bears; which one is the device's choice (R62). -/
def State.freshGang (s : State) (dom : Nat) : Nat × State :=
  let (k, s) := s.draw
  let free (n : Nat) : Bool := match s.gangs.get? (gangKey dom (n % 2 ^ 32)) with
    | some g => g.st == .ended
    | none => true
  (((findFrom free (k % 2 ^ 32) (s.gangs.length + 1)).getD 0) % 2 ^ 32, s)

/-- VCFG at reset: WSEL of W, IT i32 (R59). -/
def vcfgReset (wsel : Fin 6) : Word64 := BitVec.ofNat 64 (0x20 + wsel.val)

/-- A descriptor of `spawn`. -/
structure SpawnDesc where
  entry : Word64
  codebase : Word64
  wsel : Nat
  tcmwin : Nat
  x : Vector Word64 4
deriving DecidableEq, Repr

/-- The 8 bytes at an offset. -/
def dword (bs : List Byte) (off : Nat) : Word64 := BitVec.ofNat 64 (leNat ((bs.drop off).take 8))

/-- A descriptor whose fields have legal values (R178). -/
def spawnDesc (bs : List Byte) : Option SpawnDesc :=
  let wsel := leNat ((bs.drop 0x10).take 1)
  let tcmwin := leNat ((bs.drop 0x11).take 1)
  if bits64 (dword bs 0) 0 2 ≠ 0 ∨ bits64 (dword bs 8) 0 7 ≠ 0 ∨ 5 < wsel ∨ 64 < tcmwin
      ∨ leNat ((bs.drop 0x12).take 6) ≠ 0 ∨ dword bs 0x38 ≠ 0 then none
  else some { entry := dword bs 0, codebase := dword bs 8, wsel, tcmwin,
              x := #v[dword bs 0x18, dword bs 0x20, dword bs 0x28, dword bs 0x30] }

/-- The VT that a `spawn` creates: every other state at its reset value (R55, R178). -/
def SpawnDesc.vt (p : SpawnDesc) (vt : VT) (gid : Nat) : VT :=
  { domain := vt.domain, gang := gangKey vt.domain gid, gangId := gid, rank := 0, launch := none, launchNo := vt.launchNo, launchIndex := 0
    prio := vt.prio, wsel := Fin.ofNat 6 p.wsel, codebase := p.codebase, tcmwin := p.tcmwin, interval := 0
    persistent := false, spillbase := 0, spillx := 0, spillv := 0, core := vt.core, pc := p.entry
    x := ((((Vector.replicate 32 (0 : Word64)).set 1 p.x[0]).set 2 p.x[1]).set 3 p.x[2]).set 4 p.x[3]
    vcfg := vcfgReset (Fin.ofNat 6 p.wsel) }

/-- The new VT's gang of one joins the placement queue of the issuing VT's cluster (R178, R265). -/
def State.spawnVt (s : State) (vt : VT) (p : SpawnDesc) : Nat × State :=
  let (id, s) := s.freshVt
  let (gid, s) := s.freshGang vt.domain
  let c := clusterOfCore vt.core
  let gang : Gang := { domain := vt.domain, id := gid, size := 1, cluster := c, prio := vt.prio, members := [id]
                       frames := 2 ^ p.wsel, tcmwin := p.tcmwin, launchNo := vt.launchNo, hasBarriers := false }
  let s := { s with gangs := s.gangs.set (gangKey vt.domain gid) gang }
  let s := s.setVt id (p.vt vt gid)
  (id, s.setCluster c { s.cluster c with queue := (s.cluster c).queue ++ [gangKey vt.domain gid] })

/-- `spawn`: what its address finds comes before the release stall, and the descriptor is read after it (R178, R324). -/
def execSpawn (g : Guard) (d a : Reg) (s : State) : Host.Outcome State Fault Refusal :=
  .next (s.ctOnly g [a] [] fun id vt =>
    let addr := vt.readX a
    if !vt.accessesDone then (s.earlyFault id vt addr 64 .load).getD s
    else if addr.toNat % 64 ≠ 0 then s.ctFault id vt .misalign addr
    else s.ctGated vt addr 64 .load fun s =>
      s.ctAccess id vt addr (s.loadGlobal vt.core vt.domain addr.toNat 64 .normal) fun bs s =>
        match spawnDesc bs with
        | none => s.modVt id fun v => (v.writeX d (BitVec.allOnes 64)).retire
        | some p =>
          let r := s.spawnVt vt p
          r.2.modVt id fun v => (v.writeX d (BitVec.ofNat 64 r.1)).retire)

/-! ### `vtctl` (R179) -/

/-- The target of a `vtctl`: a VT of the issuer's domain that has not ENDED and that no KILL has reached. One that was lost with
its cluster is none, though its end waits for the cordon's step 4 (R10, R362, log 46). -/
def State.vtTarget (s : State) (vt : VT) (a : Reg) : Option (Nat × VT) :=
  let t := bits64 (vt.readX a) 0 32
  match s.vt? t with
  | some v => if v.domain = vt.domain ∧ v.st ≠ .ended ∧ v.killed = false ∧ s.vtCut v = false then some (t, v) else none
  | none => none

/-- A `vtctl`: it stalls until the issuer's accesses are performed, then its status goes to x[d]. -/
def State.vtctl (s : State) (g : Guard) (d a : Reg) (f : Nat → VT → Nat → VT → State) : State :=
  s.ctOnly g [a] [] fun id vt =>
    if !vt.accessesDone then s
    else
      match s.vtTarget vt a with
      | none => s.setVt id (vt.writeX d 1).retire
      | some (t, v) => f id vt t v

/-- The issuer goes on with a status. -/
def State.vtctlStatus (s : State) (id : Nat) (d : Reg) (n : Word64) : State := s.modVt id fun v => (v.writeX d n).retire

/-- `vtctl.resume` (R179, R320). -/
def execVtctlResume (g : Guard) (d a : Reg) (s : State) : Host.Outcome State Fault Refusal :=
  .next (s.vtctl g d a fun id _ t v =>
    if v.st = .faulted then (s.setVt t { v.resume with readyAt := s.vtNow v }).vtctlStatus id d 0 else s.vtctlStatus id d 2)

/-- `vtctl.kill`: a VT that is resident ends at its next pre-emption point and another at once; the status arrives when
the target has ENDED (R179, log 48). -/
def execVtctlKill (g : Guard) (d a : Reg) (s : State) : Host.Outcome State Fault Refusal :=
  .next (s.vtctl g d a fun id vt t v =>
    if t = id then (s.setVt id { vt with killed := true }).settleKill id
    else
      let s := s.setVt id (let w := (vt.writeX d 0).retire
        { w with waitStatus := (if d = 0 then [] else [(d, t)]) ++ w.waitStatus })
      (s.setVt t { v with killed := true }).settleKill t)

/-- `vtctl.wake` (R175, R179). -/
def execVtctlWake (g : Guard) (d a : Reg) (s : State) : Host.Outcome State Fault Refusal :=
  .next (s.vtctl g d a fun id _ t v =>
    match v.st, (if v.violation.isSome then none else v.park) with
    | .parked, some (.park .., _) => (s.wakeAcquire t fun v => v).vtctlStatus id d 0
    | _, _ => s.vtctlStatus id d 2)

end Sys2Proof.Machine
end

