-- ==== Sys2Proof/Machine/Sync.lean ====
section
/-! DEFINITION. Barriers (R233 to R235), `mwait` (R236), `waitd` (R239), futures (R240 to R243), and the instructions that
use the engines (R244 to R251). -/

namespace Sys2Proof.Machine

open Sys2Proof

/-! ### Barriers -/

/-- A member arrives: its first arrival in a phase counts, and may complete the phase (R234). -/
def State.arrive (s : State) (vt : VT) (b : Fin 16) : State :=
  match s.gangs.get? vt.gang with
  | none => s
  | some g =>
    let bar := g.barriers[b]
    if bar.arr.getLsbD vt.rank then s
    else
      let m := BitVec.twoPow 1024 vt.rank
      let bar' := { bar with arr := bar.arr ||| m, pend := bar.pend ||| m, count := bar.count + 1 }
      ({ s with gangs := s.gangs.set vt.gang { g with barriers := g.barriers.set b bar' } }).settleBarrier vt.gang b

/-- A member waits: with no arrival outstanding it goes on; in an incomplete phase it parks; else its wait is done and it
acquires (R234). -/
def State.barrierWait (s : State) (id : Nat) (vt : VT) (b : Fin 16) : State :=
  match s.gangs.get? vt.gang with
  | none => s
  | some g =>
    let bar := g.barriers[b]
    if !(bar.pend.getLsbD vt.rank) then s.setVt id vt.retire
    else if bar.arr.getLsbD vt.rank then s.parkVt id vt (.barw b)
    else
      let bar' := { bar with pend := bar.pend &&& ~~~(BitVec.twoPow 1024 vt.rank) }
      (({ s with gangs := s.gangs.set vt.gang { g with barriers := g.barriers.set b bar' } }).acquire vt).setVt id vt.retire

/-- A barrier instruction: a VT created by `spawn` has no barriers (R235), and a poisoned barrier faults its next user
(R345). An arrival stalls until the VT's earlier accesses are performed (R110). -/
def State.barrierOp (s : State) (arrives : Bool) (b : Fin 16) (g : Guard) (f : Nat → VT → State) : State :=
  s.ctOnly g [] [] fun id vt =>
    match s.gangs.get? vt.gang with
    | none => s.ctFault id vt .illop 0
    | some x =>
      if !x.hasBarriers then s.ctFault id vt .illop 0
      else if x.barriers[b].poisoned then s.ctFault id vt .eccu 0
      else if arrives && !vt.accessesDone then s
      else f id vt

/-- `bar`: arrive, then wait (R234). -/
def execBar (g : Guard) (b : Fin 16) (s : State) : Host.Outcome State Fault Refusal :=
  .next (s.barrierOp true b g fun id vt => (s.arrive vt b).barrierWait id vt b)

/-- `bara`: arrive (R234). -/
def execBara (g : Guard) (b : Fin 16) (s : State) : Host.Outcome State Fault Refusal :=
  .next (s.barrierOp true b g fun id vt => (s.arrive vt b).modVt id VT.retire)

/-- `barw`: wait (R234). -/
def execBarw (g : Guard) (b : Fin 16) (s : State) : Host.Outcome State Fault Refusal :=
  .next (s.barrierOp false b g fun id vt => s.barrierWait id vt b)

/-! ### Waiting on a word, waiting on vector memory -/

/-- A read of `n` bytes by a core that looks them up at their home alone, once the home and its slice take it (R89 to R91,
R236). -/
def State.homeAccess (s : State) (c dom va n : Nat) : Access Trans :=
  (s.gatedAccess c dom va .load).bind fun t s =>
    match s.gate (.agent s.who) (s.slicesOf (cachingOf t.leaf t.loc .normal) .load t.loc n) with
    | .error s => .wait s
    | .ok s => (s.reachHome .load t n .normal).bind fun _ s => .ok t s

/-- `mwait`: the word is read at its home; the VT goes on with the value, or registers and parks (R236, R237). -/
def execMwait (g : Guard) (d a b : Reg) (word : Bool) (c : MCond) (s : State) : Host.Outcome State Fault Refusal :=
  let m := if word then 4 else 8
  .next (s.ctEarly g [a] [b] (fun id vt => s.earlyFault id vt (vt.readX a) m .load) <| s.ctOnly g [a, b] [] fun id vt =>
    let addr := vt.readX a
    if addr.toNat % m ≠ 0 then s.ctFault id vt .misalign addr
    else s.ctAccess id vt addr (s.homeAccess vt.core vt.domain addr.toNat m) fun t s =>
      let k := cachingOf t.leaf t.loc .normal
      if s.homePoisoned k t.loc m then s.ctFault id vt .eccu addr
      else
        let v := s.watchedWord t.loc (k.past t.loc) word
        let s := s.l2TouchAll k (linesOf t.loc m) false
        if mwaitHolds word c v (vt.readX b) then
          (s.acquire vt).modVt id fun w => (w.writeX d v).retire
        else s.parkVt id vt (.mwait addr t.loc (k.past t.loc) word c (vt.readX b) d none))

/-- `waitd`: it stalls until the counter is at most n (R239). -/
def execWaitd (g : Guard) (n : Reg) (dc : Fin 4) (s : State) : Host.Outcome State Fault Refusal :=
  .next (s.ctOnly g [] [] fun id vt => if vt.d[dc] ≤ n.val then s.setVt id vt.retire else s)

/-! ### Futures -/

/-- The compute die whose steward serves a die's roles (R364). -/
def State.rolesDie (s : State) (d : Nat) : Nat := (s.die d).steward.getD d

/-- The future table of a die is lost, or out of reach behind its ring bridge (R364, R365). -/
def State.tableLost (s : State) (d : Nat) : Bool := (s.die d).futuresLost || s.cutOff (roleTile d .steward)

/-- What a handle names for a domain (R240): nothing valid, an entry of a lost table, or an entry. -/
inductive FutRef where
  | stale
  | lost
  | entry (key : Nat) (f : Future)
deriving DecidableEq, Repr

/-- A handle: DIE, INDEX, GEN (R240). -/
def handleOf (die index gen : Nat) : Nat := die * 2 ^ 29 + index * 2 ^ 13 + gen

/-- The entry that a handle names for a domain (R240). -/
def State.futureOf (s : State) (dom h : Nat) : FutRef :=
  let die := h / 2 ^ 29 % 8
  let key := die * 65536 + h / 2 ^ 13 % 65536
  if s.tableLost die then .lost
  else
    let f := s.futures.getD key {}
    if f.st ≠ .free ∧ f.domain = dom ∧ f.gen = h % 8192 then .entry key f else .stale

def State.setFuture (s : State) (key : Nat) (f : Future) : State := { s with futures := s.futures.set key f }

/-- A wake sent to a VT whose cluster is cordoned, or on a severed die, is void (R359, R365). -/
def State.wakeVoid (s : State) (id : Nat) : Bool :=
  match s.vt? id with
  | some v => s.vtCut v || v.park.isNone
  | none => true

/-- A waiter of a future wakes with the value in its x[D] and acquires (R110, R242). -/
def State.wakeFuture (s : State) (id : Nat) (value : Word64) : State :=
  s.wakeAcquire id fun v =>
    match v.park with
    | some (.fut _ _ _ d, _) => v.writeX d value
    | _ => v

/-- The table serves the waiters of an entry that becomes FULL, in order: the state of the entry after it, and the
waiters that remain (R242). -/
def State.serveWaiters (s : State) (value : Word64) : List (Nat × Bool) → State × FutState × List (Nat × Bool)
  | [] => (s, .full, [])
  | (id, take) :: ws =>
    if s.wakeVoid id then State.serveWaiters s value ws
    else if take then (s.wakeFuture id value, .empty, ws)
    else State.serveWaiters (s.wakeFuture id value) value ws

/-- How an `fput` ends (R241). -/
inductive FputStatus where
  | ok | full | cordon | stale
deriving DecidableEq, Repr

/-- An `fput` on a handle in a domain, by a VT, a SIGNAL node or a link engine (R241, R111). -/
def State.fput (s : State) (dom h : Nat) (value : Word64) : FputStatus × State :=
  match s.futureOf dom h with
  | .stale => (.stale, s)
  | .lost => (.cordon, s)
  | .entry key f =>
    match f.st with
    | .empty =>
      let r := s.serveWaiters value f.waiters
      (.ok, r.1.setFuture key { f with value, st := r.2.1, waiters := r.2.2, poisoned := false })
    | .full => (.full, s)
    | .cordon | .free => (.cordon, s)

/-- What an entry is after an `ftake` has emptied it (R241, R362). -/
def Future.taken (f : Future) : Future :=
  { f with st := if f.lostOwner then .cordon else .empty, lostOwner := false }

/-- A future instruction: the release stall of `fput`, then the operation at the table. -/
def State.futureOp (s : State) (g : Guard) (xs : List Reg) (a : Reg) (f : Nat → VT → FutRef → State) : State :=
  s.ctOnly g xs [] fun id vt => f id vt (s.futureOf vt.domain (bits64 (vt.readX a) 0 32))

/-- `fnew`: a FREE entry of the die's table becomes EMPTY; which one is the device's choice (R241). -/
def execFnew (g : Guard) (d : Reg) (s : State) : Host.Outcome State Fault Refusal :=
  .next (s.ctOnly g [] [] fun id vt =>
    let die := s.rolesDie (dieOfCore vt.core)
    if s.tableLost die then s
    else
      let (k, s) := s.draw
      let isFree (n : Nat) : Bool := (s.futures.getD (die * 65536 + n % 65536) {}).st == .free
      match findFrom isFree (k % 65536) 65536 with
      | none => s.setVt id (vt.writeX d 0).retire
      | some n =>
        let key := die * 65536 + n % 65536
        let f := s.futures.getD key {}
        let f' : Future := { st := .empty, gen := f.gen, domain := vt.domain, owner := id }
        (s.setFuture key f').setVt id (vt.writeX d (BitVec.ofNat 64 (handleOf die (n % 65536) f.gen))).retire)

/-- `fput` (R241). -/
def execFput (g : Guard) (d a b : Reg) (s : State) : Host.Outcome State Fault Refusal :=
  .next (s.ctOnly g [a, b] [] fun id vt =>
    if !vt.accessesDone then s
    else
      let r := s.fput vt.domain (bits64 (vt.readX a) 0 32) (vt.readX b)
      match r.1 with
      | .stale => s.ctFault id vt .futh 0
      | .ok => r.2.modVt id fun v => (v.writeX d 0).retire
      | .full => r.2.modVt id fun v => (v.writeX d 1).retire
      | .cordon => r.2.modVt id fun v => (v.writeX d 2).retire)

/-- `fget` and `ftake` (R241): a FULL entry gives its value and acquires; an EMPTY one parks. -/
def State.futureTake (s : State) (take : Bool) (g : Guard) (d a : Reg) : State :=
  s.futureOp g [a] a fun id vt r =>
    match r with
    | .stale => s.ctFault id vt .futh 0
    | .lost => s.ctFault id vt .cordon 0
    | .entry key f =>
      match f.st with
      | .full =>
        if f.poisoned then s.ctFault id vt .eccu 0
        else
          let s := if take then s.setFuture key f.taken else s
          (s.acquire vt).setVt id (vt.writeX d f.value).retire
      | .empty =>
        (s.setFuture key { f with waiters := f.waiters ++ [(id, take)] }).parkVt id vt (.fut key f.gen take d)
      | .cordon | .free => s.ctFault id vt .cordon 0

/-- `fget` (R241). -/
def execFget (g : Guard) (d a : Reg) (s : State) : Host.Outcome State Fault Refusal := .next (s.futureTake false g d a)

/-- `ftake` (R241). -/
def execFtake (g : Guard) (d a : Reg) (s : State) : Host.Outcome State Fault Refusal := .next (s.futureTake true g d a)

/-- `ftry`: the value to x[d], then the status to x[b] (R241, log 45). -/
def execFtry (g : Guard) (d a b : Reg) (s : State) : Host.Outcome State Fault Refusal :=
  .next (s.futureOp g [a] a fun id vt r =>
    let give (s : State) (v st : Word64) : State := s.setVt id ((vt.writeX d v).writeX b st).retire
    match r with
    | .stale => s.ctFault id vt .futh 0
    | .lost => give s 0 2
    | .entry _ f =>
      match f.st with
      | .full => if f.poisoned then s.ctFault id vt .eccu 0 else give (s.acquire vt) f.value 0
      | .empty => give s 0 1
      | .cordon | .free => give s 0 2)

/-- GEN after a free: it wraps from 8,191 to 1 (R240). -/
def nextGen (n : Nat) : Nat := if n = 8191 then 1 else n + 1

/-- `ffree`: the entry is FREE under the next GEN, and each waiter faults with FUTH (R241, R242). An entry of a lost
table stays CORDON (R364). -/
def execFfree (g : Guard) (a : Reg) (s : State) : Host.Outcome State Fault Refusal :=
  .next (s.futureOp g [a] a fun id vt r =>
    match r with
    | .stale => s.ctFault id vt .futh 0
    | .lost => s.setVt id vt.retire
    | .entry key f =>
      let s := s.setFuture key { st := .free, gen := nextGen f.gen }
      (f.waiters.foldl (fun s w => s.wakeFault w.1 .futh 0) s).modVt id VT.retire)

/-! ### Engine commands: fields and checks (R245 to R247) -/

/-- SPACE and ADDR of an address word (R245). -/
def addrSpace (w : Word64) : Nat := bits64 w 62 2
def addrOffset (w : Word64) : Nat := bits64 w 0 48

/-- An address word whose fields are legal. -/
def addrLegal (w : Word64) : Bool := bits64 w 48 14 == 0 && addrSpace w != 3

def cmdKind (ws : Vector Word64 4) : Nat := bits64 ws[0] 0 8
def cmdTag (ws : Vector Word64 4) : Nat := bits64 ws[0] 48 16
def cmdLen (ws : Vector Word64 4) : Nat := bits64 ws[3] 0 40
def cmdPeer (ws : Vector Word64 4) : Nat := bits64 ws[0] 32 16

/-- Rows of a copy command: their number, their bytes, and the strides of destination and source (R246). -/
def cmdRows (ws : Vector Word64 4) : Nat × Nat × Int × Int :=
  if cmdKind ws = 2 then
    (bits64 ws[3] 24 16, bits64 ws[3] 0 24, sext 24 (bits64 ws[3] 40 24), sext 24 (bits64 ws[0] 8 24))
  else (1, cmdLen ws, 0, 0)

/-- Lowest byte and the byte after the highest of `rows` rows of `len` bytes from `a`. -/
def rowSpan (a : Nat) (rows len : Nat) (stride : Int) : Int × Int :=
  let first : Int := a
  let last : Int := first + ((rows : Int) - 1) * stride
  (min first last, max first last + len)

/-- The range lies within addresses 0 to 2^48 - 1. -/
def spanInside (r : Int × Int) : Bool := 0 ≤ r.1 && r.2 ≤ (2 ^ 48 : Nat)

/-- The ENGCMD rows of R247 but for the channel's. -/
def cmdMalformed (eng : Nat) (ws : Vector Word64 4) : Bool :=
  let r := cmdRows ws
  let dst := rowSpan (addrOffset ws[1]) r.1 r.2.1 r.2.2.1
  let src := rowSpan (addrOffset ws[2]) r.1 r.2.1 r.2.2.2
  let two : Bool := addrLegal ws[1] && addrLegal ws[2]
  let ranges : Bool := 0 < r.1 && 0 < r.2.1 && spanInside dst && spanInside src
  let apart : Bool := addrSpace ws[1] != addrSpace ws[2] || dst.2 ≤ src.1 || src.2 ≤ dst.1
  let lenWord : Bool := bits64 ws[3] 40 24 == 0
  let globals : Bool := addrSpace ws[1] == 0 && addrSpace ws[2] == 0
  !(match eng, cmdKind ws with
    | 0, 0x01 => bits64 ws[0] 8 40 == 0 && two && lenWord && ranges && apart
    | 0, 0x02 => bits64 ws[0] 32 16 == 0 && two && ranges && apart
    | 0, 0x03 => bits64 ws[0] 8 40 == 0 && addrLegal ws[1] && lenWord && 0 < r.2.1 && spanInside dst
    | 1, 0x10 | 1, 0x11 => bits64 ws[0] 8 24 == 0 && two && lenWord && ranges && globals
    | 1, 0x12 =>
      let size := if bits64 ws[0] 8 4 = 0 then 4 else 2
      bits64 ws[0] 12 20 == 0 && bits64 ws[0] 8 4 ≤ 1 && two && lenWord && ranges && globals
        && addrOffset ws[1] % size == 0 && addrOffset ws[2] % size == 0 && cmdLen ws % size == 0
    | 1, 0x13 => bits64 ws[0] 8 24 == 0 && bits64 ws[1] 32 32 == 0 && ws[3] == 0
    | _, _ => false)

/-- The lowest offset of the rows that lies outside a window (R334). -/
def rowsOutside (size a rows len : Nat) (stride : Int) : Option Int :=
  (List.range rows).foldl (fun (best : Option Int) (q : Nat) =>
    let lo : Int := (a : Int) + (q : Int) * stride
    if (size : Int) < lo + len then
      let x := max lo size
      match best with
      | some b => some (min b x)
      | none => some x
    else best) none

/-- The BOUND check of an address word (R247, R334): the offset that fails. -/
def State.cmdBound (s : State) (vt : VT) (w : Word64) (rows len : Nat) (stride : Int) : Option Int :=
  if addrSpace w = 0 then none else rowsOutside (s.windowSize vt (addrSpace w)) (addrOffset w) rows len stride

/-- The first BOUND failure of a copy command: destination before source. -/
def State.cmdBounds (s : State) (vt : VT) (ws : Vector Word64 4) : Option Int :=
  let r := cmdRows ws
  match s.cmdBound vt ws[1] r.1 r.2.1 r.2.2.1 with
  | some x => some x
  | none => if cmdKind ws = 3 then none else s.cmdBound vt ws[2] r.1 r.2.1 r.2.2.2

/-- The four doublewords from x[a] (R245). -/
def VT.cmdWords (vt : VT) (a : Reg) : Vector Word64 4 := #v[vt.readX a, vt.readX (a + 1), vt.readX (a + 2), vt.readX (a + 3)]

/-- The registers that hold a command. -/
def cmdRegs (a : Reg) : List Reg := [a, a + 1, a + 2, a + 3]

/-- A channel's number among the eight of a VT (R249). -/
def channelOf (eng : Nat) (dc : Nat) : Fin 8 := Fin.ofNat 8 (eng * 4 + dc)

/-- The unit that runs a VT's commands: the cluster's copy engine, or the die's link engine (R12, R364). -/
def State.engineUnit (s : State) (vt : VT) (eng : Nat) : Nat :=
  if eng = 0 then clusterOfCore vt.core else s.rolesDie (dieOfCore vt.core)

/-- The input FIFO of an engine is full (R244). -/
def State.fifoFull (s : State) (eng unit : Nat) : Bool :=
  (if eng = 0 then 256 else 1024)
    ≤ (s.commands.filter fun c => c.eng.val == eng && c.unit == unit && c.phase == .queued).length

/-- A command is accepted: it takes the next number. -/
def State.acceptCmd (s : State) (id : Nat) (vt : VT) (eng : Fin 2) (chan : Fin 8) (dest : CmdDest) (ws : Vector Word64 4) :
    State :=
  { s with
    commands := s.commands ++ [{ id := s.nextCmd, domain := vt.domain, vt := id, eng, unit := s.engineUnit vt eng.val
                                 chan, dest, words := ws, gang := vt.gang }]
    nextCmd := s.nextCmd + 1 }

/-- A VT may enter a FIFO: there is room, and no VT that came before it still waits for it (R244). -/
def State.fifoTurn (s : State) (id eng unit : Nat) : Bool :=
  !(s.fifoFull eng unit) && match s.fifoWait.find? fun w => w.1 == eng && w.2.1 == unit with
    | some w => w.2.2 == id
    | none => true

/-- A VT stalls at a FIFO and takes its place among those that wait for it. -/
def State.joinFifo (s : State) (id eng unit : Nat) : State :=
  if s.fifoWait.contains (eng, unit, id) then s else { s with fifoWait := s.fifoWait ++ [(eng, unit, id)] }

/-- The checks of R334 from step 4 on, then the release stall and the wait for the FIFO, then `k`. -/
def State.enqChecked (s : State) (id : Nat) (vt : VT) (eng : Nat) (ws : Vector Word64 4) (k : State → State) : State :=
  if cmdMalformed eng ws then s.ctFault id vt .engcmd 0
  else
    match (if eng = 0 then s.cmdBounds vt ws else none) with
    | some x => s.ctFault id vt .bound (word64 x)
    | none =>
      if !vt.accessesDone then s
      else if s.fifoTurn id eng (s.engineUnit vt eng) then k (s.leaveFifo id)
      else s.joinFifo id eng (s.engineUnit vt eng)

/-- `enq` (R251, R334). -/
def execEnq (g : Guard) (a : Reg) (eng : Fin 8) (dc : Fin 4) (s : State) : Host.Outcome State Fault Refusal :=
  let ch := channelOf eng.val dc.val
  let refuses (vt : VT) : Option Cause := if vt.channels[ch].frozen || 16 ≤ vt.channels[ch].reserved then some .engcmd else none
  .next (s.ctOnlyIf refuses g (cmdRegs a) [] fun id vt =>
    let c := vt.channels[ch]
    let ws := vt.cmdWords a
    s.enqChecked id vt eng.val ws fun s =>
      (s.acceptCmd id vt (Fin.ofNat 2 eng.val) ch (.channel ch) ws).setVt id
        { vt.retire with channels := vt.channels.set ch { c with reserved := c.reserved + 1 } })

/-- `enqy`: the command is enqueued and the VT parks until its record arrives (R251, R334). -/
def execEnqy (g : Guard) (d a b : Reg) (eng : Fin 8) (s : State) : Host.Outcome State Fault Refusal :=
  let early (id : Nat) (vt : VT) : Option State :=
    if bits64 (vt.readX b) 0 2 ≠ 0 then some (s.ctFault id vt .misalign (vt.readX b)) else none
  .next (s.ctEarly g [b] (cmdRegs a) early <| s.ctOnly g (b :: cmdRegs a) [] fun id vt =>
    let cont := vt.readX b
    let ws := vt.cmdWords a
    if bits64 cont 0 2 ≠ 0 then s.ctFault id vt .misalign cont
    else s.enqChecked id vt eng.val ws fun s =>
      (s.acceptCmd id vt (Fin.ofNat 2 eng.val) (channelOf eng.val 0) .enqy ws).parkVt id vt (.enqy s.nextCmd d cont))

/-- The oldest record of a channel leaves it and frees its place (R249, R251). -/
def VT.popRecord (vt : VT) (ch : Fin 8) : Option ((Word64 × List Nat) × VT) :=
  let c := vt.channels[ch]
  if c.frozen then none
  else
    match c.records with
    | [] => none
    | r :: rs => some (r, { vt with channels := vt.channels.set ch { c with records := rs, reserved := c.reserved - 1 } })

/-- `deq`: the oldest record to x[d], which acquires the command's writes; it parks while there is none (R251). -/
def execDeq (g : Guard) (d : Reg) (eng : Fin 8) (dc : Fin 4) (s : State) : Host.Outcome State Fault Refusal :=
  .next (s.ctOnly g [] [] fun id vt =>
    let ch := channelOf eng.val dc.val
    match vt.popRecord ch with
    | some (r, vt) => (s.acquireLines vt.core r.2).setVt id (vt.writeX d r.1).retire
    | none => s.parkVt id vt (.deq ch d))

/-- `deqt`: as `deq`, but EMPTY where there is no record (R250, R251). -/
def execDeqt (g : Guard) (d : Reg) (eng : Fin 8) (dc : Fin 4) (s : State) : Host.Outcome State Fault Refusal :=
  .next (s.ctOnly g [] [] fun id vt =>
    match vt.popRecord (channelOf eng.val dc.val) with
    | some (r, vt) => (s.acquireLines vt.core r.2).setVt id (vt.writeX d r.1).retire
    | none => s.setVt id (vt.writeX d 0x0000FF0000000000).retire)

end Sys2Proof.Machine
end

