-- ==== Sys2Proof/Machine/Engines.lean ====
section
/-! DEFINITION. The copy engines (R244 to R248, R346, R349, R384) and completion records (R250, R251). -/

namespace Sys2Proof.Machine

open Sys2Proof

/-- Why a transfer stops before its end. -/
inductive CopyStop where
  | fault (c : Cause)
  | violation (addr : Nat)
  /-- The storage of a CXL link that retrains (R347). -/
  | waits
deriving DecidableEq, Repr

/-- The windows that a command names: those of its VT and of its gang, where they still exist (R72). -/
structure CopyWin where
  vt : Option Nat
  gang : Option Nat
deriving DecidableEq, Repr

def Command.window (c : Command) : CopyWin :=
  { vt := if c.orphan then none else some c.vt, gang := if c.gone then none else some c.gang }

/-- The contents and the poison marks of a window, with the bytes of a unit. -/
def State.windowOf (s : State) (w : CopyWin) (space : Nat) : Option (List Host.Cell × List Nat × Nat) :=
  if space = 1 then
    match w.gang with
    | some g => (s.gangs.get? g).map fun g => (g.csp, g.cspPoison, 4)
    | none => none
  else
    match w.vt with
    | some id => (s.vt? id).map fun v => (v.tcm, v.tcmPoison, 8)
    | none => none

/-- One source byte. A byte of a window that no longer exists is a free value (log 10). -/
def State.copyRead (s : State) (w : CopyWin) (dom space a : Nat) : Except CopyStop Byte × State :=
  if space = 0 then
    match s.readHome dom a 1 with
    | .ok bs s => (.ok ((bs[0]?).getD 0), s)
    | .fault c s => (.error (.fault c), s)
    | .violation => (.error (.violation a), s)
    | .wait s => (.error .waits, s.stallOn dom a)
  else
    match s.windowOf w space with
    | none => (.ok (BitVec.ofNat 8 s.draw.1), s.draw.2)
    | some (m, p, u) => if p.contains (a / u) then (.error (.fault .eccu), s) else (.ok (Memory.read m a), s)

/-- Source bytes from `a`, up to the first that fails (log 24). -/
def State.copyReads (s : State) (w : CopyWin) (dom space a : Nat) : Nat → List Byte × Option CopyStop × State
  | 0 => ([], none, s)
  | n + 1 =>
    match s.copyRead w dom space a with
    | (.error e, s) => ([], some e, s)
    | (.ok b, s) =>
      let r := State.copyReads s w dom space (a + 1) n
      (b :: r.1, r.2)

/-- Destination bytes that lie in one aligned unit of 8; a write into a window that no longer exists is discarded (R73). -/
def State.copyWrite (s : State) (w : CopyWin) (dom space a : Nat) (bs : List Byte) : Option CopyStop × State :=
  if space = 0 then
    match s.writeHome dom a bs with
    | .ok _ s => (none, s)
    | .fault c s => (some (.fault c), s)
    | .violation => (some (.violation a), s)
    | .wait s => (some .waits, s.stallOn dom a)
  else
    let ms := bs.map fun b => (b, true)
    (none, if space = 1 then (match w.gang with
        | some g => s.cspWrite g a ms
        | none => s)
      else match w.vt with
        | some id => s.tcmWrite id a ms
        | none => s)

/-- How far a transfer has come: the bytes written and the 64-byte lines they lie in. -/
structure CopyDone where
  bytes : Nat
  lines : List Nat
  stop : Option CopyStop
deriving DecidableEq, Repr

/-- The line of a global destination. -/
def State.lineOf (s : State) (dom space a : Nat) : List Nat :=
  if space = 0 then (match s.resolve a (if a < 2 ^ 48 then s.walk dom a else none) with
    | some t => [t.loc / 64]
    | none => [])
  else []

/-- One row from its byte `k` on, one aligned unit of 8 destination bytes at a time (R248). `src` is the row's source
space and address, or none for a FILL with pattern `pat`. -/
def State.copyRow (s : State) (w : CopyWin) (dom dsp da len : Nat) (src : Option (Nat × Nat)) (pat : Word64) (k : Nat)
    (d : CopyDone) : Nat → CopyDone × State
  | 0 => (d, s)
  | fuel + 1 =>
    if len ≤ k then (d, s)
    else
      let m := min (len - k) (8 - (da + k) % 8)
      let r : List Byte × Option CopyStop × State := match src with
        | some (ssp, sa) => s.copyReads w dom ssp (sa + k) m
        | none => ((List.range m).map fun j => BitVec.ofNat 8 (bits64 pat (8 * ((k + j) % 8)) 8), none, s)
      if r.1 = [] then ({ d with stop := r.2.1 }, r.2.2)
      else
        match r.2.2.copyWrite w dom dsp (da + k) r.1 with
        | (some e, s) => ({ d with stop := some e }, s)
        | (none, s) =>
          let d := { d with bytes := d.bytes + r.1.length, lines := (s.lineOf dom dsp (da + k) ++ d.lines).eraseDups }
          match r.2.1 with
          | some e => ({ d with stop := some e }, s)
          | none => State.copyRow s w dom dsp da len src pat (k + m) d fuel

/-- A copy-engine command's bytes, row by row (R246). -/
def State.copyRun (s : State) (w : CopyWin) (dom : Nat) (ws : Vector Word64 4) : CopyDone × State :=
  let r := cmdRows ws
  let fill := cmdKind ws == 3
  (List.range r.1).foldl (fun (x : CopyDone × State) (q : Nat) =>
    if x.1.stop.isSome then x
    else
      let da := ((addrOffset ws[1] : Int) + q * r.2.2.1).toNat
      let sa := ((addrOffset ws[2] : Int) + q * r.2.2.2).toNat
      x.2.copyRow w dom (addrSpace ws[1]) da r.2.1 (if fill then none else some (addrSpace ws[2], sa)) ws[2] 0 x.1 r.2.1)
    ({ bytes := 0, lines := [], stop := none }, s)

/-- A command replaced. -/
def State.setCommand (s : State) (c : Command) : State :=
  { s with commands := s.commands.map fun x => if x.id = c.id then c else x }

def State.command? (s : State) (cmd : Nat) : Option Command := s.commands.find? fun c => c.id == cmd

/-- The parts of a range of addresses in its 64-byte lines. -/
def lineParts (a n : Nat) : List (Nat × Nat) :=
  (linesOf a n).map fun l => (max a (l * 64), min (a + n) (l * 64 + 64) - max a (l * 64))

/-- The slices at which an engine's access of a range of addresses needs entries (R89, R90). -/
def State.rangeSlices (s : State) (dom : Nat) (k : AccessKind) (a n : Nat) : List Nat :=
  ((lineParts a n).flatMap fun p => s.walkSlices dom p.1 ++ match s.resolve p.1 (s.walk dom p.1) with
    | some t => s.slicesOf (cachingOf t.leaf t.loc .normal) k t.loc p.2
    | none => []).eraseDups

/-- The slices that a copy command's requests go to. -/
def State.copySlices (s : State) (dom : Nat) (ws : Vector Word64 4) : List Nat :=
  let r := cmdRows ws
  ((List.range r.1).flatMap fun (q : Nat) =>
    let at' (w : Word64) (stride : Int) (k : AccessKind) : List Nat :=
      if addrSpace w = 0 then s.rangeSlices dom k ((addrOffset w : Int) + q * stride).toNat r.2.1 else []
    at' ws[1] r.2.2.1 .store ++ if cmdKind ws = 3 then [] else at' ws[2] r.2.2.2 .load).eraseDups

/-- An engine may start or go on with a command: it runs, or every command that its unit accepted before has started, and
nothing cuts its tile off (R244, R358). -/
def State.mayRun (s : State) (c : Command) : Bool :=
  !(s.cutOff (if c.eng = 0 then clusterTile c.unit else roleTile c.unit .steward))
    && (c.phase == .running || (c.phase == .queued
      && !(s.commands.any fun e => e.eng == c.eng && e.unit == c.unit && e.phase == .queued && e.id < c.id)))

/-- A copy-engine command runs: it ends DONE, or at a byte that failed with its cause, or stops at a reserved byte, whose
channel is then frozen (R250, R322, R384). One whose requests wait has started (R91, R347). -/
def State.runCopy (s : State) (cmd kind : Nat) : State :=
  match s.command? cmd with
  | none => s
  | some c =>
    if !(s.mayRun c) ∨ c.eng ≠ 0 ∨ cmdKind c.words ≠ kind then s
    else
      match s.gate (.command cmd) (s.copySlices c.domain c.words) with
      | .error s => s.setCommand { c with phase := .running }
      | .ok s =>
      let r := s.copyRun c.window c.domain c.words
      let t := { r.2 with wants := s.wants }
      match r.1.stop with
      | some .waits => (s.heldLine t.stalled).setCommand { c with phase := .running }
      | some (.violation a) => t.setCommand { c with phase := .frozen (BitVec.ofNat 64 a), written := r.1.lines }
      | some (.fault e) => t.setCommand { c with phase := .ended e.code r.1.bytes, written := r.1.lines }
      | none => t.setCommand { c with phase := .ended 0 r.1.bytes, written := r.1.lines }

/-- COPY1D (R246, log 16). -/
def execCopy1d (cmd : Nat) (s : State) : Host.Outcome State Fault Refusal := .next (s.runCopy cmd 1)

/-- COPY2D (R246). -/
def execCopy2d (cmd : Nat) (s : State) : Host.Outcome State Fault Refusal := .next (s.runCopy cmd 2)

/-- FILL (R246). -/
def execFill (cmd : Nat) (s : State) : Host.Outcome State Fault Refusal := .next (s.runCopy cmd 3)

/-! ### Completion records (R249 to R251) -/

/-- The record of an ended command (R250). -/
def recordOf (c : Command) (status bytes : Nat) : Word64 :=
  BitVec.ofNat 64 (cmdTag c.words * 2 ^ 48 + status * 2 ^ 40 + bytes % 2 ^ 40)

/-- A record is pushed into a channel; a VT parked on the channel takes it at once (R251). A frozen channel gives no
record (R322). -/
def State.pushRecord (s : State) (id : Nat) (vt : VT) (ch : Fin 8) (r : Word64 × List Nat) : State :=
  let c := vt.channels[ch]
  let waits : Option Reg := match vt.park with
    | some (.deq k d, _) => if k = ch && !c.frozen then some d else none
    | _ => none
  match waits with
  | some d =>
    let s := s.setVt id { vt with channels := vt.channels.set ch { c with reserved := c.reserved - 1 } }
    (if vt.resident then s.acquireLines vt.core r.2 else s).wake id fun v => v.writeX d r.1
  | none => s.setVt id { vt with channels := vt.channels.set ch { c with records := c.records ++ [r] } }

/-- The VT of an `enqy` wakes at its continuation with the record (R251). -/
def State.finishEnqy (s : State) (id : Nat) (vt : VT) (cmd : Nat) (r : Word64 × List Nat) : State :=
  match vt.park with
  | some (.enqy n d cont, _) =>
    if n = cmd then
      (if vt.resident then s.acquireLines vt.core r.2 else s).wake id fun v => { v.writeX d r.1 with pc := cont }
    else s
  | _ => s

/-- COMPLETION_RECORD: every write of the command is performed; its record is pushed, and a VT that waits for it wakes. The
record of an ENDED VT is discarded (R177, R249). -/
def execCompletionRecord (cmd : Nat) (s : State) : Host.Outcome State Fault Refusal :=
  .next (match s.command? cmd with
    | none => s
    | some c =>
      match c.phase with
      | .ended status bytes =>
        let s := { s with commands := s.commands.filter fun x => x.id != cmd }
        match (if c.orphan then none else s.vt? c.vt) with
        | none => s
        | some vt =>
          let r := (recordOf c status bytes, c.written)
          (match c.dest with
            | .channel ch => s.pushRecord c.vt vt ch r
            | .enqy => s.finishEnqy c.vt vt cmd r).settleKill c.vt
      | _ => s)

end Sys2Proof.Machine
end

