-- ==== Sys2Proof/Machine/VectorControl.lean ====
section
/-! DEFINITION. Vector control (R181 to R190), binding to slots (R43 to R46, R53, R268), and the issue of vector memory
instructions (R191, R195, R196). -/

namespace Sys2Proof.Machine

open Sys2Proof

/-! ### Slots and admission -/

/-- The number of quads that a slot of a core owns (R43, R44). -/
def State.slotSpan (s : State) (core slot : Nat) : Nat :=
  ((List.range 4).filter fun q => (s.core core).lpr.toNat / 2 ^ (2 * q) % 4 == slot).length

/-- The lowest quad that a slot of a core owns. -/
def State.firstQuad (s : State) (core slot : Nat) : Nat :=
  ((List.range 4).find? fun q => (s.core core).lpr.toNat / 2 ^ (2 * q) % 4 == slot).getD 0

/-- The VTs bound to a slot: the resident ones (R46, log 57). -/
def State.boundTo (s : State) (core slot : Nat) : Nat :=
  (s.vts.filter fun e => e.2.resident && e.2.core == core && e.2.slot == slot).length

/-- ⌈65,536 / S⌉ (R53). -/
def admissionShare (interval : Nat) : Nat := (65536 + interval - 1) / interval

/-- The sum of R53 over a slot's admitted VTs other than `id`. -/
def State.admissionSum (s : State) (core slot id : Nat) : Nat :=
  (s.vts.filter fun e => e.1 != id && e.2.admitted && e.2.core == core && e.2.slot == slot).foldl
    (fun n e => n + admissionShare e.2.interval) 0

/-- MGMT admits a VT to a slot (R53). -/
def State.admits (s : State) (core slot id interval : Nat) : Bool :=
  interval != 0 && s.admissionSum core slot id + admissionShare interval ≤ 32768

/-- Of the slots of a list, the one with the fewest VTs bound to it, the lowest on a tie. -/
def State.leastBound (s : State) (core : Nat) : List Nat → Option Nat
  | [] => none
  | k :: ks =>
    match s.leastBound core ks with
    | some j => if s.boundTo core k ≤ s.boundTo core j then some k else some j
    | none => some k

/-- The slots of a span. -/
def State.slotsOf (s : State) (core span : Nat) : List Nat := (List.range 4).filter fun k => s.slotSpan core k == span

/-- The widest span that a core has. -/
def State.widest (s : State) (core : Nat) : Nat :=
  (List.range 4).foldl (fun n k => max n (s.slotSpan core k)) 0

/-- The VT is bound to a slot of its core. A VT with a service interval that does not already hold its admission there is
tested; a refusal posts an ADMIT record (R268, R319). -/
def State.bindTo (s : State) (id slot : Nat) (moved : Bool) : State :=
  match s.vt? id with
  | none => s
  | some vt =>
    let span := s.slotSpan vt.core slot
    let quad0 := s.firstQuad vt.core slot
    if vt.interval = 0 ∨ (vt.admitted = true ∧ vt.slot = slot ∧ moved = false) then s.setVt id { vt with slot, span, quad0 }
    else if s.admits vt.core slot id vt.interval then s.setVt id { vt with slot, span, quad0, admitted := true }
    else
      (s.setVt id { vt with slot, span, quad0, admitted := false }).post vt.domain 3 fw0Tile
        [(0x10, leBytes 4 id), (0x14, leBytes 2 vt.core), (0x16, leBytes 1 slot), (0x18, leBytes 4 vt.interval)]

/-- A span request of `setvl`: a slot of that span, for an admitted VT one that admits it, else no change (R181, R268).
While a `mop` of the VT runs a request that finds a slot is kept until it has completed (R228). -/
def State.requestSpan (s : State) (id : Nat) (vt : VT) (span : Nat) : State :=
  let slots := (s.slotsOf vt.core span).filter fun k => !vt.admitted || s.admits vt.core k id vt.interval
  match s.leastBound vt.core slots with
  | none => s
  | some k => if vt.matrixBusy then s.modVt id fun v => { v with wantSpan := span } else s.bindTo id k false

/-- A span request that waited for a `mop` takes effect once the `mop` has completed (R228). -/
def State.settleSpan (s : State) (id : Nat) : State :=
  match s.vt? id with
  | none => s
  | some vt =>
    if vt.wantSpan = 0 ∨ vt.matrixBusy = true then s
    else
      let s := s.setVt id { vt with wantSpan := 0 }
      if vt.resident then s.requestSpan id { vt with wantSpan := 0 } vt.wantSpan else s

/-! ### Length, configuration, space, mask, segments -/

/-- A CT instruction that depends on VCFG: ILLCFG while VCFG.ILL is 1 (R183, R332). -/
def State.ctVector (s : State) (g : Guard) (xs : List Reg) (body : Nat → VT → State) : State :=
  s.ctOnlyIf (fun vt => if vcfgIll vt.vcfg then some .illcfg else none) g xs [] body

/-- `setvl` (R181): it closes the strip. -/
def execSetvl (g : Guard) (d a b : Reg) (s : State) : Host.Outcome State Fault Refusal :=
  .next (s.ctVector g [a] fun id vt =>
    let vl := min (vt.readX a).toNat 32
    let w := vt.writeX d (BitVec.ofNat 64 vl)
    let vt' := { w.retire with vl, strip := vt.strip + 1 }
    let s := s.setVt id vt'
    if b = 0 then s else s.requestSpan id vt' b.val)

/-- A request of VCFG[10:0] is applied: an unsupported one sets ILL and VL 0 (R182). -/
def VT.applyCfg (vt : VT) (req : Nat) : VT :=
  let wsel := req % 8
  let it := req / 8 % 8
  let ft := req / 64 % 8
  if 3 ≤ ft ∨ vt.w < 2 ^ (it / 2) ∨ wsel ≠ vt.wsel.val then
    { vt with vcfg := vt.vcfg ||| 0x8000000000000000, vl := 0 }
  else { vt with vcfg := BitVec.ofNat 64 (req % 2048) }

/-- `setcfg` (R182). -/
def execSetcfg (g : Guard) (d a : Reg) (s : State) : Host.Outcome State Fault Refusal :=
  .next (s.ctRegs g [a] fun vt =>
    let vt := vt.applyCfg (bits64 (vt.readX a) 0 11)
    vt.writeX d vt.vcfg)

/-- `setmt` (R184). -/
def execSetmt (g : Guard) (a : Reg) (s : State) : Host.Outcome State Fault Refusal :=
  .next (s.ctRegs g [a] fun vt => vt.writeVmt (vt.readX a))

/-- `setem` (R184). -/
def execSetem (g : Guard) (a : Reg) (s : State) : Host.Outcome State Fault Refusal :=
  .next (s.ctRegs g [a] fun vt => vt.writeEm (vt.readX a))

/-- `setseg` (R184). -/
def execSetseg (g : Guard) (seg : Fin 4) (a : Reg) (s : State) : Host.Outcome State Fault Refusal :=
  .next (s.ctRegs g [a] fun vt => vt.writeSeg seg (vt.readX a))

/-! ### Waiting for blocks; single values -/

/-- `vjoin` (R186). -/
def execVjoin (g : Guard) (s : State) : Host.Outcome State Fault Refusal :=
  .next (s.ctOnly g [] [] fun id vt => if vt.reconverged then s.setVt id vt.retire else s)

/-- min(W, 8) bytes of a value, the rest zero (R187). -/
def lowEight (w : Nat) (v : Nat) : Nat := v % 2 ^ (8 * min w 8)

/-- `xseed` (R187). -/
def execXseed (g : Guard) (a : Reg) (s : State) : Host.Outcome State Fault Refusal :=
  .next (s.ctVector g [a] fun id vt =>
    if !vt.reconverged then s
    else
      match (maskIndices vt.active).head? with
      | none => s.setVt id vt.retire
      | some i =>
        let vp := vt.vps[i]
        if 4 ≤ vp.inbound.length then s.ctFault id vt .queue 0
        else
          let x : VReg := BitVec.ofNat 1024 (lowEight vt.w (vt.readX a).toNat)
          s.setVt id { vt.retire with vps := vt.vps.set i { vp with inbound := vp.inbound ++ [x] } })

/-- The poisoned units once an entry has left the drain queue. -/
def popDrain (l : List RegUnit) : List RegUnit :=
  l.filterMap fun u => match u with
    | .drain 0 => none
    | .drain (n + 1) => some (.drain n)
    | _ => some u

/-- `xdrain` (R187). -/
def execXdrain (g : Guard) (d : Reg) (s : State) : Host.Outcome State Fault Refusal :=
  .next (s.ctVector g [] fun id vt =>
    if !vt.reconverged then s
    else
      match vt.drain with
      | [] => s.ctFault id vt .queue 0
      | x :: xs =>
        if vt.isPoisoned (.drain 0) then s.ctFault id vt .eccu 0
        else s.setVt id { (vt.writeX d (BitVec.ofNat 64 (lowEight vt.w x.toNat))).retire with
          drain := xs, poison := popDrain vt.poison })

/-- `settleVp` on every VP of a mask. -/
def VT.settleAll (vt : VT) (m : BitVec 32) : VT := (maskIndices m).foldl VT.settleVp vt

/-- `vbcast`: the value enters every active VP's sequence (R188). -/
def execVbcast (g : Guard) (d a : Reg) (s : State) : Host.Outcome State Fault Refusal :=
  .next (s.ctVector g [a] fun id vt =>
    if vt.seqFull vt.active then s
    else
      s.setVt id ((vt.enqueue (.bcast d (vt.readX a) (itBits (vcfgIt vt.vcfg))) vt.active (.vbcast g d a)).settleAll
        vt.active).retire)

/-- Every operation of VP j's sequence has written its registers (R189). A store writes none. -/
def VT.sequenceWritten (vt : VT) (j : Fin 32) : Bool :=
  (vt.waiting.all fun o => !(o.mask.getLsbD j.val) || match o.op with
      | .mem k => vt.inflight.any fun e => e.idx == k && (e.isStore || e.queueForm)
      | _ => false)
    && (vt.pendingLoads j).all fun e => e.queueForm || e.isStore

/-- `vextract` (R189). -/
def execVextract (g : Guard) (d a b : Reg) (s : State) : Host.Outcome State Fault Refusal :=
  .next (s.ctVector g [a] fun id vt =>
    let j : Fin 32 := Fin.ofNat 32 (bits64 (vt.readX a) 0 5)
    if !vt.reconverged then s
    else if !(vt.sequenceWritten j) then s.setVt id { vt with awaited := BitVec.twoPow 32 j.val }
    else if vt.regPoisoned j b 0 (min vt.w 8) then s.ctFault id vt .eccu 0
    else s.setVt id (({ vt with awaited := 0 } : VT).writeX d (BitVec.ofNat 64 (lowEight vt.w vt.vps[j].v[b].toNat))).retire)

/-! ### Sending blocks -/

/-- A fault of a `vf` or `vfr` at steps 3 to 7: WHERE 4 (R325). -/
def State.vfFault (s : State) (id : Nat) (vt : VT) (c : Cause) (target : Word64) : State :=
  s.detect id { cause := c, place := 4, vp := 0, elem := 0, infl := 0, code := 0, pc := vt.pc, iaddr := target
                daddr := target }

/-- The queue conditions of a wide block with XQS = x and XQR = q (R37). -/
def VT.wideQueuesOk (vt : VT) (x q : Nat) : Bool :=
  match maskIndices vt.active with
  | [] => true
  | i :: is =>
    q ≤ vt.vps[i].inbound.length
      && is.all (fun j => q ≤ vt.vps[j].inbound.length + x && vt.vps[j].inbound.length + x ≤ 4)
      && vt.drain.length + x ≤ 4

/-- The load- and store-queue conditions of a block with LQN = a and SQN = b (R42). -/
def VT.blockCountsOk (vt : VT) (a b : Nat) : Bool :=
  (maskIndices vt.active).all fun i => a ≤ vt.vps[i].cntL && vt.vps[i].cntS + b ≤ 8

/-- The count changes of R42. -/
def VT.takeCounts (vt : VT) (a b : Nat) : VT :=
  (maskIndices vt.active).foldl (fun (vt : VT) (i : Fin 32) =>
    let vp := vt.vps[i]
    { vt with vps := vt.vps.set i { vp with cntL := vp.cntL - a, cntS := vp.cntS + b } }) vt

/-- The distinct captures that are still needed (R69). -/
def VT.captures (vt : VT) : List Capture :=
  let waiting := vt.waiting.filterMap fun o => match o.op with
    | .block _ _ cap _ _ _ => some cap
    | .mem _ | .bcast .. => none
  let vps := vt.vps.toList.flatMap fun vp =>
    (match vp.run with
      | some r => [r.cap]
      | none => []) ++ (match vp.chain with
      | some c => [c.1]
      | none => [])
  (waiting ++ vps).eraseDups

/-- 128 distinct captures are live and this one is none of them (R69). -/
def VT.captureFull (vt : VT) : Bool := !(vt.captures.contains vt.capture) && 128 ≤ vt.captures.length

/-- `vf` and `vfr`: the checks of R185 in order, then the block enters the sequence of every active VP. -/
def State.sendBlock (s : State) (id : Nat) (vt : VT) (target : Word64) (i : Instr) : State :=
  if target.toNat % 128 ≠ 0 then s.ctFault id vt .misalign target
  else
    match s.fetchLine vt.core vt.domain target.toNat (headerSpan (vt.active != 0)) with
    | .wait s => s
    | .fault c s => s.vfFault id vt c target
    | .violation =>
      s.violate id { cause := .domain, place := 4, vp := 0, elem := 0, infl := 0, code := 0, pc := vt.pc, iaddr := target
                     daddr := target }
    | .ok l s' =>
      match (wordsOfLine l).head? with
      | none => s
      | some hw =>
        match decodeHeader hw with
        | .error e => s'.vfFault id vt (headerCause e) target
        | .ok h =>
          if h.wide && !vt.reconverged then s
          else if h.wide && !(vt.wideQueuesOk h.xqs h.xqr) then s'.vfFault id vt .queue target
          else if !(vt.blockCountsOk h.lqn h.sqn) then s'.vfFault id vt .queue target
          else
            match (if vt.active = 0 then none else wordsCheck vt.w (vcfgIt vt.vcfg) h (blockWords h l).tail) with
            | some c => s'.vfFault id vt c target
            | none =>
              if vt.seqFull vt.active || (vt.active != 0 && vt.captureFull) then s
              else
                s'.setVt id (((vt.takeCounts h.lqn h.sqn).enqueue
                  (.block target vt.pc vt.capture h.wide vt.active vt.lane) vt.active i).retire)

/-- `vf` (R185). -/
def execVf (g : Guard) (imm : Fin 4194304) (s : State) : Host.Outcome State Fault Refusal :=
  .next (s.ctVector g [] fun id vt => s.sendBlock id vt (vt.relative 22 imm.val) (.vf g imm))

/-- `vfr` (R185). -/
def execVfr (g : Guard) (a : Reg) (imm : Fin 4096) (s : State) : Host.Outcome State Fault Refusal :=
  .next (s.ctVector g [a] fun id vt => s.sendBlock id vt (vt.offsetAddr a imm) (.vfr g a imm))

/-! ### Issuing vector memory instructions -/

/-- Instructions that are performed, with every older one in the window, leave it (R105). -/
def VT.leaveWindow (vt : VT) : VT := { vt with inflight := vt.inflight.dropWhile fun e => e.done }

/-- The lowest-numbered empty in-flight entry (R66). -/
def VT.freeEntry (vt : VT) : Fin 8 :=
  ((List.finRange 8).find? fun k => !(vt.inflight.any fun e => e.idx == k)).getD 0

/-- Every active VP reserves a load-queue entry, or has one of its store-queue entries claimed (R39, R42). -/
def VT.takeQueues (vt : VT) (isStore : Bool) (k : Fin 8) : VT :=
  (maskIndices vt.active).foldl (fun (vt : VT) (i : Fin 32) =>
    let vp := vt.vps[i]
    let vp' := if isStore then { vp with cntS := vp.cntS - 1 }
      else { vp with cntL := vp.cntL + 1, loadQ := vp.loadQ ++ [LoadEntry.pending k 0] }
    { vt with vps := vt.vps.set i vp' }) vt

/-- The load queue of an active VP has all its 8 entries in use, those of issued blocks that have not popped them yet among
them: a queue-form `vld` stalls (R39, R49, log 57). -/
def VT.loadQueueFull (vt : VT) : Bool := (maskIndices vt.active).any fun i => 8 ≤ vt.vps[i].loadQ.length

/-- The queue check of a queue-form instruction: L = 8 for a `vld`, S = 0 for a `vst` (R42). -/
def VT.queueRefuses (vt : VT) (isStore : Bool) : Bool :=
  (maskIndices vt.active).any fun i => if isStore then vt.vps[i].cntS == 0 else vt.vps[i].cntL == 8

/-- `vld` and `vst` at issue (R191, R195, R196): the queue check, the run-ahead window, then an in-flight entry, the
counter, and the sequences of the active VPs. With no active VP the instruction is performed at once (R190). -/
def State.issueMemory (s : State) (isStore : Bool) (g : Guard) (v a b : Reg) (mode : VMode) (dc : Fin 4) (q : Bool)
    (hint : Hint) : State :=
  let pre (vt : VT) : Option Cause :=
    if vcfgIll vt.vcfg then some .illcfg else if q && vt.queueRefuses isStore then some .queue else none
  s.ctOnlyIf pre g (if mode = .s then [a, b] else [a]) [] fun id vt =>
    if 8 ≤ vt.inflight.length || vt.seqFull vt.active || (q && !isStore && vt.loadQueueFull) then s
    else
      let k := vt.freeEntry
      let i : Instr := if isStore then .vst g v a b mode dc q hint else .vld g v a b mode dc q hint
      let entry : InFlight :=
        { idx := k, instr := i, pc := vt.pc, isStore, queueForm := q, v, b, mode, dc, hint, space := vt.vmt
          base := vt.readX a, stride := if mode = .s then vt.readX b else 0, it := vcfgIt vt.vcfg, active := vt.active
          start := 0, strip := vt.strip, done := vt.active == 0, held := [] }
      let vt' := { vt with inflight := vt.inflight ++ [entry]
                           d := if vt.active = 0 then vt.d else vt.d.set dc (vt.d[dc] + 1) }
      let vt' := if q then vt'.takeQueues isStore k else vt'
      s.setVt id (((vt'.enqueue (.mem k) vt.active i).settleAll vt.active).leaveWindow.retire)

/-- `vld` (R191). -/
def execVld (g : Guard) (v a b : Reg) (mode : VMode) (dc : Fin 4) (q : Bool) (hint : Hint) (s : State) :
    Host.Outcome State Fault Refusal :=
  .next (s.issueMemory false g v a b mode dc q hint)

/-- `vst` (R191). -/
def execVst (g : Guard) (v a b : Reg) (mode : VMode) (dc : Fin 4) (q : Bool) (hint : Hint) (s : State) :
    Host.Outcome State Fault Refusal :=
  .next (s.issueMemory true g v a b mode dc q hint)

end Sys2Proof.Machine
end

