-- ==== Sys2Proof/Machine/VectorMemory.lean ====
section
/-! DEFINITION. The performing of vector memory instructions (R191 to R199, R103, R104, R314), requests that a slice
rejects (R89 to R91), the wakes by monitor and timeout (R175, R236), and ageing at issue (R52). -/

namespace Sys2Proof.Machine

open Sys2Proof

/-! ### Elements (R103, R104, R107, R195) -/

/-- The page and location of a global address, as the core translates it. -/
def State.elementTrans (s : State) (vt : VT) (a : Int) : Option Trans :=
  s.resolve a.toNat (s.leafFor vt.core vt.domain a.toNat)

/-- Where the bytes of an element lie: their storage location in global space, so far as they have one (R78). -/
def State.placeOf (s : State) (vt : VT) (space : Nat) (a : Int) : Int :=
  if space = 0 then
    match s.elementTrans vt a with
    | some t => (t.loc : Int)
    | none => a
  else a

/-- Elements of VP j that are not performed meet these bytes; an address that VP j's sequence has not come to yet may be
any. -/
def State.openMeets (s : State) (vt : VT) (o : InFlight) (j : Fin 32) (p : Int) (n : Nat) : Bool :=
  !(o.vpPerformed vt.w j) && ((o.indexed && !(vt.reached o j))
    || (List.range (o.perVp vt.w - o.next vt.w j)).any fun k =>
      rangesMeet (s.placeOf vt o.space (o.addr vt.w vt.vps[j] j (o.next vt.w j + k))) (o.elemBytes vt.w) p n)

/-- The element waits for one of an earlier strip: a store for every element, since the strip may yet fault, a load for those
that share a byte with it (R103, R348). -/
def State.behindStrip (s : State) (vt : VT) (e : InFlight) (a : Int) (n : Nat) : Bool :=
  vt.inflight.any fun o => decide (o.strip < e.strip) && !o.done
    && (e.isStore
      || (o.space == e.space && (List.finRange 32).any fun j => s.openMeets vt o j (s.placeOf vt e.space a) n))

/-- A global address lies on a page of DEVICE class, as the core translates it. -/
def State.devicePage (s : State) (vt : VT) (a : Int) : Bool := (s.elementTrans vt a).any fun t => entryDevice t.leaf

/-- An element of VP j on a DEVICE-class page is not performed, as far as its address is known. -/
def State.deviceOpen (s : State) (vt : VT) (o : InFlight) (j : Fin 32) : Bool :=
  o.space == 0 && !(o.vpPerformed vt.w j) && ((o.indexed && !(vt.reached o j))
    || (List.range (o.perVp vt.w - o.next vt.w j)).any fun k =>
      s.devicePage vt (o.addr vt.w vt.vps[j] j (o.next vt.w j + k)))

/-- A DEVICE-class element waits for those of older instructions of its CT, and for the lower ones of its own (R107,
R198). -/
def State.behindDevice (s : State) (vt : VT) (e : InFlight) (i : Fin 32) (a : Int) : Bool :=
  e.space == 0 && s.devicePage vt a
    && (((vt.inflight.takeWhile fun o => o.idx != e.idx).any fun o =>
          !o.done && (List.finRange 32).any fun j => s.deviceOpen vt o j)
      || (List.finRange 32).any fun j => decide (j < i) && s.deviceOpen vt e j)

/-- Something waits for VP i's own element of a load: an instruction of VP i's running block, an operation of its sequence, the
CT's stalled instruction, or an instruction of a later strip (R25, R103). -/
def VT.elementNeeded (vt : VT) (e : InFlight) (i : Fin 32) : Bool :=
  (vt.vps[i].run.any fun r => vt.awaitsLoad i r)
    || (match vt.waiting.filter fun o => o.mask.getLsbD i.val with
      | ⟨.block .., _, _⟩ :: _ => false
      | [⟨.mem k, _, _⟩] => k != e.idx
      | ops => ops != [])
    || vt.awaited.getLsbD i.val
    || vt.inflight.any fun o => decide (e.strip < o.strip) && !o.done

/-- VP i's next element may start, whatever becomes of lower ones: it lies below any that faults, and with a stop or a
violation below the highest one started (R199, R314). -/
def VT.mayStart (vt : VT) (e : InFlight) (i : Fin 32) : Bool :=
  let n := e.nextNumber vt.w i
  !((vt.faultedAt e).any fun f => f ≤ n) && (decide (n < vt.boundaryOf e) || !(vt.stopping || vt.violation.isSome))

/-- Elements start in the order of their numbers, but past stuck VPs: a store at once, an element of a load once something
waits for it (R25, R314, log 6). -/
def VT.inTurn (vt : VT) (e : InFlight) (i : Fin 32) : Bool :=
  let lower := (List.finRange 32).filter fun j => decide (j < i) && !(e.vpPerformed vt.w j)
  vt.mayStart e i && (decide (e.nextNumber vt.w i < vt.boundaryOf e) || lower == []
    || ((e.isStore || vt.elementNeeded e i) && lower.all (vt.stuck e).contains))

/-- The data of a store for VP i, and its write mask: v[V], or the oldest store-queue entry (R40, R195). -/
def InFlight.storeData (e : InFlight) (vp : VP) : VReg × BitVec 128 :=
  if e.queueForm then
    match vp.storeQ with
    | x :: _ => (x.data, x.mask)
    | [] => (0, 0)
  else (vp.v[e.v], BitVec.allOnes 128)

/-- The bytes of VP i's k-th element of a store (R195). -/
def InFlight.storeBytes (e : InFlight) (w : Nat) (vp : VP) (k : Nat) : List (Byte × Bool) :=
  let d := e.storeData vp
  let n := e.elemBytes w
  (List.range n).map fun j => ((elem 8 d.1 (n * k + j)), d.2.getLsbD (n * k + j))

/-- VP i's part of a load: the element's bytes into v[V], or into the entry reserved for it (R195). -/
def VP.takeElement (vp : VP) (e : InFlight) (w k : Nat) (bs : List Byte) : VP :=
  let b := 8 * e.elemBytes w
  if e.queueForm then
    { vp with loadQ := vp.loadQ.map fun q => match q with
        | .pending n x => if n = e.idx then .pending n (setElem b x k (leNat bs)) else q
        | .filled _ => q }
  else { vp with v := vp.v.set e.v (setElem b vp.v[e.v] k (leNat bs)) }

/-- The last element of VP i is performed: a reserved entry is filled, a store-queue entry that was read is freed. -/
def VP.finishMemory (vp : VP) (e : InFlight) : VP :=
  if !e.queueForm then vp
  else if e.isStore then { vp with storeQ := vp.storeQ.drop 1 }
  else
    { vp with loadQ := vp.loadQ.map fun q => match q with
        | .pending n x => if n = e.idx then .filled x else q
        | .filled _ => q }

/-- VP i's next element, which is performed for the first time, is counted; with its last, its place in the sequence is
left. -/
def VT.nextElement (vt : VT) (e : InFlight) (i : Fin 32) : VT :=
  let n := e.prog[i] + 1
  let vt := vt.setEntry { e with prog := e.prog.set i n }
  if n < e.perVp vt.w then vt
  else
    let vt := { vt with
      vps := vt.vps.set i (vt.vps[i].finishMemory e)
      poison := if e.queueForm && e.isStore then popPoison i .store 1 vt.poison else vt.poison }
    if e.isStore || e.indexed then ({ vt with waiting := seqPop i vt.waiting } : VT).settleVp i else vt.settleVp i

/-- The record of a fault of VP i's next element: WHERE 1 (R325). -/
def InFlight.faultInfo (e : InFlight) (w : Nat) (i : Fin 32) (c : Cause) (addr : Int) : FaultInfo :=
  { cause := c, place := 1, vp := 0, elem := e.nextNumber w i, infl := e.idx.val, code := 0, pc := e.pc, iaddr := e.pc
    daddr := word64 addr }

/-- A fault of VP i's next element. -/
def State.elementFault (s : State) (id : Nat) (vt : VT) (e : InFlight) (i : Fin 32) (c : Cause) (addr : Int) : State :=
  s.detect id (e.faultInfo vt.w i c addr)

/-- The slices at which an element needs a miss entry (R90). -/
def State.elementSlices (s : State) (vt : VT) (e : InFlight) (a : Int) : List Nat :=
  if e.space ≠ 0 then []
  else
    match s.elementTrans vt a with
    | none => []
    | some t => s.slicesOf (cachingOf t.leaf t.loc e.hint) (if e.isStore then .store else .load) t.loc (e.elemBytes vt.w)

/-- An index register that VP i's k-th element reads is poisoned (R346). -/
def VT.indexPoisoned (vt : VT) (e : InFlight) (i : Fin 32) (k : Nat) : Bool :=
  let n := e.elemBytes vt.w
  e.indexed && (if e.mode = .x then vt.regPoisoned i e.b 0 4 else vt.regPoisoned i e.b (k * n) n)

/-- A register unit or queue entry with the data of VP i's k-th element of a store is poisoned (R346). -/
def VT.dataPoisoned (vt : VT) (e : InFlight) (i : Fin 32) (k : Nat) : Bool :=
  let n := e.elemBytes vt.w
  e.isStore && (if e.queueForm then vt.queuePoisoned i .store 1 else vt.regPoisoned i e.v (k * n) n)

/-- The bytes that an element of this number still gives: a byte that a higher element of the instruction has written keeps that
one's value (R104). -/
def State.notTaken (s : State) (vt : VT) (e : InFlight) (n : Nat) (p : Int) (bs : List (Byte × Bool)) :
    List (Byte × Bool) :=
  if e.ahead = [] then bs
  else bs.zipIdx.map fun b => (b.1.1, b.1.2 && !(e.ahead.any fun a =>
    decide (n < a.elem) && a.bytes.zipIdx.any fun c => c.1.2 && s.placeOf vt e.space a.addr + c.2 == p + b.2))

/-- A load of an element, with the lines that it brings in as their homes have them. -/
def State.loadElement (s : State) (vt : VT) (e : InFlight) (a : Int) : Access (List Byte) :=
  if e.space = 0 then s.loadRaw vt.core vt.domain a.toNat (e.elemBytes vt.w) e.hint
  else s.loadSpace vt e.space a (e.elemBytes vt.w) e.hint

/-- The checks of a store element, and its write (R193, R313). Poisoned data come last. -/
def State.storeElement (s : State) (id : Nat) (vt : VT) (e : InFlight) (n : Nat) (a : Int) (bs : List (Byte × Bool))
    (bad : Bool) : Access (List Byte) :=
  let w := s.notTaken vt e n (s.placeOf vt e.space a) bs
  (if bad then (s.checkSpace vt e.space a bs.length e.hint).bind fun _ s => .fault .eccu s
    else if w.any Prod.snd then s.storeSpace id vt e.space a w e.hint
    else s.checkSpace vt e.space a bs.length e.hint).bind fun _ s => .ok [] s

/-- A store element that a lower one of its instruction has yet to follow is kept, until the instruction is done. -/
def InFlight.noteAhead (e : InFlight) (w : Nat) (i : Fin 32) (a : Int) (bs : List (Byte × Bool)) : InFlight :=
  if e.isStore && (List.finRange 32).any fun j => decide (j < i) && !(e.vpPerformed w j) then
    { e with ahead := e.ahead ++ [{ elem := e.nextNumber w i, addr := a, bytes := bs, again := false }] }
  else e

/-- The element that is performed again has been. -/
def InFlight.repeated (e : InFlight) (n : Nat) : InFlight :=
  { e with ahead := e.ahead.map fun a => if a.elem = n then { a with again := false } else a }

/-- What an attempt at an element gives. -/
inductive Attempt where
  | performed (s : State)
  | failed (s : State)
  /-- It waits; what its attempt left of the walk and the requests. -/
  | waits (s : State)

/-- What an access of VP i's next element leads to; `done` is its effect on the VT. -/
def State.attempted (s0 : State) (id : Nat) (vt : VT) (e : InFlight) (i : Fin 32) (a : Int) (r : Access (List Byte))
    (done : List Byte → VT → VT) : Attempt :=
  match r with
  | .ok bs s => .performed (s.modVt id (done bs))
  | .fault c s => .failed (s.elementFault id vt e i c a)
  | .violation => .failed (s0.violate id (e.faultInfo vt.w i .domain a))
  | .wait s => .waits s

/-- A store that was performed above a faulting element is performed again (R314). -/
def State.attemptAgain (s : State) (id : Nat) (vt : VT) (e : InFlight) (i : Fin 32) (x : Ahead) : Attempt :=
  if s.behindStrip vt e x.addr x.bytes.length || !((s.elementSlices vt e x.addr).all e.held.contains) then .waits s
  else
    s.attempted id vt e i x.addr (s.storeElement id vt e x.elem x.addr x.bytes false) fun _ v => v.setEntry (e.repeated x.elem)

/-- VP i's next element is attempted: what it waits for, the checks of R193 and R313 in order, then the access. -/
def State.attemptElement (s : State) (id : Nat) (vt : VT) (e : InFlight) (i : Fin 32) : Attempt :=
  if !(vt.mayAttempt e i && vt.inTurn e i) then .waits s
  else
    match e.ahead.find? fun x => x.again && x.elem == e.nextNumber vt.w i with
    | some x => s.attemptAgain id vt e i x
    | none =>
      let vp := vt.vps[i]
      let k := e.next vt.w i
      let n := e.elemBytes vt.w
      let bytes := e.storeBytes vt.w vp k
      let a := e.addr vt.w vp i k
      if e.isStore && !(bytes.any Prod.snd) then .performed (s.setVt id (vt.nextElement e i))
      else if vt.indexPoisoned e i k then .failed (s.elementFault id vt e i .eccu 0)
      else if s.behindStrip vt e a n || s.behindDevice vt e i a || !((s.elementSlices vt e a).all e.held.contains) then
        .waits s
      else if a % n ≠ 0 then .failed (s.elementFault id vt e i .misalign a)
      else if e.isStore then
        s.attempted id vt e i a (s.storeElement id vt e (e.nextNumber vt.w i) a bytes (vt.dataPoisoned e i k)) fun _ v =>
          v.nextElement (e.noteAhead vt.w i a bytes) i
      else
        s.attempted id vt e i a (s.loadElement vt e a) fun bs v =>
          ({ v with vps := v.vps.set i (v.vps[i].takeElement e vt.w k bs) } : VT).nextElement e i

/-- Every element has been performed: the counter falls by one, and the window moves on (R196, R105). -/
def VT.finishEntry (vt : VT) (e : InFlight) : VT :=
  (({ vt with d := vt.d.set e.dc (vt.d[e.dc] - 1) } : VT).setEntry { e with done := true, ahead := [] }).leaveWindow

/-- VP i's elements are performed in order, as far as they can be; `true` where one has failed (R25, R192). -/
def State.performVp (s : State) (id : Nat) (k : Fin 8) (i : Fin 32) : Nat → State × Bool
  | 0 => (s, false)
  | n + 1 =>
    match s.vt? id with
    | none => (s, false)
    | some vt =>
      match vt.entry k with
      | none => (s, false)
      | some e =>
        if e.vpPerformed vt.w i then (s, false)
        else
          match s.attemptElement id vt e i with
          | .performed s => State.performVp s id k i n
          | .failed s => (s, true)
          | .waits s => (s, false)

/-- The elements of the VPs of a list are performed, each VP's as far as they can be (R25, R103, R104). With a failed one no
higher one is started. -/
def State.performVps (s : State) (id : Nat) (k : Fin 8) (n : Nat) : List (Fin 32) → State
  | [] => s
  | i :: is =>
    match s.performVp id k i n with
    | (s, true) => s
    | (s, false) => State.performVps s id k n is

/-- The instruction's elements are performed in the order of their numbers, as far as they can be; with the last, the
instruction is performed (R196). One line that it brings into L1 serves all of them; the stores that the core holds show in it
afterwards (R87, R307). -/
def State.performAll (s : State) (id : Nat) (k : Fin 8) : State :=
  match s.vt? id with
  | none => s
  | some vt =>
    match vt.entry k with
    | none => s
    | some e =>
      ((s.performVps id k (e.perVp vt.w) (List.finRange 32)).showStores vt.core).modVt id fun v =>
        match v.entry k with
        | some x => if 32 * x.perVp v.w ≤ x.lowest v.w then v.finishEntry x else v
        | none => v

/-! ### Requests to the slices (R89 to R91) -/

/-- The address of VP i's k-th element, as it was where the element has been performed before. -/
def InFlight.elementAddr (e : InFlight) (vt : VT) (i : Fin 32) (k : Nat) : Int :=
  match e.ahead.find? fun a => a.elem == i.val * e.perVp vt.w + k with
  | some a => a.addr
  | none => e.addr vt.w vt.vps[i] i k

/-- The slices to which headers for the elements that may start go, of those that hold no entry for the instruction. -/
def State.entrySlices (s : State) (vt : VT) (e : InFlight) : List Nat :=
  ((maskIndices e.active).flatMap fun i =>
    if !(vt.mayAttempt e i && vt.mayStart e i) then []
    else (List.range (e.perVp vt.w - e.next vt.w i)).flatMap fun k =>
      (s.elementSlices vt e (e.elementAddr vt i (e.next vt.w i + k))).filter fun q => !(e.held.contains q)).eraseDups

/-- Each header of a vector access is accepted or rejected on its own (R91). -/
def State.sendHeaders (s : State) (id : Nat) (vt : VT) (e : InFlight) : State :=
  let w : Requester := .vector id e.idx
  let new := (s.entrySlices vt e).filter fun k => !(s.rejected.any fun r => r.who == w && r.slice == k)
  let full := new.filter fun k => s.sliceFull k false
  let s := s.setVt id (vt.setEntry { e with held := e.held ++ new.filter fun k => !(full.contains k) })
  full.foldl (fun s k => s.reject w k) s

/-- VECTOR_MEMORY_PERFORMED: the instruction's headers are sent, the elements at slices that have taken theirs are performed,
and with the last its counter falls (R91, R196). In a stop only the elements below the boundary are performed (R199,
R314). -/
def execVectorMemoryPerformed (id : Nat) (entry : Fin 8) (s : State) : Host.Outcome State Fault Refusal :=
  .next (match s.vt? id with
    | none => s
    | some vt =>
      match vt.entry entry with
      | none => s
      | some e =>
        if e.done || !vt.resident then s
        else
          let s := if e.space = 0 then s.sendHeaders id vt e else s
          (s.performAll id entry).settleKill id)

/-- A slice has taken a request that it had rejected: a vector header holds its entry, another request is performed next. -/
def State.grant (s : State) (r : Rejected) : State :=
  match r.who with
  | .vector id k =>
    { s with rejected := s.rejected.filter fun x => x.id != r.id }.modVt id fun v =>
      match v.entry k with
      | some e => v.setEntry { e with held := e.held ++ [r.slice] }
      | none => v
  | .agent _ | .command _ | .event _ | .message _ | .post _ =>
    { s with rejected := s.rejected.map fun x => if x.id = r.id then { x with granted := true } else x }

/-- RETRY: a rejected request is sent again, at least 32 compute tile cycles after its last sending. The slice takes it,
or records it as aged from its fourth retry on; the reserved entries go to aged requests in their order (R91). -/
def execRetry (request : Nat) (s : State) : Host.Outcome State Fault Refusal :=
  .next (match s.rejected.find? fun r => r.id == request && !r.granted with
    | none => s
    | some r =>
      let now := s.tileCycle (s.requesterTile r.who)
      if now < r.sentAt + 32 then s
      else
        let count := min 15 (r.count + 1)
        let k := s.slice r.slice
        let aged := if 4 ≤ count ∧ r.id ∉ k.aged then k.aged ++ [r.id] else k.aged
        if s.sliceFull r.slice false && !(aged.head? == some r.id && !(s.sliceFull r.slice true)) then
          { s.setSlice r.slice { k with aged } with
            rejected := s.rejected.map fun x => if x.id = r.id then { r with count, sentAt := now } else x }
        else (s.setSlice r.slice { k with aged := aged.filter fun n => n != r.id }).grant r)

/-! ### Wakes and ageing -/

/-- MONITOR_WAKE: the home's monitor has found the watched word satisfying the condition; the VT wakes with the value
(R236, R237). A wake to a cluster that is cordoned, or on a severed die, is void (R359, R365, log 46). -/
def execMonitorWake (id : Nat) (s : State) : Host.Outcome State Fault Refusal :=
  .next (match s.vt? id with
    | none => s
    | some vt =>
      match vt.park with
      | some (.mwait _ _ _ _ _ _ d (some v), _) =>
        if s.vtCut vt then s
        else (s.wakeAcquire id fun w => w.writeX d v).settleKill id
      | _ => s)

/-- PARK_TIMEOUT: the timeout of a `park` has elapsed (R175). -/
def execParkTimeout (id : Nat) (s : State) : Host.Outcome State Fault Refusal :=
  .next (match s.vt? id with
    | none => s
    | some vt =>
      match vt.park with
      | some (.park since timeout, _) =>
        if timeout = 0 ∨ s.vtNow vt < since + timeout then s else (s.wake id fun v => v).settleKill id
      | _ => s)

/-- ISSUE_AGEING: a READY normal-class VT that its slot has not issued for 4,096 core cycles is aged (R52). -/
def execIssueAgeing (id : Nat) (s : State) : Host.Outcome State Fault Refusal :=
  .next (s.modVt id fun vt =>
    if vt.st = .ready ∧ vt.resident = true ∧ vt.admitted = false
        ∧ max vt.lastIssue vt.readyAt + 4096 ≤ s.vtNow vt then { vt with aged := true }
    else vt)

end Sys2Proof.Machine
end

