-- ==== Sys2Proof/Machine/Context.lean ====
section
/-! DEFINITION. The context record of a VT that is not in frames (R65 to R69, R312), the gang record (R270), and the context
store areas that hold them (R65, R76). -/

namespace Sys2Proof.Machine

open Sys2Proof

/-- Zeros up to a multiple of 64 bytes (R65). -/
def pad64 (bs : List Byte) : List Byte := bs ++ List.replicate ((64 - bs.length % 64) % 64) 0

/-- The instruction word of a waiting operation or in-flight entry. -/
def wordOf (i : Instr) : Nat := (encodeNat i).getD 0

/-- CAPIDX (R69). -/
def VT.capIdx (vt : VT) (c : Capture) : Nat := (vt.captures.findIdx? fun x => x == c).getD 0

/-- An address as a line above CODEBASE (R67). -/
def VT.lineOf (vt : VT) (a : Word64) : Nat := (a - vt.codebase).toNat / 128 % 2 ^ 28

/-- One above the last element of the instruction that an active VP carries (R66, R192). -/
def InFlight.last (e : InFlight) (w : Nat) : Nat :=
  match (maskIndices e.active).getLast? with
  | some i => (i.val + 1) * e.perVp w
  | none => 0

/-- The addresses that the section lists for an in-flight entry: of an indexed one from the start element to the last, from
the index registers as they stand, but for an element that has been performed ahead (R66, log 57). -/
def InFlight.addresses (e : InFlight) (vt : VT) : List Nat :=
  if e.indexed then
    (List.range (e.last vt.w - e.start)).map fun n =>
      let k := e.start + n
      let i : Fin 32 := Fin.ofNat 32 (k / e.perVp vt.w)
      if e.active.getLsbD i.val then (BitVec.ofInt 64 (e.elementAddr vt i (k % e.perVp vt.w))).toNat else 0
  else [e.base.toNat, if e.mode = .s then e.stride.toNat else 0]

/-- The in-flight entries of the table, by number; `none` for an empty one. -/
def VT.inflightTable (vt : VT) : List (Option InFlight) :=
  (List.finRange 8).map fun k => vt.inflight.find? fun e => e.idx == k && !e.done

/-- The address section and the first word of each entry in it (R66). -/
def VT.addressSection (vt : VT) : List Nat × List Nat :=
  vt.inflightTable.foldl (fun r o => match o with
    | some e => (r.1 ++ e.addresses vt, r.2 ++ [r.1.length])
    | none => (r.1, r.2 ++ [0])) ([], [])

/-- The in-flight table of the fixed part (R66). -/
def VT.inflightBytes (vt : VT) : List Byte :=
  (vt.inflightTable.zip vt.addressSection.2).flatMap fun p => match p.1 with
    | some e => leBytes 4 (wordOf e.instr) ++ leBytes 4 e.active.toNat ++ leBytes 2 e.start ++ leBytes 2 p.2
    | none => leBytes 12 0

/-- The suspension entries, one a suspended VP (R312). -/
def VT.suspensions (vt : VT) : List Nat :=
  (List.finRange 32).filterMap fun i => vt.vps[i].run.map fun r =>
    (r.words.head?.map BitVec.toNat).getD 0 + 2 ^ (32 + i.val) + vt.lineOf r.addr * 2 ^ 64 + r.idx * 2 ^ 92
      + (match r.named with
        | some a => 2 ^ 97 + vt.lineOf a * 2 ^ 98
        | none => 0)
      + (if r.thread then 2 ^ 126 else 0)

/-- A waiting-operation entry (R68). -/
def VT.waitEntry (vt : VT) (o : WaitOp) : Nat :=
  wordOf o.instr + o.mask.toNat * 2 ^ 32 + (match o.op with
    | .block a _ c _ _ _ => a.toNat / 128 * 128 + vt.capIdx c
    | .bcast _ x _ => x.toNat
    | .mem k => k.val) * 2 ^ 64

/-- The waiting-operations section: suspensions first (R68, R312). -/
def VT.ops (vt : VT) : List Nat := vt.suspensions ++ vt.waiting.map vt.waitEntry

/-- Some queue of the VT holds an entry. -/
def VT.queuesUsed (vt : VT) : Bool :=
  vt.drain != [] || vt.vps.toList.any fun vp => vp.inbound != [] || vp.loadQ != [] || vp.storeQ != []

/-- FLAGS (R66). -/
def VT.flags (vt : VT) : Nat :=
  let b (c : Bool) (k : Nat) : Nat := if c then 2 ^ k else 0
  b vt.claim.isSome 0 + b vt.queuesUsed 1 + b (vt.ops != []) 2 + b (vt.addressSection.1 != []) 3 + b vt.persistent 4
    + b (vt.interval != 0) 5 + b (vt.captures != []) 6

/-- STATE (R66). -/
def VState.code : VState → Nat
  | .readyOut => 2
  | .parked => 3
  | .faulted => 4
  | .frozen => 5
  | _ => 0

/-- The fixed part (R66). -/
def VT.fixedPart (id : Nat) (vt : VT) : List Byte :=
  let p := (List.range 7).foldl (fun n k => if vt.p.toList.getD k false then n + 2 ^ k else n) 0
  let claim (f : Claim → Word64) : Nat := ((vt.claim.map f).getD 0).toNat
  leBytes 4 id ++ leBytes 1 vt.domain ++ leBytes 1 vt.wsel.val ++ leBytes 1 vt.st.code ++ leBytes 1 vt.flags
    ++ leBytes 4 vt.gangId ++ leBytes 2 vt.rank ++ leBytes 1 vt.tcmwin ++ leBytes 1 1 ++ leBytes 8 vt.codebase.toNat
    ++ leBytes 4 vt.interval ++ leBytes 2 vt.ops.length ++ leBytes 2 vt.addressSection.1.length
    ++ leBytes 8 vt.issued.toNat ++ leBytes 8 vt.preempts.toNat ++ leBytes 8 (claim Claim.mcfg) ++ leBytes 8 (claim Claim.mstat)
    ++ leBytes 8 vt.pc.toNat ++ (vt.x.toList.drop 1).flatMap (fun v => leBytes 8 v.toNat) ++ leBytes 8 vt.vcfg.toNat
    ++ leBytes 4 (vt.vl + vt.vmt * 2 ^ 6 + p * 2 ^ 8 + vt.drain.length * 2 ^ 16) ++ leBytes 2 vt.captures.length
    ++ leBytes 2 0 ++ leBytes 4 vt.em.toNat ++ leBytes 4 vt.fflags.toNat
    ++ vt.d.toList.flatMap (leBytes 2) ++ vt.seg.toList.flatMap (fun v => leBytes 8 v.toNat)
    ++ vt.vps.toList.map (fun vp => BitVec.ofNat 8 (vp.cntL + vp.cntS * 16)) ++ vt.inflightBytes

/-- The CAPIDX of a VP with a chain or a suspension (R67, R69). -/
def VT.vpCap (vt : VT) (vp : VP) : Nat :=
  match vp.run, vp.chain with
  | some r, _ => vt.capIdx r.cap
  | none, some c => vt.capIdx c.1
  | none, none => 0

/-- The predicates of a VP: p0 to p6, then CAPIDX in the top 2W bits (R67). -/
def VT.predBytes (vt : VT) (vp : VP) : List Byte :=
  let n := 2 * vt.w
  leBytes n ((List.range 7).foldl (fun a k => a + (vp.p.toList.getD k 0).toNat % 2 ^ n * 2 ^ (n * k)) 0
    + vt.vpCap vp * 2 ^ (n * 7))

/-- A VP's control word (R67). -/
def VT.controlWord (vt : VT) (vp : VP) : Nat :=
  (if vp.thread then 2 ^ 31 + vt.lineOf vp.next else 0) + vp.inbound.length * 2 ^ 28

/-- The frame of a VP: v0 to v30, then the control word in position 31 (R67). -/
def VT.frameBytes (vt : VT) (vp : VP) : List Byte :=
  (vp.v.toList.take 31).flatMap (fun v => bytesOfReg v vt.w) ++ leBytes vt.w (vt.controlWord vp)

/-- `n` entries of a queue of registers, oldest first. -/
def queueBytes (w n : Nat) (q : List VReg) : List Byte := padTo (n * w) (q.flatMap fun v => bytesOfReg v w)

/-- The data of a load-queue entry. -/
def LoadEntry.data : LoadEntry → VReg
  | .pending _ d => d
  | .filled d => d

/-- The queues section (R68). -/
def VT.queueSection (vt : VT) : List Byte :=
  let w := vt.w
  vt.vps.toList.map (fun vp => BitVec.ofNat 8 (vp.loadQ.length + vp.storeQ.length * 16)) ++ List.replicate 32 0
    ++ queueBytes w 4 vt.drain
    ++ vt.vps.toList.flatMap fun vp =>
      queueBytes w 4 vp.inbound ++ queueBytes w 8 (vp.loadQ.map LoadEntry.data)
        ++ queueBytes w 8 (vp.storeQ.map StoreEntry.data)
        ++ padTo w (leBytes w (vp.storeQ.zipIdx.foldl (fun a e => a + e.1.mask.toNat % 2 ^ w * 2 ^ (w * e.2)) 0))

/-- A capture (R69). -/
def Capture.bytes (c : Capture) : List Byte :=
  pad64 (leBytes 8 c.vcfg.toNat ++ c.seg.toList.flatMap fun v => leBytes 8 v.toNat)

/-- The context record of a VT, its sections in order (R65). -/
def VT.record (id : Nat) (vt : VT) : List Byte :=
  let part (c : Bool) (bs : List Byte) : List Byte := if c then pad64 bs else []
  vt.fixedPart id
    ++ pad64 (vt.vps.toList.flatMap vt.predBytes)
    ++ pad64 (vt.vps.toList.flatMap vt.frameBytes)
    ++ part vt.queuesUsed vt.queueSection
    ++ part (vt.ops != []) (vt.ops.flatMap (leBytes 16))
    ++ part (vt.addressSection.1 != []) (vt.addressSection.1.flatMap (leBytes 8))
    ++ vt.captures.flatMap Capture.bytes
    ++ (match vt.claim with
      | some c => (c.acc0.toList ++ c.acc1.toList).flatMap fun v => leBytes 4 v.toNat
      | none => [])
    ++ Memory.readBytes vt.tcm 0 (4096 * vt.tcmwin)

/-- The bytes that a part of `n` bytes takes: up to a multiple of 64 (R65). -/
def up64 (n : Nat) : Nat := (n + 63) / 64 * 64

/-- Where the frames, the queues, the matrix section and the TCM window start in a context record (R65). -/
def VT.framesAt (vt : VT) : Nat := 512 + 64 * vt.w
def VT.queuesAt (vt : VT) : Nat := vt.framesAt + 1024 * vt.w
def VT.matrixAt (vt : VT) : Nat :=
  vt.queuesAt + (if vt.queuesUsed then up64 (64 + 676 * vt.w) else 0) + up64 (16 * vt.ops.length)
    + up64 (8 * vt.addressSection.1.length) + 64 * vt.captures.length
def VT.tcmAt (vt : VT) : Nat := vt.matrixAt + if vt.claim.isSome then 8192 else 0

/-- The length of a context record (R65). -/
def VT.recordSize (vt : VT) : Nat := vt.tcmAt + 4096 * vt.tcmwin

/-! ### Poison in a stored record (R345, R346) -/

/-- The unit is storage of the VT: x0, v31, p7 and bytes above W are none, and a queue's place holds an entry (R55, R345). -/
def VT.hasUnit (v : VT) (u : RegUnit) : Bool :=
  match u with
  | .x r => r != 0
  | .v _ r k => r != 31 && 8 * k.val < v.w
  | .p r => r != 7
  | .vp _ r k => r != 7 && 64 * k.val < 2 * v.w
  | .claim _ => v.claim.isSome
  | .queue i .inbound k => k < v.vps[i].inbound.length
  | .queue i .load k => k < v.vps[i].loadQ.length
  | .queue i .store k => k < v.vps[i].storeQ.length
  | .drain k => k < v.drain.length

/-- The units of a VT's storage. -/
def VT.units (v : VT) : List RegUnit :=
  let ofVp (i : Fin 32) : List RegUnit :=
    (List.finRange 31).flatMap (fun r => (List.finRange 16).map (RegUnit.v i (r.castLE (by decide))))
      ++ (List.finRange 7).flatMap (fun r => (List.finRange 4).map (RegUnit.vp i (r.castLE (by decide))))
      ++ [QueueKind.inbound, .load, .store].flatMap fun q => (List.range 8).map (RegUnit.queue i q)
  ((List.finRange 32).map RegUnit.x ++ (List.finRange 7).map (fun r => RegUnit.p (r.castLE (by decide)))
    ++ (List.finRange 1024).map RegUnit.claim ++ (List.range 4).map RegUnit.drain ++ (List.finRange 32).flatMap ofVp).filter v.hasUnit

/-- Where a unit lies in the VT's context record: offset and bytes (R66 to R68). -/
def VT.unitPlace (v : VT) (u : RegUnit) : Nat × Nat :=
  let w := v.w
  match u with
  | .x r => (0x40 + 8 * r.val, 8)
  | .p _ => (0x149, 1)
  | .vp i r k => (512 + 2 * w * i.val + w / 4 * r.val + 8 * k.val, min 8 (w / 4 - 8 * k.val))
  | .v i r k => (v.framesAt + (32 * i.val + r.val) * w + 8 * k.val, min 8 (w - 8 * k.val))
  | .drain k => (v.queuesAt + 64 + k * w, w)
  | .queue i q k =>
    let off := match q with
      | .inbound => 0
      | .load => 4
      | .store => 12
    (v.queuesAt + 64 + (4 + 21 * i.val + off + k) * w, w)
  | .claim k => (v.matrixAt + 8 * k.val, 8)

/-- The 8-byte units of storage that hold a poisoned unit of the VT, with its record at a location. -/
def VT.recordMarks (v : VT) (loc : Nat) : List Nat :=
  v.poison.flatMap (fun u => unitsOf (loc + (v.unitPlace u).1) (v.unitPlace u).2)
    ++ v.tcmPoison.map fun u => (loc + v.tcmAt) / 8 + u

/-- The 8-byte units of a record of a gang that hold a poisoned word of its window or a poisoned barrier (R270). -/
def Gang.recordMarks (x : Gang) (loc : Nat) : List Nat :=
  x.cspPoison.map (fun u => (loc + 0x11C0 + up64 (4 * x.size) + 4 * u) / 8)
    ++ (List.finRange 16).flatMap fun b => if x.barriers[b].poisoned then unitsOf (loc + 0xC0 + 272 * b.val) 272 else []

/-- A record is written to its place, with the marks of its poisoned units (R346). -/
def State.putRecord (s : State) (loc : Nat) (bs : List Byte) (marks : List Nat) : State :=
  { s with mem := Memory.writeBytes s.mem loc bs
           poison := (s.poison.filter fun u => !(loc ≤ u * 8 && u * 8 < loc + bs.length)) ++ marks.eraseDups }

/-- The marks in a stored record that came to it after it was written. -/
def State.newMarks (s : State) (ctx : Nat × Nat) (saved : List Nat) : List Nat :=
  s.poison.filter fun u => decide (ctx.1 ≤ u * 8) && decide (u * 8 < ctx.1 + ctx.2) && !(saved.contains u)

/-- A VT as its record gives it back: a unit is poisoned that was so when it was saved, or that a mark of its storage touches
(R346, log 72). -/
def State.restored (s : State) (v : VT) : VT :=
  match v.ctx with
  | none => v
  | some c =>
    let new := s.newMarks c (v.recordMarks c.1)
    if new = [] then v
    else
      let struck (u : RegUnit) : Bool := (unitsOf (c.1 + (v.unitPlace u).1) (v.unitPlace u).2).any new.contains
      { v with
        poison := v.poison ++ v.units.filter fun u => struck u && !(v.poison.contains u)
        tcmPoison := v.tcmPoison ++ (List.range (512 * v.tcmwin)).filter fun u => new.contains ((c.1 + v.tcmAt) / 8 + u) }

/-- A gang as its record gives it back (R346, log 72). -/
def State.restoredGang (s : State) (x : Gang) : Gang :=
  match x.ctx with
  | none => x
  | some c =>
    let new := s.newMarks c (x.recordMarks c.1)
    if new = [] then x
    else
      let csp := c.1 + 0x11C0 + up64 (4 * x.size)
      { x with
        cspPoison := x.cspPoison ++ (List.range (512 * x.cspwin)).filter fun u =>
          new.contains ((csp + 4 * u) / 8) && !(x.cspPoison.contains u)
        barriers := Vector.ofFn fun (b : Fin 16) =>
          let y := x.barriers[b]
          { y with poisoned := y.poisoned || (unitsOf (c.1 + 0xC0 + 272 * b.val) 272).any new.contains } }

/-- A barrier in a gang record (R270). -/
def Barrier.bytes (b : Barrier) : List Byte :=
  leBytes 128 b.arr.toNat ++ leBytes 128 b.pend.toNat ++ leBytes 8 ((if b.phase then 1 else 0) + b.count * 2 ^ 16) ++ leBytes 8 0

/-- A gang record (R270). A spawned gang has no LAUNCH slot: 0 stands there (log 59). -/
def Gang.record (x : Gang) : List Byte :=
  leBytes 4 x.id ++ leBytes 1 x.domain ++ leBytes 1 1 ++ leBytes 2 (x.size - 1) ++ leBytes 2 x.cspwin ++ leBytes 2 0
    ++ leBytes 4 x.index ++ leBytes 4 ((x.launch.map fun r => r.queue * 2 ^ 16 + r.slot).getD 0)
    ++ leBytes 4 x.clusters.toNat ++ List.replicate 40 0 ++ leBytes 128 x.mem.toNat
    ++ x.barriers.toList.flatMap Barrier.bytes
    ++ pad64 (padTo (4 * x.size) (x.members.flatMap (leBytes 4)))
    ++ Memory.readBytes x.csp 0 (2048 * x.cspwin)

/-- The length of a gang record (R270). -/
def Gang.recordSize (x : Gang) : Nat := 0x11C0 + up64 (4 * x.size) + 2048 * x.cspwin

/-! ### Context store areas (R65, R76, log 59) -/

/-- The parts of a domain's context store area: 128 MiB in each die's stack. -/
def ctxArea (dom : Nat) : List (Nat × Nat) := (List.range 8).map fun d => (d * 2 ^ 36 + 2 ^ 32 + dom * 2 ^ 27, 2 ^ 27)

/-- The records that lie in the context store areas, but for those of the VT `id` and of the gang `key`. -/
def State.ctxInUse (s : State) (id key : Option Nat) : List (Nat × Nat) :=
  (s.vts.filterMap fun e => if e.2.st = .ended ∨ id = some e.1 then none else e.2.ctx)
    ++ s.gangs.filterMap fun e => if e.2.st = .ended ∨ key = some e.1 then none else e.2.ctx

/-- A place for `n` bytes in a region, none of them in use. -/
def placeIn (used : List (Nat × Nat)) (n : Nat) (a : Nat × Nat) : Option Nat :=
  (a.1 :: used.map fun u => up64 (u.1 + u.2)).find? fun b =>
    decide (a.1 ≤ b) && decide (b + n ≤ a.1 + a.2) && used.all fun u => decide (u.1 + u.2 ≤ b) || decide (b + n ≤ u.1)

/-- A place for a record of `n` bytes in the domain's area, in storage that answers. -/
def State.ctxRoom (s : State) (dom n : Nat) (used : List (Nat × Nat)) : Option Nat :=
  (ctxArea dom).findSome? fun a => if s.storageReachable a.1 then placeIn used n a else none

/-- The context record of a VT can be written (R65). -/
def State.canStore (s : State) (id : Nat) (vt : VT) : Bool :=
  (s.ctxRoom vt.domain vt.recordSize (s.ctxInUse (some id) none)).isSome

/-- The context record of a VT that leaves frames is written whole (R65). -/
def State.saveContext (s : State) (id : Nat) : State :=
  match s.vt? id with
  | none => s
  | some vt =>
    match s.ctxRoom vt.domain vt.recordSize (s.ctxInUse (some id) none) with
    | none => s
    | some loc =>
      (s.putRecord loc (vt.record id) (vt.recordMarks loc)).setVt id { vt with ctx := some (loc, vt.recordSize) }

/-- The record of a gang that is pre-empted is written (R270). -/
def State.saveGang (s : State) (key : Nat) : State :=
  match s.gangs.get? key with
  | none => s
  | some x =>
    match s.ctxRoom x.domain x.recordSize (s.ctxInUse none (some key)) with
    | none => s
    | some loc =>
      let s := s.putRecord loc x.record (x.recordMarks loc)
      { s with gangs := s.gangs.set key { x with ctx := some (loc, x.recordSize) } }

/-- A stored record can be read. -/
def State.ctxReady (s : State) (ctx : Option (Nat × Nat)) : Bool :=
  match ctx with
  | some c => s.storageReachable c.1
  | none => true

/-- The DOMAIN field of a stored record is the domain's (R65, R322). -/
def State.ctxOwn (s : State) (ctx : Option (Nat × Nat)) (off dom : Nat) : Bool :=
  match ctx with
  | some c => (Memory.read s.mem (c.1 + off)).toNat == dom
  | none => true

/-- What stands at a stored record's place is a record still: its VERSION is 1. Storage that was zero-filled holds none (R65,
R270, R360, log 59). -/
def State.ctxWhole (s : State) (ctx : Option (Nat × Nat)) (off : Nat) : Bool :=
  match ctx with
  | some c => (Memory.read s.mem (c.1 + off)).toNat == 1
  | none => true

end Sys2Proof.Machine
end

