-- ==== Sys2Proof/Machine/Matrix.lean ====
section
/-! DEFINITION. Matrix claims and matrix instructions (R220 to R232, R333). -/

namespace Sys2Proof.Machine

open Sys2Proof

/-! ### Configuration (R61, R221, R222) -/

/-- AFMT and BFMT codes (R61). -/
def matrixFmt : Nat → Option Fmt
  | 0 => some .bf16
  | 1 => some .fp16
  | 2 => some .e4m3
  | 3 => some .e5m2
  | 4 => some .e3m2
  | 5 => some .e2m3
  | 6 => some .e2m1
  | 7 => some .i8
  | 8 => some .i4
  | _ => none

/-- The row of the table of R221 that a format stands in. -/
def matrixRow : Nat → Nat
  | 0 | 1 => 0
  | 2 | 3 | 4 | 5 => 1
  | 6 => 2
  | 7 => 3
  | 8 => 4
  | _ => 5

/-- A request is one of the combinations of R221. -/
def matrixSupported (req : Nat) : Bool :=
  let row := matrixRow (req % 16)
  let acct := req / 256 % 2
  let scaled := req / 2 ^ 19 % 2
  row < 5 && matrixRow (req / 16 % 16) == row && (if row < 3 then acct == 0 else acct == 1)
    && (scaled == 0 || row == 1 || row == 2)

/-- Storage bits of an element of a format (R221). -/
def matrixStorage (f : Nat) : Nat := if f < 2 then 16 else if f = 6 ∨ f = 8 then 4 else 8

/-- MR and MC (R61). -/
def Claim.rows (c : Claim) : Nat := bits64 c.mcfg 9 5 + 1
def Claim.cols (c : Claim) : Nat := bits64 c.mcfg 14 5 + 1

/-- The elements along K, and the blocks of 32 they make (R222). -/
def Claim.kel (c : Claim) (w : Nat) : Nat := 32 * w / matrixStorage (bits64 c.mcfg 0 4)
def Claim.blocks (c : Claim) (w : Nat) : Nat := (c.kel w + 31) / 32

/-- One accumulator. -/
def Claim.acc (c : Claim) (a : Fin 2) : Vector (BitVec 32) 1024 := if a = 0 then c.acc0 else c.acc1

def Claim.setAcc (c : Claim) (a : Fin 2) (v : Vector (BitVec 32) 1024) : Claim :=
  if a = 0 then { c with acc0 := v } else { c with acc1 := v }

/-- The rows and columns that exist (R225). -/
def Claim.cells (c : Claim) : List (Fin 32 × Fin 32) :=
  ((List.finRange 32).filter fun i => i.val < c.rows).flatMap fun i =>
    ((List.finRange 32).filter fun j => j.val < c.cols).map fun j => (i, j)

/-- The entry of element [i][j]. -/
def accIndex (i j : Fin 32) : Fin 1024 := ⟨32 * i.val + j.val, by omega⟩

/-- MSTAT from its fields (R61, R231). -/
def mstatOf (blkidx : Nat) (acc : Fin 2) (pending : Bool) : Word64 :=
  BitVec.ofNat 64 (blkidx * 256 + acc.val * 4 + (if pending then 2 else 0) + 1)

/-! ### Partials and additions (R225 to R227) -/

/-- The 4W bytes of the group of four registers from v[r] (R222). -/
def VP.group (vp : VP) (w : Nat) (r : Reg) : BitVec 4096 :=
  BitVec.ofNat 4096 ((List.range 4).foldr (fun k n => vp.v[r + Fin.ofNat 32 k].toNat % 2 ^ (8 * w) + 2 ^ (8 * w) * n) 0)

/-- The encodings of a block of a group (R222). -/
def blockElems (g : BitVec 4096) (bits lo n : Nat) : List Nat :=
  (List.range n).map fun k => g.toNat / 2 ^ (bits * (lo + k)) % 2 ^ bits

/-- The exact sum of the products of finite elements, as a multiple of a power of two. -/
def dotExact : List (FValue × FValue) → Int × Int
  | [] => (0, 0)
  | (.fin n1 m1 x1, .fin n2 m2 x2) :: ps =>
    let r := dotExact ps
    let p := signed (n1 ^^ n2) (m1 * m2)
    if r.1 = 0 then (p, x1 + x2)
    else
      let x := min (x1 + x2) r.2
      (p * (2 ^ (x1 + x2 - x).toNat : Nat) + r.1 * (2 ^ (r.2 - x).toNat : Nat), x)
  | _ :: ps => dotExact ps

/-- The sign of the infinity that a product is, if it is one. -/
def productInf : FValue × FValue → Option Bool
  | (.inf a, .inf b) => some (a ^^ b)
  | (.inf a, .fin b _ _) | (.fin a _ _, .inf b) => some (a ^^ b)
  | _ => none

/-- A product 0 * inf. -/
def productInvalid : FValue × FValue → Bool
  | (.inf _, .fin _ m _) | (.fin _ m _, .inf _) => m == 0
  | _ => false

/-- A product that is exactly -0. -/
def productNegZero : FValue × FValue → Bool
  | (.fin a m _, .fin b n _) => (m == 0 || n == 0) && (a ^^ b)
  | _ => false

/-- P[t] of a block with E8M0 scales `ea` and `eb`: the first row of R227's table that applies. -/
def matrixPartial (ps : List (FValue × FValue)) (ea eb : Nat) : Nat × FFlags :=
  let f := fp32Format
  let nan := ps.any fun p => p.1.isNan || p.2.isNan
  if ea = 255 ∨ eb = 255 ∨ nan = true then
    (f.canonicalNan, if ps.any (fun p => p.1 == .nan true || p.2 == .nan true) then flagNV else 0)
  else if ps.any productInvalid then f.invalid
  else
    match (ps.filterMap productInf).eraseDups with
    | [n] => (f.infinity n, 0)
    | _ :: _ => f.invalid
    | [] =>
      let s := dotExact ps
      if s.1 = 0 then (f.withSign (ps.all productNegZero) 0, 0)
      else f.round .rne .ieee (s.1 < 0) s.1.natAbs (s.2 + ea + eb - 254) false

/-- An addition in the accumulator: a NaN operand gives the canonical NaN, with NV where it is signalling (R127, R227, log 26). -/
def accAdd (a b : BitVec 32) : BitVec 32 × FFlags :=
  let r := fp32Format.add .rne (fp32Format.decode a.toNat) (fp32Format.decode b.toNat)
  (BitVec.ofNat 32 r.1, r.2)

/-- The value at a position of a list, and the rest. -/
def takeAt (l : List (BitVec 32)) (k : Nat) : BitVec 32 × List (BitVec 32) := ((l[k]?).getD 0, l.eraseIdx k)

/-- The values of a list added along some full binary tree, which the number `n` names: every tree with the leaves in any
order has numbers that name it (R226). -/
def treeSum (n : Nat) (l : List (BitVec 32)) : Nat → BitVec 32 × FFlags
  | 0 => ((l[0]?).getD 0, 0)
  | k + 1 =>
    match l with
    | [] => (0, 0)
    | [x] => (x, 0)
    | l =>
      let a := takeAt l (n % l.length)
      let m := n / l.length
      let b := takeAt a.2 (m % a.2.length)
      let s := accAdd a.1 b.1
      let r := treeSum (m / a.2.length) (s.1 :: b.2) k
      (r.1, s.2 ||| r.2)

/-! ### One block of a `mop` (R225) -/

/-- The operands of element [i][j] in block t, as values. -/
def Mop.pairs (m : Mop) (c : Claim) (w : Nat) (i j : Fin 32) : List (FValue × FValue) :=
  let fa := bits64 c.mcfg 0 4
  let fb := bits64 c.mcfg 4 4
  let n := min 32 (c.kel w - 32 * m.t)
  let one (f : Nat) (g : BitVec 4096) : List FValue :=
    (blockElems g (matrixStorage f) (32 * m.t) n).map fun e => fmtValue ((matrixFmt f).getD .bf16) e
  (one fa ((m.aOps[i.val]?).getD 0)).zip (one fb ((m.bOps[j.val]?).getD 0))

/-- The sum of the integer products of element [i][j] in block t. -/
def Mop.intSum (m : Mop) (c : Claim) (w : Nat) (i j : Fin 32) : Int :=
  let b := matrixStorage (bits64 c.mcfg 0 4)
  let n := min 32 (c.kel w - 32 * m.t)
  let one (g : BitVec 4096) : List Int := (blockElems g b (32 * m.t) n).map (sext b)
  (List.zipWith (· * ·) (one ((m.aOps[i.val]?).getD 0)) (one ((m.bOps[j.val]?).getD 0))).foldl (· + ·) 0

/-- P[t] of element [i][j]. -/
def Mop.partialOf (m : Mop) (c : Claim) (w : Nat) (i j : Fin 32) : BitVec 32 × FFlags :=
  let ea := if m.scaled then ((m.aScales[i.val]?).getD 0).toNat else 127
  let eb := if m.scaled then ((m.bScales[j.val]?).getD 0).toNat else 127
  let r := matrixPartial (m.pairs c w i j) ea eb
  (BitVec.ofNat 32 r.1, r.2)

/-- The block on the engines completes: its accumulator, what a reassociated form holds back, and its flags. -/
def Mop.block (m : Mop) (c : Claim) (w : Nat) : Mop × Claim × FFlags :=
  let acct := bits64 c.mcfg 8 1
  let r := c.cells.foldl (fun (r : SMap (List (BitVec 32)) × Vector (BitVec 32) 1024 × FFlags) (p : Fin 32 × Fin 32) =>
    let n := accIndex p.1 p.2
    let old := r.2.1[n]
    if acct = 1 then (r.1, r.2.1.set n (old + BitVec.ofInt 32 (m.intSum c w p.1 p.2)), r.2.2)
    else
      let q := m.partialOf c w p.1 p.2
      if m.reassoc then (r.1.set n.val (r.1.getD n.val [old] ++ [q.1]), r.2.1, r.2.2 ||| q.2)
      else
        let s := accAdd old q.1
        (r.1, r.2.1.set n s.1, r.2.2 ||| q.2 ||| s.2)) (m.pool, c.acc m.acc, 0)
  ({ m with pool := r.1 }, c.setAcc m.acc r.2.1, r.2.2)

/-- What a reassociated form holds back is added into the accumulator, each element along a tree of its own: the k-th
element takes the k-th free value from `pick`. -/
def Mop.fold (m : Mop) (c : Claim) (pick : Nat) : Claim × FFlags × Nat :=
  let r := m.pool.foldl (fun (r : Vector (BitVec 32) 1024 × FFlags × Nat) (e : Nat × List (BitVec 32)) =>
    let s := treeSum (Config.choice r.2.2) e.2 e.2.length
    (r.1.set (Fin.ofNat 1024 e.1) s.1, r.2.1 ||| s.2, r.2.2 + 1)) (c.acc m.acc, 0, pick)
  (c.setAcc m.acc r.1, r.2.1, r.2.2)

/-- An accumulator of a VT is cleared (R230). -/
def Claim.clear (c : Claim) (a : Fin 2) : Claim := c.setAcc a (Vector.replicate 1024 0)

/-- MOP_BLOCK_COMPLETION: the running block of a `mop` completes (R225, R226, R231). -/
def execMopBlockCompletion (id : Nat) (s : State) : Host.Outcome State Fault Refusal :=
  .next (match s.vt? id with
    | none => s
    | some vt =>
      match vt.mop, vt.claim with
      | some m, some c =>
        if !m.running then s
        else
          let r := m.block c vt.w
          if m.t + 1 < m.nb then
            let c' : Claim := { r.2.1 with mstat := mstatOf (m.t + 1) m.acc (c.mstat.getLsbD 1) }
            (s.setVt id { vt with mop := some { r.1 with running := false, t := m.t + 1 }, claim := some c'
                                  fflags := vt.fflags ||| r.2.2 }).settleKill id
          else
            let f := r.1.fold r.2.1 s.picks
            let c' : Claim := { m.clears.foldl Claim.clear f.1 with mstat := mstatOf 0 m.acc false }
            ({ s with picks := f.2.2 }.setVt id { vt with mop := none, claim := some c'
                                                          fflags := vt.fflags ||| r.2.2 ||| f.2.1 }).settleKill id
      | _, _ => s)

/-- A `mop` between blocks is stopped by a pre-emption: what it held back is added in, and MSTAT records where it goes
on (R231). One of which no block has started leaves MSTAT as it is, with PENDING 0: its CT has it still to issue
(log 65). -/
def State.stopMop (s : State) (id : Nat) : State :=
  match s.vt? id with
  | none => s
  | some vt =>
    match vt.mop, vt.claim with
    | some m, some c =>
      if m.running then s
      else
        let f := m.fold c s.picks
        let c' : Claim := { f.1 with mstat := mstatOf m.t m.acc true }
        { s with picks := f.2.2 }.setVt id { vt with mop := none, claim := some c', fflags := vt.fflags ||| f.2.1 }
    | _, _ => s

/-! ### The instructions -/

/-- The claim holders resident on a core (R220). -/
def State.claimsOn (s : State) (core : Nat) : Nat :=
  (s.vts.filter fun e => e.2.resident && e.2.core == core && e.2.claim.isSome).length

/-- `mxon` (R220). -/
def execMxon (g : Guard) (va : Reg) (s : State) : Host.Outcome State Fault Refusal :=
  .next (s.ctOnly g [va] [] fun id vt =>
    let req := bits64 (vt.readX va) 0 20
    if !matrixSupported req then s.ctFault id vt .illop 0
    else if vt.matrixBusy then s
    else
      match vt.claim with
      | some c => s.setVt id { vt.retire with claim := some { c with mcfg := BitVec.ofNat 64 req } }
      | none =>
        if 64 ≤ s.claimsOn vt.core then s.setVt id { vt with claimWait := true }
        else
          let zero := Vector.replicate 1024 (0 : BitVec 32)
          s.setVt id { vt.retire with claimWait := false, claim := some ⟨BitVec.ofNat 64 req, 1, zero, zero⟩ })

/-- The unit belongs to the claim store. -/
def isClaimUnit : RegUnit → Bool
  | .claim _ => true
  | _ => false

/-- `mxoff` (R220). -/
def execMxoff (g : Guard) (s : State) : Host.Outcome State Fault Refusal :=
  .next (s.ctOnly g [] [] fun id vt =>
    if vt.matrixBusy then s
    else s.setVt id { vt.retire with claim := none, mop := none, poison := vt.poison.filter fun u => !(isClaimUnit u) })

/-- Some element [i][j] of an accumulator of which `p` holds lies in a poisoned unit (R345). -/
def VT.claimPoisoned (vt : VT) (p : Fin 2 → Nat → Nat → Bool) : Bool :=
  vt.poison.any fun u => match u with
    | .claim k => [0, 1].any fun n => let e := 2 * k.val + n
                                      p (Fin.ofNat 2 (e / 1024)) (e % 1024 / 32) (e % 32)
    | _ => false

/-- A matrix instruction that needs a claim: ILLOP without one (R232), ECCU where an element that it reads is poisoned
(R345). -/
def State.ctMatrix (s : State) (id : Nat) (vt : VT) (reads : Claim → Fin 2 → Nat → Nat → Bool) (ok : Claim → Bool)
    (body : Claim → State) : State :=
  match vt.claim with
  | none => s.ctFault id vt .illop 0
  | some c => if !ok c then s.ctFault id vt .illop 0 else if vt.claimPoisoned (reads c) then s.ctFault id vt .eccu 0
    else body c

/-- Every operation issued earlier in the sequences of the first `n` VPs has written its registers (R228 step 3). -/
def VT.sequencesWritten (vt : VT) (n : Nat) : Bool :=
  (List.finRange 32).all fun i => n ≤ i.val || vt.sequenceWritten i

/-- The registers that a `mop` reads, for VP i, and how many of their bytes: the A group below MR, the B group below MC, and
a scale for each block. -/
def mopReads (c : Claim) (w : Nat) (scaled : Bool) (va vb vs : Reg) (i : Fin 32) : List (Reg × Nat) :=
  (if i.val < c.rows then wholeRegs [va, va + 1, va + 2, va + 3] ++ (if scaled then [(vs, c.blocks w)] else []) else [])
    ++ (if i.val < c.cols then wholeRegs [vb, vb + 1, vb + 2, vb + 3] ++ (if scaled then [(vs + 1, c.blocks w)] else [])
      else [])

/-- A register unit that a `mop` reads is poisoned. -/
def VT.mopPoisoned (vt : VT) (c : Claim) (scaled : Bool) (va vb vs : Reg) : Bool :=
  (List.finRange 32).any fun i =>
    (mopReads c vt.w scaled va vb vs i).any fun r => vt.regPoisoned i r.1 0 (min r.2 vt.w)

/-- A block starts: it reads its operands and scales (R228 step 5). -/
def Mop.start (m : Mop) (vt : VT) : Mop :=
  let scale (r : Reg) (vp : VP) : Byte := BitVec.ofNat 8 (vp.v[r].toNat / 2 ^ (8 * m.t))
  { m with
    running := true
    aOps := vt.vps.toList.map fun vp => vp.group vt.w m.va
    bOps := vt.vps.toList.map fun vp => vp.group vt.w m.vb
    aScales := if m.scaled then vt.vps.toList.map (scale m.vs) else []
    bScales := if m.scaled then vt.vps.toList.map (scale (m.vs + 1)) else [] }

/-- Two bindings have a quad in common. -/
def lanesMeet (a b : Nat × Nat) : Bool := decide (a.1 < b.1 + max 1 b.2) && decide (b.1 < a.1 + max 1 a.2)

/-- The engines of the VT's quads are free for a block of its `mop`: no block of another VT runs on them, and no other `mop`
waits there that its CT came to earlier (R223); of two in one cycle the lower VTID's is the earlier (log 57). -/
def State.enginesFree (s : State) (id : Nat) (vt : VT) : Bool :=
  s.vts.all fun e =>
    let w := e.2
    e.1 == id || !(w.resident && w.core == vt.core && lanesMeet w.lane vt.lane)
      || (!w.matrixBusy && (w.stopping || w.killed || match w.mopSince with
        | none => true
        | some t =>
          let now := s.coreCycle vt.core
          decide ((vt.mopSince.getD now) < t) || (decide ((vt.mopSince.getD now) = t) && decide (id < e.1))))

/-- `mop` and `mops` (R224, R225, R228): the CT stalls at the instruction, which starts one block after another as the
engines take them (R223), and goes on when the last has started. -/
def State.mopIssue (s : State) (g : Guard) (acc : Fin 2) (va vb vs : Reg) (scaled reassoc : Bool) : State :=
  s.ctVector g [] fun id vt =>
    s.ctMatrix id vt (fun c a i j => a == acc && decide (i < c.rows) && decide (j < c.cols))
      (fun c => !scaled || bits64 c.mcfg 19 1 == 1) fun c =>
      if !vt.reconverged || vt.matrixBusy then s
      else if !(vt.sequencesWritten (max c.rows c.cols)) then
        s.setVt id { vt with awaited := lowOnes 32 (max c.rows c.cols) }
      else if vt.mopPoisoned c scaled va vb vs then s.ctFault id vt .eccu 0
      else
        let nb := c.blocks vt.w
        let t0 := min (bits64 c.mstat 8 8) (nb - 1)
        let m := vt.mop.getD { acc, scaled, reassoc, va, vb, vs, t := t0, nb, running := false, aOps := [], bOps := []
                               aScales := [], bScales := [], pool := [], clears := [] }
        let c' : Claim := { c with mstat := mstatOf m.t m.acc (c.mstat.getLsbD 1) }
        let since := some (vt.mopSince.getD (s.coreCycle vt.core))
        if !(s.enginesFree id vt) then s.setVt id { vt with mopSince := since, awaited := 0 }
        else
          let vt' := { vt with mop := some (m.start vt), claim := some c', mopSince := since, awaited := 0 }
          s.setVt id (if m.t + 1 < m.nb then vt' else { vt'.retire with mopSince := none })

/-- `mop.o` (R224). -/
def execMopO (g : Guard) (acc : Fin 2) (va vb : Reg) (s : State) : Host.Outcome State Fault Refusal :=
  .next (s.mopIssue g acc va vb 0 false false)

/-- `mop.r` (R224). -/
def execMopR (g : Guard) (acc : Fin 2) (va vb : Reg) (s : State) : Host.Outcome State Fault Refusal :=
  .next (s.mopIssue g acc va vb 0 false true)

/-- `mops.o` (R224). -/
def execMopsO (g : Guard) (acc : Fin 2) (va vb vs : Reg) (s : State) : Host.Outcome State Fault Refusal :=
  .next (s.mopIssue g acc va vb vs true false)

/-- `mops.r` (R224). -/
def execMopsR (g : Guard) (acc : Fin 2) (va vb vs : Reg) (s : State) : Host.Outcome State Fault Refusal :=
  .next (s.mopIssue g acc va vb vs true true)

/-- `mopz`: it takes effect in matrix order, and the CT goes on at once (R230). -/
def execMopz (g : Guard) (acc : Fin 2) (s : State) : Host.Outcome State Fault Refusal :=
  .next (s.ctOnly g [] [] fun id vt =>
    match vt.claim with
    | none => s.ctFault id vt .illop 0
    | some c =>
      match vt.mop with
      | some m =>
        if m.running then s.setVt id { vt.retire with mop := some { m with clears := m.clears ++ [acc] } }
        else s.setVt id { vt.retire with claim := some (c.clear acc) }
      | none => s.setVt id { vt.retire with claim := some (c.clear acc) })

/-- A vector memory instruction in the sequence of one of the first `n` VPs has yet to read that VP's registers (R25). -/
def VT.memoryAhead (vt : VT) (n : Nat) : Bool :=
  vt.waiting.any fun o => o.mask &&& lowOnes 32 n != 0 && match o.op with
    | .mem _ => true
    | .block .. | .bcast .. => false

/-- `mova` and `movta`: a `mova` also waits for the operations before it that read what it writes (R25, R230, log 66). blk is
judged at issue, before anything else (R230, R232, R326). -/
def State.accMove (s : State) (g : Guard) (acc : Fin 2) (va blk : Reg) (toVp : Bool) (body : Nat → VT → Claim → State) : State :=
  match s.who with
  | .ct id =>
    match s.vt? id with
    | some vt =>
      if 128 / vt.w ≤ blk.val then s.ctFault id vt .illop 0
      else
        s.ctVector g [] fun id vt =>
          let reads (c : Claim) (a : Fin 2) (i j : Nat) : Bool :=
            toVp && a == acc && decide (i < c.rows) && j / (vt.w / 4) == blk.val
          s.ctMatrix id vt reads (fun _ => true) fun c =>
            if !vt.reconverged || vt.matrixBusy then s
            else if !(vt.sequencesWritten c.rows) || (toVp && vt.memoryAhead c.rows) then
              s.setVt id { vt with awaited := lowOnes 32 c.rows }
            else if !toVp && (List.finRange 32).any fun i => i.val < c.rows && vt.regPoisoned i va 0 vt.w then
              s.ctFault id vt .eccu 0
            else body id { vt with awaited := 0 } c
    | none => s
  | _ => s.ctVector g [] fun _ _ => s

/-- `mova` (R230). -/
def execMova (g : Guard) (acc : Fin 2) (va blk : Reg) (s : State) : Host.Outcome State Fault Refusal :=
  .next (s.accMove g acc va blk true fun id vt c =>
    let row (i : Fin 32) : List (BitVec 32) := (List.range (vt.w / 4)).map fun k =>
      ((c.acc acc)[32 * i.val + blk.val * (vt.w / 4) + k]?).getD 0
    let vps := (maskIndices (lowOnes 32 c.rows)).foldl (fun (vps : Vector VP 32) (i : Fin 32) =>
      let vp := vps[i]
      vps.set i { vp with v := vp.v.set va (writeElems vp.v[va] (row i)) }) vt.vps
    s.setVt id { vt.retire with vps })

/-- `movta` (R230). -/
def execMovta (g : Guard) (acc : Fin 2) (va blk : Reg) (s : State) : Host.Outcome State Fault Refusal :=
  .next (s.accMove g acc va blk false fun id vt c =>
    let n := vt.w / 4
    let a := Vector.ofFn fun (k : Fin 1024) =>
      let i : Fin 32 := Fin.ofNat 32 (k.val / 32)
      let j := k.val % 32
      if i.val < c.rows ∧ blk.val * n ≤ j ∧ j < (blk.val + 1) * n then elem 32 vt.vps[i].v[va] (j - blk.val * n)
      else (c.acc acc)[k]
    s.setVt id { vt.retire with claim := some (c.setAcc acc a) })

end Sys2Proof.Machine
end

