-- ==== Sys2Proof/Machine/Transport.lean ====
section
/-! DEFINITION. The Palern Link Transport (R274 to R281, R382 to R384) and the link engines (R246, R283). -/

namespace Sys2Proof.Machine

open Sys2Proof

/-! ### Connections and sending (R275 to R280) -/

/-- Peer connection n is named 0x1_0000 + n (R282). -/
def peerKey (n : Nat) : ConnKey := 0x10000 + n

def isPeer (key : ConnKey) : Bool := 0x10000 ≤ key

def State.conn? (s : State) (key : ConnKey) : Option Conn := s.conns.get? key
def State.setConn (s : State) (key : ConnKey) (c : Conn) : State := { s with conns := s.conns.set key c }

/-- The I/O tile clock of a connection's port. -/
def State.connNow (s : State) (key : ConnKey) (c : Conn) : Nat :=
  s.tileCycle (if isPeer key then peerTile c.port else hostTile)

/-- Sequence numbers are 24 bits wide (R278). -/
def psnMod : Nat := 2 ^ 24

/-- One more packet dropped at a port (R274). -/
def State.drop (s : State) (port : Nat) : State := { s with drops := s.drops.set port (s.drops.getD port 0 + 1) }

/-- The number of a connection at its other end: a peer's own number, or the number that both ends of a host connection use
(R275, R276). -/
def State.farNumber (s : State) (key : ConnKey) : Nat :=
  if isPeer key then ((s.conn? key).map Conn.remote).getD 0 else key

/-- The header of a packet that the device sends (R276). -/
def Sent.header (m : Sent) : List Byte :=
  leBytes 1 1 ++ leBytes 1 m.kind ++ leBytes 1 m.flags ++ leBytes 1 0 ++ leBytes 4 m.conn ++ leBytes 4 m.psn
    ++ leBytes 4 m.apsn ++ leBytes 8 m.addr.toNat ++ leBytes 4 m.len ++ leBytes 4 m.tag

/-- A packet that the device sends, as the UDP payload (R276). -/
def Sent.packetBytes (m : Sent) : List Byte := m.header ++ m.payload

/-- A control message: PSN 0, never retransmitted (R277). -/
def State.sendControl (s : State) (key : ConnKey) (kind apsn : Nat) (addr : Word64) (tag : Nat) (payload : List Byte) : State :=
  { s with outbox := s.outbox ++
      [{ key, conn := s.farNumber key, kind, psn := 0, apsn, flags := 0, addr, len := payload.length, tag, payload }] }

/-- A message takes the next PSN and goes out; it is kept until it is acknowledged (R278). The TAG, which the spec leaves to the
sender, is the PSN (R276, log 69). -/
def State.putOut (s : State) (key : ConnKey) (m : Sent) : State :=
  match s.conn? key with
  | none => s
  | some c =>
    let m := { m with psn := c.nextPsn, tag := c.nextPsn }
    let reads := match m.kind, m.cmd with
      | 0x02, some n => c.reads ++ [(c.nextPsn, n, m.off, m.len)]
      | _, _ => c.reads
    let c' : Conn := { c with nextPsn := (c.nextPsn + 1) % psnMod, unacked := c.unacked ++ [m], reads
                              lastProgress := if c.unacked = [] then s.connNow key c else c.lastProgress }
    { s.setConn key c' with outbox := s.outbox ++ [m] }

/-- At most so many messages stand unacknowledged on a connection (R279). -/
def sendWindow : Nat := 1024

/-- A sequenced message is sent, or waits while the window is full (R278, R279). `len` is the requested length of a
READ. -/
def State.sendSequenced (s : State) (key : ConnKey) (kind flags : Nat) (addr : Word64) (len : Nat) (payload : List Byte)
    (cmd : Option Nat) (off : Nat) : State :=
  match s.conn? key with
  | none => s
  | some c =>
    let m : Sent := { key, conn := s.farNumber key, kind, psn := 0, apsn := 0, flags, addr, len, tag := 0, payload, cmd, off }
    if c.backlog = [] ∧ c.unacked.length < sendWindow then s.putOut key m
    else s.setConn key { c with backlog := c.backlog ++ [m] }

/-- Messages that waited go out as far as the window takes them (R279). -/
def State.flush (s : State) (key : ConnKey) : State :=
  match s.conn? key with
  | none => s
  | some c =>
    let n := sendWindow - c.unacked.length
    (c.backlog.take n).foldl (fun s m => s.putOut key m) (s.setConn key { c with backlog := c.backlog.drop n })

/-! ### Receiving (R278) -/

/-- What the performing of an in-order message gives. -/
inductive Dealt where
  | done (s : State)
  | failed (cause : Nat) (s : State)
  /-- A domain violation: not performed, not acknowledged (R322, R384). -/
  | violation (addr : Word64)
  /-- It cannot be dealt with now, and is as if it had not arrived (R290). -/
  | notNow

/-- MALFORMED (R278). -/
def causeMalformed : Nat := 0x0C

/-- The connection whose number a packet gives at its port. -/
def packetKey (p : Packet) : ConnKey := if p.port = 0 then p.conn else peerKey p.conn

/-- The connection that a packet names, where it is open and its port is the packet's (R274, R275). -/
def State.packetConn (s : State) (p : Packet) : Option (ConnKey × Conn) :=
  let key := packetKey p
  match s.conn? key with
  | none => none
  | some c => if c.frozen || c.violated.isSome || !(p.port == 0 || c.port + 1 == p.port) then none else some (key, c)

/-- The STATUS of a failed message (R278). -/
def State.sendStatus (s : State) (key : ConnKey) (psn cause : Nat) : State := s.sendControl key 0x23 psn 0 cause []

/-- The ACK of every message dealt with (R278). -/
def State.sendAck (s : State) (key : ConnKey) (expected : Nat) : State :=
  s.sendControl key 0x21 ((expected + psnMod - 1) % psnMod) 0 0 []

/-- An in-order message has been dealt with: E moves on; a failed one is answered by its STATUS, before the ACK (R278). -/
def State.acceptMessage (s : State) (key : ConnKey) (psn : Nat) (cause : Option Nat) : State :=
  match s.conn? key with
  | none => s
  | some c =>
    let rest := c.failures.filter fun f => f.1 != psn
    let c' : Conn := { c with expected := (psn + 1) % psnMod, nakSent := false
                              failures := match cause with
                                | some e => rest ++ [(psn, e)]
                                | none => rest }
    let s := s.setConn key c'
    (match cause with
      | some e => s.sendStatus key psn e
      | none => s).sendAck key c'.expected

/-- A sequenced message arrives: in order it is performed, ahead it is dropped with one NAK for the gap, a duplicate is
answered again and, if a READ, read again (R278). -/
def State.receive (s : State) (p : Packet) (isRead malformed : Bool) (perform : ConnKey → Conn → State → Dealt) : State :=
  match s.packetConn p with
  | none => s.drop p.port
  | some (key, c) =>
    let d := (p.psn + psnMod - c.expected) % psnMod
    let result := if malformed then Dealt.failed causeMalformed s else perform key c s
    if d = 0 then
      match result with
      | .done s => s.acceptMessage key p.psn none
      | .failed e s => s.acceptMessage key p.psn (some e)
      | .violation a => s.setConn key { c with violated := some a }
      | .notNow => s
    else if d < 2 ^ 23 then
      if c.nakSent then s else (s.setConn key { c with nakSent := true }).sendControl key 0x22 c.expected 0 0 []
    else
      let again (s : State) : State := (match c.failures.find? (fun (f : Nat × Nat) => f.1 == p.psn) with
        | some f => s.sendStatus key p.psn f.2
        | none => s).sendAck key c.expected
      if isRead && !malformed then
        match result with
        | .done s => again s
        | .failed e s =>
          let rest := c.failures.filter fun (f : Nat × Nat) => f.1 != p.psn
          ((s.setConn key { c with failures := rest ++ [(p.psn, e)] }).sendStatus key p.psn e).sendAck key c.expected
        | .violation a => s.setConn key { c with violated := some a }
        | .notNow => s
      else again s

/-- A message that acts in a domain is malformed on connection 0 (R275, R277). -/
def packetUnbound (p : Packet) : Bool := p.port == 0 && p.conn == 0

/-! ### Chunks (R112, R281, R384) -/

/-- The aligned 64-byte chunks of `n` bytes from `va`: address and length. -/
def chunksFrom (va n : Nat) : Nat → List (Nat × Nat)
  | 0 => []
  | fuel + 1 =>
    if n = 0 then []
    else
      let k := min n (64 - va % 64)
      (va, k) :: chunksFrom (va + k) (n - k) fuel

def chunksOf (va n : Nat) : List (Nat × Nat) := chunksFrom va n (n / 64 + 2)

/-- The location of an address in a domain by the transport's own walk. -/
def State.locate (s : State) (dom va : Nat) : Option Nat :=
  (s.resolve va (if va < 2 ^ 48 then s.walk dom va else none)).map fun t => t.loc

/-- The first chunk that lies in a reserved region (R384). -/
def State.violatingChunk (s : State) (dom : Nat) (cs : List (Nat × Nat)) : Option Nat :=
  (cs.find? fun c => match s.locate dom c.1 with
    | some loc => s.isReserved loc
    | none => false).map Prod.fst

/-- The first cause of two. -/
def firstCause (a b : Option Nat) : Option Nat :=
  match a with
  | some x => some x
  | none => b

/-- Every chunk is written on its own; the first failing one is answered with its address and cause (R281). -/
def State.writeChunks (s : State) (dom : Nat) (bs : List Byte) (va : Nat) :
    List (Nat × Nat) → State × Option (Nat × Nat)
  | [] => (s, none)
  | c :: cs =>
    let x : State × Option (Nat × Nat) := match s.writeHome dom c.1 ((bs.drop (c.1 - va)).take c.2) with
      | .ok _ s => (s, none)
      | .fault e s => (s, some (c.1, e.code))
      | .wait s => (s.stallOn dom c.1, none)
      | .violation => (s, none)
    let y := State.writeChunks x.1 dom bs va cs
    (y.1, match x.2 with
      | some e => some e
      | none => y.2)

/-- Every chunk is read on its own; one that fails gives zeros (R281). -/
def State.readChunks (s : State) (dom : Nat) : List (Nat × Nat) → List Byte × State × Option Nat
  | [] => ([], s, none)
  | c :: cs =>
    let x : List Byte × State × Option Nat := match s.readHome dom c.1 c.2 with
      | .ok bs s => (bs, s, none)
      | .fault e s => (List.replicate c.2 0, s, some e.code)
      | .wait s => (List.replicate c.2 0, s.stallOn dom c.1, none)
      | .violation => (List.replicate c.2 0, s, none)
    let y := State.readChunks x.2.1 dom cs
    (x.1 ++ y.1, y.2.1, firstCause x.2.2 y.2.2)

/-- A message over chunks: none is performed where one violates (R384). -/
def State.overChunks (s : State) (dom : Nat) (cs : List (Nat × Nat)) (k : State → State × Option Nat) : Dealt :=
  match s.violatingChunk dom cs with
  | some a => .violation (BitVec.ofNat 64 a)
  | none =>
    let r := k s
    match r.2 with
    | none => .done r.1
    | some e => .failed e r.1

/-! ### Messages (R277, R281) -/

/-- LEN agrees with a payload of 1 to `n` bytes (R276, R277). -/
def packetLenOk (p : Packet) (n : Nat) : Bool := p.len == p.payload.length && 1 ≤ p.len && p.len ≤ n

/-- WRITE (R281, log 16). -/
def execWrite (p : Packet) (s : State) : Host.Outcome State Fault Refusal :=
  .next (s.receive p false (packetUnbound p || p.etype != 0 || !(packetLenOk p 8192)) fun _ c s =>
    let cs := chunksOf p.addr.toNat p.len
    s.overChunks c.domain cs fun s =>
      let r := s.writeChunks c.domain p.payload p.addr.toNat cs
      (r.1, r.2.map Prod.snd))

/-- READ (R281): the response carries what was read, zeros for a chunk that failed. -/
def execRead (p : Packet) (s : State) : Host.Outcome State Fault Refusal :=
  .next (s.receive p true (packetUnbound p || p.etype != 0 || p.payload != [] || p.len == 0 || 8192 < p.len) fun key c s =>
    let cs := chunksOf p.addr.toNat p.len
    s.overChunks c.domain cs fun s =>
      let r := s.readChunks c.domain cs
      (r.2.1.sendControl key 0x20 0 p.addr p.tag r.1, r.2.2))

/-- SEND: a MAIL record (R277, R319). -/
def execSend (p : Packet) (s : State) : Host.Outcome State Fault Refusal :=
  .next (s.receive p false (packetUnbound p || p.port != 0 || p.etype != 0 || !(packetLenOk p 96) || p.addr != 0) fun _ c s =>
    .done (s.post c.domain 5 hostTile
      [(0x10, leBytes 2 p.conn), (0x12, leBytes 1 p.len), (0x20, p.payload)]))

/-- One element add of a PUTADD: an atomic at the home, rounded once, with no flag anywhere (R111, R246). -/
def State.addElement (s : State) (dom va n : Nat) (x : Nat) : State × Option Nat :=
  match s.atHome dom va n .atomic .atomic with
  | .fault e s => (s, some e.code)
  | .wait s => (s.stallOn dom va, none)
  | .violation => (s, none)
  | .ok t s =>
    if s.homePoisoned (cachingOf t.leaf t.loc .normal) t.loc n then (s, some Cause.eccu.code)
    else
      let f := if n = 4 then fp32Format else bf16Format
      let old := leNat (s.homeRead (cachingOf t.leaf t.loc .normal) t.loc n)
      let v := (f.add .rne (f.decode old) (f.decode x)).1
      (s.homeWrite (cachingOf t.leaf t.loc .normal) t.loc ((leBytes n v).map fun b => (b, true)), none)

/-- The element adds of a message, in order. -/
def State.addElements (s : State) (dom va n : Nat) (bs : List Byte) : Nat → State × Option Nat
  | 0 => (s, none)
  | k + 1 =>
    if bs = [] then (s, none)
    else
      let x := s.addElement dom va n (leNat (bs.take n))
      let y := State.addElements x.1 dom (va + n) n (bs.drop n) k
      (y.1, firstCause x.2 y.2)

/-- ADDW (R277): malformed on a host connection, or where length or address is no multiple of the element size. -/
def execAddw (p : Packet) (s : State) : Host.Outcome State Fault Refusal :=
  let n := if p.etype = 0 then 4 else 2
  .next (s.receive p false
    (p.port == 0 || 1 < p.etype || !(packetLenOk p 8192) || p.len % n != 0 || p.addr.toNat % n != 0) fun _ c s =>
    s.overChunks c.domain (chunksOf p.addr.toNat p.len) fun s =>
      s.addElements c.domain p.addr.toNat n p.payload p.len)

/-- STATUS causes of an `fput` by a message or a node (R241, R250, R283). -/
def FputStatus.cause : FputStatus → Option Nat
  | .ok => none
  | .full => some 0x80
  | .cordon => some Cause.cordon.code
  | .stale => some Cause.futh.code

/-- SIGNAL message: an `fput` at system scope (R111, R277). -/
def execSignalMessage (p : Packet) (s : State) : Host.Outcome State Fault Refusal :=
  .next (s.receive p false
    (p.port == 0 || p.etype != 0 || p.len != 8 || p.payload.length != 8 || bits64 p.addr 32 32 != 0) fun _ c s =>
    let r := s.fput c.domain (bits64 p.addr 0 32) (BitVec.ofNat 64 (leNat p.payload))
    match r.1.cause with
    | none => .done r.2
    | some e => .failed e r.2)

/-! ### The device as sender (R279, R280, R283, R382) -/

/-- The bytes that a link command moves; 8 for a SIGNAL (R250). -/
def cmdTotal (ws : Vector Word64 4) : Nat := if cmdKind ws = 0x13 then 8 else cmdLen ws

/-- The BYTES of a link command that ends at an offset: 8 for a SIGNAL, however it ends (R250). -/
def endedBytes (c : Command) (n : Nat) : Nat := if cmdKind c.words = 0x13 then 8 else n

/-- A link command ends once every message is acknowledged (R283). BYTES is the lowest offset that failed, or LEN (R250,
log 18). -/
def State.settleLink (s : State) (cmd : Nat) : State :=
  match s.command? cmd with
  | none => s
  | some c =>
    if c.phase = .running ∧ c.pending = 0 ∧ (c.failAt.isSome ∨ cmdTotal c.words ≤ c.sent) then
      s.setCommand { c with phase := match c.failAt with
        | some f => .ended f.2 (endedBytes c f.1)
        | none => .ended 0 (cmdTotal c.words) }
    else s

/-- The lower of two failures. -/
def lowerFail (old : Option (Nat × Nat)) (f : Nat × Nat) : Option (Nat × Nat) :=
  match old with
  | some g => some (if f.1 < g.1 then f else g)
  | none => some f

/-- The steward that runs a link command is cut off: nothing reaches it (R358, R364). -/
def State.engineLost (s : State) (c : Command) : Bool := s.cutOff (roleTile c.unit .steward)

/-- `f` applied to a command, where it runs and its engine hears of it. -/
def State.modCommand (s : State) (cmd : Option Nat) (f : Command → Command) : State :=
  match cmd with
  | none => s
  | some n =>
    match s.command? n with
    | some c => if c.phase = .running && !(s.engineLost c) then (s.setCommand (f c)).settleLink n else s
    | none => s

/-- Messages leave the unacknowledged list. -/
def State.retireMessages (s : State) (ms : List Sent) : State :=
  ms.foldl (fun s m => s.modCommand m.cmd fun c => { c with pending := c.pending - 1 }) s

/-- A message is covered by an ACK with this APSN (R278). -/
def coveredBy (apsn : Nat) (m : Sent) : Bool := (apsn + psnMod - m.psn) % psnMod < 2 ^ 23

/-- ACK: every message up to APSN has been dealt with; a READ stays until its response has come (R278, log 29). -/
def execAck (p : Packet) (s : State) : Host.Outcome State Fault Refusal :=
  .next (match s.packetConn p with
    | none => s.drop p.port
    | some (key, c) =>
      let awaits (m : Sent) : Bool := c.reads.any fun r => r.1 == m.psn
      let gone := c.unacked.filter fun m => coveredBy p.apsn m && !awaits m
      let left := (c.unacked.filter fun m => !(coveredBy p.apsn m) || awaits m).map fun m =>
        if coveredBy p.apsn m then { m with acked := true } else m
      let progress := c.unacked.any fun m => coveredBy p.apsn m && !m.acked
      (s.setConn key { c with unacked := left
                              timeouts := if progress then 0 else c.timeouts
                              lastProgress := if progress then s.connNow key c else c.lastProgress }).retireMessages gone
        |>.flush key)

/-- Messages are sent again in their order (R279). -/
def State.resend (s : State) (ms : List Sent) : State := { s with outbox := s.outbox ++ ms }

/-- NAK: every unacknowledged message from APSN on is sent again (R279). -/
def execNak (p : Packet) (s : State) : Host.Outcome State Fault Refusal :=
  .next (match s.packetConn p with
    | none => s.drop p.port
    | some (_, c) => s.resend (c.unacked.filter fun m => (m.psn + psnMod - p.apsn) % psnMod < 2 ^ 23))

/-- STATUS: the message at APSN failed; its command takes the cause (R278, R283). -/
def execStatus (p : Packet) (s : State) : Host.Outcome State Fault Refusal :=
  .next (match s.packetConn p with
    | none => s.drop p.port
    | some (_, c) =>
      match c.unacked.find? fun m => m.psn == p.apsn with
      | none => s
      | some m => s.modCommand m.cmd fun k => { k with failAt := lowerFail k.failAt (m.off, p.tag % 256) })

/-- READRESP: a GET's data is written to its destination (R277, R283). -/
def execReadresp (p : Packet) (s : State) : Host.Outcome State Fault Refusal :=
  .next (match s.packetConn p with
    | none => s.drop p.port
    | some (key, c) =>
      match c.reads.find? fun r => r.1 == p.tag with
      | none => s
      | some r =>
        let asked : Word64 := BitVec.ofNat 64 (match s.command? r.2.1 with
          | some k => addrOffset k.words[2] + r.2.2.1
          | none => p.addr.toNat)
        if p.payload.length ≠ r.2.2.2 ∨ p.addr ≠ asked then s
        else
          let done := c.unacked.filter fun m => m.psn == r.1 && m.acked
          let s1 := s.setConn key { c with reads := c.reads.filter fun x => x.1 != r.1
                                           unacked := c.unacked.filter fun m => !(m.psn == r.1 && m.acked) }
          match s.command? r.2.1 with
          | none => (s1.retireMessages done).flush key
          | some k =>
            if k.phase ≠ .running ∨ s.engineLost k = true then (s1.retireMessages done).flush key
            else
              let dst := addrOffset k.words[1] + r.2.2.1
              let cs := chunksOf dst p.payload.length
              match s1.violatingChunk k.domain cs with
              | some a =>
                let below := cs.takeWhile fun x => x.1 != a
                let w := s1.writeChunks k.domain p.payload dst below
                ((w.1.setCommand { k with phase := .frozen (BitVec.ofNat 64 a) }).retireMessages done).flush key
              | none =>
                let w := s1.writeChunks k.domain p.payload dst cs
                let lines := cs.flatMap fun x => s1.lineOf k.domain 0 x.1
                ((w.1.modCommand (some r.2.1) fun k =>
                  { k with written := (lines ++ k.written).eraseDups
                           failAt := match w.2 with
                             | some x => lowerFail k.failAt (r.2.2.1 + (x.1 - dst), x.2)
                             | none => k.failAt }).retireMessages done).flush key)

/-- CNP: the rate falls by one eighth, to 1.6 Gb/s at the lowest (R280). -/
def execCnp (p : Packet) (s : State) : Host.Outcome State Fault Refusal :=
  .next (match s.packetConn p with
    | none => s.drop p.port
    | some (key, c) =>
      let c : Conn := { c with lastCnp := s.connNow key c }
      s.setConn key (if c.rate * 7 ≤ 1600 * 8 ^ (c.rateDiv + 1) then { c with rate := 1600, rateDiv := 0 }
        else { c with rate := c.rate * 7, rateDiv := c.rateDiv + 1 }))

/-- RATE_INCREASE: 60,000 I/O tile cycles without a CNP (R280). -/
def execRateIncrease (conn : ConnKey) (s : State) : Host.Outcome State Fault Refusal :=
  .next (match s.conn? conn with
    | none => s
    | some c =>
      if s.connNow conn c < c.lastCnp + 60000 then s
      else
        let c : Conn := { c with lastCnp := s.connNow conn c }
        let r := c.rate + 25000 * 8 ^ c.rateDiv
        s.setConn conn (if 1600000 * 8 ^ c.rateDiv ≤ r then { c with rate := 1600000, rateDiv := 0 } else { c with rate := r }))

/-- A FREEZE record (R319): the kind of master, its VTID, its number, the address. -/
def State.postFreeze (s : State) (dom kind vtid info : Nat) (addr : Word64) : State :=
  s.post dom 2 fw0Tile [(0x10, leBytes 1 kind), (0x14, leBytes 4 vtid), (0x18, leBytes 4 info), (0x20, leBytes 8 addr.toNat)]

/-- STATUS LINK (R250). -/
def statusLink : Nat := 0x81

/-- BYTES of a link command that ends before it is done: the lowest offset that is outstanding on the connections or failed, else
what was sent (R250, log 18). -/
def Command.cutBytes (k : Command) (cs : List Conn) : Nat :=
  let low := (cs.flatMap fun c => (c.unacked ++ c.backlog).filter fun m => m.cmd == some k.id).foldl (fun b m => min b m.off)
    k.sent
  endedBytes k (match k.failAt with
    | some f => min low f.1
    | none => low)

/-- The link commands that run over a connection end with LINK (R279, R382). -/
def State.endLinks (s : State) (key : ConnKey) (c : Conn) : State :=
  { s with commands := s.commands.map fun k =>
      if k.eng = 1 ∧ k.phase = .running ∧ peerKey (cmdPeer k.words) = key ∧ s.engineLost k = false then
        { k with phase := .ended statusLink (k.cutBytes [c]) }
      else k }

/-- A connection is frozen for good: it keeps nothing to send (R382). -/
def State.freezeConn (s : State) (key : ConnKey) (c : Conn) (addr : Word64) : State :=
  ((s.endLinks key c).setConn key { c with
    frozen := true, violated := none, unacked := [], backlog := [], reads := [] }).postFreeze c.domain 3 0
    (key % 0x10000) addr

/-- RETRANSMIT_TIMEOUT: 120,000 I/O tile cycles without progress resend everything unacknowledged; the seventh time in a
row freezes the connection, but for connection 0 (R279, R382, log 23). -/
def execRetransmitTimeout (conn : ConnKey) (s : State) : Host.Outcome State Fault Refusal :=
  .next (match s.conn? conn with
    | none => s
    | some c =>
      let now := s.connNow conn c
      if c.frozen || c.violated.isSome || c.unacked == [] || now < c.lastProgress + 120000 then s
      else if conn ≠ 0 ∧ 6 ≤ c.timeouts then s.freezeConn conn { c with timeouts := 7 } 0xFFFFFFFFFFFFFFFF
      else (s.setConn conn { c with timeouts := c.timeouts + 1, lastProgress := now }).resend c.unacked)

/-! ### Link commands (R246, R283) -/

/-- The next message of a link command, if one is left and the connection takes it: at most 8,192 bytes, in increasing
address order; a local byte that fails ends the command there (R279, R283). -/
def State.linkMessage (s : State) (key : ConnKey) (k : Command) : Option State :=
  let total := cmdTotal k.words
  match s.conn? key with
  | none => none
  | some c =>
    if total ≤ k.sent || k.failAt.isSome || sendWindow ≤ c.unacked.length then none
    else
      let n := min 8192 (total - k.sent)
      let far := BitVec.ofNat 64 (addrOffset k.words[1] + k.sent)
      let next (kind flags : Nat) (addr : Word64) (len : Nat) (payload : List Byte) (s : State) : State :=
        (s.setCommand { k with sent := k.sent + len, pending := k.pending + 1 }).sendSequenced key kind flags addr len payload
          (some k.id) k.sent
      match cmdKind k.words with
      | 0x13 => some (next 0x08 0 (BitVec.ofNat 64 (bits64 k.words[1] 0 32)) 8 (leBytes 8 k.words[2].toNat) s)
      | 0x11 => some (next 0x02 0 (BitVec.ofNat 64 (addrOffset k.words[2] + k.sent)) n [] s)
      | kind =>
        let etype := bits64 k.words[0] 8 4
        let size := if kind = 0x12 then (if etype = 0 then 4 else 2) else 1
        let r := s.copyReads k.window k.domain 0 (addrOffset k.words[2] + k.sent) n
        let got := r.1.take (r.1.length / size * size)
        let send (s : State) : State :=
          if got = [] then s
          else if kind = 0x12 then next 0x07 (etype * 4) far got.length got s
          else next 0x01 0 far got.length got s
        match r.2.1 with
        | none => some (send r.2.2)
        | some .waits => none
        | some (.violation a) =>
          let s := send r.2.2
          some (match s.command? k.id with
            | some k' => s.setCommand { k' with phase := .frozen (BitVec.ofNat 64 a) }
            | none => s)
        | some (.fault e) =>
          let s := send r.2.2
          some (match s.command? k.id with
            | some k' => s.setCommand { k' with failAt := some (k.sent + got.length, e.code) }
            | none => s)

/-- Messages are sent while the window of R279 takes them. -/
def State.linkSend (s : State) (key : ConnKey) (cmd : Nat) : Nat → State
  | 0 => s
  | n + 1 =>
    match s.command? cmd with
    | none => s
    | some k =>
      if k.phase ≠ .running then s
      else
        match s.linkMessage key k with
        | some s => State.linkSend s key cmd n
        | none => s

/-- The slices to which the local reads of a link command's next message go (R89, R90). -/
def State.linkSlices (s : State) (k : Command) : List Nat :=
  if cmdKind k.words = 0x10 ∨ cmdKind k.words = 0x12 then
    s.rangeSlices k.domain .load (addrOffset k.words[2] + k.sent) (min 8192 (cmdLen k.words - k.sent))
  else []

/-- A link command runs over its peer connection, which must be open and bound to the command's domain (R283, R382). -/
def State.runLink (s : State) (cmd kind : Nat) : State :=
  match s.command? cmd with
  | none => s
  | some k =>
    if !(s.mayRun k) ∨ k.eng ≠ 1 ∨ cmdKind k.words ≠ kind then s
    else
      let key := peerKey (cmdPeer k.words)
      match (if cmdPeer k.words < 4096 then s.conn? key else none) with
      | none => if k.phase = .queued then s.setCommand { k with phase := .ended Cause.perm.code (endedBytes k 0) } else s
      | some c =>
        if c.domain ≠ k.domain then s.setCommand { k with phase := .ended Cause.perm.code (endedBytes k 0) }
        else if c.frozen || c.violated.isSome then
          if k.phase = .queued then s.setCommand { k with phase := .ended statusLink 0 } else s
        else
          let s := s.setCommand { k with phase := .running }
          match s.gate (.command cmd) (s.linkSlices k) with
          | .error s => s
          | .ok s => { (s.linkSend key cmd sendWindow).settleLink cmd with wants := s.wants, stalled := s.stalled }

/-- PUT (R246, R283). -/
def execPut (cmd : Nat) (s : State) : Host.Outcome State Fault Refusal := .next (s.runLink cmd 0x10)

/-- GET (R246, R283). -/
def execGet (cmd : Nat) (s : State) : Host.Outcome State Fault Refusal := .next (s.runLink cmd 0x11)

/-- PUTADD (R111, R283). -/
def execPutadd (cmd : Nat) (s : State) : Host.Outcome State Fault Refusal := .next (s.runLink cmd 0x12)

/-- SIGNAL (R111, R283). -/
def execSignal (cmd : Nat) (s : State) : Host.Outcome State Fault Refusal := .next (s.runLink cmd 0x13)

end Sys2Proof.Machine
end

