-- ==== Sys2Proof/Machine/Nodes.lean ====
section
/-! DEFINITION. Queues, nodes and SCHED (R254 to R264, R281, R383, R385 to R387), the nodes that act on L2 (R92 to R94),
and the destruction of a queue (R272, R273). -/

namespace Sys2Proof.Machine

open Sys2Proof

/-! ### Queues and slots (R254, R255) -/

def queueKey (dom q : Nat) : Nat := dom * 4096 + q

def State.queue? (s : State) (dom q : Nat) : Option Queue := s.queues.get? (queueKey dom q)
def State.setQueue (s : State) (dom q : Nat) (v : Queue) : State := { s with queues := s.queues.set (queueKey dom q) v }

/-- What SCHED keeps of a slot. -/
def State.slot? (s : State) (n : SlotRef) : Option (Queue × Slot) :=
  (s.queue? n.domain n.queue).map fun q => (q, q.slots.getD n.slot {})

def State.setSlot (s : State) (n : SlotRef) (x : Slot) : State :=
  match s.queue? n.domain n.queue with
  | some q => s.setQueue n.domain n.queue { q with slots := q.slots.set n.slot x }
  | none => s

/-- The address of a slot (R254). -/
def slotVa (q : Queue) (slot : Nat) : Nat := q.ring.toNat + 128 * slot

/-- The instance of SCHED that serves a domain (R284). -/
def schedInstance (dom : Nat) : Fin 6 := Fin.ofNat 6 dom

/-- Its firmware tile (R317). -/
def schedTile (dom : Nat) : TileId := if dom % 6 < 3 then fw0Tile else fw1Tile

/-- Its instance takes no slots and requests: the pause of R290. -/
def State.schedPaused (s : State) (dom : Nat) : Bool := !(s.fw.kinds[1].insts[schedInstance dom]).serves

/-! ### SCHED's accesses -/

/-- Bytes of a domain, by 64-byte chunks, where `k` is what the page must permit. `none` in the error is a reserved region
(R256, R387). -/
def State.schedReads (s : State) (dom : Nat) (k : AccessKind) : List (Nat × Nat) → Except (Option Cause) (List Byte) × State
  | [] => (.ok [], s)
  | c :: cs =>
    match s.readFor dom c.1 c.2 k with
    | .fault e s => (.error (some e), s)
    | .wait s => (.ok [], s.stallOn dom c.1)
    | .violation => (.error none, s)
    | .ok bs s =>
      match State.schedReads s dom k cs with
      | (.ok rest, s) => (.ok (bs ++ rest), s)
      | r => r

def State.schedRead (s : State) (dom : Nat) (k : AccessKind) (va n : Nat) : Except (Option Cause) (List Byte) × State :=
  s.schedReads dom k (chunksOf va n)

/-- Bytes written in a domain, by 64-byte chunks, up to the first that fails. SCHED needs R and W (R254). -/
def State.schedWrites (s : State) (dom va : Nat) (bs : List Byte) : List (Nat × Nat) → Option (Option Cause) × State
  | [] => (none, s)
  | c :: cs =>
    match s.writeFor dom c.1 ((bs.drop (c.1 - va)).take c.2) .atomic with
    | .fault e s => (some (some e), s)
    | .wait s => (none, s.stallOn dom c.1)
    | .violation => (some none, s)
    | .ok _ s => State.schedWrites s dom va bs cs

def State.schedWrite (s : State) (dom va : Nat) (bs : List Byte) : Option (Option Cause) × State :=
  s.schedWrites dom va bs (chunksOf va bs.length)

/-- A RESULT (R256). -/
def resultCode : Option Cause → Nat
  | some c => c.code
  | none => 0x0E

/-- STATE codes (R256). -/
def NodeState.code : NodeState → Nat
  | .idle => 0
  | .pending => 1
  | .released => 2
  | .done => 3
  | .failed => 4
  | .aborted => 5

/-- STATE and RESULT are written with the doubleword at 0x00 as a whole, the other fields as the submitter left them; where
the slot could not be read, the two bytes alone (R255). -/
def State.writeHeader (s : State) (n : SlotRef) (res : Nat) : Option (Option Cause) × State :=
  match s.slot? n with
  | none => (none, s)
  | some (q, x) =>
    let va := slotVa q n.slot
    if x.body = [] then
      match s.schedWrite n.domain (va + 1) (leBytes 1 x.st.code) with
      | (none, s) => s.schedWrite n.domain (va + 7) (leBytes 1 res)
      | r => r
    else s.schedWrite n.domain va (putBytes (putBytes (x.body.take 8) 1 (leBytes 1 x.st.code)) 7 (leBytes 1 res))

/-! ### Destruction (R272, R273) and queue faults (R387) -/

/-- A node becomes ABORTED, with RESULT 0, for which the spec names no code (R256, log 68); nothing more comes of a write that
fails. -/
def State.abortNode (s : State) (n : SlotRef) : State :=
  match s.slot? n with
  | none => s
  | some (q, x) =>
    let s := s.setQueue n.domain n.queue { q with aborted := q.aborted + 1
                                                  slots := q.slots.set n.slot { x with st := .aborted, cred := 0, handed := false } }
    (s.writeHeader n 0).2

/-- The launches of a queue. -/
def State.launchesOf (s : State) (dom q : Nat) : List Launch :=
  s.launches.filter fun l => l.slot.domain == dom && l.slot.queue == q

/-- The VTs of a launch that have not ENDED. -/
def State.liveVts (s : State) (no : Nat) : List Nat :=
  (s.vts.filter fun e => e.2.launch.isSome && e.2.launchNo == no && e.2.st != .ended).map Prod.fst

/-- Gangs of a launch that wait for placement are removed (R273). -/
def State.removeWaiting (s : State) (no : Nat) : State :=
  let hit (k : Nat) : Bool := match s.gangs.get? k with
    | some g => g.launch.isSome && g.launchNo == no && (g.st == .waiting || g.st == .aged) && g.placedAt == 0
    | none => false
  let s := { s with
    clusters := s.clusters.mapVals fun _ c => { c with queue := c.queue.filter fun k => !hit k }
    gangs := s.gangs.mapVals fun k g => if hit k then { g with st := .ended } else g }
  (List.range 32).foldl State.settleHold s

/-- A VT is to end at its next pre-emption point, or ends at once (R179, R273). -/
def State.endAtPoint (s : State) (id : Nat) : State := (s.modVt id fun v => { v with killed := true }).settleKill id

/-- The slot that a queue fault of WHAT 4 left as it stood (R387). -/
def Queue.offending (q : Queue) : Option Nat := if bits64 q.qfault 8 8 = 4 then some (bits64 q.qfault 32 16) else none

/-- The PENDING nodes and RELEASED WAITFUTs of a queue that has become DESTROYING are aborted, once its instance of SCHED acts
(R273, R379). -/
def State.stopNodes (s : State) (dom q : Nat) : State :=
  match s.queue? dom q with
  | none => s
  | some x =>
    if !x.stopDue || s.schedPaused dom then s
    else
      let stop := x.slots.filter fun e => x.offending != some e.1
        && (e.2.st == .pending || (e.2.st == .released && (e.2.body.head?.map BitVec.toNat) == some 7))
      stop.foldl (fun s e => s.abortNode { domain := dom, queue := q, slot := e.1 }) (s.setQueue dom q { x with stopDue := false })

/-- A queue enters DESTROYING: its PENDING nodes and RELEASED WAITFUTs are aborted, its unplaced gangs removed, and without
DRAIN its VTs end (R272, R273). -/
def State.destroyQueue (s : State) (dom q drain : Nat) : State :=
  match s.queue? dom q with
  | none => s
  | some x =>
    let ls := s.launchesOf dom q
    let live := ls.flatMap fun l => s.liveVts l.no
    let s := (s.setQueue dom q { x with st := .destroying, drain, stopDue := true, ended := live.length }).stopNodes dom q
    let s := ls.foldl (fun s l => s.removeWaiting l.no) s
    if drain = 0 then live.foldl State.endAtPoint s else s

/-- QFAULT: the offending slot, WHAT and CAUSE (R387). -/
def qfaultWord (slot what cause : Nat) : Word64 := BitVec.ofNat 64 (slot * 2 ^ 32 + what * 256 + cause)

/-- The CAUSE of a queue fault (R322, R387). -/
def queueCause : Option Cause → Nat
  | some c => c.code
  | none => 0x0D

/-- A queue fault destroys an ACTIVE queue with DRAIN = 2 (R387). -/
def State.queueFault (s : State) (dom q : Nat) (slot what cause : Nat) : State :=
  match s.queue? dom q with
  | none => s
  | some x =>
    if x.st = .active then (s.setQueue dom q { x with qfault := qfaultWord slot what cause }).destroyQueue dom q 2 else s

/-- A header is published; an access to RING that fails is a queue fault (R255, R387). -/
def State.publish (s : State) (n : SlotRef) (res : Nat) : State :=
  match s.writeHeader n res with
  | (none, s) => s
  | (some e, s) => s.queueFault n.domain n.queue 0 1 (queueCause e)

/-! ### Release, final states and credits (R256, R258, R386) -/

def Slot.preds (x : Slot) : Nat := leNat ((x.body.drop 2).take 2)
def Slot.kind (x : Slot) : Nat := leNat (x.body.take 1)

/-- A doubleword or a smaller field of the slot. -/
def Slot.field (x : Slot) (off n : Nat) : Nat := leNat ((x.body.drop off).take n)

/-- The register image of a LAUNCH is read, with an acquire at system scope (R262). -/
def State.readImage (s : State) (n : SlotRef) (x : Slot) : Slot × State :=
  if x.kind ≠ 1 then (x, s)
  else
    let a := x.field 0x38 8
    let failed (e : Option Cause) (s : State) : Slot × State := ({ x with image := ([], []), imageFail := some (resultCode e) }, s)
    match s.schedRead n.domain .load a 0x180 with
    | (.error e, s) => failed e s
    | (.ok h, s) =>
      let count := countOnes (leNat ((h.drop 0x140).take 4) % 2 ^ 31) 31
      match s.schedRead n.domain .load (a + 0x180) (32 * (4 * 2 ^ x.field 0x54 1) * count) with
      | (.error e, s) => failed e s
      | (.ok v, s) => ({ x with image := (h, v), imageFail := none }, s)

/-- The node is RELEASED (R256); a LAUNCH has its image read (R262). -/
def State.releaseNode (s : State) (n : SlotRef) : State :=
  match s.slot? n with
  | none => s
  | some (_, x) =>
    let (x, s) := s.readImage n x
    ({ s.setSlot n { x with st := .released, order := s.nextOrder, outcome := none, handed := false, overCredit := false } with
       nextOrder := s.nextOrder + 1 }).publish n 0

/-- A credit reaches a slot; one to a queue that is not ACTIVE is discarded (R258, R386). -/
def State.creditNode (s : State) (dom sid : Nat) : State :=
  let n : SlotRef := { domain := dom, queue := sid / 2 ^ 16 % 4096, slot := sid % 2 ^ 16 }
  match s.slot? n with
  | none => s
  | some (q, x) =>
    if q.st ≠ .active then s
    else
      let x := { x with cred := x.cred + 1 }
      match x.st with
      | .released => s.setSlot n { x with overCredit := true }
      | .pending => if x.cred = x.preds then (s.setSlot n x).releaseNode n else s.setSlot n x
      | _ => s.setSlot n x

/-- A node reaches DONE or FAILED; DONE credits its successors (R256, R258). -/
def State.finishNode (s : State) (n : SlotRef) (done : Bool) (res : Nat) : State :=
  match s.slot? n with
  | none => s
  | some (_, x) =>
    let s := (s.setSlot n { x with st := if done then .done else .failed, cred := 0, handed := false, outcome := none }).publish
      n res
    if done then x.succ.foldl (fun s sid => s.creditNode n.domain sid) s else s

/-! ### Taking a slot (R257, R385, R386) -/

/-- The body bytes that R260 and R261 name, by KIND. -/
def namedBytes : Nat → List (Nat × Nat)
  | 1 => [(0x28, 0x5E), (0x60, 0x64)]
  | 2 => [(0x28, 0x48)]
  | 3 => [(0x28, 0x39), (0x48, 0x50)]
  | 4 => [(0x28, 0x38)]
  | 5 => [(0x28, 0x38), (0x48, 0x4C)]
  | 6 => [(0x28, 0x38)]
  | 7 => [(0x28, 0x38)]
  | _ => []

/-- A LAUNCH body within the limits of R261. -/
def launchLegal (x : Slot) : Bool :=
  let f := x.field
  f 0x28 8 % 128 == 0 && f 0x30 8 % 4 == 0 && f 0x38 8 % 64 == 0 && f 0x40 8 % 64 == 0
    && (f 0x40 8 != 0 || (f 0x48 4 == 0 && f 0x4C 4 == 0))
    && f 0x48 4 % 2 == 0 && f 0x4C 4 < 2 ^ 31
    && (f 0x50 4 == 0 || (256 ≤ f 0x50 4 && f 0x50 4 ≤ 2 ^ 20))
    && f 0x54 1 ≤ 5 && f 0x55 1 ≤ 64 && f 0x56 2 ≤ 1023 && 1 ≤ f 0x58 4 && f 0x58 4 ≤ 65535 && f 0x5C 2 ≤ 4096

/-- The command of a COPY node (R260). -/
def Slot.command (x : Slot) : Vector Word64 4 :=
  #v[BitVec.ofNat 64 (x.field 0x28 8), BitVec.ofNat 64 (x.field 0x30 8), BitVec.ofNat 64 (x.field 0x38 8),
     BitVec.ofNat 64 (x.field 0x40 8)]

/-- The body of a node is well formed (R385). -/
def bodyLegal (x : Slot) : Bool :=
  let va := x.field 0x28 8
  let len := x.field 0x30 8
  (((List.range 88).map fun k => 0x28 + k).all fun k =>
      (namedBytes x.kind).any (fun r => r.1 ≤ k && k < r.2) || x.field k 1 == 0)
    && match x.kind with
      | 1 => launchLegal x
      | 2 =>
        let ws := x.command
        addrSpace ws[1] == 0 && (cmdKind ws == 3 || addrSpace ws[2] == 0) && !(cmdMalformed 0 ws)
      | 3 => len != 0 && va + len ≤ 2 ^ 48 && x.field 0x38 1 ≤ 1
      | 4 => len != 0 && va + len ≤ 2 ^ 48
      | 5 => len != 0 && va + len ≤ 2 ^ 48 && va % 64 == 0 && len % 64 == 0
      | 6 | 7 => x.field 0x2C 4 == 0
      | _ => true

/-- A successor ID names a slot of the domain (R385). -/
def State.successorLegal (s : State) (dom sid : Nat) : Bool :=
  sid / 2 ^ 28 == 0 && match s.queue? dom (sid / 2 ^ 16 % 4096) with
    | some q => sid % 2 ^ 16 < 2 ^ q.log2n
    | none => false

/-- Numbers of 4 bytes. -/
def words4 (bs : List Byte) : Nat → List Nat
  | 0 => []
  | n + 1 => leNat (bs.take 4) :: words4 (bs.drop 4) n

/-- The check of a node when it is taken: its successors, or the RESULT with which it fails (R385). -/
def State.checkNode (s : State) (dom : Nat) (x : Slot) : Except Nat (List Nat) × State :=
  let nsucc := x.field 4 2
  let flags := x.field 6 1
  let ext := x.field 0x20 8
  if x.kind = 0 ∨ 8 < x.kind ∨ 4095 < x.preds ∨ 1024 < nsucc ∨ 4 ≤ flags ∨ (flags ≠ 0 ∧ x.kind ≠ 1)
      ∨ (ext = 0 ∧ 6 < nsucc) ∨ (ext ≠ 0 ∧ nsucc ≤ 6) ∨ ext % 4 ≠ 0 then (.error causeMalformed, s)
  else
    let first := words4 (x.body.drop 8) (min nsucc 6)
    let rest := if nsucc ≤ 6 then (.ok [], s) else s.schedRead dom .load ext (4 * (nsucc - 6))
    match rest with
    | (.error e, s) => (.error (resultCode e), s)
    | (.ok bs, s) =>
      let ids := first ++ words4 bs (nsucc - 6)
      if ids.all (s.successorLegal dom) && bodyLegal x then (.ok ids, s) else (.error causeMalformed, s)

/-- SCHED takes a slot: its bit is SEEN, and the node becomes PENDING, RELEASED or FAILED. A slot taken while it is not
IDLE is a queue fault (R256, R257, R385 to R387, log 36). -/
def State.takeSlot (s : State) (n : SlotRef) : State :=
  match s.slot? n with
  | none => s
  | some (q, x) =>
    let x := { x with seen := !x.seen }
    match (s.setSlot n x).schedRead n.domain .atomic (slotVa q n.slot) 128 with
    | (.error e, s) =>
      (s.setSlot n { x with body := [], succ := [] }).finishNode n false (resultCode e)
    | (.ok body, s) =>
      let x := { x with body, succ := [] }
      if x.field 1 1 ≠ 0 then s.queueFault n.domain n.queue (slotId n) 4 0
      else
        match (s.setSlot n x).checkNode n.domain x with
        | (.error r, s) => s.finishNode n false r
        | (.ok ids, s) =>
          let x := { x with succ := ids }
          if x.preds < x.cred then (s.setSlot n x).finishNode n false causeMalformed
          else if x.cred = x.preds then (s.setSlot n x).releaseNode n
          else (s.setSlot n { x with st := .pending }).publish n 0

/-- The slots whose bitmap bit differs from SEEN. -/
def changedSlots (q : Queue) (bitmap : List Byte) : List Nat :=
  (List.range (2 ^ q.log2n)).filter fun k =>
    ((bitmap[k / 8]?).getD 0).getLsbD (k % 8) != (q.slots.getD k {}).seen

/-- A scan: the bitmap is read and every changed slot is taken (R257). A failing access to DOORBELL or BITMAP is a queue
fault (R387). -/
def State.scanQueue (s : State) (domain queue : Nat) : State :=
  match s.queue? domain queue with
  | none => s
  | some q =>
    if q.st ≠ .active ∨ s.schedPaused domain = true then s
    else
      let s := s.setQueue domain queue { q with scan := false }
      match s.schedRead domain .atomic q.doorbell.toNat 8 with
      | (.error e, s) => s.queueFault domain queue 0 3 (queueCause e)
      | (.ok _, s) =>
        match s.schedRead domain .atomic q.bitmap.toNat (2 ^ q.log2n / 8) with
        | (.error e, s) => s.queueFault domain queue 0 2 (queueCause e)
        | (.ok bs, s) =>
          (changedSlots q bs).foldl (fun s k =>
            match s.queue? domain queue with
            | some q => if q.st = .active then s.takeSlot { domain, queue, slot := k } else s
            | none => s) s

/-- SCAN: after a write to the DOORBELL doubleword or a DOORBELL message, and at any time (R257). -/
def execScan (domain queue : Nat) (s : State) : Host.Outcome State Fault Refusal := .next (s.scanQueue domain queue)

/-- A message asks for a scan: it is made at once, or after a pause of SCHED (R257, R290). -/
def State.askScan (s : State) (domain queue : Nat) : State :=
  match s.queue? domain queue with
  | none => s
  | some q => (s.setQueue domain queue { q with scan := true }).scanQueue domain queue

/-! ### DOORBELL and SUBMIT messages (R277, R281, R383) -/

/-- The queue that a message names is ACTIVE in the connection's domain. -/
def State.activeQueue (s : State) (dom q : Nat) : Option Queue :=
  match s.queue? dom q with
  | some x => if x.st = .active then some x else none
  | none => none

/-- DOORBELL: SCHED scans the queue (R257, R277, R383). -/
def execDoorbell (p : Packet) (s : State) : Host.Outcome State Fault Refusal :=
  .next (s.receive p false (packetUnbound p || p.port != 0 || p.etype != 0 || p.len != 0 || p.payload != []
      || 4096 ≤ p.addr.toNat) fun _ c s =>
    match s.activeQueue c.domain p.addr.toNat with
    | some _ => .done (s.askScan c.domain p.addr.toNat)
    | none => .failed causeMalformed s)

/-- The nodes of a SUBMIT with their slots, but for those whose slot is PENDING or RELEASED (R281), as SCHED knows it
(log 70). -/
def submitTargets (q : Queue) (first : Nat) (payload : List Byte) : List (Nat × List Byte) :=
  ((List.range (payload.length / 128)).map fun k =>
      ((first + k) % 2 ^ q.log2n, (payload.drop (128 * k)).take 128)).filter fun e =>
    let st := (q.slots.getD e.1 {}).st
    st != .pending && st != .released

/-- The bitmap byte of a slot. -/
def bitmapVa (q : Queue) (slot : Nat) : Nat := q.bitmap.toNat + slot / 8

/-- The bitmap bit of a slot is inverted (R281). -/
def State.invertBit (s : State) (dom : Nat) (q : Queue) (slot : Nat) : State × Option Nat :=
  match s.readHome dom (bitmapVa q slot) 1 with
  | .ok bs s =>
    let b := ((bs[0]?).getD 0) ^^^ BitVec.twoPow 8 (slot % 8)
    let r := s.writeChunks dom [b] (bitmapVa q slot) [(bitmapVa q slot, 1)]
    (r.1, r.2.map Prod.snd)
  | .fault c s => (s, some c.code)
  | .wait s => (s.stallOn dom (bitmapVa q slot), none)
  | .violation => (s, none)

/-- How far a SUBMIT has come: the slots written, and the first cause of a failure. -/
structure Submitted where
  slots : List Nat
  cause : Option Nat

/-- The nodes of a SUBMIT are written whole with STATE 0, and then the bitmap bit of each slot written is inverted, once
(R281). The bit of a slot that is written in part alone is not (log 70). -/
def State.submitNodes (s : State) (dom : Nat) (q : Queue) (es : List (Nat × List Byte)) : State × Option Nat :=
  let w := es.foldl (fun (r : State × Submitted) (e : Nat × List Byte) =>
    let va := slotVa q e.1
    match r.1.writeChunks dom (putBytes e.2 1 [0]) va (chunksOf va 128) with
    | (s, some f) => (s, { r.2 with cause := firstCause r.2.cause (some f.2) })
    | (s, none) => (s, { r.2 with slots := r.2.slots ++ [e.1] })) (s, { slots := [], cause := none })
  w.2.slots.eraseDups.foldl (fun (r : State × Option Nat) k =>
    let x := r.1.invertBit dom q k
    (x.1, firstCause r.2 x.2)) (w.1, w.2.cause)

/-- SUBMIT (R281, R383). A chunk's cause goes before FULL (log 70). -/
def execSubmit (p : Packet) (s : State) : Host.Outcome State Fault Refusal :=
  .next (s.receive p false (packetUnbound p || p.port != 0 || p.etype != 0 || !(packetLenOk p 8192) || p.len % 128 != 0)
    fun _ c s =>
    match (if bits64 p.addr 28 36 = 0 then s.activeQueue c.domain (bits64 p.addr 16 12) else none) with
    | none => .failed causeMalformed s
    | some q =>
      let first := bits64 p.addr 0 16
      if 2 ^ q.log2n ≤ first then .failed causeMalformed s
      else
        let es := submitTargets q first p.payload
        let cs := es.flatMap fun e => chunksOf (slotVa q e.1) 128 ++ [(bitmapVa q e.1, 1)]
        s.overChunks c.domain cs fun s =>
          let r := s.submitNodes c.domain q es
          (r.1.askScan c.domain (bits64 p.addr 16 12), firstCause r.2 (if es.length = p.len / 128 then none else some 0x80)))

/-! ### Handing nodes to their agents (R259, R260) -/

/-- The nodes of an instance of SCHED that wait to be handed on; a WAITFUT waits for its future and holds up no other, and a
LAUNCH of a queue that is destroyed is handed on no more (R273). -/
def State.waitingNodes (s : State) (dom : Nat) : List (Nat × Nat × SlotRef) :=
  s.queues.flatMap fun e =>
    let d := e.1 / 4096
    if d % 6 = dom % 6 then
      (e.2.slots.filter fun x => x.2.st == .released && !x.2.handed && x.2.kind != 7
          && (x.2.kind != 1 || e.2.st == .active)).map fun x =>
        (7 - e.2.prio, x.2.order, { domain := d, queue := e.1 % 4096, slot := x.1 })
    else []

/-- A RELEASED node of this KIND that is next to be handed on: by queue priority, then by order of release (R259, log 37). -/
def State.dueNode (s : State) (n : SlotRef) (kind : Nat) : Option (Queue × Slot) :=
  match s.slot? n with
  | none => none
  | some (q, x) =>
    if x.st = .released ∧ x.handed = false ∧ x.kind = kind ∧ (s.schedPaused n.domain = false)
        ∧ (kind = 7 ∨ (s.waitingNodes n.domain).all fun w =>
            7 - q.prio < w.1 || (7 - q.prio == w.1 && x.order ≤ w.2.1)) then some (q, x)
    else none

/-- The action of a node has ended; NODE_COMPLETION follows. -/
def State.nodeOutcome (s : State) (n : SlotRef) (failed : Bool) (res : Nat) : State :=
  match s.slot? n with
  | some (_, x) => s.setSlot n { x with handed := true, outcome := some (failed, res) }
  | none => s

/-- COPY (R260). -/
def execCopy (n : SlotRef) (s : State) : Host.Outcome State Fault Refusal :=
  .next (match s.dueNode n 2 with
    | none => s
    | some (_, x) =>
      let r := s.copyRun { vt := none, gang := none } n.domain x.command
      match r.1.stop with
      | none => r.2.nodeOutcome n false 0
      | some (.fault c) => r.2.nodeOutcome n true c.code
      | some (.violation _) => r.2.nodeOutcome n true 0x0E
      | some .waits => r.2)

/-- SIGNAL (R260). -/
def execSignalNode (n : SlotRef) (s : State) : Host.Outcome State Fault Refusal :=
  .next (match s.dueNode n 6 with
    | none => s
    | some (_, x) =>
      let r := s.fput n.domain (x.field 0x28 4) (BitVec.ofNat 64 (x.field 0x30 8))
      match r.1 with
      | .ok => r.2.nodeOutcome n false 0
      | .full => r.2.nodeOutcome n false 0x80
      | .cordon => r.2.nodeOutcome n true Cause.cordon.code
      | .stale => r.2.nodeOutcome n true Cause.futh.code)

/-- SCHED writes a field of a slot's body; a failure is a queue fault (R260, R387). -/
def State.writeBody (s : State) (n : SlotRef) (q : Queue) (off : Nat) (bs : List Byte) : State :=
  match s.schedWrite n.domain (slotVa q n.slot + off) bs with
  | (none, s) => s
  | (some e, s) => s.queueFault n.domain n.queue 0 1 (queueCause e)

/-- A unit keeps its poison mark where it has moved to (R346). -/
def State.poisonAt (s : State) (dom va : Nat) : State :=
  match s.resolve va (s.walk dom va) with
  | none => s
  | some t =>
    if (cachingOf t.leaf t.loc .normal).past t.loc && (s.l2Find (t.loc / 64)).isSome then
      { s with l2 := s.l2.map fun (l : L2Line) =>
          if l.line = t.loc / 64 then { l with oldMarks := l.oldMarks ||| BitVec.twoPow 8 (t.loc / 8 % 8) } else l }
    else if s.poison.contains (t.loc / 8) then s
    else { s with poison := s.poison ++ [t.loc / 8] }

/-- WAITFUT: it waits while the entry is EMPTY (R260). A poisoned VALUE is poisoned in the slot as well (R346). -/
def execWaitfut (n : SlotRef) (s : State) : Host.Outcome State Fault Refusal :=
  .next (match s.dueNode n 7 with
    | none => s
    | some (q, x) =>
      match s.futureOf n.domain (x.field 0x28 4) with
      | .stale => s.nodeOutcome n true Cause.futh.code
      | .lost => s.nodeOutcome n true Cause.cordon.code
      | .entry _ f =>
        match f.st with
        | .full =>
          let va := slotVa q n.slot + 0x30
          match s.schedWrite n.domain va (leBytes 8 f.value.toNat) with
          | (none, s) => (if f.poisoned then s.poisonAt n.domain va else s).nodeOutcome n false 0
          | (some e, s) => (s.queueFault n.domain n.queue 0 1 (queueCause e)).nodeOutcome n false 0
        | .empty => s
        | .cordon | .free => s.nodeOutcome n true Cause.cordon.code)

/-- NOP (R260). -/
def execNop (n : SlotRef) (s : State) : Host.Outcome State Fault Refusal :=
  .next (match s.dueNode n 8 with
    | none => s
    | some _ => s.nodeOutcome n false 0)

/-! ### Nodes that act on L2 (R92 to R94) -/

/-- The addresses of the lines of a range, rounded outward. -/
def rangeLines (va len : Nat) : List Nat :=
  (List.range ((va + len - 1) / 64 - va / 64 + 1)).map fun k => (va / 64 + k) * 64

/-- What a policy node does with one line: goes on, counts it as skipped or refused, or meets a reserved region. -/
inductive LineOutcome where
  | done (s : State)
  | skipped (s : State)
  | refused (s : State)
  | violation
deriving DecidableEq, Repr

/-- The lines in order: the state, SKIPPED, REFUSED, and whether a reserved region was met. -/
def State.overLines (s : State) (f : State → Nat → LineOutcome) : List Nat → State × Nat × Nat × Bool
  | [] => (s, 0, 0, false)
  | va :: vas =>
    match f s va with
    | .done s => State.overLines s f vas
    | .skipped s =>
      let r := State.overLines s f vas
      (r.1, r.2.1 + 1, r.2.2)
    | .refused s =>
      let r := State.overLines s f vas
      (r.1, r.2.1, r.2.2.1 + 1, r.2.2.2)
    | .violation => (s, 0, 0, true)

/-- One line of a PREFETCH (R92). A line that cannot be reached is skipped (R368); one that is present becomes the most recently
used, and one for which no slice is left is refused (log 57). -/
def State.prefetchLine (dom : Nat) (pin : Bool) (s : State) (va : Nat) : LineOutcome :=
  match s.accessWalk dom va .load with
  | .violation => .violation
  | .fault _ s => .skipped s
  | .wait s => .done (s.stallOn dom va)
  | .ok t s =>
    let line := t.loc / 64
    let k := cachingOf t.leaf t.loc .normal
    if !k.atL2 || s.unreachable t.loc then .skipped s
    else
      match s.l2Find line with
      | some l => .done (s.l2Front { l with pinned := l.pinned || pin })
      | none =>
        if s.linkDown t.loc then .done (s.stallOn dom va)
        else
          match (s.want (s.slicesOf k .load (line * 64) 64)).l2Insert
              { line, dirty := false, old := none, pinned := pin, first := k.first } with
          | some s => .done s
          | none => .refused s

/-- PREFETCH (R92, R260). -/
def execPrefetch (n : SlotRef) (s : State) : Host.Outcome State Fault Refusal :=
  .next (match s.dueNode n 3 with
    | none => s
    | some (q, x) =>
      let r := s.overLines (State.prefetchLine n.domain (x.field 0x38 1 == 1)) (rangeLines (x.field 0x28 8) (x.field 0x30 8))
      if r.2.2.2 then r.1.nodeOutcome n true 0x0E
      else (r.1.writeBody n q 0x48 (leBytes 4 r.2.1 ++ leBytes 4 r.2.2.1)).nodeOutcome n false 0)

/-- One line of an UNPIN: a present line loses its pin and is the most recently used, whichever domain pinned it (R93). -/
def State.unpinLine (dom : Nat) (s : State) (va : Nat) : LineOutcome :=
  match s.translate dom va with
  | .violation => .violation
  | .fault _ s => .done s
  | .wait s => .done (s.stallOn dom va)
  | .ok t s =>
    if s.isReserved t.loc then .violation
    else
      match s.l2Find (t.loc / 64) with
      | some l => .done (s.l2Front { l with pinned := false, first := false })
      | none => .done s

/-- UNPIN (R93, R260). -/
def execUnpin (n : SlotRef) (s : State) : Host.Outcome State Fault Refusal :=
  .next (match s.dueNode n 4 with
    | none => s
    | some (_, x) =>
      let r := s.overLines (State.unpinLine n.domain) (rangeLines (x.field 0x28 8) (x.field 0x30 8))
      r.1.nodeOutcome n r.2.2.2 (if r.2.2.2 then 0x0E else 0))

/-- One line of a DISCARD: it is invalidated without write-back, and storage's bytes come back; monitors test them (R94,
R237). -/
def State.discardLine (dom : Nat) (s : State) (va : Nat) : LineOutcome :=
  match s.translate dom va with
  | .violation => .violation
  | .fault _ s => .skipped s
  | .wait s => .done (s.stallOn dom va)
  | .ok t s =>
    let line := t.loc / 64
    if s.isReserved t.loc then .violation
    else if !(entryW t.leaf) || entryDevice t.leaf || entryPolicy t.leaf == 2 || isSram t.loc || s.unreachable t.loc then .skipped s
    else .done (s.l2Revert line)

/-- DISCARD (R94, R260). -/
def execDiscard (n : SlotRef) (s : State) : Host.Outcome State Fault Refusal :=
  .next (match s.dueNode n 5 with
    | none => s
    | some (q, x) =>
      let r := s.overLines (State.discardLine n.domain) (rangeLines (x.field 0x28 8) (x.field 0x30 8))
      if r.2.2.2 then r.1.nodeOutcome n true 0x0E
      else (r.1.writeBody n q 0x48 (leBytes 4 r.2.1)).nodeOutcome n false 0)

/-! ### LAUNCH (R261, R262, R264, R265) -/

/-- The register image within its limits, as read (R262); `body` is the node. -/
def launchImage (n : SlotRef) (no : Nat) (x : Slot) (prio : Nat) (h v : List Byte) : Option Launch :=
  let f (off k : Nat) : Nat := leNat ((h.drop off).take k)
  let w := 4 * 2 ^ x.field 0x54 1
  let mask := f 0x140 4
  let regs := (List.range 31).filter fun k => mask / 2 ^ k % 2 == 1
  let seg (k : Nat) : Word64 := BitVec.ofNat 64 (f (0x120 + 8 * k) 8)
  let legal : Bool := f 0 8 == 0 && f 0x100 8 ≤ 32 && f 0x108 8 < 2 ^ 11 && f 0x110 8 < 2 ^ 32 && f 0x118 8 ≤ 2
    && mask < 2 ^ 31 && (h.drop 0x144).all (fun b => b == 0)
    && (List.range 4).all fun k => segTag (seg k) != 3 && bits64 (seg k) 48 14 == 0
  if legal then some {
    slot := n, no, codebase := BitVec.ofNat 64 (x.field 0x28 8), entry := BitVec.ofNat 64 (x.field 0x30 8)
    spillbase := BitVec.ofNat 64 (x.field 0x40 8), spillx := BitVec.ofNat 32 (x.field 0x48 4)
    spillv := BitVec.ofNat 32 (x.field 0x4C 4), interval := x.field 0x50 4, wsel := Fin.ofNat 6 (x.field 0x54 1)
    tcmwin := x.field 0x55 1, gang := x.field 0x56 2, gangs := x.field 0x58 4, cspwin := x.field 0x5C 2
    clusters := BitVec.ofNat 32 (x.field 0x60 4), persist := x.field 6 1 % 2 == 1, restart := x.field 6 1 / 2 % 2 == 1, prio
    x := Vector.ofFn fun (k : Fin 32) => BitVec.ofNat 64 (f (8 * k.val) 8)
    vl := f 0x100 8, vcfgReq := f 0x108 8, em := BitVec.ofNat 32 (f 0x110 8), vmt := f 0x118 8
    seg := #v[seg 0, seg 1, seg 2, seg 3]
    v := regs.zipIdx.map fun r => (r.1, (List.range 32).map fun i => regOfBytes ((v.drop (32 * w * r.2 + w * i)).take w)) }
  else none

/-- A cluster is in service (R265). -/
def State.inService (s : State) (g : Nat) : Bool :=
  let t := s.tile (clusterTile g)
  !t.cordoned && !t.retired && !(s.die (g / 4)).severed

/-- The permitted cluster in service with the fewest gangs waiting, the lowest on a tie (R265). -/
def State.pickCluster (s : State) (mask : BitVec 32) : Option Nat :=
  ((List.range 32).filter fun g => (mask == 0 || mask.getLsbD g) && s.inService g).foldl
    (fun (best : Option Nat) g => match best with
      | none => some g
      | some b => if (s.cluster g).queue.length < (s.cluster b).queue.length then some g else some b) none

/-- A gang goes to the end of a cluster's placement queue. -/
def State.enqueueGang (s : State) (key : Nat) (g : Gang) (c : Nat) : State :=
  let s := { s with gangs := s.gangs.set key { g with cluster := c } }
  s.setCluster c { s.cluster c with queue := (s.cluster c).queue ++ [key] }

/-- A launch's gang `index`, with a new GANGID (R265). -/
def State.newGang (s : State) (l : Launch) (index : Nat) : State :=
  match s.pickCluster l.clusters with
  | none => s
  | some c =>
    let (gid, s) := s.freshGang l.slot.domain
    s.enqueueGang (gangKey l.slot.domain gid)
      { domain := l.slot.domain, id := gid, size := l.gang + 1, frames := 2 ^ l.wsel.val, tcmwin := l.tcmwin
        launch := some l.slot, launchNo := l.no, index, clusters := l.clusters, prio := l.prio, cspwin := l.cspwin } c

/-- A gang needs more than an empty cluster holds (R266). -/
def Launch.unplaceable (l : Launch) : Bool :=
  let perCore := if l.tcmwin = 0 then 1024 / 2 ^ l.wsel.val else min (1024 / 2 ^ l.wsel.val) (64 / l.tcmwin)
  48 * perCore < l.gang + 1 || 4096 < l.cspwin

/-- LAUNCH: the gangs, from the image as read at the release, are handed to placement in increasing index (R262, R265). -/
def execLaunch (n : SlotRef) (s : State) : Host.Outcome State Fault Refusal :=
  .next (match s.dueNode n 1 with
    | none => s
    | some (q, x) =>
      if q.st ≠ .active then s
      else
        match x.imageFail, launchImage n (s.nextOrder + 1) x q.prio x.image.1 x.image.2 with
        | some e, _ => s.nodeOutcome n true e
        | none, none => s.nodeOutcome n true causeMalformed
        | none, some l =>
          if l.unplaceable || (s.pickCluster l.clusters).isNone then s.nodeOutcome n true 0x0D
          else
            let s := { s.setSlot n { x with handed := true } with launches := s.launches ++ [l], nextOrder := s.nextOrder + 1 }
            (List.range l.gangs).foldl (fun s k => s.newGang l k) s)

/-- How a LAUNCH node completes, once it does: `failed` and RESULT; the cause of several is the device's choice (R264). -/
def State.launchOutcome (s : State) (n : SlotRef) : Option ((Bool × Nat) × State) :=
  match (s.launches.filter fun l => l.slot == n).getLast? with
  | none => none
  | some l =>
    if (if l.persist then l.gangs ≤ l.placedGangs + l.lostGangs else l.gangs ≤ l.endedGangs + l.lostGangs) then
      if l.placedGangs = 0 ∧ l.lostGangs ≠ 0 then some ((true, 0x0D), s)
      else
        match l.causes with
        | [] => some ((false, 0), s)
        | c :: cs =>
          let r := s.draw
          some ((false, ((c :: cs)[r.1 % (cs.length + 1)]?).getD c), r.2)
    else none

/-- NODE_COMPLETION: a node whose action has ended becomes DONE or FAILED and credits its successors; on a DESTROYING queue
it becomes ABORTED, a LAUNCH only with its queue (R256, R258, R264, R273, R386). -/
def execNodeCompletion (n : SlotRef) (s : State) : Host.Outcome State Fault Refusal :=
  .next (match s.slot? n with
    | none => s
    | some (q, x) =>
      if x.st ≠ .released ∨ s.schedPaused n.domain = true then s
      else
        let out : Option ((Bool × Nat) × State) := match x.outcome with
          | some o => some (o, s)
          | none => if x.kind = 1 ∧ x.handed = true then s.launchOutcome n else none
        match out with
        | none => s
        | some (o, s) =>
          if q.st ≠ .active then (if x.kind = 1 ∨ q.offending = some n.slot then s else s.abortNode n)
          else if x.overCredit && !o.1 then s.finishNode n false causeMalformed
          else s.finishNode n (!o.1) o.2)

/-- QUEUE_DESTROYED: every VT of the queue's launches has ENDED and every action is done; its RELEASED LAUNCH nodes become
ABORTED, the queue DESTROYED, and a record is posted (R273, R319). The nodes that a pause of SCHED left waiting are aborted
first, in a turn of their own. -/
def execQueueDestroyed (domain queue : Nat) (s : State) : Host.Outcome State Fault Refusal :=
  .next (match s.queue? domain queue with
    | none => s
    | some q =>
      let released := q.slots.filter fun e => e.2.st == .released && q.offending != some e.1
      if q.stopDue then s.stopNodes domain queue
      else if q.st ≠ .destroying ∨ s.schedPaused domain = true ∨ (s.launchesOf domain queue).any (fun l => s.liveVts l.no != [])
          ∨ released.any (fun e => e.2.kind != 1) then s
      else
        let s := released.foldl (fun s e => s.abortNode { domain, queue, slot := e.1 }) s
        match s.queue? domain queue with
        | none => s
        | some q =>
          (s.setQueue domain queue { q with st := .destroyed }).post domain 4 (schedTile domain)
            [(0x10, leBytes 2 queue), (0x12, leBytes 1 q.drain), (0x14, leBytes 4 q.aborted), (0x18, leBytes 4 q.ended)])

end Sys2Proof.Machine
end

