-- ==== Sys2Proof/Machine/Placement.lean ====
section
/-! DEFINITION. Placement of gangs (R265, R266), residency (R267 to R269), binding at swap-in and at a write of LPR (R43
to R46), gang pre-emption and restore (R270, R271). -/

namespace Sys2Proof.Machine

open Sys2Proof

/-! ### What a core has free -/

/-- The VTs that hold frames and TCM of a core. -/
def State.holders (s : State) (c : Nat) : List (Nat × VT) :=
  s.vts.filter fun e => (e.2.resident || e.2.reserved) && e.2.core == c

/-- Free frames of a core, of 1,024 (R15). -/
def State.freeFrames (s : State) (c : Nat) : Nat := 1024 - ((s.holders c).map fun e => e.2.frames).sum

/-- Free units of 4 KiB of a core's TCM, of 64 (R15, R22). -/
def State.freeTcm (s : State) (c : Nat) : Nat := 64 - ((s.holders c).map fun e => e.2.tcmwin).sum

/-- A core can hold a VT without swapping anything out: frames and TCM, of those not held for an AGED gang unless the VT
is admitted, and a free claim store for a claim (R220, R266, R267). -/
def State.canHold (s : State) (c : Nat) (vt : VT) : Bool :=
  let k := s.core c
  let held (n : Nat) : Nat := if vt.admitted then 0 else n
  vt.frames + held k.heldFrames ≤ s.freeFrames c && vt.tcmwin + held k.heldTcm ≤ s.freeTcm c
    && (vt.claim.isNone || s.claimsOn c < 64)

/-- The cores of a cluster, in increasing number (R13). -/
def clusterCores (g : Nat) : List Nat := (List.range 48).map fun j => 48 * g + j

/-- What is held on a cluster's cores is never more than what is free there (R266). -/
def State.capHold (s : State) (g : Nat) : State :=
  { s with cores := s.cores.mapVals fun n k =>
      if clusterOfCore n = g then
        { k with heldFrames := min k.heldFrames (s.freeFrames n), heldTcm := min k.heldTcm (s.freeTcm n) }
      else k }

/-! ### Fit (R266) -/

/-- `n` members, in rank order, onto the cores of a list, each taking members while its free frames and TCM suffice. -/
def assignCores (frames tcm : Nat) : List (Nat × Nat × Nat) → Nat → Option (List Nat)
  | [], n => if n = 0 then some [] else none
  | (c, f, t) :: cs, n =>
    let k := min n (min (f / frames) (if tcm = 0 then n else t / tcm))
    (assignCores frames tcm cs (n - k)).map fun l => List.replicate k c ++ l

/-- The CSP units of a cluster that placed gangs have. -/
def State.cspUsed (s : State) (g : Nat) : BitVec 4096 :=
  s.gangs.foldl (fun m e => if e.2.st = .placed ∧ e.2.cluster = g then m ||| e.2.units else m) 0

/-- The lowest free base of a region of `n` CSP units. -/
def cspBase (used : BitVec 4096) (n : Nat) : Option Nat :=
  findFrom (fun b => b + n ≤ 4096 && used &&& (lowOnes 4096 n <<< b) == 0) 0 4097

/-- The members of a gang that have not ENDED. -/
def State.liveMembers (s : State) (x : Gang) : List (Nat × VT) :=
  x.members.filterMap fun id => match s.vt? id with
    | some v => if v.st = .ended then none else some (id, v)
    | none => none

/-- A gang fits in cluster `g`: the cores of its members and its CSP base. What is held for an AGED gang serves no other
(R266). -/
def State.fit (s : State) (g : Nat) (x : Gang) : Option (List Nat × Nat) :=
  let own := x.st == .aged
  let n := if x.members = [] then x.size else (s.liveMembers x).length
  let held (k : Nat) : Nat := if own then 0 else k
  let room := (clusterCores g).map fun c =>
    (c, s.freeFrames c - held (s.core c).heldFrames, s.freeTcm c - held (s.core c).heldTcm)
  let used := s.cspUsed g ||| (if own then 0 else (s.cluster g).heldCsp)
  match assignCores x.frames x.tcmwin room n, cspBase used x.cspwin with
  | some cs, some b => some (cs, b)
  | _, _ => none

/-! ### Placing -/

/-- A VT of a launch, from the image as read (R262). -/
def Launch.vt (l : Launch) (key : Nat) (x : Gang) (rank core : Nat) : VT :=
  let reg (i : Fin 32) : Vector VReg 32 :=
    l.v.foldl (fun v e => if h : e.1 < 32 then v.set e.1 (e.2.getD i.val 0) else v) (Vector.replicate 32 0)
  let vt : VT := {
    domain := x.domain, gang := key, gangId := x.id, rank, launch := some l.slot, launchNo := l.no
    launchIndex := x.index * x.size + rank, prio := l.prio, wsel := l.wsel, codebase := l.codebase, tcmwin := l.tcmwin
    interval := l.interval, persistent := l.persist, spillbase := l.spillbase, spillx := l.spillx, spillv := l.spillv
    reserved := true, core, pc := l.entry, x := l.x, seg := l.seg, vl := l.vl, vcfg := vcfgReset l.wsel, vmt := l.vmt
    em := l.em, vps := Vector.ofFn fun (i : Fin 32) => { v := reg i } }
  vt.applyCfg (l.vcfgReq / 8 * 8 + l.wsel.val)

/-- The members of a launch's gang are created, in rank order from `rank` (R265, R262). -/
def State.createMembers (s : State) (l : Launch) (key : Nat) (x : Gang) : List Nat → Nat → List Nat → State × List Nat
  | [], _, ids => (s, ids)
  | c :: cs, rank, ids =>
    let r := s.freshVt
    State.createMembers (r.2.setVt r.1 { l.vt key x rank c with readyAt := s.coreCycle c }) l key x cs (rank + 1) (ids ++ [r.1])

/-- A member of a restored or spawned gang has its core again; a PARKED, FAULTED or FROZEN one stays as it is (R271). -/
def State.seatMember (s : State) (e : Nat × Nat) : State :=
  s.modVt e.1 fun v =>
    let w := s.onCore v e.2
    { w with rebind := false, reserved := v.st == .new || v.st == .readyOut
             readyAt := if v.st = .new ∨ v.st = .readyOut then s.vtNow v else v.readyAt }

/-- The gang is placed on these cores with this CSP base (R265, R266, R271). A window that is placed for the first time
reads zero (R74). -/
def State.installGang (s : State) (g key : Nat) (x : Gang) (cs : List Nat) (base : Nat) : State :=
  let r : State × List Nat :=
    if x.members = [] then
      match s.launches.find? fun (l : Launch) => l.no == x.launchNo with
      | some l => s.createMembers l key x cs 0 []
      | none => (s, [])
    else (((s.liveMembers x).map Prod.fst |>.zip cs).foldl State.seatMember s, x.members)
  let x' : Gang := { x with
    st := .placed, cluster := g, base, placedAt := r.1.nextOrder + 1, restored := true, members := r.2, ctx := none
    mem := if x.members = [] ∨ (x.placedAt = 0 ∧ x.launch.isNone) then lowOnes 1024 x.size else x.mem }
  let s := { r.1 with
    gangs := r.1.gangs.set key x', nextOrder := r.1.nextOrder + 1
    launches := r.1.launches.map fun (l : Launch) =>
      if x.launch.isSome && l.no == x.launchNo && !x.restored then { l with placedGangs := l.placedGangs + 1 } else l }
  let c := s.cluster g
  s.setCluster g { c with queue := c.queue.filter fun k => k != key, heldCsp := c.heldCsp &&& ~~~x'.units }

/-- A gang placed ahead of an older waiting one raises its overtake count; at 8 it is AGED, which counts on the clock of the
cluster's first core (R17, R266, log 54). -/
def State.overtake (s : State) (g key : Nat) : State :=
  match s.gangs.get? key with
  | none => s
  | some x =>
    let n := x.overtakes + 1
    let x := { x with overtakes := n }
    let x := if 8 ≤ n ∧ x.st = .waiting then { x with st := .aged, agedAt := s.coreCycle (48 * g) } else x
    { s with gangs := s.gangs.set key x }

/-- Every fitting gang of the queue in order; `skipped` are the waiting ones ahead. Nothing behind an AGED gang that waits
is placed (R266). -/
def State.placePass (s : State) (g : Nat) : List Nat → List Nat → State
  | [], _ => s
  | k :: ks, skipped =>
    match s.gangs.get? k with
    | none => State.placePass s g ks skipped
    | some x =>
      match s.fit g x with
      | some (cs, base) =>
        let s := skipped.foldl (fun s j => s.overtake g j) (s.installGang g k x cs base)
        let s := (if x.st = .aged then s.settleHold g else s).capHold g
        if skipped.any fun j => (s.gangs.get? j).any fun y => y.st == .aged then s
        else State.placePass s g ks skipped
      | none => if x.st = .aged then s else State.placePass s g ks (skipped ++ [k])

/-- PLACEMENT: the placement unit of a cluster in service places every gang that fits, in queue order (R266). -/
def execPlacement (cluster : Nat) (s : State) : Host.Outcome State Fault Refusal :=
  .next (if s.inService cluster then s.placePass cluster (s.cluster cluster).queue [] else s)

/-! ### Binding (R44 to R46, R268) -/

/-- The slot of a binding on the VT's core: an admitted VT's own slot, else of its previous span where the core has one,
else of the widest; the fewest bound, the lowest on a tie (R46). A re-binding after a write of LPR chooses in the same
order (log 57). -/
def State.slotFor (s : State) (vt : VT) : Option Nat :=
  if vt.admitted && !vt.rebind then some vt.slot
  else
    let same := s.slotsOf vt.core vt.span
    s.leastBound vt.core (if vt.span = 0 ∨ same = [] then s.slotsOf vt.core (s.widest vt.core) else same)

/-- The VT is bound, and an admission that it held before a re-binding is tested again (R45, R268). -/
def State.bindVt (s : State) (id : Nat) : State :=
  match s.vt? id with
  | none => s
  | some vt =>
    match s.slotFor vt with
    | none => s
    | some k =>
      (s.bindTo id k vt.rebind).modVt id fun v =>
        let lane := v.lane
        { v with
          rebind := false
          waiting := v.waiting.map fun o => match o.op with
            | .block a pc c w m _ => { o with op := .block a pc c w m lane }
            | .mem _ | .bcast .. => o
          vps := Vector.ofFn fun i => { v.vps[i] with quad := quadIn lane i } }

/-- A VT whose slot an LPR write changed is bound again at its pre-emption point (R45, R269). -/
def State.settleBind (s : State) (id : Nat) : State :=
  match s.vt? id with
  | none => s
  | some vt => if vt.rebind && vt.resident && vt.atPoint then s.bindVt id else s

/-! ### Swap-in (R46, R47, R267) -/

/-- A VT is frozen: FAULTREC has CAUSE 0x0D, its parking registrations and its wait at an engine are gone, its context is
stored (R244, R322). -/
def State.freezeVt (s : State) (id : Nat) (vt : VT) (f : FaultInfo) : State :=
  let v := { vt.evict with
    st := .frozen, faultrec := faultWords { f with cause := .domain }, park := none, detected := [], violation := none
    stopping := false }
  (((((s.holdFreed vt).setVt id v).leaveFutures id).leaveFifo id).saveContext id).postFreeze vt.domain 1 id 0 f.daddr

/-- The violation of a record whose DOMAIN is another's (R322). -/
def restoreViolation (v : VT) : FaultInfo :=
  { cause := .domain, place := 0, vp := 0, elem := 0, infl := 0, code := 0, pc := v.pc, iaddr := v.pc, daddr := 0 }

/-- The context of a READY-OUT or NEW VT enters the frames of a core: it is bound, and READY. The core's L1 then holds
nothing, on the core that the VT left as on another (R114, log 57). -/
def State.swapIn (s : State) (id core : Nat) : State :=
  let s := (s.modVt id fun v => s.onCore v core).bindVt id
  let s := s.modVt id fun v =>
    let v := s.restored v
    { v with resident := true, reserved := false, swappedInAt := s.vtNow v, st := .ready, readyAt := s.vtNow v
             aged := false, ctx := none }
  (s.setCore core { s.core core with l1 := [] }).capHold (clusterOfCore core)

/-- The core of a swap-in: the one that placement keeps for the VT; else its previous core; else, unless it is admitted,
the lowest of its cluster that can hold it (R267). -/
def State.swapCore (s : State) (vt : VT) : Option Nat :=
  if vt.reserved then (if vt.claim.isNone || s.claimsOn vt.core < 64 then some vt.core else none)
  else if s.canHold vt.core vt then some vt.core
  else if vt.admitted then none
  else (clusterCores (clusterOfCore vt.core)).find? fun c => s.canHold c vt

/-- The VT's gang is placed. -/
def State.gangPlaced (s : State) (vt : VT) : Bool := (s.gangs.get? vt.gang).any fun g => g.st == .placed

/-- A NEW or READY-OUT VT of a placed gang requests its swap-in. -/
def State.wantsSwapIn (s : State) (v : VT) : Bool :=
  (v.st == .readyOut || (v.st == .new && v.reserved)) && s.gangPlaced v && s.inService (clusterOfCore v.core)

/-- The VT of a list with the least key; the lowest VTID on a tie. -/
def leastVt (key : VT → Int) : List (Nat × VT) → Option Nat
  | [] => none
  | e :: es => some (es.foldl (fun (b : Nat × VT) e => if key e.2 < key b.2 then e else b) e).1

/-- Minus the time since a moment of a VT: the least has waited longest (R17). -/
def State.sinceKey (s : State) (f : VT → Nat) (v : VT) : Int := (f v : Int) - s.vtNow v

/-- A request waits for resources that are not held for an AGED gang (R266). -/
def State.waitsForHeld (s : State) (v : VT) : Bool :=
  !v.admitted && (s.swapCore v).isNone && s.agedWaiting (clusterOfCore v.core)

/-- The VT's record can be read, and is one; or it is another domain's, which the restore finds (R322). -/
def State.recordServes (s : State) (v : VT) : Bool := s.ctxReady v.ctx && (!(s.ctxOwn v.ctx 4 v.domain) || s.ctxWhole v.ctx 0xF)

/-- The request that a core's residency engine serves next: the earliest of those for a swap-in there (R267). A VT that
waits for room waits at its previous core; an admitted one does not wait behind one that resources held for an AGED gang
keep waiting (R266). -/
def State.nextSwapIn (s : State) (c : Nat) : Option Nat :=
  let l := s.vts.filter fun e => s.wantsSwapIn e.2 && s.recordServes e.2 && (s.swapCore e.2).getD e.2.core == c
  match leastVt (s.sinceKey VT.readyAt) l with
  | none => none
  | some id =>
    if (s.vt? id).any s.waitsForHeld then
      some ((leastVt (s.sinceKey VT.readyAt) (l.filter fun e => e.2.admitted)).getD id)
    else some id

/-- SWAP_IN: the residency engine brings a NEW or READY-OUT VT of a placed gang into frames, in order of request. A record of
another domain freezes it (R322). -/
def execSwapIn (vt : Nat) (s : State) : Host.Outcome State Fault Refusal :=
  .next (match s.vt? vt with
    | none => s
    | some v =>
      if s.wantsSwapIn v then
        match s.swapCore v with
        | some c =>
          if s.nextSwapIn c ≠ some vt ∨ s.recordServes v = false then s
          else if s.ctxOwn v.ctx 4 v.domain then s.swapIn vt c
          else s.freezeVt vt v (restoreViolation v)
        | none => s
      else s)

/-! ### Swap-out (R51, R266, R267, R269) -/

/-- The first of two choices that there is. -/
def orElse (a b : Option Nat) : Option Nat :=
  match a with
  | some x => some x
  | none => b

/-- The PARKED VT of a list that has been parked longest. -/
def State.longestParked (s : State) (l : List (Nat × VT)) : Option Nat :=
  leastVt (s.sinceKey VT.parkedAt) (l.filter fun e => e.2.st == .parked)

/-- The resident VTs of a core. -/
def State.residents (s : State) (c : Nat) : List (Nat × VT) := s.vts.filter fun e => e.2.resident && e.2.core == c

/-- Some AGED gang of a cluster lacks frames or TCM, and the VT to swap out for it (R266). -/
def State.victimForAged (s : State) (g : Nat) : Option Nat :=
  if (s.cluster g).queue.any fun k => (s.gangs.get? k).any fun x =>
      x.st == .aged && (s.fit g { x with cspwin := 0 }).isNone then
    s.longestParked (s.vts.filter fun e => e.2.resident && clusterOfCore e.2.core == g)
  else none

/-- A READY-OUT VT waits for room on its previous core (R267). -/
def State.waitsForCore (s : State) (c : Nat) : Bool :=
  s.vts.any fun e => e.2.st == .readyOut && e.2.core == c && s.gangPlaced e.2 && (s.swapCore e.2).isNone

/-- The VT that a core's residency engine swaps out to make room: PARKED longest first, then READY normal class resident
for 2^16 cycles, earliest swap-in first (R267). -/
def State.victimForRoom (s : State) (c : Nat) : Option Nat :=
  if s.waitsForCore c then
    orElse (s.longestParked (s.residents c))
      (leastVt (s.sinceKey VT.swappedInAt) ((s.residents c).filter fun e =>
        e.2.st == .ready && !e.2.admitted && e.2.swappedInAt + 65536 ≤ s.vtNow e.2))
  else none

/-- The claim holder that a core's residency engine moves out for an `mxon` that waits for a claim store (R220). -/
def State.victimForClaim (s : State) (c : Nat) : Option Nat :=
  let l := (s.residents c).filter fun e => e.2.claim.isSome
  if (s.residents c).any (fun e => e.2.claimWait) && 64 ≤ l.length then
    orElse (s.longestParked l) (leastVt (s.sinceKey VT.swappedInAt) (l.filter fun e => e.2.st == .ready && !e.2.admitted))
  else none

/-- An accepted copy command that has not completed names a window: CSP 1, TCM 2 (R248). -/
def Command.names (c : Command) (space : Nat) : Bool :=
  c.eng == 0 && (c.phase == .queued || c.phase == .running)
    && (addrSpace c.words[1] == space || (cmdKind c.words != 3 && addrSpace c.words[2] == space))

/-- Such a command names the VT's TCM window. -/
def State.tcmBusy (s : State) (id : Nat) : Bool := s.commands.any fun c => c.vt == id && c.names 2

/-- The VT can leave its core now: at a pre-emption point, with no stop under way but while parked, its TCM window not in
use, with room for its record. -/
def State.mayLeave (s : State) (id : Nat) (vt : VT) : Bool :=
  vt.resident && (vt.st == .parked || (vt.st == .ready && !vt.stopping)) && !vt.killed && vt.atPoint && !s.tcmBusy id
    && s.canStore id vt

/-- What a VT that leaves its core finishes: its `mop` stops between blocks, and what its core holds of its stores is
performed (R87, R180, R231). -/
def State.leavePoint (s : State) (id : Nat) : State := (s.stopMop id).flushVt id

/-- The VT is pre-empted: its context is stored, PREEMPTS counts it, and a READY VT is READY-OUT (R47, R62, R231). An `enq` that
stalls at a full FIFO counts as not issued (R253). -/
def State.swapOut (s : State) (id : Nat) : State :=
  match (s.leavePoint id).vt? id with
  | none => s
  | some vt =>
    ((((s.leavePoint id).holdFreed vt).leaveFifo id).setVt id
      { vt.evict with st := if vt.st = .ready then .readyOut else vt.st, preempts := vt.preempts + 1
                      readyAt := if vt.st = .ready then s.vtNow vt else vt.readyAt }).saveContext id

/-- SWAP_OUT: the residency engine writes the context record of a VT that it chooses and frees what it held. -/
def execSwapOut (vt : Nat) (s : State) : Host.Outcome State Fault Refusal :=
  .next (match s.vt? vt with
    | none => s
    | some v =>
      if s.mayLeave vt v && (s.victimForAged (clusterOfCore v.core) == some vt || s.victimForRoom v.core == some vt
          || s.victimForClaim v.core == some vt) then s.swapOut vt
      else s)

/-- MOVE: a READY VT goes to another core of its cluster that can hold it without evicting anything (R269), where no earlier
request for a swap-in waits. An admitted one stays on its core (R46, R267). -/
def execMove (vt core : Nat) (s : State) : Host.Outcome State Fault Refusal :=
  .next (match s.vt? vt with
    | none => s
    | some v =>
      if v.st = .ready ∧ v.admitted = false ∧ s.mayLeave vt v ∧ core ≠ v.core ∧ clusterOfCore core = clusterOfCore v.core
          ∧ s.canHold core v ∧ s.nextSwapIn core = none then
        (s.swapOut vt).swapIn vt core
      else s)

/-! ### LPR (R43, R45) -/

/-- The slot of each quad in a value of LPR. -/
def lprSlot (v : Word32) (q : Nat) : Nat := v.toNat / 2 ^ (2 * q) % 4

/-- The quads that a slot owns. -/
def lprQuads (v : Word32) (slot : Nat) : List Nat := (List.range 4).filter fun q => lprSlot v q == slot

/-- The quads of each slot form a single quad, Q0 and Q1, Q2 and Q3, or all four. -/
def lprLegal (v : Word32) : Bool :=
  (List.range 4).all fun k => lprQuads v k ∈ [[], [0], [1], [2], [3], [0, 1], [2, 3], [0, 1, 2, 3]]

/-- LPR_WRITE: an illegal partition is ignored; the VTs of changed slots are bound again at their next pre-emption point. -/
def execLprWrite (core : Nat) (value : Word32) (s : State) : Host.Outcome State Fault Refusal :=
  .next (if lprLegal value then
      let k := s.core core
      let new : Word32 := BitVec.ofNat 32 (value.toNat % 256)
      let s' := s.setCore core { k with lpr := new }
      { s' with vts := s'.vts.mapVals fun _ v =>
          if v.core = core ∧ v.span ≠ 0 ∧ lprQuads k.lpr v.slot ≠ lprQuads new v.slot then { v with rebind := true } else v }
    else s)

/-! ### Gang pre-emption and restore (R266, R270, R271) -/

/-- A copy command that has not completed names the gang's CSP window (R248, R270). -/
def State.cspBusy (s : State) (key : Nat) : Bool := s.commands.any fun c => c.gang == key && c.names 1

/-- An AGED gang for which SCHED pre-empts gangs: AGED for 2^20 core cycles without fitting (R266). -/
def State.pressing (s : State) (g : Nat) : Option Gang :=
  (s.cluster g).queue.findSome? fun k => match s.gangs.get? k with
    | some x => if x.st = .aged ∧ x.agedAt + 1048576 ≤ s.coreCycle (48 * g) ∧ (s.fit g x).isNone then some x else none
    | none => none

/-- A placed gang that may be pre-empted for gang `a` of its cluster. -/
def State.preemptible (s : State) (a : Gang) (x : Gang) : Bool :=
  x.st == .placed && x.cluster == a.cluster && x.prio ≤ a.prio && !((s.liveMembers x).any fun e => e.2.admitted)

/-- The most recently placed of the gangs that may be pre-empted. -/
def State.nextPreempted (s : State) (a : Gang) : Option Nat :=
  (s.gangs.foldl (fun (b : Option (Nat × Nat)) e =>
    if s.preemptible a e.2 then
      match b with
      | some c => if c.2 < e.2.placedAt then some (e.1, e.2.placedAt) else b
      | none => some (e.1, e.2.placedAt)
    else b) none).map Prod.fst

/-- A member of a pre-empted gang leaves its core; one that was never swapped in keeps no core (R270). -/
def State.storeMember (s : State) (id : Nat) : State :=
  match s.vt? id with
  | none => s
  | some vt => if vt.resident then s.swapOut id else ((s.holdFreed vt).leaveFifo id).setVt id vt.evict

/-- GANG_PREEMPTION: every member at its point, the copy commands of its windows done, the gang is stored, with a record of
each member and its own (R266, R270). -/
def execGangPreemption (gang : Nat) (s : State) : Host.Outcome State Fault Refusal :=
  .next (match s.gangs.get? gang with
    | none => s
    | some x =>
      match s.pressing x.cluster with
      | none => s
      | some a =>
        let ready := (s.liveMembers x).all fun e => !e.2.resident || s.mayLeave e.1 e.2
        if s.nextPreempted a ≠ some gang ∨ !ready ∨ s.cspBusy gang ∨ s.schedPaused a.domain then s
        else
          let t := ((x.members.foldl State.storeMember s).saveGang gang).holdCsp x
          let all := (s.liveMembers x).all fun e => !e.2.resident || (t.vt? e.1).any fun v => v.ctx.isSome
          match t.gangs.get? gang with
          | none => s
          | some y =>
            if all && y.ctx.isSome then
              { t with gangs := t.gangs.set gang { y with st := .stored, savedAt := t.nextOrder + 1 }, nextOrder := t.nextOrder + 1 }
            else s)

/-- The members of a gang whose record is another domain's are frozen, each for the restore (R322, log 52). -/
def State.freezeMembers (s : State) (x : Gang) : State :=
  (s.liveMembers x).foldl (fun s e => if e.2.st = .frozen then s else s.freezeVt e.1 e.2 (restoreViolation e.2)) s

/-- A restored gang stands behind every gang of the queue that `before` accepts. -/
def insertBehind (before : Nat → Bool) (key : Nat) : List Nat → List Nat
  | [] => [key]
  | k :: ks => if (k :: ks).any before then k :: insertBehind before key ks else key :: k :: ks

/-- GANG_RESTORE: SCHED hands a STORED gang to a permitted cluster; it stands behind every AGED gang and every restored one
saved before it, ahead of the gangs never placed (R266, R271). Its overtake count starts again (log 67). -/
def execGangRestore (gang : Nat) (s : State) : Host.Outcome State Fault Refusal :=
  .next (match s.gangs.get? gang with
    | none => s
    | some x =>
      if x.st ≠ .stored ∨ s.schedPaused x.domain = true ∨ s.ctxReady x.ctx = false then s
      else if s.ctxOwn x.ctx 4 x.domain = false then s.freezeMembers x
      else if s.ctxWhole x.ctx 5 = false then s
      else
        match s.pickCluster x.clusters with
        | none => s
        | some c =>
          let before (k : Nat) : Bool := (s.gangs.get? k).any fun y =>
            y.st == .aged || (y.placedAt != 0 && y.savedAt < x.savedAt)
          let s := { s with gangs := s.gangs.set gang { (s.restoredGang x) with st := .waiting, overtakes := 0, cluster := c } }
          s.setCluster c { s.cluster c with queue := insertBehind before gang (s.cluster c).queue })

end Sys2Proof.Machine
end

