-- ==== Sys2Proof/Machine/Stops.lean ====
section
/-! DEFINITION. The end of a fault stop (R311) and the freeze of a master on a domain violation (R322). -/

namespace Sys2Proof.Machine

open Sys2Proof

/-- FAULT_STOP: a READY VT that has detected a fault, at its boundary, records it and is FAULTED (R311, R313, R315). A
PARKED one holds the fault until it wakes; a violation in the stop freezes it instead (R322, log 52). -/
def execFaultStop (vt : Nat) (s : State) : Host.Outcome State Fault Refusal :=
  .next (match (s.leavePoint vt).vt? vt with
    | none => s
    | some v =>
      if v.st = .ready ∧ v.resident = true ∧ v.stopping = true ∧ v.killed = false ∧ v.violation = none ∧ v.atPoint
          ∧ s.tcmBusy vt = false ∧ s.canStore vt v = true then
        match chooseFault v v.detected with
        | none => s
        | some f => ((s.leavePoint vt).takeFault vt f).saveContext vt
      else s)

/-- FREEZE of a VT at its boundary. -/
def State.freezeVtAt (s : State) (id : Nat) (addr : Word64) : State :=
  match (s.leavePoint id).vt? id with
  | none => s
  | some v =>
    match v.violation with
    | none => s
    | some f =>
      if f.daddr = addr ∧ v.killed = false ∧ v.atPoint ∧ s.tcmBusy id = false ∧ s.canStore id v = true then
        (s.leavePoint id).freezeVt id v f
      else s

/-- FREEZE of the channel of a command that met a reserved region: no record is pushed. A command of `enqy` has no channel;
it is reported as channel 0 (R298, R322). The records reserved on the channel stay reserved. -/
def State.freezeChannel (s : State) (vt eng chan : Nat) (addr : Word64) : State :=
  let hit (c : Command) : Bool := c.vt == vt && c.eng.val == eng && c.phase == .frozen addr && (match c.dest with
    | .channel k => k.val == eng * 4 + chan
    | .enqy => chan == 0)
  match s.commands.find? hit with
  | none => s
  | some c =>
    let s := { s with commands := s.commands.filter fun (x : Command) => x.id != c.id }
    let s := match c.dest with
      | .channel k => s.modVt vt fun v =>
          { v with channels := v.channels.set k { v.channels[k] with frozen := true } }
      | .enqy => s
    s.postFreeze c.domain 2 vt (eng + 4 * chan) addr

/-- FREEZE: the master of a domain violation at `addr` is frozen, and one record goes to its domain's event ring (R322). -/
def execFreeze (m : Master) (addr : Word64) (s : State) : Host.Outcome State Fault Refusal :=
  .next (match m with
    | .vt id => s.freezeVtAt id addr
    | .channel vt eng chan => s.freezeChannel vt eng chan addr
    | .conn key =>
      match s.conn? key with
      | none => s
      | some c => if c.violated = some addr then s.freezeConn key c addr else s)

end Sys2Proof.Machine
end

