-- ==== Sys2Proof/Machine/Tidewatch.lean ====
section
/-! DEFINITION. Tidewatch: who witnesses whom (R294, R295), the flits (R296, R352), the vote registers (R297), the judging
of flits (R350, R351, R353, R356, R357). What a cordon does to the device is in Cordon. -/

namespace Sys2Proof.Machine

open Sys2Proof

/-! ### Neighbours and witnesses (R10, R11, R14, R295) -/

/-- The tiles of a die at coordinates that may fall off it. -/
def tilesAt (die : Nat) (cs : List (Int × Int)) : List TileId :=
  cs.filterMap fun p =>
    if 0 ≤ p.1 ∧ p.1 < (dieCols die : Int) ∧ 0 ≤ p.2 ∧ p.2 < (dieRows die : Int) then some (tileAt die p.1.toNat p.2.toNat) else none

/-- The tiles one hop away on the mesh. -/
def meshNeighbours (t : TileId) : List TileId :=
  let c : Int := tileCol t
  let r : Int := tileRow t
  tilesAt (tileDie t) [(c - 1, r), (c, r - 1), (c + 1, r), (c, r + 1)]

/-- The dies next to a die on the ring. -/
def ringDies (die : Nat) : List Nat :=
  let k := ringStop die
  [ringOrder.getD ((k + 9) % 10) 0, ringOrder.getD ((k + 1) % 10) 0]

/-- The ring bridge of a die. -/
def ringBridge (die : Nat) : TileId := roleTile die .ringBridge

def isBridge (t : TileId) : Bool := tileRole t == some .ringBridge

/-- The tile two hops along an edge, towards the higher number, or the lower when the higher falls off the die. -/
def twoAlong (die : Nat) (hi lo : Int × Int) : List TileId :=
  match tilesAt die [hi] with
  | [] => tilesAt die [lo]
  | l => l

/-- The witnesses of a tile (R295). The middle tile of an edge of three has no tile two hops along it, and three witnesses
(log 30). -/
def witnesses (t : TileId) : List TileId :=
  let d := tileDie t
  let c : Int := tileCol t
  let r : Int := tileRow t
  let side : Bool := c == 0 || c + 1 == (dieCols d : Int)
  let atEdge : Bool := r == 0 || r + 1 == (dieRows d : Int)
  if isBridge t then
    (if d < 8 then tilesAt d [(c - 1, r), (c + 1, r)] else tilesAt d [(c + 1, r), (c, r + 1)]) ++ (ringDies d).map ringBridge
  else
    meshNeighbours t ++ (if atEdge then twoAlong d (c + 2, r) (c - 2, r) else [])
      ++ (if side then twoAlong d (c, r + 2) (c, r - 2) else [])

/-- The tiles of a die in table order, row by row (R295). -/
def tableOrder (die : Nat) : List TileId :=
  (List.range (dieRows die)).flatMap fun r => (List.range (dieCols die)).map fun c => tileAt die c r

/-- The tiles that a tile witnesses, in table order; a bridge's ring neighbours last (R297, log 30). -/
def subjects (w : TileId) : List TileId :=
  ((tableOrder (tileDie w)).filter fun t => (witnesses t).contains w)
    ++ if isBridge w then (ringDies (tileDie w)).map ringBridge else []

/-- The routers that close a port to a tile: its mesh neighbours, and for a bridge its ring neighbours (R354). -/
def neighbours (t : TileId) : List TileId :=
  meshNeighbours t ++ if isBridge t then (ringDies (tileDie t)).map ringBridge else []

/-- TKIND of a tile (R367); the kinds without a CORDON record follow. -/
def tileKind (t : TileId) : Nat :=
  match tileRole t with
  | some (.cluster _) => 0
  | some (.slice _) => 1
  | some (.hbm _) => 2
  | some .steward => 3
  | some .ringBridge => 4
  | some (.sram _) => 5
  | some (.peerPort _) => 6
  | some (.cxl _) => 7
  | some .firmware => 8
  | some .security => 9
  | some .hostPort => 10
  | none => 11

/-! ### Flits (R296, R352) -/

/-- One bit of the CRC-16 of R296. -/
def crcBit (crc : Nat) (bit : Bool) : Nat :=
  let top : Bool := crc / 2 ^ 15 % 2 == 1
  let sh := crc * 2 % 2 ^ 16
  if top != bit then sh ^^^ 0x1021 else sh

/-- CHECK of bits [63:16] (R296). -/
def flitCheck (f : Word64) : Nat := (List.range 48).foldl (fun c k => crcBit c (f.getLsbD (63 - k))) 0xFFFF

/-- A flit of its bits [63:16]. -/
def flitOf (top : Nat) : Word64 :=
  let f : Word64 := BitVec.ofNat 64 (top * 2 ^ 16)
  BitVec.ofNat 64 (top % 2 ^ 48 * 2 ^ 16 + flitCheck f)

/-- A heartbeat. -/
def heartbeatFlit (seq st health : Nat) (t : TileId) : Word64 := flitOf (seq * 2 ^ 32 + st * 2 ^ 28 + health * 2 ^ 16 + t)

/-- A vote. -/
def voteFlit (subject : TileId) (msg arg : Nat) (sender : TileId) : Word64 :=
  flitOf (subject * 2 ^ 32 + msg * 2 ^ 24 + arg * 2 ^ 16 + sender)

def flitSeq (f : Word64) : Nat := bits64 f 48 16
def flitSubject (f : Word64) : TileId := bits64 f 48 16
def flitState (f : Word64) : Nat := bits64 f 44 4
def flitMsg (f : Word64) : Nat := bits64 f 40 4
def flitHealth (f : Word64) : Nat := bits64 f 32 8
def flitArg (f : Word64) : Nat := bits64 f 32 8
def flitTile (f : Word64) : TileId := bits64 f 16 16
def flitValid (f : Word64) : Bool := bits64 f 0 16 == flitCheck f

/-- Vote messages (R352). -/
def msgAccuse : Nat := 1
def msgWithdraw : Nat := 2
def msgCordoned : Nat := 3
def msgAppeal : Nat := 4
def msgConsent : Nat := 5
def msgRefuse : Nat := 6
def msgReadmit : Nat := 7
def msgRetire : Nat := 8

/-- STATE codes (R296). -/
def stLive : Nat := 0
def stDoubted : Nat := 1
def stCordoned : Nat := 2
def stSelftest : Nat := 3
def stAppealing : Nat := 4
def stProbation : Nat := 5
def stRetired : Nat := 6

/-- A flit leaves a tile on the sideband for each receiver; a RETIRED tile sends nothing (R356). -/
def State.sendFlit (s : State) (sender : TileId) (dest : List TileId) (f : Word64) : State :=
  if (s.tile sender).st = stRetired then s else { s with sideband := s.sideband ++ dest.map fun t => (t, f) }

/-- A flit that arrives leaves the sideband. One that no router sent may arrive as well, from a tile that babbles. -/
def State.takeFlit (s : State) (dest : TileId) (f : Word64) : State := { s with sideband := s.sideband.erase (dest, f) }

/-! ### Views and states (R296, R297, R353) -/

def viewKey (w t : TileId) : Nat := w * 65536 + t
def State.view (s : State) (w t : TileId) : View := s.views.getD (viewKey w t) {}
def State.setView (s : State) (w t : TileId) (v : View) : State := { s with views := s.views.set (viewKey w t) v }
def State.modView (s : State) (w t : TileId) (f : View → View) : State := s.setView w t (f (s.view w t))
def State.modTile (s : State) (t : TileId) (f : Tile → Tile) : State := s.setTile t (f (s.tile t))

/-- The soft errors that a tile has corrected in the last 2^32 cycles of its clock (R345). -/
def State.correctedErrors (s : State) (t : TileId) : Nat :=
  (((s.tile t).corrected.filter fun e => s.tileCycle t < e.1 + 2 ^ 32).map Prod.snd).sum

/-- A tile has corrected `n` more soft errors. -/
def State.noteCorrected (s : State) (t : TileId) (n : Nat) : State :=
  s.modTile t fun x => { x with
    corrected := (x.corrected.filter fun e => s.tileCycle t < e.1 + 2 ^ 32) ++ [(s.tileCycle t, n)] }

/-- The BIST of a tile at device reset ends (R296). -/
def State.endBist (s : State) (t : TileId) (pass : Bool) : State :=
  s.modTile t fun x => if x.bist.isNone then { x with bist := some pass } else x

/-- HEALTH of a tile: BIST passed; corrected errors above 4,096; over temperature (R296, R345). -/
def State.health (s : State) (t : TileId) : Nat :=
  (if (s.tile t).bist = some true then 1 else 0) + (if 4096 < s.correctedErrors t then 2 else 0)
    + if s.fw.overtemp then 4 else 0

/-- TWSELF (R297). -/
def State.twself (s : State) (t : TileId) : Nat :=
  let x := s.tile t
  x.seq * 2 ^ 48 + x.st * 2 ^ 44 + x.appeals * 2 ^ 42 + s.health t * 2 ^ 32

/-- The heartbeat period of a subject in its witness's cycles (R296, R350). -/
def period (w t : TileId) : Nat :=
  if (tileDie w < 8) = (tileDie t < 8) then 2048 else if tileDie w < 8 then 2390 else 1756

/-- ⌈9P/8⌉ (R350). -/
def missBound (w t : TileId) : Nat := (9 * period w t + 7) / 8

/-- A tile is in service as a witness (R353); one that the device treats as cordoned is not (R358). -/
def State.witnessServes (s : State) (w : TileId) : Bool :=
  let x := s.tile w
  !x.cordoned && (x.st == stLive || x.st == stDoubted || x.st == stProbation)

/-- The accusations that a router counts against a tile: its own, and those of other witnesses in service, no older than 3P
(R353). -/
def State.accused (s : State) (w t : TileId) : Nat :=
  let v := s.view w t
  let now := s.tileCycle w
  (if v.verdict = 2 then 1 else 0)
    + (v.held.filter fun a => now ≤ a.2.1 + 3 * period w t && s.witnessServes a.1).length

/-- The quorum for a tile (R353). -/
def State.quorum (s : State) (t : TileId) : Nat :=
  let n := ((witnesses t).filter s.witnessServes).length
  let q := if (s.tile t).st = stProbation then 2 else 3
  if n < q then max n 1 else q

/-- TWVIEWk (R297). -/
def State.twview (s : State) (w : TileId) (k : Nat) : Nat :=
  match (subjects w)[k]? with
  | none => 0
  | some t =>
    let v := s.view w t
    v.lastSeq * 2 ^ 48 + t * 2 ^ 32 + v.verdict * 2 ^ 30 + v.missed * 2 ^ 28 + min 4 (s.accused w t) * 2 ^ 16 + v.clean

/-! ### Accusing (R351, R353) -/

/-- The count reached the quorum at a router: it knows it from now on, with the cause of the accusation that completed it
(R354, R367). -/
def State.noteQuorum (s : State) (w t : TileId) (cause : Nat) : State :=
  if s.quorum t ≤ s.accused w t ∧ (s.view w t).quorumKnown = false then
    s.modView w t fun v => { v with quorumKnown := true, quorumCause := cause }
  else s

/-- The cause that a router has of the last accusation it counts against a tile. -/
def State.lastCause (s : State) (w t : TileId) : Nat :=
  let v := s.view w t
  match (v.held.filter fun a => s.tileCycle w ≤ a.2.1 + 3 * period w t && s.witnessServes a.1).getLast? with
  | some a => a.2.2
  | none => v.cause

/-- A witness has left service: the quorum of each of its subjects may be lower, and reached by the accusations that a
router counts already (R353, R354, R368, log 61). -/
def State.retestQuorums (s : State) (w : TileId) : State :=
  (subjects w).foldl (fun s t => (witnesses t).foldl (fun s r =>
    if s.accused r t = 0 then s else s.noteQuorum r t (s.lastCause r t)) s) s

/-- Those who hear of a witness's vote: the subject's other witnesses and the subject (R351). -/
def voters (w t : TileId) : List TileId := ((witnesses t).filter fun x => x != w) ++ [t]

/-- The witness sends its ACCUSE. -/
def State.sendAccuse (s : State) (w t : TileId) : State :=
  (s.modView w t fun v => { v with lastAccuse := s.tileCycle w }).sendFlit w (voters w t)
    (voteFlit t msgAccuse (s.view w t).cause w)

/-- Verdict ACCUSE, with its cause (R351). -/
def State.enterAccuse (s : State) (w t : TileId) (cause : Nat) : State :=
  ((s.modView w t fun v => { v with verdict := 2, cause }).sendAccuse w t).noteQuorum w t cause

/-- A witness refuses an appeal: no miss, babble or other HEALTH is let pass. One out of service does not answer, and
counts afresh (R357). -/
def State.refuseAppeal (s : State) (w t : TileId) : State :=
  if (s.view w t).fresh.isNone then s
  else if s.witnessServes w then
    (s.modView w t fun v => { v with fresh := none }).sendFlit w (neighbours t) (voteFlit t msgRefuse 0 w)
  else s.modView w t fun v => { v with fresh := some 0 }

/-- A babble event (R350, R351). -/
def State.babble (s : State) (w t : TileId) (cause : Nat) : State :=
  let s := s.refuseAppeal w t
  match (s.view w t).verdict with
  | 0 => s.modView w t fun v => { v with verdict := 1 }
  | 1 => s.enterAccuse w t cause
  | _ => s

/-! ### Consent (R357) -/

/-- The appellant is readmitted: its ports open, READMIT goes out, every view of it is clear. -/
def State.readmitFlits (s : State) (n t : TileId) : State :=
  let s := s.sendFlit n (t :: (neighbours t).filter fun x => x != n) (voteFlit t msgReadmit 0 n)
  (s.modView n t fun v => { v with portClosed := false })

/-- Every witness's view of a readmitted tile. -/
def State.clearViews (s : State) (t : TileId) : State :=
  ((witnesses t) ++ neighbours t).eraseDups.foldl (fun s w => s.modView w t fun v =>
    { v with verdict := 0, missed := 0, held := [], consents := [], fresh := none, quorumKnown := false, quorumCause := 0 }) s

/-- A neighbour of the appellant holds CONSENT from all its witnesses. -/
def State.allConsent (s : State) (n t : TileId) : Bool := (witnesses t).all fun w => (s.view n t).consents.contains w

/-- A CONSENT is held by a neighbour. -/
def State.holdConsent (s : State) (n t w : TileId) : State :=
  s.modView n t fun v => { v with consents := if v.consents.contains w then v.consents else v.consents ++ [w] }

/-! ### Judging (R350, R356, R357) -/

/-- A clean heartbeat in a fresh count: STATE 4 and HEALTH 1 count, another HEALTH is refused, another STATE starts again. -/
def State.countFresh (s : State) (w t : TileId) (f : Word64) : State :=
  match (s.view w t).fresh with
  | none => s
  | some n =>
    if flitHealth f % 8 ≠ 1 then s.refuseAppeal w t
    else if flitState f ≠ stAppealing then s.modView w t fun v => { v with fresh := some 0 }
    else if n + 1 < 1024 ∨ s.witnessServes w = false then s.modView w t fun v => { v with fresh := some (n + 1) }
    else
      let s := (s.modView w t fun v => { v with fresh := none }).sendFlit w ((neighbours t).filter fun x => x != w)
        (voteFlit t msgConsent 0 w)
      if (neighbours t).contains w then s.holdConsent w t w else s

/-- A probation ends when every witness has counted 65,535 clean heartbeats (R356). -/
def State.endProbation (s : State) (t : TileId) : State :=
  if (s.tile t).st = stProbation ∧ (witnesses t).all (fun w => (s.view w t).clean == 0xFFFF) then
    s.modTile t fun x => { x with st := stLive }
  else s

/-- A clean heartbeat's effect on the verdict: CLEAN reaches 16 or 64. While the subject is cordoned ACCUSE is held (R351,
log 31). -/
def State.cleanVerdict (s : State) (w t : TileId) : State :=
  let v := s.view w t
  if v.verdict = 1 ∧ v.clean = 16 then s.modView w t fun v => { v with verdict := 0 }
  else if v.verdict = 2 ∧ v.clean = 64 ∧ (s.tile t).cordoned = false then
    (s.modView w t fun v => { v with verdict := 0 }).sendFlit w (voters w t) (voteFlit t msgWithdraw 0 w)
  else s

/-- A heartbeat by its SEQ: repeat or regression, clean, or gap (R350). -/
def State.judgeSeq (s : State) (w t : TileId) (f : Word64) : State :=
  let v := s.view w t
  let d := (flitSeq f + 65536 - v.lastSeq) % 65536
  let now := s.tileCycle w
  if d = 0 ∨ 0x8000 ≤ d then s.babble w t 2
  else if d = 1 then
    let s := s.modView w t fun v =>
      { v with lastSeq := flitSeq f, missed := 0, clean := min 0xFFFF (v.clean + 1), lastJudged := now }
    ((s.cleanVerdict w t).countFresh w t f).endProbation t
  else
    let s := s.modView w t fun v =>
      { v with lastSeq := flitSeq f, missed := 0, clean := 0, lastJudged := now, fresh := v.fresh.map fun _ => 0 }
    if flitHealth f % 8 ≠ 1 then s.refuseAppeal w t else s

/-- A malformed flit: CHECK wrong, TILEID not the subject, or a reserved bit; a vote is judged by CHECK and TILEID alone
(R350). -/
def flitMalformed (t : TileId) (f : Word64) : Bool :=
  !(flitValid f) || flitTile f != t || 8 < flitMsg f || (flitMsg f == 0 && (6 < flitState f || 8 ≤ flitHealth f))

/-- A closed port passes a cordoned subject's heartbeats, APPEAL and RETIRE, at most two in P; `none` where it drops the flit
(R354). -/
def State.passPort (s : State) (r t : TileId) (f : Word64) : Option State :=
  if (s.tile t).cordoned then
    let now := s.tileCycle r
    let recent := (s.view r t).passed.filter fun a => now < a + period r t
    if (flitMsg f == 0 || flitMsg f == msgAppeal || flitMsg f == msgRetire) && recent.length < 2 then
      some (s.modView r t fun v => { v with passed := recent ++ [now] })
    else none
  else some s

/-- HEARTBEAT_SEND: 2,048 cycles of the tile's clock after the last flit, or the first after its BIST has passed (R296). -/
def execHeartbeatSend (tile : TileId) (s : State) : Host.Outcome State Fault Refusal :=
  .next (
    let x := s.tile tile
    let now := s.tileCycle tile
    if (tileRole tile).isNone ∨ x.bist ≠ some true ∨ x.st = stRetired ∨ (x.sentAny = true ∧ now < x.lastSend + 2048) then s
    else
      let seq := (x.seq + 1) % 65536
      let s := s.setTile tile { x with seq, sentAny := true, lastSend := now }
      s.sendFlit tile (witnesses tile) (heartbeatFlit seq x.st (s.health tile) tile))

/-- A witness judges a flit of a subject that reaches it: by its rate, its form and its SEQ (R350). -/
def State.judgeFlit (s : State) (w t : TileId) (f : Word64) : State :=
  let now := s.tileCycle w
  let recent := (s.view w t).arrivals.filter fun a => now < a + period w t
  let s := s.modView w t fun v => { v with arrivals := recent ++ [now] }
  let s := if 2 ≤ recent.length then s.babble w t 4 else s
  if flitMalformed t f then s.babble w t 3 else s.judgeSeq w t f

/-- A flit of a subject arrives at a witness. A vote is judged by CHECK and TILEID alone (R350): one that passes is the
matter of its own event. -/
def State.heartbeat (s : State) (w t : TileId) (f : Word64) : State :=
  if !(witnesses t).contains w ∨ (flitMsg f ≠ 0 ∧ flitMalformed t f = false) then s
  else
    let s := s.takeFlit w f
    match s.passPort w t f with
    | some s => s.judgeFlit w t f
    | none => s

/-- HEARTBEAT_MISS: ⌈9P/8⌉ cycles without a clean or gap flit (R350, R351). -/
def execHeartbeatMiss (witness subject : TileId) (s : State) : Host.Outcome State Fault Refusal :=
  .next (
    let v := s.view witness subject
    let now := s.tileCycle witness
    if !(witnesses subject).contains witness ∨ now < v.lastJudged + missBound witness subject then s
    else
      let missed := min 3 (v.missed + 1)
      let s := s.setView witness subject { v with missed, clean := 0, lastJudged := now }
      let s := s.refuseAppeal witness subject
      if v.verdict = 0 then s.modView witness subject fun v => { v with verdict := 1 }
      else if v.verdict = 1 ∧ missed = 3 then s.enterAccuse witness subject 1
      else s)

/-! ### Votes (R352, R353, R356) -/

/-- A vote that a router takes: its CHECK is right, its MSG is this one. -/
def isVote (f : Word64) (msg : Nat) : Bool := flitValid f && flitMsg f == msg

/-- ACCUSE: the subject is DOUBTED; another witness of it counts the accusation (R353, R356). -/
def execAccuse (receiver : TileId) (flit : Word64) (s : State) : Host.Outcome State Fault Refusal :=
  .next (
    let t := flitSubject flit
    let w := flitTile flit
    let s := s.takeFlit receiver flit
    let now := s.tileCycle receiver
    if !(isVote flit msgAccuse) ∨ !((witnesses t).contains w) ∨ (s.tile w).cordoned = true then s
    else if receiver = t then
      s.modTile t fun x => { x with st := if x.st = stLive then stDoubted else x.st
                                    accusers := (x.accusers.filter fun a => a.1 != w) ++ [(w, now)] }
    else if (witnesses t).contains receiver ∧ receiver ≠ w ∧ s.witnessServes w = true then
      (s.modView receiver t fun v => { v with held := (v.held.filter fun a => a.1 != w) ++ [(w, now, flitArg flit)] }).noteQuorum
        receiver t (flitArg flit)
    else s)

/-- ACCUSE_REPEAT: once per period while the verdict is ACCUSE (R351). -/
def execAccuseRepeat (witness subject : TileId) (s : State) : Host.Outcome State Fault Refusal :=
  .next (
    let v := s.view witness subject
    if (witnesses subject).contains witness ∧ v.verdict = 2 ∧ v.lastAccuse + period witness subject ≤ s.tileCycle witness then
      s.sendAccuse witness subject
    else s)

/-- A subject against which no accusation is left is LIVE again (R356). -/
def State.settleDoubt (s : State) (t : TileId) : State :=
  s.modTile t fun x => if x.accusers = [] ∧ x.st = stDoubted then { x with st := stLive } else x

/-- An accuser's accusation leaves a router's count, or the subject's own list (R353, R356). -/
def State.dropAccusation (s : State) (receiver t w : TileId) : State :=
  if receiver = t then
    (s.modTile t fun x => { x with accusers := x.accusers.filter fun a => a.1 != w }).settleDoubt t
  else s.modView receiver t fun v => { v with held := v.held.filter fun a => a.1 != w }

/-- WITHDRAW (R353). -/
def execWithdraw (receiver : TileId) (flit : Word64) (s : State) : Host.Outcome State Fault Refusal :=
  .next (
    let s := s.takeFlit receiver flit
    if isVote flit msgWithdraw && !(s.tile (flitTile flit)).cordoned then s.dropAccusation receiver (flitSubject flit) (flitTile flit) else s)

/-- ACCUSATION_EXPIRY: 3P cycles unrefreshed (R353). For the subject's own list the witness is the subject. -/
def execAccusationExpiry (witness subject sender : TileId) (s : State) : Host.Outcome State Fault Refusal :=
  .next (
    let now := s.tileCycle witness
    let bound := 3 * period witness subject
    let due : Bool :=
      if witness = subject then (s.tile subject).accusers.any fun a => a.1 == sender && a.2 + bound < now
      else (s.view witness subject).held.any fun a => a.1 == sender && a.2.1 + bound < now
    if due then s.dropAccusation witness subject sender else s)

/-- INJECTION_ALLOWANCE: a request flit that the subject injects into the link it shares with a mesh-neighbour witness; more
than the allowance of its kind in P cycles is a babble event (R350). A kind without an allowance set has none (log 32). -/
def execInjectionAllowance (witness subject : TileId) (s : State) : Host.Outcome State Fault Refusal :=
  .next (if !((witnesses subject).contains witness) ∨ !((meshNeighbours subject).contains witness) then s
  else
    let now := s.tileCycle witness
    let recent := ((s.view witness subject).injections.filter fun a => now < a + period witness subject) ++ [now]
    let s := s.modView witness subject fun v => { v with injections := recent }
    match s.allowance.get? (tileKind subject) with
    | some n => if n < recent.length then s.babble witness subject 4 else s
    | none => s)

end Sys2Proof.Machine
end

