-- ==== Sys2Proof/Machine/Cordon.lean ====
section
/-! DEFINITION. What a cordon does to the device: closure of ports (R354), the consequences by tile kind (R358 to R366), the
life of a cordoned tile (R356, R357), the loss of a CXL link (R347). -/

namespace Sys2Proof.Machine

open Sys2Proof

/-! ### Lines and pages that are lost (R343, R360, R363) -/

/-- The L2 lines of which `p` holds leave without write-back; of the dirty ones among them, those whose storage stays in
reach read as zeros (R343). -/
def State.loseLines (s : State) (p : L2Line → Bool) : State :=
  (s.l2.filter p).foldl (fun s l =>
    if l.dirty then
      let s := s.l2Drop l.line
      if s.storageReachable (l.line * 64) then s.zeroBytes (l.line * 64) 64 else s
    else s.l2Revert l.line) s

/-- The pages of the dirty lines of which `p` holds: the dirty-page summary (R363). -/
def State.dirtyPages (s : State) (p : L2Line → Bool) : List Nat :=
  ((s.l2.filter fun l => p l && l.dirty).map fun l => l.line / 64).eraseDups

/-- The domain of each page that `after` marks LOST and `before` did not (R367). -/
def newlyLost (before after : SMap Word64) : List Nat :=
  (after.filter fun e => keyLevel e.1 == 4 && entryV e.2 && entryLost e.2 && !(entryLost (before.getD e.1 0))).map
    fun e => keyDomain e.1

/-- What a change to the tables has marked LOST counts for the record of a tile's cordon (R367). -/
def State.tallyPages (s : State) (t : TileId) (before : SMap Word64) : State :=
  s.modTile t fun x => { x with tally := { x.tally with pages := x.tally.pages ++ newlyLost before s.tables } }

/-- A CXL link is lost: its lines leave without write-back and its whole range is marked LOST (R347). -/
def State.loseLink (s : State) (k : Fin 4) : State :=
  let on (loc : Nat) : Bool := isCxl loc && cxlOf loc == k
  let s := s.flushAll
  let s := { s with links := s.links.set k { s.links[k] with st := .lost } }
  (s.loseLines fun l => on (l.line * 64)).markLostPages fun p => on (p * 4096)

/-! ### Closure (R354, R358, R360) -/

/-- SCHED hands on a gang whose cluster left service, unless it has been removed since; a restore under way is void, and its
gang stays STORED; one that no permitted cluster takes is lost (R265, R273, R362). -/
def State.handOnGang (s : State) (key : Nat) : State :=
  match s.gangs.get? key with
  | none => s
  | some x =>
    if x.st = .ended then s
    else if x.placedAt ≠ 0 then { s with gangs := s.gangs.set key { x with st := .stored } }
    else
      match s.pickCluster x.clusters with
      | some c => s.enqueueGang key x c
      | none =>
        let s := { s with
          gangs := s.gangs.set key { x with st := .ended }
          launches := s.launches.map fun (l : Launch) =>
            if x.launch.isSome && l.no == x.launchNo then { l with lostGangs := l.lostGangs + 1 } else l }
        x.members.foldl State.endVt (s.noteCause x.launchNo 0x07)

/-- The placement queue of a cluster that leaves service is emptied: SCHED is to hand its gangs on (R265). -/
def State.emptyCluster (t : TileId) (s : State) (g : Nat) : State :=
  let q := (s.cluster g).queue
  ((s.modTile t fun x => { x with tally := { x.tally with handOn := x.tally.handOn ++ q } }).setCluster g
    { s.cluster g with queue := [] }).settleHold g

/-- SCHED hands on the gangs that wait for it, in queue order, each where the instance of its domain serves (R265, R379). -/
def State.handOnDue (s : State) (t : TileId) : State :=
  let paused (k : Nat) : Bool := (s.gangs.get? k).any fun x => s.schedPaused x.domain
  let l := (s.tile t).tally.handOn
  (l.filter fun k => !(paused k)).foldl State.handOnGang
    (s.modTile t fun x => { x with tally := { x.tally with handOn := l.filter paused } })

/-- A connection of a cordoned peer port freezes (R360). -/
def State.freezePort (s : State) (k : Nat) : State :=
  (s.conns.filter fun e => isPeer e.1 && e.2.port == k && !e.2.frozen).foldl
    (fun s e => s.freezeConn e.1 e.2 0xFFFFFFFFFFFFFFFF) s

/-- A slice closes: its dirty-page summary stands as it is, or is gone with the die's HBM tiles, and its lines are lost
(R363). -/
def State.closeSlice (s : State) (t : TileId) (d k : Nat) : State :=
  let mine (l : L2Line) : Bool := homeDie (l.line * 64) == d && (s.homeSlice (l.line * 64)).any fun h => h.1 == k
  (s.modTile t fun x => { x with
    pages := s.dirtyPages mine, blind := !(s.die d).hbm0 && !(s.die d).hbm1 }).loseLines mine

/-- The clusters that a tile's cordon takes: its own, or those of its die (R360, R365). -/
def takenClusters (t : TileId) : List Nat :=
  let d := tileDie t
  match tileRole t with
  | some (.cluster k) => [4 * d + k]
  | some .ringBridge => if d < 8 then (List.range 4).map fun k => 4 * d + k else []
  | _ => []

/-- The gangs that wait in clusters that leave service. -/
def State.emptyClusters (s : State) (t : TileId) : State := ((takenClusters t).foldl (State.emptyCluster t) s).handOnDue t

/-- The stores that cores of a cordoned cluster hold have not left it: they are dropped whole (R358, R368). -/
def State.dropHeld (s : State) (t : TileId) : State :=
  { s with cores := s.cores.mapVals fun n k =>
      if (takenClusters t).contains (clusterOfCore n) then { k with pend := [] } else k }

/-- What happens by hardware at the cordon of a tile (R360). -/
def State.closeTile (s : State) (t : TileId) : State :=
  let d := tileDie t
  match tileRole t with
  | some (.cluster _) => s.emptyClusters t
  | some (.slice k) => s.closeSlice t d k
  | some (.hbm h) =>
    let s := s.setDie d (if h = 0 then { s.die d with hbm0 := false } else { s.die d with hbm1 := false })
    s.loseLines fun l => isHbm (l.line * 64) && l.line * 64 / 2 ^ 35 == 2 * d + h
  | some .ringBridge =>
    let s := s.setDie d { s.die d with severed := true }
    if d < 8 then (s.loseLines fun l => homeDie (l.line * 64) == d).emptyClusters t else s
  | some (.sram _) => s.modTile t fun x => { x with out := true }
  | some (.peerPort k) => s.freezePort k
  | some (.cxl k) => (s.loseLink (Fin.ofNat 4 k)).tallyPages t s.tables
  | _ => s

/-- The first port closes: from now on the subject is cordoned, and no witness in service any more (R353, R354, R367). What
other cores hold is performed before (log 5). -/
def State.cordonTile (s : State) (t : TileId) (cause : Nat) : State :=
  if (s.tile t).cordoned then s
  else
    (((s.dropHeld t).flushAll.modTile t fun x => { x with
      cordoned := true, firstCause := cause, remapped := false, marked := false, handled := false
      tally := { again := x.tally.again, handOn := x.tally.handOn } }).closeTile t).retestQuorums t

/-- PORT_CLOSURE: a neighbour that knows the quorum closes its port and says so to the subject, its witnesses, its other
neighbours and FAB (R354). -/
def execPortClosure (neighbour subject : TileId) (s : State) : Host.Outcome State Fault Refusal :=
  .next (
    let v := s.view neighbour subject
    if !((neighbours subject).contains neighbour) ∨ v.portClosed = true ∨ v.quorumKnown = false
        ∨ (s.tile neighbour).cordoned = true then s
    else
      let s := (s.setView neighbour subject { v with portClosed := true }).cordonTile subject v.quorumCause
      let dest := (subject :: (witnesses subject ++ neighbours subject).eraseDups).filter fun t => t != neighbour
      s.sendFlit neighbour (dest ++ [fw1Tile]) (voteFlit subject msgCordoned 0 neighbour))

/-- CORDONED: the subject enters CORDONED; another neighbour is to close its port (R354, R356). -/
def execCordoned (receiver : TileId) (flit : Word64) (s : State) : Host.Outcome State Fault Refusal :=
  .next (
    let t := flitSubject flit
    let s := s.takeFlit receiver flit
    if !(isVote flit msgCordoned) ∨ !((neighbours t).contains (flitTile flit)) ∨ (s.tile (flitTile flit)).cordoned = true then s
    else if receiver = t then
      s.modTile t fun x =>
        if x.st = stLive ∨ x.st = stDoubted ∨ x.st = stProbation then { x with st := stCordoned, accusers := [] } else x
    else if (neighbours t).contains receiver then s.modView receiver t fun v => { v with quorumKnown := true }
    else s)

/-! ### The cordon of a cluster (R362) -/

/-- Every EMPTY future that a lost VT owns becomes CORDON and wakes its waiters; a FULL one will when it is emptied. -/
def State.cordonFutures (s : State) (id dom : Nat) : State × Nat :=
  (s.futures.filter fun e => e.2.owner == id && e.2.domain == dom).foldl (fun (r : State × Nat) e =>
    match e.2.st with
    | .empty =>
      let s := r.1.setFuture e.1 { e.2 with st := .cordon, waiters := [] }
      (e.2.waiters.foldl (fun s w => s.wakeFault w.1 .cordon 0) s, r.2 + 1)
    | .full => (r.1.setFuture e.1 { e.2 with lostOwner := true }, r.2)
    | _ => r) (s, 0)

/-- The launch of a lost gang places it again: RESTART, its queue ACTIVE or drained, a permitted cluster in service (R273,
R362). -/
def State.replaces (s : State) (x : Gang) : Option Launch :=
  match x.launch, s.launches.find? fun (l : Launch) => l.no == x.launchNo with
  | some n, some l =>
    let live := (s.queue? n.domain n.queue).any fun q => q.st == .active
    if l.restart && live && (s.pickCluster l.clusters).isSome then some l else none
  | _, _ => none

/-- One lost gang. -/
def State.loseGang (s : State) (x : Gang) (r : CordonTally) : State × CordonTally :=
  let live := (s.liveMembers x).map Prod.fst
  let again := s.replaces x
  let s := live.foldl State.endVt s
  let f := live.foldl (fun (r : State × Nat) id =>
    let q := r.1.cordonFutures id x.domain
    (q.1, r.2 + q.2)) (s, 0)
  let s := f.1
  let r := { r with ended := r.ended ++ live.map fun _ => x.domain, futures := r.futures ++ List.replicate f.2 x.domain }
  match again with
  | some l =>
    ({ s with launches := s.launches.map fun (y : Launch) =>
        if y.no = l.no then { y with endedGangs := y.endedGangs - 1 } else y },
     { r with gangs := r.gangs ++ [x.domain], again := r.again ++ [(l.no, x.index)] })
  | none => (s.noteCause x.launchNo 0x07, r)

/-- The gangs placed in a cluster are lost, and its engine's commands with it. -/
def State.loseCluster (s : State) (g : Nat) (r : CordonTally) : State × CordonTally :=
  let hit := s.gangs.filter fun e => e.2.st == .placed && e.2.cluster == g
  let out := hit.foldl (fun (a : State × CordonTally) e => a.1.loseGang e.2 a.2) (s, r)
  let s := out.1
  ({ s.setCluster g {} with
      commands := s.commands.filter fun (c : Command) => !(c.eng == 0 && c.unit == g)
      cores := s.cores.mapVals fun n k =>
        if clusterOfCore n = g then { k with l1 := [], icache := [], lanes := Vector.replicate 4 [], tlb := [] } else k },
   out.2)

/-- A lost gang is not placed again after all: its launch counts it as ended (R264). -/
def State.countLost (s : State) (no : Nat) : State :=
  { s with launches := s.launches.map fun (l : Launch) => if l.no = no then { l with endedGangs := l.endedGangs + 1 } else l }

/-- A gang that is handed on again: the same index, a new GANGID and new VTIDs, from the image as read (R362). A queue that has
been destroyed since places none (R273); with no permitted cluster in service the gang is lost (R265). -/
def State.replaceGang (s : State) (e : Nat × Nat) : State :=
  match s.launches.find? fun (l : Launch) => l.no == e.1 with
  | none => s
  | some l =>
    if !((s.queue? l.slot.domain l.slot.queue).any fun q => q.st == .active) then s.countLost l.no
    else if (s.pickCluster l.clusters).isNone then (s.countLost l.no).noteCause l.no 0x07
    else
      let before := s.gangs
      let s := s.newGang l e.2
      { s with gangs := s.gangs.mapVals fun k x =>
          if (before.get? k).any (fun y => y.st != .ended) then x
          else if x.launchNo = l.no ∧ x.index = e.2 ∧ x.st = .waiting then { x with restored := true } else x }

/-! ### The cordon of a steward (R364) -/

/-- The next compute die in ring order whose steward is in service. -/
def State.adopter (s : State) (d : Nat) : Option Nat :=
  ((List.range 7).map fun k => (d + 1 + k) % 8).find? fun e =>
    let t := s.tile (roleTile e .steward)
    !t.cordoned && !t.out && !(s.die e).severed

/-- The roles of a die's steward move, its link commands end with CORDON, its future table is lost and wakes its waiters. -/
def State.loseSteward (s : State) (d : Nat) (r : CordonTally) : State × CordonTally :=
  let table := s.futures.filter fun e => e.1 / 65536 == d
  let resolved := table.filter fun e => e.2.st == .empty || e.2.st == .full
  let s := { s with
    futures := s.futures.filter fun e => e.1 / 65536 != d
    commands := s.commands.map fun (c : Command) =>
      if c.eng.val = 1 ∧ c.unit = d ∧ (c.phase = CmdPhase.queued ∨ c.phase = CmdPhase.running) then
        { c with phase := .ended Cause.cordon.code (c.cutBytes (s.conns.map Prod.snd)) } else c
    dies := (s.dies.set d { s.die d with futuresLost := true }).mapVals fun e x =>
      if e = d ∨ x.steward = some d then { x with steward := s.adopter d } else x }
  let s := table.foldl (fun s e => e.2.waiters.foldl (fun s w => s.wakeFault w.1 .cordon 0) s) s
  (s.modTile (roleTile d .steward) fun x => { x with out := true },
   { r with futures := r.futures ++ resolved.map fun e => e.2.domain })

/-! ### The cordon of a slice (R359, R361, R363) -/

/-- A parked VT whose monitor was lost registers again at the new home: a read that meets LOST or CORDON is a held fault
(R359, log 33). -/
def State.reRegister (s : State) (e : Nat × VT) : State :=
  match e.2.park with
  | some (.mwait addr loc _ word _ _ _ _, pc) =>
    match (s.accessWalk e.2.domain addr.toNat .load).bind fun t s => s.reach .load t.loc (if word then 4 else 8) with
    | .ok _ s => s.notify loc 1
    | .fault c s => s.ctFault e.1 { e.2 with pc } c addr
    | .violation => s.ctViolation e.1 { e.2 with pc } addr
    | .wait s => s
  | _ => s

/-- The monitors of which `p` holds by their location. -/
def State.monitors (s : State) (p : Nat → Bool) : List (Nat × VT) :=
  s.vts.filter fun e => match e.2.park with
    | some (.mwait _ loc .., _) => p loc
    | _ => false

/-- A slice leaves the interleave: its monitors register anew. -/
def State.remapSlice (s : State) (d k : Nat) : State :=
  let watch := s.monitors fun loc => !(isSram loc) && homeDie loc == d && (s.homeSlice loc).any fun x => x.1 == k
  let s := { s.setDie d { s.die d with sliceMask := (s.die d).sliceMask &&& ~~~(BitVec.twoPow 12 k) } with
    slices := s.slices.erase (sliceKey d k), rejected := s.rejected.filter fun r => r.slice != sliceKey d k }
  { watch.foldl State.reRegister (s.modTile (sliceTile d k) fun x => { x with out := true }) with
    wants := s.wants, stalled := s.stalled }

/-- The CXL pages of which `p` holds read as zeros (R363, R365). -/
def State.zeroCxl (s : State) (p : Nat → Bool) : State :=
  let hit (loc : Nat) : Bool := isCxl loc && p (loc / 4096)
  { s with mem := s.mem.filter fun c => !(hit c.1), poison := s.poison.filter fun u => !(hit (u * 8)) }

/-! ### The steps of a cordon (R366) -/

/-- What a cordon does to a tile's tally. -/
def State.tallied (t : TileId) (f : State → CordonTally → State × CordonTally) (s : State) : State :=
  let r := f s (s.tile t).tally
  r.1.modTile t fun x => { x with tally := r.2 }

/-- Step 2: the remap, and the moves of roles (R361, R364). -/
def State.remapTile (s : State) (t : TileId) : State :=
  let d := tileDie t
  let s := s.modTile t fun x => { x with remapped := true }
  match tileRole t with
  | some (.slice k) => s.remapSlice d k
  | some .steward => s.tallied t fun s r => s.loseSteward d r
  | some .ringBridge => s.tallied t fun s r => if (s.die d).futuresLost then (s, r) else s.loseSteward d r
  | _ => s

/-- The pages whose contents a cordon took (R342, R363, R365). -/
def State.takenPages (s : State) (t : TileId) (p : Nat) : Bool :=
  let d := tileDie t
  let loc := p * 4096
  match tileRole t with
  | some (.slice _) => if (s.tile t).blind then isCxl loc && homeDie loc == d else (s.tile t).pages.contains p
  | some (.hbm h) => isHbm loc && loc / 2 ^ 35 == 2 * d + h
  | some .ringBridge => (isHbm loc || isCxl loc) && homeDie loc == d
  | _ => false

/-- Step 3: those pages are marked LOST. With the summary of a slice gone, or the whole die, the CXL pages that the die homes
are zero-filled as pages (R343, R363, log 44). -/
def State.markTile (s : State) (t : TileId) : State :=
  let p := s.takenPages t
  let s' := if (s.tile t).blind || isBridge t then s.zeroCxl p else s
  ((s'.markLostPages p).tallyPages t s.tables).modTile t fun x => { x with marked := true }

/-- Step 4: the VTs of a lost cluster have ENDED (R362, R365). -/
def State.endTile (s : State) (t : TileId) : State :=
  let d := tileDie t
  match tileRole t with
  | some (.cluster k) => s.tallied t fun s r => s.loseCluster (4 * d + k) r
  | some .ringBridge => s.tallied t fun s r => (List.range 4).foldl (fun a k => a.1.loseCluster (4 * d + k) a.2) (s, r)
  | _ => s

/-- The 12-bit SLICEMASK that a CORDON record carries (R367). -/
def State.recordMask (s : State) (t : TileId) : Nat :=
  match tileRole t with
  | some (.slice _) => (s.die (tileDie t)).sliceMask.toNat
  | _ => 0

/-- The CORDON record of an event to every domain (R366, R367). -/
def State.postCordon (s : State) (t : TileId) (event cause : Nat) (r : CordonTally) : State :=
  let count (l : List Nat) (d : Nat) : Nat := (l.filter fun x => x == d).length
  s.postAll 0x10 fw1Tile fun d =>
    [(0x10, leBytes 2 t), (0x12, leBytes 1 (tileKind t)), (0x13, leBytes 1 event), (0x14, leBytes 4 s.cordons.toNat),
     (0x18, leBytes 4 (count r.ended d)), (0x1C, leBytes 4 (count r.gangs d)), (0x20, leBytes 4 (count r.futures d)),
     (0x24, leBytes 4 (count r.pages d)), (0x28, leBytes 2 (s.recordMask t)), (0x2A, leBytes 1 cause)]

/-- FAB does not run, or takes no requests during its hand-over (R290, R366). -/
def State.fabPaused (s : State) : Bool := !(s.fw.kinds[2].insts[0]).serves

/-- A cordon of these tiles is a fatal error (R360, R388). -/
def fatalTile (t : TileId) : Bool := 8 ≤ tileKind t || (isBridge t && 8 ≤ tileDie t)

/-- FAB owes a record of a tile. -/
def State.owe (s : State) (t : TileId) (n : CordonNote) : State := s.modTile t fun x => { x with owed := x.owed ++ [n] }

/-- Step 4: the lost VTs have ENDED; FAB owes the record of the cordon (R362, R366). -/
def State.finishCordon (s : State) (t : TileId) : State :=
  let s := (s.modTile t fun x => { x with handled := true }).endTile t
  s.owe t { event := 1, cause := (s.tile t).firstCause, tally := (s.tile t).tally }

/-- A record that FAB owes; CORDONS counts a cordon before its own (R63, R366). -/
def State.postNote (t : TileId) (s : State) (n : CordonNote) : State :=
  let s := if n.event = 1 then { s with cordons := s.cordons + 1 } else s
  s.postCordon t n.event n.cause n.tally

/-- FAB posts the records that it owes of a tile, in order: every domain hears of its cordon, its readmission, its retirement
(R366). -/
def State.postOwed (s : State) (t : TileId) : State :=
  (s.tile t).owed.foldl (State.postNote t) (s.modTile t fun x => { x with owed := [] })

/-- SCHED hands on what waits for it, and the lost gangs again, each where the instance of its domain serves (R259, R265, R362,
R366). -/
def State.placeAgain (s : State) (t : TileId) : State :=
  let paused (e : Nat × Nat) : Bool :=
    match s.launches.find? fun (l : Launch) => l.no == e.1 with
    | some l => s.schedPaused l.slot.domain
    | none => false
  let s := s.handOnDue t
  let l := (s.tile t).tally.again
  (l.filter fun e => !(paused e)).foldl State.replaceGang
    (s.modTile t fun x => { x with tally := { x.tally with again := l.filter paused } })

/-! ### Readmission (R357, R360, R365) -/

/-- Storage is zero-filled. The tables in it MGMT writes again from its copy, line by line where a walk is held (R341, R360,
R365). -/
def State.zeroFill (s : State) (loc n : Nat) : State :=
  { s with mem := s.mem.filter fun c => !(loc ≤ c.1 && c.1 < loc + n) || isTableLoc c.1
           poison := s.poison.filter fun u => !(loc ≤ u * 8 && u * 8 < loc + n) || isTableLoc (u * 8) }

/-- What readmission gives the device back (R360, R365). -/
def State.reopenTile (s : State) (t : TileId) : State :=
  let d := tileDie t
  match tileRole t with
  | some (.hbm h) =>
    let s := s.zeroFill ((2 * d + h) * 2 ^ 35) (2 ^ 35)
    s.setDie d (if h = 0 then { s.die d with hbm0 := true } else { s.die d with hbm1 := true })
  | some .ringBridge =>
    (if d < 8 then s.zeroFill (d * 2 ^ 36) (2 ^ 36) else s).setDie d { s.die d with severed := false }
  | _ => s

/-- What is left of steps 2 to 4 of a tile's cordon is done. -/
def State.settleCordon (s : State) (t : TileId) : State :=
  if (s.tile t).handled then s
  else
    let s := if (s.tile t).remapped then s else s.remapTile t
    let s := if (s.tile t).marked then s else s.markTile t
    s.finishCordon t

/-- A tile is readmitted, with all that its cordon took from it done before: its consequences end, FAB owes a record (R357,
R360, R366, log 44). -/
def State.readmitTile (s : State) (t : TileId) : State :=
  let s := (s.settleCordon t).modTile t fun x => { x with cordoned := false, pages := [], blind := false }
  ((s.reopenTile t).owe t { event := 2 }).clearViews t

/-- A neighbour in service that holds CONSENT from every witness of an appellant opens its port and sends READMIT (R354,
R357). -/
def State.settleConsent (s : State) (n t : TileId) : State :=
  if (s.tile t).cordoned = true ∧ s.cutOff n = false ∧ s.allConsent n t = true then (s.readmitFlits n t).readmitTile t else s

/-- CORDON_HANDLING: the next of the steps 2 to 6 of a tile's cordon, of which the hardware's wait for no firmware (R366, log
44); and what FAB and SCHED still have to do for the tile. -/
def execCordonHandling (tile : TileId) (s : State) : Host.Outcome State Fault Refusal :=
  .next (
    let x := s.tile tile
    if fatalTile tile then s
    else if !x.handled && !x.remapped then s.remapTile tile
    else if !x.handled && !x.marked then s.markTile tile
    else if s.fabPaused then s.placeAgain tile
    else ((if x.handled then s else s.finishCordon tile).postOwed tile).placeAgain tile)

/-- HEARTBEAT: a witness judges a flit from a subject; its own CONSENT may be the last that a neighbour needs (R350, R357). -/
def execHeartbeat (witness subject : TileId) (flit : Word64) (s : State) : Host.Outcome State Fault Refusal :=
  .next ((s.heartbeat witness subject flit).settleConsent witness subject)

/-! ### The life of a cordoned tile (R356, R357, R360) -/

/-- A tile sends RETIRE once and enters RETIRED (R356). -/
def State.retireTile (s : State) (t : TileId) : State :=
  (s.sendFlit t (neighbours t ++ [fw1Tile]) (voteFlit t msgRetire 0 t)).modTile t fun x => { x with st := stRetired }

/-- BIST clears every storage element of a tile; the vote registers stand (R356, log 34). A steward's table of futures is lost
with its cordon already (R364). -/
def State.clearTile (s : State) (t : TileId) : State :=
  let d := tileDie t
  match tileRole t with
  | some (.cluster k) =>
    let g := 4 * d + k
    { s.setCluster g {} with cores := s.cores.mapVals fun n c => if clusterOfCore n = g then {} else c }
  | some (.slice k) =>
    { s with slices := s.slices.erase (sliceKey d k)
             l2 := s.l2.filter fun l => !(homeDie (l.line * 64) == d && (s.homeSlice (l.line * 64)).any fun h => h.1 == k) }
  | some (.sram k) => s.zeroBytes (sramBase + k * sramSize) sramSize
  | _ => s

/-- SELFTEST: a CORDONED tile enters SELFTEST, or RETIRED after two appeals; a self-test that passes within 2 ms sends an
APPEAL, one that does not retires the tile (R356). -/
def execSelftest (tile : TileId) (pass : Bool) (s : State) : Host.Outcome State Fault Refusal :=
  .next (
    let x := s.tile tile
    let now := s.tileCycle tile
    let bound := if tileDie tile < 8 then 2800000 else 2400000
    if x.st = stCordoned then
      if x.appeals < 2 then (s.setTile tile { x with st := stSelftest, testAt := now }).clearTile tile else s.retireTile tile
    else if x.st = stSelftest then
      if pass = true ∧ now ≤ x.testAt + bound then
        let s := s.setTile tile { x with st := stAppealing, appeals := x.appeals + 1, bist := some true }
        s.sendFlit tile (witnesses tile ++ neighbours tile).eraseDups (voteFlit tile msgAppeal (x.appeals + 1) tile)
      else if pass = true ∧ x.testAt + bound < now ∨ pass = false then s.retireTile tile
      else s
    else s)

/-- APPEAL: a fresh count starts at a witness (R357). -/
def execAppeal (receiver : TileId) (flit : Word64) (s : State) : Host.Outcome State Fault Refusal :=
  .next (
    let t := flitSubject flit
    let s := s.takeFlit receiver flit
    if isVote flit msgAppeal ∧ flitTile flit = t ∧ (s.tile t).cordoned = true then
      match s.passPort receiver t flit with
      | none => s
      | some s =>
        let s := s.modView receiver t fun v => { v with consents := [] }
        if (witnesses t).contains receiver then s.modView receiver t fun v => { v with fresh := some 0 } else s
    else s)

/-- CONSENT: a neighbour that holds it from every witness opens its port and sends READMIT (R357). -/
def execConsent (receiver : TileId) (flit : Word64) (s : State) : Host.Outcome State Fault Refusal :=
  .next (
    let t := flitSubject flit
    let w := flitTile flit
    let s := s.takeFlit receiver flit
    if isVote flit msgConsent ∧ (neighbours t).contains receiver ∧ (witnesses t).contains w ∧ s.witnessServes w = true
        ∧ (s.tile t).cordoned = true then
      (s.holdConsent receiver t w).settleConsent receiver t
    else s)

/-- REFUSE: a neighbour passes it on; the appellant is CORDONED again (R357). -/
def execRefuse (receiver : TileId) (flit : Word64) (s : State) : Host.Outcome State Fault Refusal :=
  .next (
    let t := flitSubject flit
    let s := s.takeFlit receiver flit
    if !(isVote flit msgRefuse) then s
    else if receiver = t then
      if (s.tile (flitTile flit)).cordoned then s
      else s.modTile t fun x => if x.st = stAppealing then { x with st := stCordoned } else x
    else if (neighbours t).contains receiver ∧ (witnesses t).contains (flitTile flit) ∧ s.witnessServes (flitTile flit) = true then
      (s.modView receiver t fun v => { v with consents := [] }).sendFlit receiver [t] (voteFlit t msgRefuse 0 receiver)
    else s)

/-- READMIT: the appellant enters PROBATION; a neighbour opens its port (R356, R357). -/
def execReadmit (receiver : TileId) (flit : Word64) (s : State) : Host.Outcome State Fault Refusal :=
  .next (
    let t := flitSubject flit
    let s := s.takeFlit receiver flit
    if !(isVote flit msgReadmit) ∨ !((neighbours t).contains (flitTile flit)) ∨ (s.tile (flitTile flit)).cordoned = true then s
    else if receiver = t then
      s.modTile t fun x => if x.st = stAppealing then { x with st := stProbation } else x
    else if (neighbours t).contains receiver then s.modView receiver t fun v => { v with portClosed := false }
    else s)

/-- RETIRE: FAB hears of it and owes a record (R356, R366). -/
def execRetire (receiver : TileId) (flit : Word64) (s : State) : Host.Outcome State Fault Refusal :=
  .next (
    let t := flitSubject flit
    let s := s.takeFlit receiver flit
    if isVote flit msgRetire ∧ flitTile flit = t ∧ receiver = fw1Tile ∧ (s.tile t).retired = false then
      match s.passPort receiver t flit with
      | some s => (s.modTile t fun x => { x with retired := true }).owe t { event := 3 }
      | none => s
    else s)

/-! ### CXL links (R16, R347) -/

/-- CXL_LINK_DOWN: a CX tile loses its link and begins to retrain it. -/
def execCxlLinkDown (link : Fin 4) (s : State) : Host.Outcome State Fault Refusal :=
  .next (
    let k := s.links[link]
    if k.st = .up then { s with links := s.links.set link { k with st := .down (s.tileCycle (cxlTile link.val)) } } else s)

/-- CXL_LINK_RETRAINED: within 1,200,000 I/O tile cycles, at any width or rate, the link is not lost (R347). -/
def execCxlLinkRetrained (link : Fin 4) (width rate : Nat) (s : State) : Host.Outcome State Fault Refusal :=
  .next (
    let k := s.links[link]
    match k.st with
    | .down since =>
      if s.tileCycle (cxlTile link.val) ≤ since + 1200000 then
        { s with links := s.links.set link { k with st := .up, width, rate } }
      else s
    | _ => s)

/-- CXL_LINK_LOSS: 1,200,000 I/O tile cycles without success (R347). -/
def execCxlLinkLoss (link : Fin 4) (s : State) : Host.Outcome State Fault Refusal :=
  .next (match (s.links[link]).st with
    | .down since => if since + 1200000 ≤ s.tileCycle (cxlTile link.val) then s.loseLink link else s
    | _ => s)

end Sys2Proof.Machine
end

