-- ==== Sys2Proof/Machine/Digest.lean ====
section
/-! DEFINITION. The hash functions that R285 to R289 name: SHA-384, and SHA-256 and SHA-512, which the SLH-DSA check of R286
uses. The spec names them and gives no text of them: they are taken from FIPS 180-4 (log 51). -/

namespace Sys2Proof.Machine

open Sys2Proof

/-- A value of `n` bytes, the most significant first. -/
def beBytes (n v : Nat) : List Byte := (leBytes n v).reverse

/-- The value of bytes, the most significant first. -/
def beNat (bs : List Byte) : Nat := leNat bs.reverse

/-- The round constants of SHA-512; those of SHA-256 are the upper halves of the first 64. -/
def shaConstants : List Nat :=
  [0x428A2F98D728AE22, 0x7137449123EF65CD, 0xB5C0FBCFEC4D3B2F, 0xE9B5DBA58189DBBC,
   0x3956C25BF348B538, 0x59F111F1B605D019, 0x923F82A4AF194F9B, 0xAB1C5ED5DA6D8118,
   0xD807AA98A3030242, 0x12835B0145706FBE, 0x243185BE4EE4B28C, 0x550C7DC3D5FFB4E2,
   0x72BE5D74F27B896F, 0x80DEB1FE3B1696B1, 0x9BDC06A725C71235, 0xC19BF174CF692694] ++
  [0xE49B69C19EF14AD2, 0xEFBE4786384F25E3, 0x0FC19DC68B8CD5B5, 0x240CA1CC77AC9C65,
   0x2DE92C6F592B0275, 0x4A7484AA6EA6E483, 0x5CB0A9DCBD41FBD4, 0x76F988DA831153B5,
   0x983E5152EE66DFAB, 0xA831C66D2DB43210, 0xB00327C898FB213F, 0xBF597FC7BEEF0EE4,
   0xC6E00BF33DA88FC2, 0xD5A79147930AA725, 0x06CA6351E003826F, 0x142929670A0E6E70] ++
  [0x27B70A8546D22FFC, 0x2E1B21385C26C926, 0x4D2C6DFC5AC42AED, 0x53380D139D95B3DF,
   0x650A73548BAF63DE, 0x766A0ABB3C77B2A8, 0x81C2C92E47EDAEE6, 0x92722C851482353B,
   0xA2BFE8A14CF10364, 0xA81A664BBC423001, 0xC24B8B70D0F89791, 0xC76C51A30654BE30,
   0xD192E819D6EF5218, 0xD69906245565A910, 0xF40E35855771202A, 0x106AA07032BBD1B8] ++
  [0x19A4C116B8D2D0C8, 0x1E376C085141AB53, 0x2748774CDF8EEB99, 0x34B0BCB5E19B48A8,
   0x391C0CB3C5C95A63, 0x4ED8AA4AE3418ACB, 0x5B9CCA4F7763E373, 0x682E6FF3D6B2B8A3,
   0x748F82EE5DEFB2FC, 0x78A5636F43172F60, 0x84C87814A1F0AB72, 0x8CC702081A6439EC,
   0x90BEFFFA23631E28, 0xA4506CEBDE82BDE9, 0xBEF9A3F7B2C67915, 0xC67178F2E372532B] ++
  [0xCA273ECEEA26619C, 0xD186B8C721C0C207, 0xEADA7DD6CDE0EB1E, 0xF57D4F7FEE6ED178,
   0x06F067AA72176FBA, 0x0A637DC5A2C898A6, 0x113F9804BEF90DAE, 0x1B710B35131C471B,
   0x28DB77F523047D84, 0x32CAAB7B40C72493, 0x3C9EBE0A15C9BEBC, 0x431D67C49C100D4C,
   0x4CC5D4BECB3E42B6, 0x597F299CFC657E2A, 0x5FCB6FAB3AD6FAEC, 0x6C44198C4A475817]

/-- The initial values of SHA-512 and, after them, those of SHA-384; those of SHA-256 are the upper halves of the first. -/
def shaStart : List Nat :=
  [0x6A09E667F3BCC908, 0xBB67AE8584CAA73B, 0x3C6EF372FE94F82B, 0xA54FF53A5F1D36F1,
   0x510E527FADE682D1, 0x9B05688C2B3E6C1F, 0x1F83D9ABFB41BD6B, 0x5BE0CD19137E2179,
   0xCBBB9D5DC1059ED8, 0x629A292A367CD507, 0x9159015A3070DD17, 0x152FECD8F70E5939,
   0x67332667FFC00B31, 0x8EB44A8768581511, 0xDB0C2E0D64F98FA7, 0x47B5481DBEFA4FA4]

/-- A member of the family: bits of a word, the constants, and the amounts of the functions Σ0, Σ1, σ0, σ1. -/
structure Sha where
  e : Nat
  k : List Nat
  big0 : Nat × Nat × Nat
  big1 : Nat × Nat × Nat
  small0 : Nat × Nat × Nat
  small1 : Nat × Nat × Nat

/-- SHA-256. -/
def sha256Family : Sha :=
  { e := 32, k := (shaConstants.take 64).map fun c => c / 2 ^ 32
    big0 := (2, 13, 22), big1 := (6, 11, 25), small0 := (7, 18, 3), small1 := (17, 19, 10) }

/-- SHA-384 and SHA-512. -/
def sha512Family : Sha :=
  { e := 64, k := shaConstants
    big0 := (28, 34, 39), big1 := (14, 18, 41), small0 := (1, 8, 7), small1 := (19, 61, 6) }

/-- Σ0 or Σ1: three rotations. -/
def shaBig {e : Nat} (t : Nat × Nat × Nat) (x : BitVec e) : BitVec e :=
  x.rotateRight t.1 ^^^ x.rotateRight t.2.1 ^^^ x.rotateRight t.2.2

/-- σ0 or σ1: two rotations and a shift. -/
def shaSmall {e : Nat} (t : Nat × Nat × Nat) (x : BitVec e) : BitVec e :=
  x.rotateRight t.1 ^^^ x.rotateRight t.2.1 ^^^ x >>> t.2.2

/-- `n` more words of a message schedule, newest first. -/
def Sha.expand (p : Sha) : Nat → List (BitVec p.e) → List (BitVec p.e)
  | 0, ws => ws
  | n + 1, ws =>
    Sha.expand p n ((shaSmall p.small1 (ws.getD 1 0) + ws.getD 6 0 + shaSmall p.small0 (ws.getD 14 0) + ws.getD 15 0) :: ws)

/-- The eight working variables. -/
structure ShaVars (e : Nat) where
  a : BitVec e
  b : BitVec e
  c : BitVec e
  d : BitVec e
  e' : BitVec e
  f : BitVec e
  g : BitVec e
  h : BitVec e

/-- One round, with its constant and its word of the schedule. -/
def Sha.round (p : Sha) (v : ShaVars p.e) (k : Nat) (w : BitVec p.e) : ShaVars p.e :=
  let t1 := v.h + shaBig p.big1 v.e' + ((v.e' &&& v.f) ^^^ (~~~v.e' &&& v.g)) + BitVec.ofNat p.e k + w
  let t2 := shaBig p.big0 v.a + ((v.a &&& v.b) ^^^ (v.a &&& v.c) ^^^ (v.b &&& v.c))
  { a := t1 + t2, b := v.a, c := v.b, d := v.c, e' := v.d + t1, f := v.e', g := v.f, h := v.g }

/-- One block of 16 words. -/
def Sha.block (p : Sha) (v : ShaVars p.e) (ws : List (BitVec p.e)) : ShaVars p.e :=
  let w := (p.expand (p.k.length - 16) ws.reverse).reverse
  let u := (p.k.zip w).foldl (fun u x => p.round u x.1 x.2) v
  { a := v.a + u.a, b := v.b + u.b, c := v.c + u.c, d := v.d + u.d
    e' := v.e' + u.e', f := v.f + u.f, g := v.g + u.g, h := v.h + u.h }

/-- A message with its padding: a 1 bit, zeros, and its length in bits, to a multiple of 16 words. -/
def Sha.padded (p : Sha) (m : List Byte) : List Byte :=
  let n := p.e / 4
  let used := m.length + 1 + 2 * p.e / 8
  m ++ [0x80] ++ List.replicate ((8 * n - used % (8 * n)) % (8 * n)) 0 ++ beBytes (2 * p.e / 8) (8 * m.length)

/-- The blocks of a padded message, one after another. -/
def Sha.run (p : Sha) (v : ShaVars p.e) (bs : List Byte) : Nat → ShaVars p.e
  | 0 => v
  | n + 1 =>
    let word (j : Nat) : BitVec p.e := BitVec.ofNat p.e (beNat ((bs.drop (j * (p.e / 8))).take (p.e / 8)))
    Sha.run p (p.block v ((List.range 16).map word)) (bs.drop (2 * p.e)) n

/-- The hash of a message from initial values, as bytes. -/
def Sha.hash (p : Sha) (iv : List Nat) (m : List Byte) : List Byte :=
  let x (j : Nat) : BitVec p.e := BitVec.ofNat p.e (iv.getD j 0)
  let bs := p.padded m
  let v := p.run ⟨x 0, x 1, x 2, x 3, x 4, x 5, x 6, x 7⟩ bs (bs.length / (2 * p.e))
  [v.a, v.b, v.c, v.d, v.e', v.f, v.g, v.h].flatMap fun w => beBytes (p.e / 8) w.toNat

/-- SHA-256. -/
def sha256 (m : List Byte) : List Byte := sha256Family.hash ((shaStart.take 8).map fun c => c / 2 ^ 32) m

/-- SHA-512. -/
def sha512 (m : List Byte) : List Byte := sha512Family.hash (shaStart.take 8) m

/-- SHA-384. -/
def sha384 (m : List Byte) : List Byte := (sha512Family.hash (shaStart.drop 8) m).take 48

/-- MGF1 over a hash: `n` bytes from a seed (RFC 8017). -/
def mgf1 (hash : List Byte → List Byte) (hlen : Nat) (seed : List Byte) (n : Nat) : List Byte :=
  ((List.range (n / hlen + 1)).flatMap fun k => hash (seed ++ beBytes 4 k)).take n

end Sys2Proof.Machine
end

