-- ==== Sys2Proof/Machine/Signature.lean ====
section
/-! DEFINITION. The two signature checks of R286. The spec names the schemes with their parameters (R285) and gives no text of
them: RSA with PSS is taken from RFC 8017, SLH-DSA-SHA2-192s from FIPS 205, with an empty context (log 51). -/

namespace Sys2Proof.Machine

open Sys2Proof

/-! ### RSA-3072 with PSS -/

/-- x to the power 2^k, modulo n. -/
def squareMod (n : Nat) : Nat → Nat → Nat
  | 0, x => x
  | k + 1, x => squareMod n k (x * x % n)

/-- The exclusive or of bytes. -/
def xorBytes (a b : List Byte) : List Byte := List.zipWith (fun x y => x ^^^ y) a b

/-- An encoded message of 384 bytes holds the PSS encoding of a message: a salt of 48 bytes, the top bit clear. -/
def pssValid (em m : List Byte) : Bool :=
  let masked := em.take 335
  let h := (em.drop 335).take 48
  let db := (xorBytes masked (mgf1 sha384 48 h 335)).mapIdx fun k b => if k = 0 then b &&& 0x7F else b
  let salt := db.drop 287
  em.length == 384 && (em.drop 383) == [0xBC] && (masked.getD 0 0).toNat < 128
    && db.take 287 == List.replicate 286 0 ++ [1]
    && h == sha384 (List.replicate 8 0 ++ sha384 m ++ salt)

/-- An RSA-3072 signature with exponent 65,537. Modulus and signature are stored as R4 stores values. -/
def rsaVerifies (modulus m sig : List Byte) : Bool :=
  let n := leNat modulus
  let s := leNat sig
  modulus.length == 384 && sig.length == 384 && decide (2 ^ 3071 ≤ n) && decide (s < n)
    && pssValid (beBytes 384 (squareMod n 16 s * s % n)) m

/-! ### SLH-DSA-SHA2-192s -/

/-- The address of a hash: layer, tree, type, key pair, chain or tree height, hash or tree index. -/
structure SlhAddr where
  layer : Nat := 0
  tree : Nat := 0
  type : Nat := 0
  pair : Nat := 0
  hi : Nat := 0
  lo : Nat := 0

/-- The compressed form of an address, of 22 bytes. -/
def SlhAddr.bytes (a : SlhAddr) : List Byte :=
  beBytes 1 a.layer ++ beBytes 8 a.tree ++ beBytes 1 a.type ++ beBytes 4 a.pair ++ beBytes 4 a.hi ++ beBytes 4 a.lo

/-- The function F. -/
def slhF (seed : List Byte) (a : SlhAddr) (m : List Byte) : List Byte :=
  (sha256 (seed ++ List.replicate 40 0 ++ a.bytes ++ m)).take 24

/-- The functions H and T. -/
def slhT (seed : List Byte) (a : SlhAddr) (m : List Byte) : List Byte :=
  (sha512 (seed ++ List.replicate 104 0 ++ a.bytes ++ m)).take 24

/-- `n` digits of `b` bits of a string of bits, the most significant first. -/
def bitDigits (bs : List Byte) (b n : Nat) : List Nat :=
  (List.range n).map fun k => beNat bs / 2 ^ (8 * bs.length - b * (k + 1)) % 2 ^ b

/-- The k-th string of 24 bytes. -/
def slhPart (bs : List Byte) (k : Nat) : List Byte := (bs.drop (24 * k)).take 24

/-- The root of a tree of which a node and the nodes beside its path are given; `base` is the index of the tree's first leaf,
and `hi` of the address is a node's height. -/
def slhRoot (seed : List Byte) (a : SlhAddr) (base idx : Nat) (leaf : List Byte) (auth : List (List Byte)) : List Byte :=
  (auth.zipIdx.foldl (fun (node : List Byte) (x : List Byte × Nat) =>
    let k := x.2
    let b : SlhAddr := { a with hi := k + 1, lo := (base + idx) / 2 ^ (k + 1) }
    if idx / 2 ^ k % 2 = 0 then slhT seed b (node ++ x.1) else slhT seed b (x.1 ++ node)) leaf)

/-- `n` steps of a chain from step `i`. -/
def slhChain (seed : List Byte) (a : SlhAddr) : Nat → Nat → List Byte → List Byte
  | _, 0, x => x
  | i, n + 1, x => slhChain seed a (i + 1) n (slhF seed { a with lo := i } x)

/-- The public key that a one-time signature of 51 chains gives for a message of 24 bytes. -/
def wotsKey (seed sig m : List Byte) (a : SlhAddr) : List Byte :=
  let msg := bitDigits m 4 48
  let sum := (msg.map fun d => 15 - d).sum
  let digits := msg ++ bitDigits (beBytes 2 (sum * 16)) 4 3
  slhT seed { a with type := 1, hi := 0, lo := 0 } (digits.zipIdx.flatMap fun d =>
    slhChain seed { a with type := 0, hi := d.2, lo := 0 } d.1 (15 - d.1) (slhPart sig d.2))

/-- The root that a signature of one tree of the hypertree gives: 51 chains and 9 nodes. -/
def xmssKey (seed sig m : List Byte) (a : SlhAddr) (idx : Nat) : List Byte :=
  let leaf := wotsKey seed sig m { a with pair := idx, hi := 0, lo := 0 }
  slhRoot seed { a with type := 2, pair := 0 } 0 idx leaf ((List.range 9).map fun k => slhPart sig (51 + k))

/-- The root of the hypertree of 7 layers from layer `j`. -/
def hyperKey (seed sig : List Byte) : Nat → Nat → Nat → Nat → List Byte → List Byte
  | 0, _, _, _, m => m
  | n + 1, j, tree, leaf, m =>
    hyperKey seed sig n (j + 1) (tree / 2 ^ 9) (tree % 2 ^ 9)
      (xmssKey seed (sig.drop (24 * 60 * j)) m { layer := j, tree } leaf)

/-- The public key that the signature of 17 trees of height 14 gives for a digest. -/
def forsKey (seed sig md : List Byte) (a : SlhAddr) : List Byte :=
  slhT seed { a with type := 4, hi := 0, lo := 0 } ((bitDigits md 14 17).zipIdx.flatMap fun d =>
    let part := sig.drop (24 * 15 * d.2)
    let leaf := slhF seed { a with type := 3, hi := 0, lo := d.2 * 2 ^ 14 + d.1 } (slhPart part 0)
    slhRoot seed { a with type := 3 } (d.2 * 2 ^ 14) d.1 leaf ((List.range 14).map fun k => slhPart part (k + 1)))

/-- An SLH-DSA-SHA2-192s signature under a public key of 48 bytes. -/
def slhVerifies (key m sig : List Byte) : Bool :=
  let seed := key.take 24
  let root := key.drop 24
  let r := sig.take 24
  let digest := mgf1 sha512 64 (r ++ seed ++ sha512 (r ++ seed ++ root ++ [0, 0] ++ m)) 39
  let tree := beNat ((digest.drop 30).take 7) % 2 ^ 54
  let leaf := beNat ((digest.drop 37).take 2) % 2 ^ 9
  let fors := forsKey seed (sig.drop 24) (digest.take 30) { tree, pair := leaf }
  key.length == 48 && sig.length == 16224
    && hyperKey seed (sig.drop (24 * 256)) 7 0 tree leaf fors == root

end Sys2Proof.Machine
end

