-- ==== Sys2Proof/Machine/Firmware.lean ====
section
/-! DEFINITION. Firmware images and their start (R284 to R289, R375, R376), Slack Water (R290 to R293, R377 to R381), the
power manager (R19, R299), the fatal dump (R323, R388), soft errors (R345, R346). -/

namespace Sys2Proof.Machine

open Sys2Proof

/-! ### Images (R285, R286) -/

/-- The kinds of image: MGMT 1, SCHED 2, FAB 3, kept at positions 0 to 2 (R284). -/
def State.kind (s : State) (k : Fin 3) : FwKind := s.fw.kinds[k]

def State.setKind (s : State) (k : Fin 3) (x : FwKind) : State := { s with fw := { s.fw with kinds := s.fw.kinds.set k x } }

/-- The instances of a kind: one, and six of SCHED (R284). -/
def instances (k : Fin 3) : List (Fin 6) := if k = 1 then List.finRange 6 else [0]

/-- The firmware core that an instance runs on (R284). -/
def coreOfInst (k : Fin 3) (i : Fin 6) : Nat :=
  if k = 0 then 0 else if k = 2 then 4 else if i.val < 3 then i.val + 1 else i.val + 2

/-- Bytes [off, off + n) of an image. -/
def imageField (bs : List Byte) (off n : Nat) : List Byte := (bs.drop off).take n

def imageSvn (bs : List Byte) : Nat := leNat (imageField bs 1 1)
def imageMajor (bs : List Byte) : Nat := leNat (imageField bs 2 2)
def imageMinor (bs : List Byte) : Nat := leNat (imageField bs 4 2)
def imageMinMinor (bs : List Byte) : Nat := leNat (imageField bs 6 2)
def imageCodeLen (bs : List Byte) : Nat := leNat (imageField bs 8 4)

/-- The message that both signatures sign (R285). -/
def imageMessage (bs : List Byte) : List Byte := imageField bs 0 0x1C0 ++ imageField bs 0x4300 (imageCodeLen bs)

/-- A SHA-384 value as 384 bits, and its 48 bytes (log 51). -/
def digestOf (bs : List Byte) : BitVec 384 := BitVec.ofNat 384 (leNat (sha384 bs))
def digestBytes (d : BitVec 384) : List Byte := leBytes 48 d.toNat

/-- The image digest (R285). -/
def imageDigest (bs : List Byte) : BitVec 384 := digestOf (imageMessage bs)

/-- What the security tile finds of an image for a kind (R286, R377). -/
inductive Verdict where
  | accepted | badImage | svnLow
deriving DecidableEq, Repr

/-- The checks of R286; a check other than that of SVN is answered first. -/
def verify (k : Fin 3) (x : FwKind) (bs : List Byte) : Verdict :=
  let len := imageCodeLen bs
  let limits : Bool := leNat (imageField bs 0 1) == k.val + 1 && len % 64 == 0 && len ≤ 0x200000 - 0x8000
    && leNat (imageField bs 0x0C 4) == 0 && leNat (imageField bs 0x42A0 96) == 0 && bs.length == 0x4300 + len
  let rsa := imageField bs 0x10 384
  let slh := imageField bs 0x190 48
  if limits && digestOf rsa == x.rsaHash && digestOf slh == x.slhHash
      && rsaVerifies rsa (imageMessage bs) (imageField bs 0x1C0 384)
      && slhVerifies slh (imageMessage bs) (imageField bs 0x340 16224) then
    (if x.minSvn ≤ imageSvn bs then .accepted else .svnLow)
  else .badImage

/-- A measurement slot is extended (R288). -/
def extendSlot (ms : Vector (BitVec 384) 8) (k : Fin 8) (d : BitVec 384) : Vector (BitVec 384) 8 :=
  ms.set k (digestOf (digestBytes ms[k] ++ digestBytes d))

/-- The slot of a kind: MS1 to MS3 (R288). -/
def slotOfKind (k : Fin 3) : Fin 8 := Fin.ofNat 8 (k.val + 1)

/-! ### Start (R287, R375, R376) -/

/-- An accepted image is measured and placed in bank A, which is active (R287 step 3). -/
def Firmware.startKind (f : Firmware) (k : Fin 3) : Firmware :=
  let x := f.kinds[k]
  if x.found = [] then f
  else
    let d := imageDigest x.found
    { f with kinds := f.kinds.set k { x with bankA := x.found, bankB := [], active := false, found := [], cur := d }
             ms := extendSlot f.ms (slotOfKind k) d }

/-- The flash copies of a kind: the current one, the other (R287 step 2). -/
def FwKind.copies (x : FwKind) : List Byte × List Byte := if x.flashCur then (x.flash1, x.flash0) else (x.flash0, x.flash1)

/-- Step 2 of the start of one kind: the current copy, else the other, else none (R287, R375). -/
def FwKind.read (k : Fin 3) (x : FwKind) : FwKind :=
  if verify k x x.copies.1 = .accepted then { x with found := x.copies.1, boot := 0 }
  else if verify k x x.copies.2 = .accepted then { x with found := x.copies.2, boot := 1 }
  else { x with boot := 2 }

/-- What of a kind outlives a reset: the fuses and the boot flash (R286, R287). -/
def FwKind.kept (x : FwKind) : FwKind :=
  { rsaHash := x.rsaHash, slhHash := x.slhHash, minSvn := x.minSvn, flash0 := x.flash0, flash1 := x.flash1, flashCur := x.flashCur }

/-- A new image goes to the boot flash, and that copy is marked current (R293 step 5, R376). -/
def FwKind.flash (x : FwKind) (bs : List Byte) : FwKind :=
  if x.flashCur then { x with flash0 := bs, flashCur := false } else { x with flash1 := bs, flashCur := true }

/-- MGMT writes an image that was staged during start to the boot flash (R376). -/
def FwKind.settleFlash (x : FwKind) : FwKind := if x.flashDue then { (x.flash x.bankA) with flashDue := false } else x

/-- The instances of a kind leave reset. -/
def FwKind.run (k : Fin 3) (x : FwKind) : FwKind :=
  if x.bankA = [] then x
  else { x with insts := Vector.ofFn fun (i : Fin 6) => ({ running := (instances k).contains i } : FwInst) }

/-- The firmware cores leave reset: MGMT runs, and measures the CXL configuration; then start has completed (R287 step 4,
R376). -/
def Firmware.release (f : Firmware) (links : Vector Link 4) : Firmware :=
  { f with kinds := Vector.ofFn fun (k : Fin 3) => (f.kinds[k].run k).settleFlash
           mgmtUp := true
           ms := extendSlot f.ms 5 (Config.cxlDigest (links.toList.map Link.capacity)) }

/-- Start goes on from step 3 once MGMT has an image; without one no firmware core leaves reset (R287, R376). -/
def Firmware.goOn (f : Firmware) (links : Vector Link 4) : Firmware :=
  if (f.kinds[(0 : Fin 3)]).found = [] then f else (((f.startKind 0).startKind 1).startKind 2).release links

/-- The boot ROM's start (R287). -/
def Firmware.boot (f : Firmware) (links : Vector Link 4) : Firmware :=
  let kinds := f.kinds.map FwKind.kept
  let f0 : Firmware := { kinds }
  let ms := extendSlot f0.ms 0 Config.bootRomDigest
  let ms := extendSlot ms 4 (Config.fuseDigest (kinds.toList.flatMap fun x => [x.rsaHash, x.slhHash]) (kinds.toList.map FwKind.minSvn))
  ({ f0 with ms, kinds := Vector.ofFn fun (k : Fin 3) => kinds[k].read k } : Firmware).goOn links

/-- DEVICE_RESET: every field at its reset value but fuses, boot flash, installed storage and a dump not yet released; then
the start, and connection 0 is open (R287, R376, R388). What lies outside the device stands: the schedule, what was sent (log 43). -/
def execDeviceReset (s : State) : Host.Outcome State Fault Refusal :=
  .next (
    let links := s.links.map fun l => ({ capacity := l.capacity } : Link)
    { State.reset with
      schedule := s.schedule, picks := s.picks, outbox := s.outbox, links, fw := s.fw.boot links, dump := s.dump
      mem := if s.dump.isSome then s.mem.filter fun c => decide (c.1 < 0x40000000) else []
      conns := [(0, {})] })

/-! ### Slack Water (R290 to R293, R378 to R381) -/

/-- The idle bank of a kind, and the active one (R284). -/
def FwKind.idle (x : FwKind) : List Byte := if x.active then x.bankA else x.bankB
def FwKind.inForce (x : FwKind) : List Byte := if x.active then x.bankB else x.bankA

def FwKind.setIdle (x : FwKind) (bs : List Byte) : FwKind := if x.active then { x with bankA := bs } else { x with bankB := bs }

/-- CRC-32 of the IEEE 802.3 polynomial (R291). -/
def crc32Byte (crc : Nat) (b : Byte) : Nat :=
  (List.range 8).foldl (fun c _ => if c % 2 = 1 then c / 2 ^^^ 0xEDB88320 else c / 2) (crc ^^^ b.toNat)

def crc32 (bs : List Byte) : Nat := bs.foldl crc32Byte 0xFFFFFFFF ^^^ 0xFFFFFFFF

/-- The items of a record, each its head and its value with the padding (R291). -/
def recordItems : Nat → List Byte → List (List Byte × List Byte)
  | 0, _ => []
  | n + 1, bs =>
    if bs = [] then []
    else
      let len := (leNat ((bs.drop 4).take 4) + 7) / 8 * 8
      (bs.take 8, (bs.drop 8).take len) :: recordItems n (bs.drop (8 + len))

/-- Every CRITICAL item has a TYPE that the new image knows (R291, R292). -/
def itemsKnown (digest : BitVec 384) (items : List (List Byte × List Byte)) : Bool :=
  items.all fun x =>
    let head := leNat (x.1.take 2)
    head / 2 ^ 15 == 0 || Config.knowsItem digest (head % 2 ^ 15)

/-- The record as an instance of an image writes it: the image's schema, zeros in the reserved bytes and in the padding of
its items (R285, R291). -/
def recordOfImage (image r : List Byte) : Bool :=
  leNat (imageField r 2 2) == imageMajor image && leNat (imageField r 4 2) == imageMinor image && leNat (imageField r 6 2) == 0
    && (recordItems (r.length / 8) (r.drop 16)).all fun x =>
      let len := leNat ((x.1.drop 4).take 4)
      leNat ((x.1.drop 2).take 2) == 0 && x.2.length == (len + 7) / 8 * 8 && (x.2.drop len).all fun b => b == 0

/-- What SCHED keeps of the queues of an instance's domains: each queue's key, descriptor, and nodes (R254 to R258, R284). -/
def State.schedData (s : State) (i : Fin 6) : List (List Nat) :=
  (s.queues.filter fun e => schedInstance (e.1 / 4096) == i).map fun e =>
    let q := e.2
    [e.1, q.ring.toNat, q.log2n, q.prio, q.bitmap.toNat, q.doorbell.toNat, if q.st = .active then 0 else 1, q.drain]
      ++ q.slots.flatMap fun x => [x.1, if x.2.seen then 1 else 0, x.2.cred, x.2.st.code]

/-- The record as an instance writes it: in its image's form, one of SCHED with its queues' data among the items (R291). -/
def State.recordWritten (s : State) (k : Fin 3) (i : Fin 6) (r : List Byte) : Bool :=
  recordOfImage (s.kind k).inForce r
    && (k != 1 || (Config.schedItems (s.kind k).cur (s.schedData i)).all fun x =>
      (recordItems (r.length / 8) (r.drop 16)).any fun y =>
        leNat (y.1.take 2) % 2 ^ 15 == x.1 && leNat ((y.1.drop 4).take 4) == x.2.length && y.2.take x.2.length == x.2)

/-- Why a new instance rejects a hand-over record: the REASON of R378, or none (R292). -/
def rejectReason (image : List Byte) (digest : BitVec 384) (k : Fin 3) (i : Fin 6) (r : List Byte) : Option Nat :=
  let f (off n : Nat) : Nat := leNat (imageField r off n)
  if f 2 2 ≠ imageMajor image then some 1
  else if f 4 2 < imageMinMinor image then some 2
  else if f 0 1 ≠ k.val + 1 ∨ f 1 1 ≠ i.val ∨ f 8 4 ≠ r.length ∨ r.length % 8 ≠ 0 ∨ 2 ^ 20 < r.length
      ∨ f 0x0C 4 ≠ crc32 (putBytes r 0x0C [0, 0, 0, 0]) then some 3
  else if itemsKnown digest (recordItems (r.length / 8) (r.drop 16)) then none
  else some 4

/-- The kind of the Slack Water in progress, where it is this one and its commit has not begun (R290). -/
def State.slackOf (s : State) (kind : Nat) : Option (Fin 3 × SlackWater) :=
  match s.fw.slack with
  | some w =>
    if w.kind = kind ∧ 1 ≤ kind ∧ kind ≤ 3 ∧ w.committed = false then some (Fin.ofNat 3 (kind - 1), w) else none
  | none => none

def State.modInst (s : State) (k : Fin 3) (i : Fin 6) (f : FwInst → FwInst) : State :=
  s.setKind k { s.kind k with insts := (s.kind k).insts.set i (f (s.kind k).insts[i]) }

/-- The clock of an instance's firmware core. -/
def State.instNow (s : State) (k : Fin 3) (i : Fin 6) : Nat := s.fwCycle (coreOfInst k i)

/-- HAND_OVER: an old instance reaches its hand-over point and stops intake; its record, written as its image writes them, is
complete within 100,000 cycles of the stop. An empty record is one that is not complete yet (R290 step 4, R291, log 42). -/
def execHandOver (kind inst : Nat) (record : List Byte) (s : State) : Host.Outcome State Fault Refusal :=
  .next (match s.slackOf kind with
    | none => s
    | some (k, _) =>
      let i : Fin 6 := Fin.ofNat 6 inst
      let x := (s.kind k).insts[i]
      let now := s.instNow k i
      if 6 ≤ inst ∨ !((instances k).contains i) ∨ x.isNew = true ∨ x.running = false
          ∨ (record ≠ [] ∧ s.recordWritten k i record = false) then s
      else if x.stopped = false then
        s.modInst k i fun x => { x with stopped := true, stoppedAt := now, handOver := record }
      else if x.handOver = [] ∧ now ≤ x.stoppedAt + 100000 then s.modInst k i fun x => { x with handOver := record }
      else s)

/-- NEW_INSTANCE_START: the new instance starts on the same core; on acceptance of the record it resumes intake (R290 step
5, R292). -/
def execNewInstanceStart (kind inst : Nat) (s : State) : Host.Outcome State Fault Refusal :=
  .next (match s.slackOf kind with
    | none => s
    | some (k, w) =>
      let i : Fin 6 := Fin.ofNat 6 inst
      let x := (s.kind k).insts[i]
      if 6 ≤ inst ∨ x.stopped = false ∨ x.isNew = true ∨ x.handOver = [] then s
      else
        let ok := (rejectReason w.image w.digest k i x.handOver).isNone
        s.modInst k i fun x =>
          { x with isNew := true, startedAt := s.instNow k i, beats := 0, accepted := ok, stopped := !ok, window := false })

/-- LIVENESS_BEAT: within 200,000 cycles of the start, then at most 8,192 cycles after the one before; the state region is
as the beat leaves it. The acts that it makes visible are those of the firmware turns that follow it at once (R290 step 6,
R379, log 42). A restarted old instance beats as well (R380). -/
def execLivenessBeat (kind inst : Nat) (region : List Byte) (s : State) : Host.Outcome State Fault Refusal :=
  .next (
    if kind < 1 ∨ 3 < kind ∨ 6 ≤ inst ∨ 2 ^ 20 < region.length then s
    else
      let k : Fin 3 := Fin.ofNat 3 (kind - 1)
      let i : Fin 6 := Fin.ofNat 6 inst
      let x := (s.kind k).insts[i]
      let now := s.instNow k i
      if x.isNew = false ∧ (x.restartedAt.any fun t => now ≤ t + 200000) = true then
        s.modInst k i fun x => { x with restartedAt := none, lastBeat := now, region }
      else if x.isNew = true ∧ x.accepted = true
          ∧ (if x.beats = 0 then now ≤ x.startedAt + 200000 else now ≤ x.lastBeat + 8192) then
        s.modInst k i fun x => { x with beats := x.beats + 1, lastBeat := now, region, window := true }
      else s)

/-- No act of a new instance is visible until its next beat (R379). -/
def State.closeWindows (s : State) : State :=
  if s.fw.slack.isSome then
    { s with fw := { s.fw with kinds := s.fw.kinds.map fun x =>
        { x with insts := x.insts.map fun y => { y with window := false } } } }
  else s

/-- Step 5 of a commit: MGMT writes the new image to the boot flash (R293). -/
def State.commitFlash (s : State) (w : SlackWater) : State :=
  if (s.kind 0).insts[(0 : Fin 6)].serves ∧ 1 ≤ w.kind ∧ w.kind ≤ 3 then
    let k : Fin 3 := Fin.ofNat 3 (w.kind - 1)
    let s := s.setKind k ((s.kind k).flash (s.kind k).inForce)
    { s with fw := { s.fw with slack := none } }
  else s

/-- SLACK_WATER_COMMIT: steps 1 to 4, after the 64th beat of every instance; then, in a turn of its own, step 5 (R293). -/
def execSlackWaterCommit (s : State) : Host.Outcome State Fault Refusal :=
  .next (match s.fw.slack with
    | none => s
    | some w =>
      match s.slackOf w.kind with
      | none => if w.committed then s.commitFlash w else s
      | some (k, _) =>
        let x := s.kind k
        if !((instances k).all fun i => x.insts[i].isNew && x.insts[i].accepted && 64 ≤ x.insts[i].beats) then s
        else
          let y := x.setIdle w.image
          let insts := x.insts.map fun y => { y with isNew := false, accepted := false, beats := 0, handOver := [] }
          let x' : FwKind := { y with cur := w.digest, active := !x.active, insts }
          let s' := { s.setKind k x' with mseq := s.mseq + 1 }
          let s' := { s' with fw := { s'.fw with
            ms := extendSlot s.fw.ms (slotOfKind k) w.digest, slack := some { w with committed := true } } }
          s'.postAll 0x20 fw1Tile fun _ =>
            [(0x10, leBytes 4 s'.mseq.toNat), (0x14, leBytes 1 w.kind), (0x15, leBytes 1 (if x'.active then 1 else 0)),
             (0x16, leBytes 1 (imageSvn w.image)), (0x20, digestBytes x.cur), (0x50, digestBytes w.digest)])

/-- A fall-back of an instance for a REASON is due, and its STEP (R290, R378). -/
def State.fallBackStep (s : State) (k : Fin 3) (w : SlackWater) (i : Fin 6) (reason : Nat) : Option Nat :=
  let x := (s.kind k).insts[i]
  let now := s.instNow k i
  if 1 ≤ reason ∧ reason ≤ 4 then
    if x.isNew && !x.accepted && rejectReason w.image w.digest k i x.handOver == some reason then some 5 else none
  else if reason = 5 then
    if x.stopped && !x.isNew && x.handOver == [] && x.stoppedAt + 100000 < now then some 4 else none
  else if reason = 6 then if x.isNew && x.accepted && x.beats == 0 && x.startedAt + 200000 < now then some 6 else none
  else if reason = 7 then
    if x.isNew && x.accepted && x.beats != 0 && x.beats < 64 && x.lastBeat + 8192 < now then some 6 else none
  else if reason = 8 then if x.isNew then some (if x.accepted then 6 else 5) else none
  else none

/-- An instance after a fall-back: a new one is halted and the old one restarts from the state region (R380). -/
def FwInst.fallBack (x : FwInst) (now : Nat) : FwInst :=
  if x.isNew || x.stopped then
    { x with isNew := false, stopped := false, accepted := false, beats := 0, handOver := [], startedAt := now, restartedAt := some now }
  else x

/-- FALL_BACK: the first failure detected in an instance takes the kind back to the image in force (R380, R381). -/
def execFallBack (inst reason : Nat) (s : State) : Host.Outcome State Fault Refusal :=
  .next (match s.fw.slack with
    | none => s
    | some w =>
      match s.slackOf w.kind with
      | none => s
      | some (k, _) =>
        if 6 ≤ inst ∨ !((instances k).contains (Fin.ofNat 6 inst)) then s
        else
          match s.fallBackStep k w (Fin.ofNat 6 inst) reason with
          | none => s
          | some step =>
            let x := s.kind k
            let insts := Vector.ofFn fun (i : Fin 6) => x.insts[i].fallBack (s.instNow k i)
            let s := s.setKind k ({ x with insts } |>.setIdle [])
            let s := { s with fw := { s.fw with slack := none } }
            s.postAll 0x22 fw1Tile fun _ =>
              [(0x10, leBytes 1 w.kind), (0x11, leBytes 1 inst), (0x12, leBytes 1 step), (0x13, leBytes 1 reason),
               (0x20, digestBytes x.cur), (0x50, digestBytes w.digest)])

/-! ### Power (R19, R299) -/

/-- PWRSTAT (R299). -/
def Firmware.pwrstat (f : Firmware) : Nat :=
  f.power * 2 ^ 48 + f.inlet * 2 ^ 40 + (f.clk.toList.zipIdx.foldl (fun n e => n + e.1 * 2 ^ (4 * e.2)) 0) * 2 ^ 8
    + (if f.overtemp then 2 else 0) + if f.overpower then 1 else 0

/-- CLOCK_STEP: with the readings of power (W) and inlet (°C), the power manager lowers a die's core clock while one is
above its limit, or restores it once both are back; each step posts a record (R19, R299, R319). -/
def execClockStep (die : Nat) (up : Bool) (power inlet : Nat) (s : State) : Host.Outcome State Fault Refusal :=
  .next (
    if !(s.kind 0).insts[(0 : Fin 6)].serves then s
    else
      let hot : Bool := 35 < inlet
      let high : Bool := 2800 < power
      let f : Firmware := { s.fw with power := power % 65536, inlet := inlet % 256, overtemp := hot, overpower := high }
      if h : die < 8 then
        let c : Nat := f.clk[die]
        let c' : Nat := if up then c + 1 else c - 1
        if (up && decide (c < 7) && !hot && !high) || (!up && decide (0 < c) && (hot || high)) then
          ({ s with fw := { f with clk := f.clk.set die c' } } : State).postAll 0x21 fw0Tile fun _ =>
            [(0x10, leBytes 1 die), (0x11, leBytes 1 c'), (0x12, leBytes 1 ((if high then 1 else 0) + if hot then 2 else 0))]
        else { s with fw := f }
      else { s with fw := f })

/-! ### The fatal dump (R323, R388) -/

/-- A tile's entry of the dump: its registers, zeros where its router cannot be read (R323, R356). -/
def State.dumpTile (s : State) (t : TileId) : List Byte :=
  leBytes 8 t ++ (if (s.die (tileDie t)).severed then [] else leBytes 8 (s.twself t)
    ++ (List.range 8).flatMap fun k => leBytes 8 (s.twview t k))

/-- The dump's parts by offset (R323). With the security tile cordoned its registers are zero (R388). -/
def State.dumpParts (s : State) (reason : Nat) : List (Nat × List Byte) :=
  let secure : Bool := !(s.tile (roleTile 8 .security)).cordoned
  let digests := s.fw.ms.toList ++ s.fw.kinds.toList.map FwKind.cur
  [(0, leBytes 8 (1 + reason * 65536)), (8, leBytes 8 (s.fwCycle 0)), (16, leBytes 4 s.mseq.toNat ++ leBytes 4 s.cordons.toNat),
   (24, if secure then digests.flatMap digestBytes else [])]
    ++ (allTiles.zipIdx.map fun t => (0x1000 + 128 * t.2, s.dumpTile t.1))
    ++ [(0x10000, s.records.flatMap id)]

/-- MGMT cannot run after a fatal error: its firmware tile is cordoned, or FW0 is the core that halted; which core of the
eight halts is the device's choice (R388). -/
def State.mgmtLost (s : State) (reason : Nat) : Bool :=
  (s.tile fw0Tile).cordoned || (reason == 6 && s.draw.1 % 8 == 0)

/-- A fatal error: issue stops on every core, and the dump is written into its region on CD0 (R323, R388). -/
def State.fatalError (s : State) (reason : Nat) : State :=
  if s.fatal.isSome then s
  else
    let m := (s.zeroBytes 0 0x40000000).mem
    { s with fatal := some reason, dump := some (reason, s.picks), picks := s.picks + 1
             fw := { s.fw with mgmtDead := s.mgmtLost reason }
             mem := (s.dumpParts reason).foldl (fun m p => Memory.writeBytes m p.1 p.2) m }

/-- The condition of a REASON holds; 6 and 7 come from outside the model's state (R388). -/
def State.fatalDue (s : State) (reason : Nat) : Bool :=
  match reason with
  | 1 => (s.tile (ringBridge 8)).cordoned || (s.tile (ringBridge 9)).cordoned
  | 2 => (s.tile fw0Tile).cordoned || (s.tile fw1Tile).cordoned
  | 3 => (s.tile (roleTile 8 .security)).cordoned
  | 4 => (s.tile hostTile).cordoned
  | 5 => (List.finRange 3).any fun k => (instances k).any fun i =>
      (s.kind k).insts[i].restartedAt.any fun t => t + 200000 < s.instNow k i
  | 6 => s.fw.slack.all SlackWater.committed
  | 7 => true
  | _ => false

/-- FATAL_DUMP. -/
def execFatalDump (reason : Nat) (s : State) : Host.Outcome State Fault Refusal :=
  .next (if s.fatalDue reason then s.fatalError reason else s)

/-- A byte of the dump: the firmware SRAM's bytes are free (log 27). -/
def State.dumpByte (s : State) (pick off : Nat) : Byte :=
  if 0x01000000 ≤ off ∧ off < 0x03000000 then Config.firmwareSram pick (off - 0x01000000) else Memory.read s.mem off

/-! ### Soft errors (R345, R346) -/

/-- A register unit of a VT is poisoned. -/
def State.poisonReg (s : State) (id : Nat) (u : RegUnit) : State :=
  s.modVt id fun v => if v.poison.contains u || !(v.hasUnit u) then v else { v with poison := v.poison ++ [u] }

/-- A line of an L1 leaves it, and comes again from its home where that answers, with the stores that the core holds (R345). -/
def State.refetchL1 (s : State) (core line : Nat) : State :=
  let k := s.core core
  s.setCore core { k with
    l1 := if s.unreachable (line * 64) then k.l1.filter fun e => e.line != line
      else k.l1.map fun e => if e.line = line then (s.l1Line line).merged k.pend else e }

/-- A line of the instruction caches leaves them, and comes again from its home where that answers whole (R345). -/
def State.refetchCode (s : State) (core line : Nat) : State :=
  let bad := s.poisoned (line * 128) 128 || (linesOf (line * 128) 128).any fun l => s.unreachable (l * 64)
  let new (l : List (Nat × BitVec 1024)) : List (Nat × BitVec 1024) :=
    if bad then l.filter fun e => e.1 != line
    else l.map fun e => if e.1 = line then (line, s.codeLine (cachingOf 0 (line * 128) .normal) (line * 128)) else e
  s.setCore core { s.core core with icache := new (s.core core).icache, lanes := (s.core core).lanes.map new }

/-- A present line replaced. -/
def State.setL2 (s : State) (l : L2Line) : State := { s with l2 := s.l2.map fun x => if x.line = l.line then l else x }

/-- A clean line of L2 is read again from storage, in its place and with its pin (R92, R345). -/
def State.refetchL2 (s : State) (line : Nat) : State :=
  match s.l2Find line with
  | none => s
  | some l => if l.dirty then s else ((s.fromStorage l).setL2 { l with old := none }).notify (line * 64) 64

/-- A unit of storage, or of a dirty line, is poisoned. Under a clean line of L2 it is storage's: the line keeps its own bytes
(R345, R346). -/
def State.poisonMem (s : State) (loc : Nat) : State :=
  let mark : State := if s.poison.contains (loc / 8) then s else { s with poison := s.poison ++ [loc / 8] }
  match s.l2Find (loc / 64) with
  | none => mark
  | some l =>
    if l.dirty then mark
    else s.setL2 { l with old := some (s.storageLine l.line)
                          oldMarks := s.storageMarks l.line ||| BitVec.twoPow 8 (loc / 8 % 8) }

/-- A word of a gang's CSP window is poisoned. -/
def State.poisonCsp (s : State) (gang u : Nat) : State :=
  match s.gangs.get? gang with
  | some g =>
    let g' : Gang := { g with cspPoison := if g.cspPoison.contains u then g.cspPoison else g.cspPoison ++ [u] }
    { s with gangs := s.gangs.set gang g' }
  | none => s

/-- A barrier of a gang is poisoned. -/
def State.poisonBarrier (s : State) (gang b : Nat) : State :=
  match s.gangs.get? gang with
  | some g =>
    if h : b < 16 then
      let bar : Barrier := { g.barriers[b] with poisoned := true }
      let g' : Gang := { g with barriers := g.barriers.set b bar }
      { s with gangs := s.gangs.set gang g' }
    else s
  | none => s

/-- SOFT_ERROR: an uncorrectable error is corrected by a refetch or poisons its unit (R345); in a firmware state region or
MGMT's copy of the tables it is fatal (R388, log 55). -/
def execSoftError (u : SoftUnit) (s : State) : Host.Outcome State Fault Refusal :=
  .next (match u with
    | .l1 core line => s.refetchL1 core line
    | .icache core line => s.refetchCode core line
    | .l2clean line => s.refetchL2 line
    | .mem loc => s.poisonMem loc
    | .csp gang off => s.poisonCsp gang (off / 4)
    | .tcm vt off => s.modVt vt fun v =>
        { v with tcmPoison := if v.tcmPoison.contains (off / 8) then v.tcmPoison else v.tcmPoison ++ [off / 8] }
    | .reg vt u => s.poisonReg vt u
    | .future key => { s with futures := s.futures.mapVals fun k f => if k = key then { f with poisoned := true } else f }
    | .barrier gang b => s.poisonBarrier gang b
    | .firmware => s.fatalError 7)

end Sys2Proof.Machine
end

