-- ==== Sys2Proof/Machine/Integer.lean ====
section
/-! DEFINITION. Integer register, immediate, multiply and divide instructions (R158 to R161), and the saturating and
averaging operations of a VP (R208). -/

namespace Sys2Proof.Machine

open Sys2Proof

/-- A shared operation on two registers: 64 bits in the CT, IT elements in a VP (R158). -/
def State.intBinary (s : State) (f : (e : Nat) → BitVec e → BitVec e → BitVec e) (g : Guard) (d a b : Reg) : State :=
  s.shared g [a, b] [] (fun vt => vt.writeX d (f 64 (vt.readX a) (vt.readX b)))
    fun e vp => vp.binary e.w e.eInt e.nInt (predBit (vp.guardOf g)) d a b (f e.eInt)

/-- A shared operation on one register. -/
def State.intUnary (s : State) (f : (e : Nat) → BitVec e → BitVec e) (g : Guard) (d a : Reg) : State :=
  s.shared g [a] [] (fun vt => vt.writeX d (f 64 (vt.readX a)))
    fun e vp => vp.unary e.w e.eInt e.nInt (predBit (vp.guardOf g)) d a (f e.eInt)

/-- The immediate of a 12-bit field in `e` bits (R160). -/
def imm12 (e : Nat) (i : Fin 4096) : BitVec e := BitVec.ofInt e (sext 12 i.val)

/-- sext(IMM17) * 2^12 in `e` bits (R160). -/
def imm17Upper (e : Nat) (i : Fin 131072) : BitVec e := BitVec.ofInt e (sext 17 i.val * 4096)

/-- A VP-only operation on two IT elements (R208). -/
def State.vpIntBinary (s : State) (f : VpEnv → (e : Nat) → BitVec e → BitVec e → BitVec e) (g : Guard) (d a b : Reg) :
    State :=
  s.vpRegs g [a, b] [] fun e _ vp =>
    (vp.binary e.w e.eInt e.nInt (predBit (vp.guardOf g)) d a b (f e e.eInt)).map fun v => (v, 0)

/-- `add`: x + y, wrapping (R159). -/
def execAdd (g : Guard) (d a b : Reg) (s : State) : Host.Outcome State Fault Refusal :=
  .next (s.intBinary (fun _ x y => x + y) g d a b)

/-- `sub`: x - y, wrapping (R159). -/
def execSub (g : Guard) (d a b : Reg) (s : State) : Host.Outcome State Fault Refusal :=
  .next (s.intBinary (fun _ x y => x - y) g d a b)

/-- `and`: bitwise (R159). -/
def execAnd (g : Guard) (d a b : Reg) (s : State) : Host.Outcome State Fault Refusal :=
  .next (s.intBinary (fun _ x y => x &&& y) g d a b)

/-- `or`: bitwise (R159). -/
def execOr (g : Guard) (d a b : Reg) (s : State) : Host.Outcome State Fault Refusal :=
  .next (s.intBinary (fun _ x y => x ||| y) g d a b)

/-- `xor`: bitwise (R159). -/
def execXor (g : Guard) (d a b : Reg) (s : State) : Host.Outcome State Fault Refusal :=
  .next (s.intBinary (fun _ x y => x ^^^ y) g d a b)

/-- `sll`: shift left by y mod e (R159). -/
def execSll (g : Guard) (d a b : Reg) (s : State) : Host.Outcome State Fault Refusal :=
  .next (s.intBinary (fun _ x y => intSll x y) g d a b)

/-- `srl`: logical shift right (R159). -/
def execSrl (g : Guard) (d a b : Reg) (s : State) : Host.Outcome State Fault Refusal :=
  .next (s.intBinary (fun _ x y => intSrl x y) g d a b)

/-- `sra`: arithmetic shift right (R159). -/
def execSra (g : Guard) (d a b : Reg) (s : State) : Host.Outcome State Fault Refusal :=
  .next (s.intBinary (fun _ x y => intSra x y) g d a b)

/-- `min`: signed minimum (R159). -/
def execMin (g : Guard) (d a b : Reg) (s : State) : Host.Outcome State Fault Refusal :=
  .next (s.intBinary (fun _ x y => intMin x y) g d a b)

/-- `max`: signed maximum (R159). -/
def execMax (g : Guard) (d a b : Reg) (s : State) : Host.Outcome State Fault Refusal :=
  .next (s.intBinary (fun _ x y => intMax x y) g d a b)

/-- `minu`: unsigned minimum (R159). -/
def execMinu (g : Guard) (d a b : Reg) (s : State) : Host.Outcome State Fault Refusal :=
  .next (s.intBinary (fun _ x y => intMinu x y) g d a b)

/-- `maxu`: unsigned maximum (R159). -/
def execMaxu (g : Guard) (d a b : Reg) (s : State) : Host.Outcome State Fault Refusal :=
  .next (s.intBinary (fun _ x y => intMaxu x y) g d a b)

/-- `popc`: the number of 1 bits (R159). -/
def execPopc (g : Guard) (d a : Reg) (s : State) : Host.Outcome State Fault Refusal :=
  .next (s.intUnary (fun _ x => intPopc x) g d a)

/-- `clz`: leading zeros (R159). -/
def execClz (g : Guard) (d a : Reg) (s : State) : Host.Outcome State Fault Refusal :=
  .next (s.intUnary (fun _ x => intClz x) g d a)

/-- `ctz`: trailing zeros (R159). -/
def execCtz (g : Guard) (d a : Reg) (s : State) : Host.Outcome State Fault Refusal :=
  .next (s.intUnary (fun _ x => intCtz x) g d a)

/-- `addi` (R160). -/
def execAddi (g : Guard) (d a : Reg) (imm : Fin 4096) (s : State) : Host.Outcome State Fault Refusal :=
  .next (s.intUnary (fun e x => x + imm12 e imm) g d a)

/-- `andi` (R160). -/
def execAndi (g : Guard) (d a : Reg) (imm : Fin 4096) (s : State) : Host.Outcome State Fault Refusal :=
  .next (s.intUnary (fun e x => x &&& imm12 e imm) g d a)

/-- `ori` (R160). -/
def execOri (g : Guard) (d a : Reg) (imm : Fin 4096) (s : State) : Host.Outcome State Fault Refusal :=
  .next (s.intUnary (fun e x => x ||| imm12 e imm) g d a)

/-- `xori` (R160). -/
def execXori (g : Guard) (d a : Reg) (imm : Fin 4096) (s : State) : Host.Outcome State Fault Refusal :=
  .next (s.intUnary (fun e x => x ^^^ imm12 e imm) g d a)

/-- `slli`: the amount is below e (R160, R326). -/
def execSlli (g : Guard) (d a : Reg) (amt : Fin 64) (s : State) : Host.Outcome State Fault Refusal :=
  .next (s.intUnary (fun _ x => x <<< amt.val) g d a)

/-- `srli`: the amount is below e (R160, R326). -/
def execSrli (g : Guard) (d a : Reg) (amt : Fin 64) (s : State) : Host.Outcome State Fault Refusal :=
  .next (s.intUnary (fun _ x => x >>> amt.val) g d a)

/-- `srai`: the amount is below e (R160, R326). -/
def execSrai (g : Guard) (d a : Reg) (amt : Fin 64) (s : State) : Host.Outcome State Fault Refusal :=
  .next (s.intUnary (fun _ x => x.sshiftRight amt.val) g d a)

/-- `mul`: the low e bits of the product (R161). -/
def execMul (g : Guard) (d a b : Reg) (s : State) : Host.Outcome State Fault Refusal :=
  .next (s.intBinary (fun _ x y => x * y) g d a b)

/-- `mulh`: the high e bits of the signed product (R161). -/
def execMulh (g : Guard) (d a b : Reg) (s : State) : Host.Outcome State Fault Refusal :=
  .next (s.intBinary (fun _ x y => intMulh x y) g d a b)

/-- `mulhu`: the high e bits of the unsigned product (R161). -/
def execMulhu (g : Guard) (d a b : Reg) (s : State) : Host.Outcome State Fault Refusal :=
  .next (s.intBinary (fun _ x y => intMulhu x y) g d a b)

/-- `div`: signed quotient (R161). -/
def execDiv (g : Guard) (d a b : Reg) (s : State) : Host.Outcome State Fault Refusal :=
  .next (s.intBinary (fun _ x y => intDiv x y) g d a b)

/-- `divu`: unsigned quotient (R161). -/
def execDivu (g : Guard) (d a b : Reg) (s : State) : Host.Outcome State Fault Refusal :=
  .next (s.intBinary (fun _ x y => intDivu x y) g d a b)

/-- `rem`: signed remainder (R161). -/
def execRem (g : Guard) (d a b : Reg) (s : State) : Host.Outcome State Fault Refusal :=
  .next (s.intBinary (fun _ x y => intRem x y) g d a b)

/-- `remu`: unsigned remainder (R161). -/
def execRemu (g : Guard) (d a b : Reg) (s : State) : Host.Outcome State Fault Refusal :=
  .next (s.intBinary (fun _ x y => intRemu x y) g d a b)

/-- `lui`: sext(IMM17) * 2^12 in every element (R160). -/
def execLui (g : Guard) (d : Reg) (imm : Fin 131072) (s : State) : Host.Outcome State Fault Refusal :=
  .next (s.shared g [] [] (fun vt => vt.writeX d (imm17Upper 64 imm))
    fun e vp => vp.writeFrame e.w e.eInt e.nInt (predBit (vp.guardOf g)) d fun _ => imm17Upper e.eInt imm)

/-- `auipc`: PC + sext(IMM17) * 2^12, in the CT only (R160). -/
def execAuipc (g : Guard) (d : Reg) (imm : Fin 131072) (s : State) : Host.Outcome State Fault Refusal :=
  .next (s.ctRegs g [] fun vt => vt.writeX d (vt.pc + imm17Upper 64 imm))

/-- `adds`: signed saturating sum (R208). -/
def execAdds (g : Guard) (d a b : Reg) (s : State) : Host.Outcome State Fault Refusal :=
  .next (s.vpIntBinary (fun _ _ x y => intAdds x y) g d a b)

/-- `subs`: signed saturating difference (R208). -/
def execSubs (g : Guard) (d a b : Reg) (s : State) : Host.Outcome State Fault Refusal :=
  .next (s.vpIntBinary (fun _ _ x y => intSubs x y) g d a b)

/-- `addsu`: unsigned saturating sum (R208). -/
def execAddsu (g : Guard) (d a b : Reg) (s : State) : Host.Outcome State Fault Refusal :=
  .next (s.vpIntBinary (fun _ _ x y => intAddsu x y) g d a b)

/-- `subsu`: unsigned saturating difference (R208). -/
def execSubsu (g : Guard) (d a b : Reg) (s : State) : Host.Outcome State Fault Refusal :=
  .next (s.vpIntBinary (fun _ _ x y => intSubsu x y) g d a b)

/-- `avg`: signed average, rounded up (R208). -/
def execAvg (g : Guard) (d a b : Reg) (s : State) : Host.Outcome State Fault Refusal :=
  .next (s.vpIntBinary (fun _ _ x y => intAvg x y) g d a b)

/-- `avgu`: unsigned average, rounded up (R208). -/
def execAvgu (g : Guard) (d a b : Reg) (s : State) : Host.Outcome State Fault Refusal :=
  .next (s.vpIntBinary (fun _ _ x y => intAvgu x y) g d a b)

/-- `absd`: absolute difference in IT's signedness (R208). -/
def execAbsd (g : Guard) (d a b : Reg) (s : State) : Host.Outcome State Fault Refusal :=
  .next (s.vpIntBinary (fun v _ x y => intAbsd (itSigned v.it) x y) g d a b)

/-- `abs`: saturating absolute value (R208). -/
def execAbs (g : Guard) (d a : Reg) (s : State) : Host.Outcome State Fault Refusal :=
  .next (s.vpRegs g [a] [] fun e _ vp =>
    (vp.unary e.w e.eInt e.nInt (predBit (vp.guardOf g)) d a intAbs).map fun v => (v, 0))

end Sys2Proof.Machine
end

