-- ==== Sys2Proof/Machine/FloatOps.lean ====
section
/-! DEFINITION. Floating-point instructions of a VP (R200 to R205) and conversions (R206, R207). Every element ORs its
flags into FFLAGS; an element whose guard is 0 raises none. -/

namespace Sys2Proof.Machine

open Sys2Proof

/-- The flags of the guarded elements. -/
def orFlags (n : Nat) (guard : Nat → Bool) (f : Nat → FFlags) : FFlags :=
  (List.range n).foldl (fun fl k => if guard k then fl ||| f k else fl) 0

/-- Element k of a register of FT elements, as an encoding. -/
def VpEnv.enc (e : VpEnv) (v : VReg) (k : Nat) : Nat := (elem e.eFlt v k).toNat

/-- The format and the rounding of a VP instruction (R123, R141). -/
def VpEnv.fmt (e : VpEnv) : FloatFormat := ftFormat e.ft
def VpEnv.rnd (e : VpEnv) : Rounding := roundingOf e.frm

/-- The write of FT elements with their flags. -/
def VP.writeFloat (vp : VP) (e : VpEnv) (g : Guard) (d : Reg) (f : Nat → Nat × FFlags) : Option (VP × FFlags) :=
  let guard := predBit (vp.guardOf g)
  (vp.writeFrame e.w e.eFlt e.nFlt guard d fun k => BitVec.ofNat e.eFlt (f k).1).map fun v =>
    (v, orFlags e.nFlt guard fun k => (f k).2)

/-- An instruction on one FT register. -/
def State.fltUnary (s : State) (f : FloatFormat → Rounding → Nat → Nat × FFlags) (g : Guard) (d a : Reg) : State :=
  s.vpRegs g [a] [] fun e _ vp =>
    match vp.source a with
    | none => none
    | some (x, vp) => vp.writeFloat e g d fun k => f e.fmt e.rnd (e.enc x k)

/-- An instruction on two FT registers. -/
def State.fltBinary (s : State) (f : FloatFormat → Rounding → Nat → Nat → Nat × FFlags) (g : Guard) (d a b : Reg) : State :=
  s.vpRegs g [a, b] [] fun e _ vp =>
    match vp.source a with
    | none => none
    | some (x, vp) =>
      match vp.source b with
      | none => none
      | some (y, vp) => vp.writeFloat e g d fun k => f e.fmt e.rnd (e.enc x k) (e.enc y k)

/-- A fused instruction on three FT registers, popped in the order A, B, C (R204). -/
def State.fltFused (s : State) (negProd negC : Bool) (g : Guard) (d a b c : Reg) : State :=
  s.vpRegs g [a, b, c] [] fun e _ vp =>
    match vp.source a with
    | none => none
    | some (x, vp) =>
      match vp.source b with
      | none => none
      | some (y, vp) =>
        match vp.source c with
        | none => none
        | some (z, vp) =>
          vp.writeFloat e g d fun k =>
            let c := e.fmt.decode (e.enc z k)
            e.fmt.fused e.rnd negProd (e.fmt.decode (e.enc x k)) (e.fmt.decode (e.enc y k)) (if negC then c.neg else c)

/-- `fadd`: a + b, rounded once (R201). -/
def execFadd (g : Guard) (d a b : Reg) (s : State) : Host.Outcome State Fault Refusal :=
  .next (s.fltBinary (fun f r x y => f.add r (f.decode x) (f.decode y)) g d a b)

/-- `fsub`: a - b, rounded once (R201). -/
def execFsub (g : Guard) (d a b : Reg) (s : State) : Host.Outcome State Fault Refusal :=
  .next (s.fltBinary (fun f r x y => f.add r (f.decode x) (f.decode y).neg) g d a b)

/-- `fmul`: a * b, rounded once (R201). -/
def execFmul (g : Guard) (d a b : Reg) (s : State) : Host.Outcome State Fault Refusal :=
  .next (s.fltBinary (fun f r x y => f.mul r (f.decode x) (f.decode y)) g d a b)

/-- `fmin`: the minimum (R133, R201). -/
def execFmin (g : Guard) (d a b : Reg) (s : State) : Host.Outcome State Fault Refusal :=
  .next (s.fltBinary (fun f _ x y => f.minMax false x y) g d a b)

/-- `fmax`: the maximum (R133, R201). -/
def execFmax (g : Guard) (d a b : Reg) (s : State) : Host.Outcome State Fault Refusal :=
  .next (s.fltBinary (fun f _ x y => f.minMax true x y) g d a b)

/-- `fdiv`: a / b, rounded once (R201). -/
def execFdiv (g : Guard) (d a b : Reg) (s : State) : Host.Outcome State Fault Refusal :=
  .next (s.fltBinary (fun f r x y => f.div r (f.decode x) (f.decode y)) g d a b)

/-- `fsqrt`: the square root, rounded once (R202). -/
def execFsqrt (g : Guard) (d a : Reg) (s : State) : Host.Outcome State Fault Refusal :=
  .next (s.fltUnary (fun f r x => f.sqrt r (f.decode x)) g d a)

/-- `frcp`: the reciprocal, rounded once (R202). -/
def execFrcp (g : Guard) (d a : Reg) (s : State) : Host.Outcome State Fault Refusal :=
  .next (s.fltUnary (fun f r x => f.rcp r (f.decode x)) g d a)

/-- `frsq`: the reciprocal square root, rounded once (R202). -/
def execFrsq (g : Guard) (d a : Reg) (s : State) : Host.Outcome State Fault Refusal :=
  .next (s.fltUnary (fun f r x => f.rsq r (f.decode x)) g d a)

/-- `fexp2`: 2^a, rounded once (R202). -/
def execFexp2 (g : Guard) (d a : Reg) (s : State) : Host.Outcome State Fault Refusal :=
  .next (s.fltUnary (fun f r x => f.exp2 r (f.decode x)) g d a)

/-- `flog2`: log2 a, rounded once (R202). -/
def execFlog2 (g : Guard) (d a : Reg) (s : State) : Host.Outcome State Fault Refusal :=
  .next (s.fltUnary (fun f r x => f.log2 r (f.decode x)) g d a)

/-- `fabs`: the sign bit cleared (R203). -/
def execFabs (g : Guard) (d a : Reg) (s : State) : Host.Outcome State Fault Refusal :=
  .next (s.fltUnary (fun f _ x => f.signOp x false [f.decode x]) g d a)

/-- `fneg`: the sign bit inverted (R203). -/
def execFneg (g : Guard) (d a : Reg) (s : State) : Host.Outcome State Fault Refusal :=
  .next (s.fltUnary (fun f _ x => f.signOp x (!(f.signOf x)) [f.decode x]) g d a)

/-- `fsgnj`: the sign bit of b (R203). -/
def execFsgnj (g : Guard) (d a b : Reg) (s : State) : Host.Outcome State Fault Refusal :=
  .next (s.fltBinary (fun f _ x y => f.signOp x (f.signOf y) [f.decode x, f.decode y]) g d a b)

/-- `fclass`: the class mask (R203). -/
def execFclass (g : Guard) (d a : Reg) (s : State) : Host.Outcome State Fault Refusal :=
  .next (s.fltUnary (fun f _ x => (f.classOf x, signallingFlags [f.decode x])) g d a)

/-- `fma`: (a * b) + c, rounded once (R204). -/
def execFma (g : Guard) (d a b c : Reg) (s : State) : Host.Outcome State Fault Refusal :=
  .next (s.fltFused false false g d a b c)

/-- `fms`: (a * b) - c, rounded once (R204). -/
def execFms (g : Guard) (d a b c : Reg) (s : State) : Host.Outcome State Fault Refusal :=
  .next (s.fltFused false true g d a b c)

/-- `fnma`: -(a * b) + c, rounded once (R204). -/
def execFnma (g : Guard) (d a b c : Reg) (s : State) : Host.Outcome State Fault Refusal :=
  .next (s.fltFused true false g d a b c)

/-- `fnms`: -(a * b) - c, rounded once (R204). -/
def execFnms (g : Guard) (d a b c : Reg) (s : State) : Host.Outcome State Fault Refusal :=
  .next (s.fltFused true true g d a b c)

/-- `fcmp` (R205): the pair of predicates as in a `cmp` (R162). -/
def execFcmp (g : Guard) (pd1 pd2 : Fin 8) (c : FCond) (a b : Reg) (f : Comb) (s : State) : Host.Outcome State Fault Refusal :=
  .next (s.vpRegs g [a, b] [pd1] fun e _ vp =>
    match vp.source a with
    | none => none
    | some (x, vp) =>
      match vp.source b with
      | none => none
      | some (y, vp) =>
        let r (k : Nat) : Bool × FFlags := fcondHolds c (e.fmt.decode (e.enc x k)) (e.fmt.decode (e.enc y k))
        let guard := predBit (vp.guardOf g)
        some (vp.writeCompare e.nFlt guard pd1 pd2 f fun k => (r k).1, orFlags e.nFlt guard fun k => (r k).2))

/-! ### Conversions -/

/-- The number of elements of a conversion (R206). -/
def cvtCount (w : Nat) (src dst : Fmt) : Nat := 8 * w / max (fmtBits src) (fmtBits dst)

/-- `cvt` (R206). -/
def execCvt (g : Guard) (d a : Reg) (src dst : Fmt) (s : State) : Host.Outcome State Fault Refusal :=
  .next (s.vpRegs g [a] [] fun e _ vp =>
    match vp.source a with
    | none => none
    | some (x, vp) =>
      let n := cvtCount e.w src dst
      let guard := predBit (vp.guardOf g)
      let r (k : Nat) : Nat × FFlags := convertElement src dst e.rnd (elem (fmtBits src) x k).toNat
      (vp.writeFrame e.w (fmtBits dst) n guard d fun k => BitVec.ofNat (fmtBits dst) (r k).1).map fun v =>
        (v, orFlags n guard fun k => (r k).2))

/-- The guarded elements of block b of a `cvts` (R207). -/
def cvtsBlock (n b : Nat) (guard : Nat → Bool) : List Nat := (List.range n).filter fun k => k / 32 == b && guard k

/-- E8M0 encoding of a scale; 0xFF for none (R131). -/
def scaleCode : Option Int → Nat
  | some s => (s + 127).toNat
  | none => 0xFF

/-- `cvts`: the scale of each block goes to its byte of v[d + 1] where the block has a guarded element (R207). -/
def execCvts (g : Guard) (d a : Reg) (src dst : Fmt) (s : State) : Host.Outcome State Fault Refusal :=
  .next (s.vpRegs g [a] [] fun e _ vp =>
    match vp.source a with
    | none => none
    | some (x, vp) =>
      let n := cvtCount e.w src dst
      let guard := predBit (vp.guardOf g)
      let val (k : Nat) : FValue := fmtValue src (elem (fmtBits src) x k).toNat
      let scale (b : Nat) : Option Int := blockScale dst ((cvtsBlock n b guard).map val)
      let r (k : Nat) : Nat × FFlags := scaledElement dst (scale (k / 32)) (val k)
      let blocks := (List.range ((n + 31) / 32)).filter fun b => cvtsBlock n b guard != []
      let invalid : FFlags := if blocks.any fun b => (scale b).isNone then flagNV else 0
      match vp.writeFrame e.w (fmtBits dst) n guard d fun k => BitVec.ofNat (fmtBits dst) (r k).1 with
      | none => none
      | some vp =>
        (vp.writeFrame e.w 8 ((n + 31) / 32) (fun b => blocks.contains b) (d + 1) fun b =>
          BitVec.ofNat 8 (scaleCode (scale b))).map fun v => (v, orFlags n guard (fun k => (r k).2) ||| invalid))

end Sys2Proof.Machine
end

