-- ==== Sys2Proof/Machine/Management.lean ====
section
/-! DEFINITION. Management requests (R282, R86, R254, R272, R290, R376, R377) and SPDM (R282, R289). -/

namespace Sys2Proof.Machine

open Sys2Proof

/-! ### Requests and responses -/

/-- Statuses of R282. -/
def stOk : Nat := 0
def stBusy : Nat := 1
def stBadImage : Nat := 2
def stSvnLow : Nat := 3
def stDenied : Nat := 4
def stNoImage : Nat := 5
def stMalformed : Nat := 6
def stRefused : Nat := 7

/-- A response as a MGMT message on the request's connection (R282). -/
def State.respond (s : State) (r : Request) (code status : Nat) (results : List Nat) (tail : List Byte) : State :=
  let bs := leBytes 1 2 ++ leBytes 2 (code ||| 0x8000) ++ leBytes 1 status ++ leBytes 4 r.rtag ++ leBytes 8 r.domain
    ++ results.flatMap (leBytes 8) ++ tail
  s.sendSequenced r.conn 0x06 0 0 bs.length bs none 0

/-- What a request comes to: its status, results, bytes, and the state after it. -/
structure Reply where
  status : Nat
  results : List Nat := []
  tail : List Byte := []
  state : State

def okReply (s : State) : Reply := { status := stOk, state := s }

/-- The request is REFUSED and nothing changes. -/
def refuse (s : State) : Reply := { status := stRefused, state := s }

/-- The instance of MGMT, or the security tile in its place, takes requests: not during MGMT's hand-over, and from a new
instance only at its beats (R290, R376, R379, log 40); after a fatal error connection 0 stays open (R323, R388). -/
def State.mgmtServes (s : State) : Bool :=
  let x := (s.kind 0).insts[(0 : Fin 6)]
  s.fatal.isSome || !x.running || x.serves

/-- What a code is about: its number, whether it is served on connection 0 only, whether it names a domain. -/
structure Code where
  n : Nat
  owner : Bool
  names : Bool

/-- The status that answers a request before it is looked at: MALFORMED, DENIED, NOIMAGE, or REFUSED after a fatal error,
when only reading is served (R282, R323, R376, log 39). With MGMT lost, the security tile serves as where no image of it was
found (R388). -/
def State.screen (s : State) (r : Request) (dom : Nat) (c : Code) (legal imageless : Bool) : Nat :=
  let up (k : Fin 3) : Bool := (s.kind k).insts[(0 : Fin 6)].running && !s.fw.mgmtDead
  if 63 < r.domain ∨ legal = false ∨ (c.names = false ∧ r.domain ≠ 0) then stMalformed
  else if r.conn ≠ 0 ∧ (c.owner = true ∨ dom ≠ r.domain) then stDenied
  else if (!(up 0) && !imageless) || ((!(up 1) || !(up 2)) && (c.n == 1 || c.n == 3 || c.n == 4)) then stNoImage
  else if s.fatal.isSome && !s.fw.mgmtDead && c.n < 0x0A then stRefused
  else stOk

/-- A management request on an open host connection is answered (R282). -/
def State.serve (s : State) (r : Request) (c : Code) (legal imageless : Bool) (body : State → Reply) : State :=
  match s.conn? r.conn with
  | none => s
  | some k =>
    if k.frozen || isPeer r.conn || !s.mgmtServes then s
    else
      let st := s.screen r k.domain c legal imageless
      if st ≠ stOk then s.respond r c.n st [] []
      else
        let b := body s
        b.state.respond r c.n b.status b.results b.tail

/-! ### Queues (R254, R272) -/

/-- The 4 KiB pages that a range of virtual addresses touches. -/
def pagesOf (va n : Nat) : List Nat := (List.range ((va + n - 1) / 4096 - va / 4096 + 1)).map fun k => (va / 4096 + k) * 4096

/-- Some byte of a page of storage is reserved (R76). -/
def State.pageReserved (s : State) (loc : Nat) : Bool := s.reserved.any fun r => r.1 < loc + 4096 && loc < r.1 + r.2

/-- Every byte translates in the domain with R and W, outside every reserved region (R254). -/
def State.areaUsable (s : State) (dom va n : Nat) : Bool :=
  va + n ≤ 2 ^ 48 && (pagesOf va n).all fun p =>
    match s.resolve p (s.walk dom p) with
    | some t => entryR t.leaf && entryW t.leaf && !(s.pageReserved t.loc)
    | none => false

/-- CREATEQ (R254, R282). -/
def execCreateq (r : Request) (queue : Nat) (ring : Word64) (log2n prio : Nat) (bitmap doorbell : Word64) (s : State) :
    Host.Outcome State Fault Refusal :=
  .next (s.serve r ⟨0x01, false, true⟩
    (queue ≤ 4095 && 4 ≤ log2n && log2n ≤ 16 && prio ≤ 7 && ring.toNat % 4096 == 0 && bitmap.toNat % 64 == 0
      && doorbell.toNat % 8 == 0) false fun s =>
    let free : Bool := match s.queue? r.domain queue with
      | some q => q.st == .destroyed
      | none => true
    if free && s.areaUsable r.domain ring.toNat (128 * 2 ^ log2n) && s.areaUsable r.domain bitmap.toNat (2 ^ log2n / 8)
        && s.areaUsable r.domain doorbell.toNat 8 then
      okReply (s.setQueue r.domain queue { ring, log2n, prio, bitmap, doorbell })
    else refuse s)

/-- DESTROYQ (R272, R282, log 38). -/
def execDestroyq (r : Request) (queue : Nat) (drain : Bool) (s : State) : Host.Outcome State Fault Refusal :=
  .next (s.serve r ⟨0x02, false, true⟩ (queue ≤ 4095) false fun s =>
    if (s.queue? r.domain queue).any fun q => q.st == .active then
      okReply (s.destroyQueue r.domain queue (if drain then 1 else 0))
    else refuse s)

/-! ### Connections (R275, R282) -/

/-- A number below 4,096, from `lo`, whose connection is not open; which one is the device's choice (R282). -/
def State.freshConn (s : State) (lo : Nat) (key : Nat → ConnKey) : Option Nat × State :=
  let (k, s) := s.draw
  let m := 4096 - lo
  ((findFrom (fun n => (s.conn? (key (lo + n % m))).isNone) (k % m) m).map fun n => lo + n % m, s)

/-- A connection is opened with both sequences at PSN 0 (R382). -/
def State.openConn (s : State) (lo : Nat) (key : Nat → ConnKey) (c : Conn) : Reply :=
  match s.freshConn lo key with
  | (some n, s) => { status := stOk, results := [n], state := s.setConn (key n) c }
  | (none, s) => refuse s

/-- OPENHOST (R275, R282). -/
def execOpenhost (r : Request) (addrHi addrLo : Word64) (s : State) : Host.Outcome State Fault Refusal :=
  .next (s.serve r ⟨0x03, true, true⟩ true false fun s =>
    s.openConn 1 id { domain := r.domain, addrHi, addrLo })

/-- OPENPEER (R275, R282). A cordoned port serves none (R360). -/
def execOpenpeer (r : Request) (port : Nat) (addrHi addrLo : Word64) (remote : Nat) (s : State) :
    Host.Outcome State Fault Refusal :=
  .next (s.serve r ⟨0x04, true, true⟩ (port ≤ 7 && remote ≤ 4095) false fun s =>
    if (s.tile (peerTile port)).cordoned then refuse s
    else s.openConn 0 peerKey { domain := r.domain, port, addrHi, addrLo, remote })

/-- CLOSE: a host connection 1 to 4,095, or a peer connection; commands with messages outstanding on it end with LINK (R282,
R382). -/
def execClose (r : Request) (conn : ConnKey) (s : State) : Host.Outcome State Fault Refusal :=
  .next (s.serve r ⟨0x05, true, false⟩
    ((1 ≤ conn && conn ≤ 4095) || (0x10000 ≤ conn && conn ≤ 0x10FFF)) false fun s =>
    match s.conn? conn with
    | some c =>
      let s := s.endLinks conn c
      okReply { s with conns := s.conns.erase conn }
    | none => refuse s)

/-! ### Table leaves (R81, R82, R86, R316, R343, R365) -/

/-- The bytes that a leaf at a level maps, and whether an address is aligned to them. -/
def leafBytes (level : Nat) : Nat := 2 ^ levelShift level

/-- Keys of the domain's entries below a leaf at `va`. -/
def keyInside (dom level va key : Nat) : Bool :=
  keyDomain key == dom && level < keyLevel key && va ≤ keyVa key && keyVa key < va + leafBytes level

/-- A leaf above, of a level `l` on the way to `va`, gives way to a table: its pages keep their entries; an entry that leads
nowhere becomes a non-leaf one. -/
def openLevel (dom va : Nat) (t : SMap Word64) (l : Nat) : SMap Word64 :=
  let key := tableKey dom l va
  let w := t.getD key 0
  if entryV w && !(entryMalformed l w) then (if entryLeafBit w then splitLeaf t key w else t) else t.set key 1

/-- The tables after a leaf entry is written at `va`; with V = 0 the mapping is gone. MGMT builds and frees the non-leaf tables
itself (R282). -/
def leafTables (t : SMap Word64) (dom va level : Nat) (w : Word64) : SMap Word64 :=
  let above := (List.range (level - 1)).map fun k => k + 1
  let t := if entryV w then above.foldl (openLevel dom va) t
    else above.foldl (fun t l =>
      let k := tableKey dom l va
      let x := t.getD k 0
      if entryV x && !(entryMalformed l x) && entryLeafBit x then splitLeaf t k x else t) t
  let t : SMap Word64 := t.filter fun e => !(keyInside dom level va e.1)
  if entryV w then t.set (tableKey dom level va) w else t.erase (tableKey dom level va)

/-- MGMT writes a leaf and drops every cached translation; accesses translated before are performed before (R86, log 41). -/
def State.writeLeaf (s : State) (dom va level : Nat) (w : Word64) : State :=
  (s.flushAll.putTables (leafTables s.tables dom va level w)).tlbFlush

/-- The locations of a leaf's 4 KiB pages, where they have storage. -/
def State.leafPages (s : State) (level : Nat) (w : Word64) : List Nat :=
  if entryV w && !(entryMalformed level w) then
    (List.range (leafBytes level / 4096)).filterMap fun k => s.locOf (leafPa level w (k * 4096)) (entryHome w)
  else []

/-- The change would remove or reduce the translation of a page of the domain's event ring, or change its location (R316). -/
def State.harmsRing (s s' : State) (dom : Nat) : Bool :=
  let e := (s.domain dom).evring
  let base := bits64 e 12 36 * 4096
  e != 0 && (pagesOf base (128 * 2 ^ (bits64 e 48 4 + 5))).any fun p =>
    match s.resolve p (s.walk dom p), s'.resolve p (s'.walk dom p) with
    | some a, some b => a.loc != b.loc || (entryR a.leaf && !(entryR b.leaf)) || (entryW a.leaf && !(entryW b.leaf))
        || (entryX a.leaf && !(entryX b.leaf)) || (!(entryLost a.leaf) && entryLost b.leaf)
    | some _, none => true
    | none, _ => false

/-- The leaf maps, without LOST, HBM storage that is out of service and not zero-filled yet: such pages stay LOST, whatever maps
them (R343, R365, log 41). -/
def State.clearsDead (s : State) (level : Nat) (w : Word64) : Bool :=
  entryV w && !(entryLost w) && (s.leafPages level w).any fun loc =>
    isHbm loc && (!(s.halfInService loc) || (s.die (homeDie loc)).severed)

/-- MAPLEAF (R86, R282). A leaf that R82 calls malformed is written as it is (log 71). -/
def execMapleaf (r : Request) (va : Word64) (level : Nat) (entry : Word64) (s : State) : Host.Outcome State Fault Refusal :=
  .next (s.serve r ⟨0x06, false, true⟩
    (2 ≤ level && level ≤ 4 && va.toNat < 2 ^ 48 && va.toNat % leafBytes level == 0
      && (!(entryV entry) || entryIsLeaf level entry)) false fun s =>
    let s' := s.writeLeaf r.domain va.toNat level entry
    if (s.leafPages level entry).any s.pageReserved || s.harmsRing s' r.domain || s.clearsDead level entry then
      refuse s
    else okReply s')

/-! ### Images (R286, R290, R376, R377) -/

/-- A kind by its number 1 to 3. -/
def kindOf (kind : Nat) : Option (Fin 3) := if 1 ≤ kind ∧ kind ≤ 3 then some (Fin.ofNat 3 (kind - 1)) else none

/-- The status by which a Slack Water in progress answers STAGE and STAGEEND (R290). -/
def State.staging (s : State) : Bool := s.fw.slack.isSome

/-- STAGE: image bytes into the idle bank, which holds 2 MiB (R284, R290). -/
def execStage (r : Request) (kind offset : Nat) (bytes : List Byte) (s : State) : Host.Outcome State Fault Refusal :=
  .next (s.serve r ⟨0x07, true, false⟩ ((kindOf kind).isSome && bytes.length ≤ 8160) true fun s =>
    match kindOf kind with
    | none => refuse s
    | some k =>
      if s.staging then { status := stBusy, state := s }
      else if 0x200000 < offset + bytes.length then refuse s
      else
        let x := s.kind k
        let bank := padTo (max x.idle.length offset) x.idle
        okReply (s.setKind k (x.setIdle (putBytes bank offset bytes))))

/-- An accepted image of a kind that does not run takes the place of the flash copies: start goes on from step 3, or the
kind is measured and started on its own; MGMT then writes it to the boot flash (R287, R376). After a fatal error nothing is
started (R323). -/
def Firmware.stageMissing (f : Firmware) (k : Fin 3) (image : List Byte) (links : Vector Link 4) (stopped : Bool) : Firmware :=
  let f : Firmware := { f with kinds := f.kinds.set k { (f.kinds[k].setIdle []) with found := image, flashDue := true } }
  if stopped then f
  else if f.mgmtUp then
    let f := f.startKind k
    { f with kinds := f.kinds.set k ((f.kinds[k].run k).settleFlash) }
  else f.goOn links

/-- STAGEEND: the staged image is verified; its digest is pending, or, where no image of its kind was accepted at start, it
is measured and started at once. Any other status clears the idle bank (R290 steps 2 and 3, R376, R377). -/
def execStageend (r : Request) (kind length : Nat) (s : State) : Host.Outcome State Fault Refusal :=
  .next (s.serve r ⟨0x08, true, false⟩ (kindOf kind).isSome true fun s =>
    match kindOf kind with
    | none => refuse s
    | some k =>
      let x := s.kind k
      let image := padTo length x.idle
      if s.staging then { status := stBusy, state := s.setKind k (x.setIdle []) }
      else
        match if 0x200000 < length then .badImage else verify k x image with
        | .badImage => { status := stBadImage, state := s.setKind k (x.setIdle []) }
        | .svnLow => { status := stSvnLow, state := s.setKind k (x.setIdle []) }
        | .accepted =>
          if x.insts[(0 : Fin 6)].running then
            let s := s.setKind k (x.setIdle image)
            okReply { s with fw := { s.fw with slack := some { kind, digest := imageDigest image, image } } }
          else okReply { s with fw := s.fw.stageMissing k image s.links s.fatal.isSome })

/-- RAISESVN: the minimum is raised, never lowered (R286). -/
def execRaisesvn (r : Request) (kind svn : Nat) (s : State) : Host.Outcome State Fault Refusal :=
  .next (s.serve r ⟨0x09, true, false⟩ ((kindOf kind).isSome && svn ≤ 255) false fun s =>
    match kindOf kind with
    | none => refuse s
    | some k =>
      if svn < (s.kind k).minSvn then refuse s else okReply (s.setKind k { s.kind k with minSvn := svn }))

/-! ### Reading (R282, R299, R323, R375, R387, R388) -/

/-- BOOTSTAT (R375). -/
def Firmware.bootstat (f : Firmware) : Nat := f.kinds[0].boot + f.kinds[1].boot * 4 + f.kinds[2].boot * 16

/-- The value of a register; `none` where it names nothing. -/
def State.register (s : State) (dom reg index : Nat) : Option Nat :=
  match reg with
  | 1 => some s.fw.bootstat
  | 2 => some s.fw.pwrstat
  | 3 => (s.queue? dom index).map fun q => q.qfault.toNat
  | 4 => if (tileRole index).isSome then some (s.twself index) else none
  | 5 => if (tileRole (index % 65536)).isSome then some (s.twview (index % 65536) (index / 65536)) else none
  | _ => none

/-- The limits of READREG's arguments (R282). -/
def registerLegal (reg index : Nat) : Bool :=
  match reg with
  | 1 | 2 => index == 0
  | 3 => index ≤ 4095
  | 4 => index < 2 ^ 16
  | 5 => index < 2 ^ 19
  | _ => false

/-- READREG: QFAULT of the connection's own domain on any connection, the others on connection 0 only. -/
def execReadreg (r : Request) (reg index : Nat) (s : State) : Host.Outcome State Fault Refusal :=
  .next (s.serve r ⟨0x0A, reg != 3, reg == 3⟩ (registerLegal reg index) (reg == 1) fun s =>
    match s.register r.domain reg index with
    | some v => { status := stOk, results := [v], state := s }
    | none => refuse s)

/-- READDUMP: bytes of the dump region of 1 GiB. -/
def execReaddump (r : Request) (offset length : Nat) (s : State) : Host.Outcome State Fault Refusal :=
  .next (s.serve r ⟨0x0B, true, false⟩ (1 ≤ length && length ≤ 8176) false fun s =>
    match s.dump with
    | none => refuse s
    | some d =>
      if 0x40000000 < offset + length then refuse s
      else { status := stOk, tail := (List.range length).map fun k => s.dumpByte d.2 (offset + k), state := s })

/-- RELEASEDUMP. -/
def execReleasedump (r : Request) (s : State) : Host.Outcome State Fault Refusal :=
  .next (s.serve r ⟨0x0C, true, false⟩ true false fun s =>
    if s.dump.isSome then okReply { s with dump := none } else refuse s)

/-- READCTX: bytes of the context record of a FROZEN VT (R65, R322). -/
def execReadctx (r : Request) (vt offset length : Nat) (s : State) : Host.Outcome State Fault Refusal :=
  .next (s.serve r ⟨0x0D, true, true⟩ (1 ≤ length && length ≤ 8176) false fun s =>
    match s.vt? vt with
    | none => refuse s
    | some v =>
      match v.ctx with
      | none => refuse s
      | some c =>
        if v.st ≠ .frozen ∨ c.2 < offset + length ∨ s.storageReachable c.1 = false then refuse s
        else { status := stOk, tail := Memory.readBytes s.mem (c.1 + offset) length, state := s })

/-! ### SPDM (R282, R289) -/

/-- The measurement blocks 1 to 8 and 17 to 19, taken under one lock (R289). -/
def State.blocks (s : State) : List (BitVec 384) := s.fw.ms.toList ++ s.fw.kinds.toList.map FwKind.cur

/-- Bytes [off, off + n) of the part of an answer that the spec leaves open (log 35). -/
def spdmOpen (values : List (BitVec 384)) (msg : List Byte) (off n : Nat) : List Byte :=
  padTo n ((Config.spdmAnswer values msg).drop off)

/-- An SPDM 1.3 answer: version, code, two parameters, the rest. -/
def spdmMessage (version code p1 p2 : Nat) (rest : List Byte) : List Byte :=
  leBytes 1 version ++ leBytes 1 code ++ leBytes 1 p1 ++ leBytes 1 p2 ++ rest

/-- An SPDM answer travels as a MGMT message on the connection (R282). -/
def State.spdm (s : State) (conn : Nat) (answer : List Byte) : State :=
  match s.conn? conn with
  | none => s
  | some c =>
    if c.frozen || isPeer conn then s
    else
      let bs := leBytes 1 1 ++ answer
      s.sendSequenced conn 0x06 0 0 bs.length bs none 0

/-- GET_VERSION: SPDM 1.3 and no other (R282). -/
def execGetVersion (conn : Nat) (_msg : List Byte) (s : State) : Host.Outcome State Fault Refusal :=
  .next (s.spdm conn (spdmMessage 0x10 0x04 0 0 [0, 1, 0x00, 0x13]))

/-- GET_CAPABILITIES: certificates, challenge, measurements with a signature; nothing of a secure session (R282, log 35). -/
def execGetCapabilities (conn : Nat) (msg : List Byte) (s : State) : Host.Outcome State Fault Refusal :=
  .next (s.spdm conn (spdmMessage 0x13 0x61 0 0
    ([0] ++ spdmOpen [] msg 0 1 ++ [0, 0] ++ leBytes 4 0x16 ++ spdmOpen [] msg 1 8)))

/-- NEGOTIATE_ALGORITHMS: ECDSA with P-384, SHA-384 for it and for measurements (R282, log 35). -/
def execNegotiateAlgorithms (conn : Nat) (_msg : List Byte) (s : State) : Host.Outcome State Fault Refusal :=
  .next (s.spdm conn (spdmMessage 0x13 0x63 0 0
    (leBytes 2 36 ++ [1, 0] ++ leBytes 4 4 ++ leBytes 4 0x80 ++ leBytes 4 2 ++ List.replicate 16 0)))

/-- GET_DIGESTS: the digests of the certificate chains. -/
def execGetDigests (conn : Nat) (msg : List Byte) (s : State) : Host.Outcome State Fault Refusal :=
  .next (s.spdm conn (leBytes 1 0x13 ++ leBytes 1 0x01 ++ Config.spdmAnswer [] msg))

/-- GET_CERTIFICATE: a part of a certificate chain. -/
def execGetCertificate (conn : Nat) (msg : List Byte) (s : State) : Host.Outcome State Fault Refusal :=
  .next (s.spdm conn (leBytes 1 0x13 ++ leBytes 1 0x02 ++ Config.spdmAnswer [] msg))

/-- CHALLENGE: its answer covers the measurements. -/
def execChallenge (conn : Nat) (msg : List Byte) (s : State) : Host.Outcome State Fault Refusal :=
  .next (s.spdm conn (leBytes 1 0x13 ++ leBytes 1 0x03 ++ Config.spdmAnswer s.blocks msg))

/-- The numbers of the measurement blocks, in order (R289). -/
def blockNumbers : List Nat := [1, 2, 3, 4, 5, 6, 7, 8, 17, 18, 19]

/-- A measurement block: its number, DMTF's specification, a digest of 48 bytes of a type that the spec leaves open (R289,
log 35). -/
def spdmBlock (values : List (BitVec 384)) (msg : List Byte) (b : Nat × BitVec 384) : List Byte :=
  leBytes 1 b.1 ++ [1] ++ leBytes 2 51 ++ leBytes 1 (leNat (spdmOpen values msg b.1 1) % 128) ++ leBytes 2 48 ++ digestBytes b.2

/-- GET_MEASUREMENTS: with operation 0 the number of blocks, with 0xFF every block, else the one it names, all of one state
(R289, log 35). -/
def execGetMeasurements (conn : Nat) (msg : List Byte) (s : State) : Host.Outcome State Fault Refusal :=
  let op := leNat ((msg.drop 3).take 1)
  let bs := if op = 0 then [] else (blockNumbers.zip s.blocks).filter fun b => op == 0xFF || b.1 == op
  let recs := bs.flatMap (spdmBlock s.blocks msg)
  .next (s.spdm conn (spdmMessage 0x13 0x60 (if op = 0 then blockNumbers.length else 0) 0
    (leBytes 1 bs.length ++ leBytes 3 recs.length ++ recs ++ (Config.spdmAnswer s.blocks msg).drop 32)))

/-! ### MGMT messages as they arrive (R277, R282) -/

/-- The arguments of a code, 8 bytes each, from offset 0x10. -/
def argOf (bs : List Byte) (k : Nat) : Nat := leNat ((bs.drop (16 + 8 * k)).take 8)

/-- How many arguments a code has (R282). -/
def argCount : Nat → Option Nat
  | 0x01 => some 6
  | 0x02 => some 2
  | 0x03 => some 2
  | 0x04 => some 4
  | 0x05 => some 1
  | 0x06 => some 3
  | 0x07 => some 2
  | 0x08 => some 2
  | 0x09 => some 2
  | 0x0A => some 2
  | 0x0B => some 2
  | 0x0C => some 0
  | 0x0D => some 3
  | _ => none

/-- What an operation does to a state. -/
abbrev Meaning := State → Host.Outcome State Fault Refusal

/-- The request of a code with its arguments. -/
def requestOf (r : Request) (code : Nat) (bs : List Byte) : Option Meaning :=
  let a := argOf bs
  let w (k : Nat) : Word64 := BitVec.ofNat 64 (a k)
  match code with
  | 0x01 => some (execCreateq r (a 0) (w 1) (a 2) (a 3) (w 4) (w 5))
  | 0x02 => if a 1 ≤ 1 then some (execDestroyq r (a 0) (a 1 == 1)) else none
  | 0x03 => some (execOpenhost r (w 0) (w 1))
  | 0x04 => some (execOpenpeer r (a 0) (w 1) (w 2) (a 3))
  | 0x05 => some (execClose r (a 0))
  | 0x06 => some (execMapleaf r (w 0) (a 1) (w 2))
  | 0x07 => some (execStage r (a 0) (a 1) (bs.drop 32))
  | 0x08 => some (execStageend r (a 0) (a 1))
  | 0x09 => some (execRaisesvn r (a 0) (a 1))
  | 0x0A => some (execReadreg r (a 0) (a 1))
  | 0x0B => some (execReaddump r (a 0) (a 1))
  | 0x0C => some (execReleasedump r)
  | 0x0D => some (execReadctx r (a 0) (a 1) (a 2))
  | _ => none

/-- An SPDM 1.3 request by its code, the second byte of the message (log 35). -/
def spdmOf (conn : Nat) (msg : List Byte) : Option Meaning :=
  match leNat ((msg.drop 1).take 1) with
  | 0x81 => some (execGetDigests conn msg)
  | 0x82 => some (execGetCertificate conn msg)
  | 0x83 => some (execChallenge conn msg)
  | 0x84 => some (execGetVersion conn msg)
  | 0xE0 => some (execGetMeasurements conn msg)
  | 0xE1 => some (execGetCapabilities conn msg)
  | 0xE3 => some (execNegotiateAlgorithms conn msg)
  | _ => none

/-- What a MGMT payload asks for. -/
inductive MgmtAsk where
  | run (f : Meaning)
  /-- A request that cannot be parsed, with its head and code. -/
  | malformed (r : Request) (code : Nat)
  | nothing

/-- A MGMT payload after its selector has been checked (R282). -/
def mgmtAsk (conn : Nat) (bs : List Byte) : MgmtAsk :=
  if leNat (bs.take 1) = 1 then
    match spdmOf conn (bs.drop 1) with
    | some f => .run f
    | none => .nothing
  else
    let h := padTo 16 bs
    let code := leNat ((h.drop 1).take 2)
    let r : Request := { conn, rtag := leNat ((h.drop 4).take 4), domain := leNat ((h.drop 8).take 8) }
    match argCount code with
    | none => .malformed r code
    | some n =>
      if bs.length < 16 + 8 * n ∨ (code ≠ 0x07 ∧ bs.length ≠ 16 + 8 * n) ∨ leNat ((h.drop 3).take 1) ≠ 0 then .malformed r code
      else
        match requestOf r code bs with
        | some f => .run f
        | none => .malformed r code

/-- The selector of a MGMT payload is one of the two, and the message legal (R277, R282). -/
def mgmtLegal (p : Packet) : Bool :=
  packetLenOk p 8192 && p.port == 0 && p.addr == 0 && p.etype == 0 && (leNat (p.payload.take 1) == 1 || leNat (p.payload.take 1) == 2)

/-- A MGMT message arrives: it is sequenced as every message, and one in order asks for something. -/
def State.receiveMgmt (s : State) (p : Packet) : State × MgmtAsk :=
  let s' := s.receive p false (!(mgmtLegal p)) fun _ _ s => if s.mgmtServes then .done s else .notNow
  let took : Bool := match s.packetConn p with
    | some (key, c) => mgmtLegal p && p.psn % psnMod == c.expected && s.mgmtServes && !(isPeer key)
    | none => false
  (s', if took then mgmtAsk p.conn p.payload else .nothing)

end Sys2Proof.Machine
end

