-- ==== Sys2Proof/Machine/Permute.lean ====
section
/-! DEFINITION. Byte lookups (R209), zips (R210), moves and identities (R211) of a VP. -/

namespace Sys2Proof.Machine

open Sys2Proof

/-- An instruction of two sources whose element k depends on all elements of both. -/
def State.vpGather (s : State) (bits : VpEnv → Nat) (f : VpEnv → (e : Nat) → (n : Nat) → VReg → VReg → Nat → BitVec e)
    (g : Guard) (d a b : Reg) : State :=
  s.vpRegs g [a, b] [] fun e _ vp =>
    match vp.source a with
    | none => none
    | some (x, vp) =>
      match vp.source b with
      | none => none
      | some (y, vp) =>
        let n := 8 * e.w / bits e
        (vp.writeFrame e.w (bits e) n (predBit (vp.guardOf g)) d (f e (bits e) n x y)).map fun v => (v, 0)

/-- `permb`: an index of W or more gives 0 (R209). -/
def execPermb (g : Guard) (d a b : Reg) (s : State) : Host.Outcome State Fault Refusal :=
  .next (s.vpGather (fun _ => 8) (fun _ e n x y j =>
    let idx := (elem 8 y j).toNat
    if idx < n then elem e x idx else 0) g d a b)

/-- `shufb`: the index is taken modulo W (R209). -/
def execShufb (g : Guard) (d a b : Reg) (s : State) : Host.Outcome State Fault Refusal :=
  .next (s.vpGather (fun _ => 8) (fun _ e n x y j => elem e x ((elem 8 y j).toNat % n)) g d a b)

/-- Element j of a0, b0, a1, b1, ... (R210). -/
def interleaved (e : Nat) (x y : VReg) (j : Nat) : BitVec e := if j % 2 = 0 then elem e x (j / 2) else elem e y (j / 2)

/-- Element j of a0 ... a(n-1), b0 ... b(n-1) (R210). -/
def concatenated (e n : Nat) (x y : VReg) (j : Nat) : BitVec e := if j < n then elem e x j else elem e y (j - n)

/-- `zipl` (R210). -/
def execZipl (g : Guard) (d a b : Reg) (s : State) : Host.Outcome State Fault Refusal :=
  .next (s.vpGather VpEnv.eInt (fun _ e _ x y k => interleaved e x y k) g d a b)

/-- `ziph` (R210). -/
def execZiph (g : Guard) (d a b : Reg) (s : State) : Host.Outcome State Fault Refusal :=
  .next (s.vpGather VpEnv.eInt (fun _ e n x y k => interleaved e x y (n + k)) g d a b)

/-- `uzpe` (R210). -/
def execUzpe (g : Guard) (d a b : Reg) (s : State) : Host.Outcome State Fault Refusal :=
  .next (s.vpGather VpEnv.eInt (fun _ e n x y k => concatenated e n x y (2 * k)) g d a b)

/-- `uzpo` (R210). -/
def execUzpo (g : Guard) (d a b : Reg) (s : State) : Host.Outcome State Fault Refusal :=
  .next (s.vpGather VpEnv.eInt (fun _ e n x y k => concatenated e n x y (2 * k + 1)) g d a b)

/-- A mask value: zext(M, 8W) as a register (R211). -/
def maskValue (m : Nat) : VReg := BitVec.ofNat 1024 m

/-- A write of IT elements with no source. -/
def State.vpConst (s : State) (f : VpEnv → (e : Nat) → Nat → BitVec e) (g : Guard) (d : Reg) : State :=
  s.vpRegs g [] [] fun e _ vp =>
    (vp.writeFrame e.w e.eInt e.nInt (predBit (vp.guardOf g)) d (f e e.eInt)).map fun v => (v, 0)

/-- `vpid` (R211). -/
def execVpid (g : Guard) (d : Reg) (s : State) : Host.Outcome State Fault Refusal :=
  .next (s.vpConst (fun e b _ => BitVec.ofNat b e.i.val) g d)

/-- `ltmask`: the mask value 2^i - 1 (R211). -/
def execLtmask (g : Guard) (d : Reg) (s : State) : Host.Outcome State Fault Refusal :=
  .next (s.vpConst (fun e b k => elem b (maskValue (2 ^ e.i.val - 1)) k) g d)

/-- `mov` (R211). -/
def execMov (g : Guard) (d a : Reg) (s : State) : Host.Outcome State Fault Refusal :=
  .next (s.vpRegs g [a] [] fun e _ vp =>
    (vp.unary e.w e.eInt e.nInt (predBit (vp.guardOf g)) d a fun x => x).map fun v => (v, 0))

/-- `sel`: every element is written, from A where the guard is 1 and from B elsewhere (R211). -/
def execSel (g : Guard) (d a b : Reg) (s : State) : Host.Outcome State Fault Refusal :=
  .next (s.vpRegs g [a, b] [] fun e _ vp =>
    match vp.source a with
    | none => none
    | some (x, vp) =>
      match vp.source b with
      | none => none
      | some (y, vp) =>
        let guard := predBit (vp.guardOf g)
        (vp.writeFrame e.w e.eInt e.nInt (fun _ => true) d fun k =>
          if guard k then elem e.eInt x k else elem e.eInt y k).map fun v => (v, 0))

end Sys2Proof.Machine
end

