-- ==== Sys2Proof/Machine/Predicate.lean ====
section
/-! DEFINITION. Compares and predicate operations (R162, R163). -/

namespace Sys2Proof.Machine

open Sys2Proof

/-- Compare on a VP: both sources are read, then the pair of predicates is written in every guarded element (R162). -/
def VP.compare (vp : VP) (n : Nat) (g : Guard) (pd1 pd2 : Fin 8) (f : Comb) (c : Nat → Bool) : VP :=
  vp.writeCompare n (predBit (vp.guardOf g)) pd1 pd2 f c

/-- `cmp` (R162). -/
def execCmp (g : Guard) (pd1 pd2 : Fin 8) (c : Cond) (a b : Reg) (f : Comb) (s : State) : Host.Outcome State Fault Refusal :=
  .next (s.shared g [a, b] [pd1] (fun vt => vt.writeCompare pd1 pd2 f (condHolds c (vt.readX a) (vt.readX b)))
    fun e vp =>
      match vp.source a with
      | none => none
      | some (x, vp) =>
        match vp.source b with
        | none => none
        | some (y, vp) =>
          some (vp.compare e.nInt g pd1 pd2 f fun k => condHolds c (elem e.eInt x k) (elem e.eInt y k)))

/-- `cmpi`: the plain form against sext(IMM7) (R162). -/
def execCmpi (g : Guard) (pd1 pd2 : Fin 8) (c : Cond) (a : Reg) (imm : Fin 128) (s : State) :
    Host.Outcome State Fault Refusal :=
  .next (s.shared g [a] [] (fun vt => vt.writeCompare pd1 pd2 .plain (condHolds c (vt.readX a) (word64 (sext 7 imm.val))))
    fun e vp =>
      match vp.source a with
      | none => none
      | some (x, vp) =>
        some (vp.compare e.nInt g pd1 pd2 .plain fun k =>
          condHolds c (elem e.eInt x k) (BitVec.ofInt e.eInt (sext 7 imm.val))))

/-- A predicate operation on all bits at once; bit 0 of the guard governs it in a VP, whose predicates have 2W bits
(R163). -/
def State.predBinary (s : State) (f : Bool → Bool → Bool) (fv : Pred → Pred → Pred) (g : Guard) (d a b : Fin 8) : State :=
  s.shared g [] [a, b] (fun vt => vt.writeP d (f (vt.readP a) (vt.readP b)))
    fun e vp =>
      some (if predBit (vp.guardOf g) 0 then vp.writeP d (fv (vp.readP a) (vp.readP b) &&& lowOnes 256 (2 * e.w)) else vp)

/-- `pand` (R163). -/
def execPand (g : Guard) (d a b : Fin 8) (s : State) : Host.Outcome State Fault Refusal :=
  .next (s.predBinary (fun x y => x && y) (fun x y => x &&& y) g d a b)

/-- `por` (R163). -/
def execPor (g : Guard) (d a b : Fin 8) (s : State) : Host.Outcome State Fault Refusal :=
  .next (s.predBinary (fun x y => x || y) (fun x y => x ||| y) g d a b)

/-- `pxor` (R163). -/
def execPxor (g : Guard) (d a b : Fin 8) (s : State) : Host.Outcome State Fault Refusal :=
  .next (s.predBinary (fun x y => x ^^ y) (fun x y => x ^^^ y) g d a b)

/-- `pandn`: p[A] AND NOT p[B] (R163). -/
def execPandn (g : Guard) (d a b : Fin 8) (s : State) : Host.Outcome State Fault Refusal :=
  .next (s.predBinary (fun x y => x && !y) (fun x y => x &&& ~~~y) g d a b)

/-- `pgetx`: a predicate into a register, zeros above (R163). -/
def execPgetx (g : Guard) (d : Reg) (a : Fin 8) (s : State) : Host.Outcome State Fault Refusal :=
  .next (s.shared g [] [a] (fun vt => vt.writeX d (if vt.readP a then 1 else 0))
    fun e vp =>
      vp.writeWhole e.w (predBit (vp.guardOf g) 0) d ((vp.readP a &&& lowOnes 256 (2 * e.w)).setWidth 1024))

/-- `psetx`: a register into a predicate; the higher bits are ignored (R163). -/
def execPsetx (g : Guard) (d : Fin 8) (a : Reg) (s : State) : Host.Outcome State Fault Refusal :=
  .next (s.shared g [a] [] (fun vt => vt.writeP d ((vt.readX a).getLsbD 0))
    fun e vp =>
      match vp.source a with
      | none => none
      | some (x, vp) =>
        some (if predBit (vp.guardOf g) 0 then vp.writeP d (x.setWidth 256 &&& lowOnes 256 (2 * e.w)) else vp))

end Sys2Proof.Machine
end

