-- ==== Sys2Proof/Machine/Wide.lean ====
section
/-! DEFINITION. Cross-VP transfers (R35, R36, R212) and the wide operations of OP 0x31 (R134, R135, R213 to R215). -/

namespace Sys2Proof.Machine

open Sys2Proof

/-! ### Transfers -/

/-- The participant above VP i (R35). -/
def nextParticipant (parts : BitVec 32) (i : Fin 32) : Option (Fin 32) :=
  ((List.finRange 32).filter fun j => i < j && parts.getLsbD j.val).head?

/-- An entry is pushed above VP i: into the next participant's inbound queue, or the drain queue; `none` where it is
full (R35, R37). -/
def VT.pushAbove (vt : VT) (parts : BitVec 32) (i : Fin 32) (x : VReg) : Option VT :=
  match nextParticipant parts i with
  | some j =>
    let q := vt.vps[j]
    if q.inbound.length < 4 then some { vt with vps := vt.vps.set j { q with inbound := q.inbound ++ [x] } } else none
  | none => if vt.drain.length < 4 then some { vt with drain := vt.drain ++ [x] } else none

/-- `xsend` (R212): zero in every element whose guard is 0. -/
def execXsend (g : Guard) (a : Reg) (s : State) : Host.Outcome State Fault Refusal :=
  .next (s.vpOnly g (wholeRegs [a]) [] fun id i vt r =>
    match vt.vps[i].source a with
    | none => s
    | some (x, vp) =>
      let e := vt.env r i
      let guard := predBit (vp.guardOf g)
      let entry := writeElems 0 ((List.range e.nInt).map fun k => if guard k then elem e.eInt x k else 0)
      match vt.pushAbove r.parts i entry with
      | none => s
      | some vt => s.setVt id (vt.vpRetire i r vp 0))

/-- `xrecv` (R212): it waits while the queue is empty. -/
def execXrecv (g : Guard) (d : Reg) (s : State) : Host.Outcome State Fault Refusal :=
  .next (s.vpOnly g [] [] fun id i vt r =>
    let e := vt.env r i
    let vp := vt.vps[i]
    match vp.inbound with
    | [] => s
    | x :: xs =>
      match (({ vp with inbound := xs } : VP).writeFrame e.w e.eInt e.nInt (predBit (vp.guardOf g)) d fun k => elem e.eInt x k) with
      | none => s
      | some v => if vt.queuePoisoned i .inbound 1 then s.vpFault id i r .eccu 0 0 else s.setVt id (vt.vpRetire i r v 0))

/-! ### Wide operations -/

/-- A participant at a wide instruction: its VP after its pops, its run, the operands it has read. -/
structure WideIn where
  j : Fin 32
  vp : VP
  run : Run
  x : VReg
  y : VReg

/-- The operands of participant j: none while it has not reached the instruction or cannot read (R213). -/
def VT.wideRead (vt : VT) (r : Run) (g : Guard) (vs : List Reg) (ps : List (Fin 8)) (j : Fin 32) : Option WideIn :=
  match vt.runOf j with
  | none => none
  | some q =>
    if q.addr ≠ r.addr ∨ q.idx ≠ r.idx ∨ vt.interlocked j q.vNames = true ∨ vt.vpPoisoned j g (wholeRegs vs) ps = true then none
    else
      match vs with
      | [] => some { j, vp := vt.vps[j], run := q, x := 0, y := 0 }
      | [a] => (vt.vps[j].source a).map fun p => { j, vp := p.2, run := q, x := p.1, y := 0 }
      | a :: b :: _ =>
        match vt.vps[j].source a with
        | none => none
        | some (x, vp) => (vp.source b).map fun p => { j, vp := p.2, run := q, x, y := p.1 }

/-- `f` of every element of a list, where all give a value. -/
def allSome {α β : Type} (f : α → Option β) : List α → Option (List β)
  | [] => some []
  | a :: as =>
    match f a, allSome f as with
    | some b, some bs => some (b :: bs)
    | _, _ => none

/-- A wide instruction: once every participant has read its operands, each writes its results and goes on; the flags of
the trees are raised once (R213, R215, log 49). -/
def State.wideOp (s : State) (g : Guard) (vs : List Reg) (ps : List (Fin 8))
    (f : (WideIn → VpEnv) → List WideIn → WideIn → Option VP) (flags : VpEnv → List WideIn → FFlags) : State :=
  s.vpOnly g (wholeRegs vs) ps fun id i vt r =>
    match allSome (vt.wideRead r g vs ps) (maskIndices r.parts) with
    | none => s
    | some ins =>
      match allSome (fun w => (f (fun w => vt.env r w.j) ins w).map fun v => (w, v)) ins with
      | none => s
      | some outs =>
        let vt' := outs.foldl (fun (t : VT) o => t.vpRetire o.1.j o.1.run o.2 0) vt
        s.setVt id { vt' with fflags := vt'.fflags ||| flags (vt.env r i) ins }

/-- A write of IT elements by a participant. -/
def WideIn.write (w : WideIn) (e : VpEnv) (g : Guard) (d : Reg) (f : Nat → BitVec e.eInt) : Option VP :=
  w.vp.writeFrame e.w e.eInt e.nInt (predBit (w.vp.guardOf g)) d f

/-- The OR of bits 0 to n - 1 of p[a]. -/
def WideIn.vote (w : WideIn) (e : VpEnv) (a : Fin 8) : Bool := (List.range e.nInt).any (predBit (w.vp.readP a))

/-- The AND of bits 0 to n - 1 of p[a]. -/
def WideIn.unanimous (w : WideIn) (e : VpEnv) (a : Fin 8) : Bool := (List.range e.nInt).all (predBit (w.vp.readP a))

/-- A participant's write of one value into bits k < n of p[d] (R214). -/
def WideIn.writeVote (w : WideIn) (e : VpEnv) (g : Guard) (d : Fin 8) (b : Bool) : VP :=
  let old := w.vp.readP d
  let guard := predBit (w.vp.guardOf g)
  w.vp.writeP d (writePred e.nInt old fun k => if guard k then b else predBit old k)

/-- The mask of the participants of which `p` holds. -/
def maskOf (ins : List WideIn) (p : WideIn → Bool) : Nat :=
  ins.foldl (fun m w => if p w then m ||| 2 ^ w.j.val else m) 0

/-- `vany` (R214). -/
def execVany (g : Guard) (d a : Fin 8) (s : State) : Host.Outcome State Fault Refusal :=
  .next (s.wideOp g [] [a] (fun e ins w => some (w.writeVote (e w) g d (ins.any fun v => v.vote (e v) a))) fun _ _ => 0)

/-- `vall` (R214). -/
def execVall (g : Guard) (d a : Fin 8) (s : State) : Host.Outcome State Fault Refusal :=
  .next (s.wideOp g [] [a] (fun e ins w => some (w.writeVote (e w) g d (ins.all fun v => v.unanimous (e v) a))) fun _ _ => 0)

/-- `vballot` (R214). -/
def execVballot (g : Guard) (d : Reg) (a : Fin 8) (s : State) : Host.Outcome State Fault Refusal :=
  .next (s.wideOp g [] [a] (fun e ins w =>
    w.write (e w) g d fun k => elem (e w).eInt (maskValue (maskOf ins fun v => v.vote (e v) a)) k) fun _ _ => 0)

/-- `vmatch` (R214). -/
def execVmatch (g : Guard) (d a : Reg) (s : State) : Host.Outcome State Fault Refusal :=
  .next (s.wideOp g [a] [] (fun e ins w =>
    let b := (e w).eInt
    w.write (e w) g d fun k => elem b (maskValue (maskOf ins fun v => elem b v.x 0 == elem b w.x 0)) k) fun _ _ => 0)

/-- `vshfl` (R214). -/
def execVshfl (g : Guard) (d a b : Reg) (s : State) : Host.Outcome State Fault Refusal :=
  .next (s.wideOp g [a, b] [] (fun e ins w =>
    let j := (elem 32 w.y 0).toNat
    let src : VReg := match ins.find? fun v => v.j.val == j with
      | some v => v.x
      | none => 0
    w.write (e w) g d fun k => elem (e w).eInt src k) fun _ _ => 0)

/-! ### Reductions and scans -/

/-- One level of the tree: pairs are combined, an odd last entry moves up unchanged (R134). -/
def treeLevel (c : Nat → Nat → Nat × FFlags) : List Nat → List Nat × FFlags
  | a :: b :: t =>
    let r := c a b
    let rest := treeLevel c t
    (r.1 :: rest.1, r.2 ||| rest.2)
  | t => (t, 0)

/-- Levels of the tree: 5 suffice for 32 entries (R134). -/
def treeLevels (c : Nat → Nat → Nat × FFlags) : Nat → List Nat → Nat × FFlags
  | 0, l => (l.headD 0, 0)
  | n + 1, l =>
    let r := treeLevel c l
    let t := treeLevels c n r.1
    (t.1, r.2 ||| t.2)

/-- The tree of R134. -/
def tree (c : Nat → Nat → Nat × FFlags) (l : List Nat) : Nat × FFlags := treeLevels c 5 l

/-- What a reduction combines with (R134, R133). -/
inductive RedKind where
  | add | min | max
deriving DecidableEq, Repr

/-- The combination of two elements, as encodings. -/
def redCombine (k : RedKind) (float : Bool) (e : VpEnv) (x y : Nat) : Nat × FFlags :=
  if float then
    match k with
    | .add => e.fmt.add e.rnd (e.fmt.decode x) (e.fmt.decode y)
    | .min => e.fmt.minMax false x y
    | .max => e.fmt.minMax true x y
  else
    let a : BitVec e.eInt := BitVec.ofNat e.eInt x
    let b : BitVec e.eInt := BitVec.ofNat e.eInt y
    ((match k with
      | .add => a + b
      | .min => if itSigned e.it then intMin a b else intMinu a b
      | .max => if itSigned e.it then intMax a b else intMaxu a b).toNat, 0)

/-- Bits and number of the elements of a reduction (R200). -/
def redBits (float : Bool) (e : VpEnv) : Nat := if float then e.eFlt else e.eInt
def redCount (float : Bool) (e : VpEnv) : Nat := if float then e.nFlt else e.nInt

/-- Element k of the operands of the participants, in increasing order. -/
def redColumn (float : Bool) (e : VpEnv) (ins : List WideIn) (k : Nat) : List Nat :=
  ins.map fun w => (elem (redBits float e) w.x k).toNat

/-- A reduction or, with `scan`, a scan: participant j's result is the tree over all, or over those up to j (R215). -/
def State.reduce (s : State) (k : RedKind) (scan float : Bool) (g : Guard) (d a : Reg) : State :=
  let value (e : VpEnv) (ins : List WideIn) (upto : Nat) (n : Nat) : Nat × FFlags :=
    tree (redCombine k float e) ((redColumn float e ins n).take upto)
  let rank (ins : List WideIn) (w : WideIn) : Nat :=
    if scan then (ins.filter fun v => v.j ≤ w.j).length else ins.length
  s.wideOp g [a] []
    (fun e ins w =>
      let b := redBits float (e w)
      w.vp.writeFrame (e w).w b (redCount float (e w)) (predBit (w.vp.guardOf g)) d fun n =>
        BitVec.ofNat b (value (e w) ins (rank ins w) n).1)
    fun e ins =>
      let uptos := if scan then (List.range ins.length).map (· + 1) else [ins.length]
      (List.range (redCount float e)).foldl (fun fl n =>
        uptos.foldl (fun fl u => fl ||| (value e ins u n).2) fl) 0

/-- `vred.add` (R215). -/
def execVredAdd (g : Guard) (d a : Reg) (float : Bool) (s : State) : Host.Outcome State Fault Refusal :=
  .next (s.reduce .add false float g d a)

/-- `vred.min` (R215). -/
def execVredMin (g : Guard) (d a : Reg) (float : Bool) (s : State) : Host.Outcome State Fault Refusal :=
  .next (s.reduce .min false float g d a)

/-- `vred.max` (R215). -/
def execVredMax (g : Guard) (d a : Reg) (float : Bool) (s : State) : Host.Outcome State Fault Refusal :=
  .next (s.reduce .max false float g d a)

/-- `vscan.add` (R215). -/
def execVscanAdd (g : Guard) (d a : Reg) (float : Bool) (s : State) : Host.Outcome State Fault Refusal :=
  .next (s.reduce .add true float g d a)

end Sys2Proof.Machine
end

