-- ==== Sys2Proof/Machine/Dispatch.lean ====
section
/-! DEFINITION. The meaning of every instruction and operation: one arm per constructor, one call per arm. -/

namespace Sys2Proof.Machine

open Sys2Proof

/-- The meaning of an instruction or operation at a state. -/
def exec (i : Instr) (s : State) : Host.Outcome State Fault Refusal :=
  match i with
  | .add g d a b => Sys2Proof.Machine.execAdd g d a b s
  | .sub g d a b => Sys2Proof.Machine.execSub g d a b s
  | .and g d a b => Sys2Proof.Machine.execAnd g d a b s
  | .or g d a b => Sys2Proof.Machine.execOr g d a b s
  | .xor g d a b => Sys2Proof.Machine.execXor g d a b s
  | .sll g d a b => Sys2Proof.Machine.execSll g d a b s
  | .srl g d a b => Sys2Proof.Machine.execSrl g d a b s
  | .sra g d a b => Sys2Proof.Machine.execSra g d a b s
  | .min g d a b => Sys2Proof.Machine.execMin g d a b s
  | .max g d a b => Sys2Proof.Machine.execMax g d a b s
  | .minu g d a b => Sys2Proof.Machine.execMinu g d a b s
  | .maxu g d a b => Sys2Proof.Machine.execMaxu g d a b s
  | .popc g d a => Sys2Proof.Machine.execPopc g d a s
  | .clz g d a => Sys2Proof.Machine.execClz g d a s
  | .ctz g d a => Sys2Proof.Machine.execCtz g d a s
  | .addi g d a imm => Sys2Proof.Machine.execAddi g d a imm s
  | .andi g d a imm => Sys2Proof.Machine.execAndi g d a imm s
  | .ori g d a imm => Sys2Proof.Machine.execOri g d a imm s
  | .xori g d a imm => Sys2Proof.Machine.execXori g d a imm s
  | .slli g d a amt => Sys2Proof.Machine.execSlli g d a amt s
  | .srli g d a amt => Sys2Proof.Machine.execSrli g d a amt s
  | .srai g d a amt => Sys2Proof.Machine.execSrai g d a amt s
  | .mul g d a b => Sys2Proof.Machine.execMul g d a b s
  | .mulh g d a b => Sys2Proof.Machine.execMulh g d a b s
  | .mulhu g d a b => Sys2Proof.Machine.execMulhu g d a b s
  | .div g d a b => Sys2Proof.Machine.execDiv g d a b s
  | .divu g d a b => Sys2Proof.Machine.execDivu g d a b s
  | .rem g d a b => Sys2Proof.Machine.execRem g d a b s
  | .remu g d a b => Sys2Proof.Machine.execRemu g d a b s
  | .lui g d imm => Sys2Proof.Machine.execLui g d imm s
  | .auipc g d imm => Sys2Proof.Machine.execAuipc g d imm s
  | .ldb g d a imm => Sys2Proof.Machine.execLdb g d a imm s
  | .ldbu g d a imm => Sys2Proof.Machine.execLdbu g d a imm s
  | .ldh g d a imm => Sys2Proof.Machine.execLdh g d a imm s
  | .ldhu g d a imm => Sys2Proof.Machine.execLdhu g d a imm s
  | .ldw g d a imm => Sys2Proof.Machine.execLdw g d a imm s
  | .ldwu g d a imm => Sys2Proof.Machine.execLdwu g d a imm s
  | .ldd g d a imm => Sys2Proof.Machine.execLdd g d a imm s
  | .stb g a b imm => Sys2Proof.Machine.execStb g a b imm s
  | .sth g a b imm => Sys2Proof.Machine.execSth g a b imm s
  | .stw g a b imm => Sys2Proof.Machine.execStw g a b imm s
  | .std g a b imm => Sys2Proof.Machine.execStd g a b imm s
  | .cmp g pd1 pd2 c a b f => Sys2Proof.Machine.execCmp g pd1 pd2 c a b f s
  | .cmpi g pd1 pd2 c a imm => Sys2Proof.Machine.execCmpi g pd1 pd2 c a imm s
  | .pand g d a b => Sys2Proof.Machine.execPand g d a b s
  | .por g d a b => Sys2Proof.Machine.execPor g d a b s
  | .pxor g d a b => Sys2Proof.Machine.execPxor g d a b s
  | .pandn g d a b => Sys2Proof.Machine.execPandn g d a b s
  | .pgetx g d a => Sys2Proof.Machine.execPgetx g d a s
  | .psetx g d a => Sys2Proof.Machine.execPsetx g d a s
  | .br g imm => Sys2Proof.Machine.execBr g imm s
  | .jal g d imm => Sys2Proof.Machine.execJal g d imm s
  | .jalr g d a imm => Sys2Proof.Machine.execJalr g d a imm s
  | .amowSwap g d a b ord sc => Sys2Proof.Machine.execAmowSwap g d a b ord sc s
  | .amowAdd g d a b ord sc => Sys2Proof.Machine.execAmowAdd g d a b ord sc s
  | .amowAnd g d a b ord sc => Sys2Proof.Machine.execAmowAnd g d a b ord sc s
  | .amowOr g d a b ord sc => Sys2Proof.Machine.execAmowOr g d a b ord sc s
  | .amowXor g d a b ord sc => Sys2Proof.Machine.execAmowXor g d a b ord sc s
  | .amowMin g d a b ord sc => Sys2Proof.Machine.execAmowMin g d a b ord sc s
  | .amowMax g d a b ord sc => Sys2Proof.Machine.execAmowMax g d a b ord sc s
  | .amowCas g d a b ord sc => Sys2Proof.Machine.execAmowCas g d a b ord sc s
  | .amodSwap g d a b ord sc => Sys2Proof.Machine.execAmodSwap g d a b ord sc s
  | .amodAdd g d a b ord sc => Sys2Proof.Machine.execAmodAdd g d a b ord sc s
  | .amodAnd g d a b ord sc => Sys2Proof.Machine.execAmodAnd g d a b ord sc s
  | .amodOr g d a b ord sc => Sys2Proof.Machine.execAmodOr g d a b ord sc s
  | .amodXor g d a b ord sc => Sys2Proof.Machine.execAmodXor g d a b ord sc s
  | .amodMin g d a b ord sc => Sys2Proof.Machine.execAmodMin g d a b ord sc s
  | .amodMax g d a b ord sc => Sys2Proof.Machine.execAmodMax g d a b ord sc s
  | .amodCas g d a b ord sc => Sys2Proof.Machine.execAmodCas g d a b ord sc s
  | .lda g d a sc => Sys2Proof.Machine.execLda g d a sc s
  | .stl g a b sc => Sys2Proof.Machine.execStl g a b sc s
  | .fence g sc => Sys2Proof.Machine.execFence g sc s
  | .fenceSv g sc => Sys2Proof.Machine.execFenceSv g sc s
  | .fenceVs g sc => Sys2Proof.Machine.execFenceVs g sc s
  | .fenceE g sc => Sys2Proof.Machine.execFenceE g sc s
  | .csrr g d csr => Sys2Proof.Machine.execCsrr g d csr s
  | .csrw g d a csr => Sys2Proof.Machine.execCsrw g d a csr s
  | .csrs g d a csr => Sys2Proof.Machine.execCsrs g d a csr s
  | .csrc g d a csr => Sys2Proof.Machine.execCsrc g d a csr s
  | .trap g code => Sys2Proof.Machine.execTrap g code s
  | .icinv g a => Sys2Proof.Machine.execIcinv g a s
  | .park g a => Sys2Proof.Machine.execPark g a s
  | .yield g => Sys2Proof.Machine.execYield g s
  | .exit g => Sys2Proof.Machine.execExit g s
  | .spawn g d a => Sys2Proof.Machine.execSpawn g d a s
  | .vtctlResume g d a => Sys2Proof.Machine.execVtctlResume g d a s
  | .vtctlKill g d a => Sys2Proof.Machine.execVtctlKill g d a s
  | .vtctlWake g d a => Sys2Proof.Machine.execVtctlWake g d a s
  | .bar g b => Sys2Proof.Machine.execBar g b s
  | .bara g b => Sys2Proof.Machine.execBara g b s
  | .barw g b => Sys2Proof.Machine.execBarw g b s
  | .mwait g d a b word c => Sys2Proof.Machine.execMwait g d a b word c s
  | .waitd g n dc => Sys2Proof.Machine.execWaitd g n dc s
  | .fnew g d => Sys2Proof.Machine.execFnew g d s
  | .fput g d a b => Sys2Proof.Machine.execFput g d a b s
  | .fget g d a => Sys2Proof.Machine.execFget g d a s
  | .ftake g d a => Sys2Proof.Machine.execFtake g d a s
  | .ftry g d a b => Sys2Proof.Machine.execFtry g d a b s
  | .ffree g a => Sys2Proof.Machine.execFfree g a s
  | .enq g a eng dc => Sys2Proof.Machine.execEnq g a eng dc s
  | .enqy g d a b eng => Sys2Proof.Machine.execEnqy g d a b eng s
  | .deq g d eng dc => Sys2Proof.Machine.execDeq g d eng dc s
  | .deqt g d eng dc => Sys2Proof.Machine.execDeqt g d eng dc s
  | .setvl g d a b => Sys2Proof.Machine.execSetvl g d a b s
  | .setcfg g d a => Sys2Proof.Machine.execSetcfg g d a s
  | .setmt g a => Sys2Proof.Machine.execSetmt g a s
  | .setem g a => Sys2Proof.Machine.execSetem g a s
  | .setseg g seg a => Sys2Proof.Machine.execSetseg g seg a s
  | .vjoin g => Sys2Proof.Machine.execVjoin g s
  | .xseed g a => Sys2Proof.Machine.execXseed g a s
  | .xdrain g d => Sys2Proof.Machine.execXdrain g d s
  | .vbcast g d a => Sys2Proof.Machine.execVbcast g d a s
  | .vextract g d a b => Sys2Proof.Machine.execVextract g d a b s
  | .vf g imm => Sys2Proof.Machine.execVf g imm s
  | .vfr g a imm => Sys2Proof.Machine.execVfr g a imm s
  | .vld g v a b mode dc q hint => Sys2Proof.Machine.execVld g v a b mode dc q hint s
  | .vst g v a b mode dc q hint => Sys2Proof.Machine.execVst g v a b mode dc q hint s
  | .fadd g d a b => Sys2Proof.Machine.execFadd g d a b s
  | .fsub g d a b => Sys2Proof.Machine.execFsub g d a b s
  | .fmul g d a b => Sys2Proof.Machine.execFmul g d a b s
  | .fmin g d a b => Sys2Proof.Machine.execFmin g d a b s
  | .fmax g d a b => Sys2Proof.Machine.execFmax g d a b s
  | .fdiv g d a b => Sys2Proof.Machine.execFdiv g d a b s
  | .fsqrt g d a => Sys2Proof.Machine.execFsqrt g d a s
  | .frcp g d a => Sys2Proof.Machine.execFrcp g d a s
  | .frsq g d a => Sys2Proof.Machine.execFrsq g d a s
  | .fexp2 g d a => Sys2Proof.Machine.execFexp2 g d a s
  | .flog2 g d a => Sys2Proof.Machine.execFlog2 g d a s
  | .fabs g d a => Sys2Proof.Machine.execFabs g d a s
  | .fneg g d a => Sys2Proof.Machine.execFneg g d a s
  | .fsgnj g d a b => Sys2Proof.Machine.execFsgnj g d a b s
  | .fclass g d a => Sys2Proof.Machine.execFclass g d a s
  | .fma g d a b c => Sys2Proof.Machine.execFma g d a b c s
  | .fms g d a b c => Sys2Proof.Machine.execFms g d a b c s
  | .fnma g d a b c => Sys2Proof.Machine.execFnma g d a b c s
  | .fnms g d a b c => Sys2Proof.Machine.execFnms g d a b c s
  | .fcmp g pd1 pd2 c a b f => Sys2Proof.Machine.execFcmp g pd1 pd2 c a b f s
  | .cvt g d a src dst => Sys2Proof.Machine.execCvt g d a src dst s
  | .cvts g d a src dst => Sys2Proof.Machine.execCvts g d a src dst s
  | .adds g d a b => Sys2Proof.Machine.execAdds g d a b s
  | .subs g d a b => Sys2Proof.Machine.execSubs g d a b s
  | .addsu g d a b => Sys2Proof.Machine.execAddsu g d a b s
  | .subsu g d a b => Sys2Proof.Machine.execSubsu g d a b s
  | .avg g d a b => Sys2Proof.Machine.execAvg g d a b s
  | .avgu g d a b => Sys2Proof.Machine.execAvgu g d a b s
  | .abs g d a => Sys2Proof.Machine.execAbs g d a s
  | .absd g d a b => Sys2Proof.Machine.execAbsd g d a b s
  | .permb g d a b => Sys2Proof.Machine.execPermb g d a b s
  | .shufb g d a b => Sys2Proof.Machine.execShufb g d a b s
  | .zipl g d a b => Sys2Proof.Machine.execZipl g d a b s
  | .ziph g d a b => Sys2Proof.Machine.execZiph g d a b s
  | .uzpe g d a b => Sys2Proof.Machine.execUzpe g d a b s
  | .uzpo g d a b => Sys2Proof.Machine.execUzpo g d a b s
  | .xsend g a => Sys2Proof.Machine.execXsend g a s
  | .xrecv g d => Sys2Proof.Machine.execXrecv g d s
  | .vany g d a => Sys2Proof.Machine.execVany g d a s
  | .vall g d a => Sys2Proof.Machine.execVall g d a s
  | .vballot g d a => Sys2Proof.Machine.execVballot g d a s
  | .vmatch g d a => Sys2Proof.Machine.execVmatch g d a s
  | .vshfl g d a b => Sys2Proof.Machine.execVshfl g d a b s
  | .vredAdd g d a float => Sys2Proof.Machine.execVredAdd g d a float s
  | .vredMin g d a float => Sys2Proof.Machine.execVredMin g d a float s
  | .vredMax g d a float => Sys2Proof.Machine.execVredMax g d a float s
  | .vscanAdd g d a float => Sys2Proof.Machine.execVscanAdd g d a float s
  | .ldv g d a seg sz imm => Sys2Proof.Machine.execLdv g d a seg sz imm s
  | .stv g d a seg sz imm => Sys2Proof.Machine.execStv g d a seg sz imm s
  | .fetch g imm => Sys2Proof.Machine.execFetch g imm s
  | .fetchr g a => Sys2Proof.Machine.execFetchr g a s
  | .vpid g d => Sys2Proof.Machine.execVpid g d s
  | .ltmask g d => Sys2Proof.Machine.execLtmask g d s
  | .mov g d a => Sys2Proof.Machine.execMov g d a s
  | .sel g d a b => Sys2Proof.Machine.execSel g d a b s
  | .mxon g va => Sys2Proof.Machine.execMxon g va s
  | .mxoff g => Sys2Proof.Machine.execMxoff g s
  | .mopO g acc va vb => Sys2Proof.Machine.execMopO g acc va vb s
  | .mopR g acc va vb => Sys2Proof.Machine.execMopR g acc va vb s
  | .mopsO g acc va vb vs => Sys2Proof.Machine.execMopsO g acc va vb vs s
  | .mopsR g acc va vb vs => Sys2Proof.Machine.execMopsR g acc va vb vs s
  | .mopz g acc => Sys2Proof.Machine.execMopz g acc s
  | .mova g acc va blk => Sys2Proof.Machine.execMova g acc va blk s
  | .movta g acc va blk => Sys2Proof.Machine.execMovta g acc va blk s
  | .blockStart vt vp => Sys2Proof.Machine.execBlockStart vt vp s
  | .threadFetch vt vp => Sys2Proof.Machine.execThreadFetch vt vp s
  | .vectorMemoryPerformed vt entry => Sys2Proof.Machine.execVectorMemoryPerformed vt entry s
  | .retry request => Sys2Proof.Machine.execRetry request s
  | .monitorWake vt => Sys2Proof.Machine.execMonitorWake vt s
  | .parkTimeout vt => Sys2Proof.Machine.execParkTimeout vt s
  | .issueAgeing vt => Sys2Proof.Machine.execIssueAgeing vt s
  | .copy1d cmd => Sys2Proof.Machine.execCopy1d cmd s
  | .copy2d cmd => Sys2Proof.Machine.execCopy2d cmd s
  | .fill cmd => Sys2Proof.Machine.execFill cmd s
  | .put cmd => Sys2Proof.Machine.execPut cmd s
  | .get cmd => Sys2Proof.Machine.execGet cmd s
  | .putadd cmd => Sys2Proof.Machine.execPutadd cmd s
  | .signal cmd => Sys2Proof.Machine.execSignal cmd s
  | .completionRecord cmd => Sys2Proof.Machine.execCompletionRecord cmd s
  | .scan domain queue => Sys2Proof.Machine.execScan domain queue s
  | .launch n => Sys2Proof.Machine.execLaunch n s
  | .copy n => Sys2Proof.Machine.execCopy n s
  | .prefetch n => Sys2Proof.Machine.execPrefetch n s
  | .unpin n => Sys2Proof.Machine.execUnpin n s
  | .discard n => Sys2Proof.Machine.execDiscard n s
  | .signalNode n => Sys2Proof.Machine.execSignalNode n s
  | .waitfut n => Sys2Proof.Machine.execWaitfut n s
  | .nop n => Sys2Proof.Machine.execNop n s
  | .nodeCompletion n => Sys2Proof.Machine.execNodeCompletion n s
  | .placement cluster => Sys2Proof.Machine.execPlacement cluster s
  | .gangPreemption gang => Sys2Proof.Machine.execGangPreemption gang s
  | .gangRestore gang => Sys2Proof.Machine.execGangRestore gang s
  | .swapIn vt => Sys2Proof.Machine.execSwapIn vt s
  | .swapOut vt => Sys2Proof.Machine.execSwapOut vt s
  | .move vt core => Sys2Proof.Machine.execMove vt core s
  | .lprWrite core value => Sys2Proof.Machine.execLprWrite core value s
  | .faultStop vt => Sys2Proof.Machine.execFaultStop vt s
  | .freeze m addr => Sys2Proof.Machine.execFreeze m addr s
  | .fatalDump reason => Sys2Proof.Machine.execFatalDump reason s
  | .queueDestroyed domain queue => Sys2Proof.Machine.execQueueDestroyed domain queue s
  | .write p => Sys2Proof.Machine.execWrite p s
  | .read p => Sys2Proof.Machine.execRead p s
  | .send p => Sys2Proof.Machine.execSend p s
  | .doorbell p => Sys2Proof.Machine.execDoorbell p s
  | .submit p => Sys2Proof.Machine.execSubmit p s
  | .addw p => Sys2Proof.Machine.execAddw p s
  | .signalMessage p => Sys2Proof.Machine.execSignalMessage p s
  | .readresp p => Sys2Proof.Machine.execReadresp p s
  | .ack p => Sys2Proof.Machine.execAck p s
  | .nak p => Sys2Proof.Machine.execNak p s
  | .status p => Sys2Proof.Machine.execStatus p s
  | .cnp p => Sys2Proof.Machine.execCnp p s
  | .retransmitTimeout conn => Sys2Proof.Machine.execRetransmitTimeout conn s
  | .rateIncrease conn => Sys2Proof.Machine.execRateIncrease conn s
  | .createq r queue ring log2n prio bitmap doorbell => Sys2Proof.Machine.execCreateq r queue ring log2n prio bitmap doorbell s
  | .destroyq r queue drain => Sys2Proof.Machine.execDestroyq r queue drain s
  | .openhost r addrHi addrLo => Sys2Proof.Machine.execOpenhost r addrHi addrLo s
  | .openpeer r port addrHi addrLo remote => Sys2Proof.Machine.execOpenpeer r port addrHi addrLo remote s
  | .close r conn => Sys2Proof.Machine.execClose r conn s
  | .mapleaf r va level entry => Sys2Proof.Machine.execMapleaf r va level entry s
  | .stage r kind offset bytes => Sys2Proof.Machine.execStage r kind offset bytes s
  | .stageend r kind length => Sys2Proof.Machine.execStageend r kind length s
  | .raisesvn r kind svn => Sys2Proof.Machine.execRaisesvn r kind svn s
  | .readreg r reg index => Sys2Proof.Machine.execReadreg r reg index s
  | .readdump r offset length => Sys2Proof.Machine.execReaddump r offset length s
  | .releasedump r => Sys2Proof.Machine.execReleasedump r s
  | .readctx r vt offset length => Sys2Proof.Machine.execReadctx r vt offset length s
  | .getVersion conn msg => Sys2Proof.Machine.execGetVersion conn msg s
  | .getCapabilities conn msg => Sys2Proof.Machine.execGetCapabilities conn msg s
  | .negotiateAlgorithms conn msg => Sys2Proof.Machine.execNegotiateAlgorithms conn msg s
  | .getDigests conn msg => Sys2Proof.Machine.execGetDigests conn msg s
  | .getCertificate conn msg => Sys2Proof.Machine.execGetCertificate conn msg s
  | .challenge conn msg => Sys2Proof.Machine.execChallenge conn msg s
  | .getMeasurements conn msg => Sys2Proof.Machine.execGetMeasurements conn msg s
  | .deviceReset => Sys2Proof.Machine.execDeviceReset s
  | .handOver kind inst record => Sys2Proof.Machine.execHandOver kind inst record s
  | .newInstanceStart kind inst => Sys2Proof.Machine.execNewInstanceStart kind inst s
  | .livenessBeat kind inst region => Sys2Proof.Machine.execLivenessBeat kind inst region s
  | .slackWaterCommit => Sys2Proof.Machine.execSlackWaterCommit s
  | .fallBack inst reason => Sys2Proof.Machine.execFallBack inst reason s
  | .clockStep die up power inlet => Sys2Proof.Machine.execClockStep die up power inlet s
  | .heartbeatSend tile => Sys2Proof.Machine.execHeartbeatSend tile s
  | .heartbeat witness subject flit => Sys2Proof.Machine.execHeartbeat witness subject flit s
  | .heartbeatMiss witness subject => Sys2Proof.Machine.execHeartbeatMiss witness subject s
  | .accuse receiver flit => Sys2Proof.Machine.execAccuse receiver flit s
  | .accuseRepeat witness subject => Sys2Proof.Machine.execAccuseRepeat witness subject s
  | .withdraw receiver flit => Sys2Proof.Machine.execWithdraw receiver flit s
  | .accusationExpiry witness subject sender => Sys2Proof.Machine.execAccusationExpiry witness subject sender s
  | .cordoned receiver flit => Sys2Proof.Machine.execCordoned receiver flit s
  | .portClosure neighbour subject => Sys2Proof.Machine.execPortClosure neighbour subject s
  | .cordonHandling tile => Sys2Proof.Machine.execCordonHandling tile s
  | .selftest tile pass => Sys2Proof.Machine.execSelftest tile pass s
  | .appeal receiver flit => Sys2Proof.Machine.execAppeal receiver flit s
  | .consent receiver flit => Sys2Proof.Machine.execConsent receiver flit s
  | .refuse receiver flit => Sys2Proof.Machine.execRefuse receiver flit s
  | .readmit receiver flit => Sys2Proof.Machine.execReadmit receiver flit s
  | .retire receiver flit => Sys2Proof.Machine.execRetire receiver flit s
  | .cxlLinkLoss link => Sys2Proof.Machine.execCxlLinkLoss link s
  | .softError u => Sys2Proof.Machine.execSoftError u s
  | .mopBlockCompletion vt => Sys2Proof.Machine.execMopBlockCompletion vt s
  | .cxlLinkDown link => Sys2Proof.Machine.execCxlLinkDown link s
  | .cxlLinkRetrained link width rate => Sys2Proof.Machine.execCxlLinkRetrained link width rate s
  | .injectionAllowance witness subject => Sys2Proof.Machine.execInjectionAllowance witness subject s

end Sys2Proof.Machine
end

