-- ==== Sys2Proof/Machine/Turns.lean ====
section
/-! DEFINITION. What a turn of the schedule does around `exec`: the choice of a slot (R52, R53, R268), the fetch of a
control-thread instruction (R324, R325), the word a virtual processor is at (R26), a PLT packet as it arrives (R274, R276,
R277, R280), clocks (R17, R18), and what happens at pre-emption points after a turn (R45, R179). -/

namespace Sys2Proof.Machine

open Sys2Proof

/-! ### Issue (R52, R53, R268) -/

/-- The cluster of a VT is in service: its tile still acts (R265, R344). -/
def State.vtServed (s : State) (v : VT) : Bool := s.inService (clusterOfCore v.core)

/-- The slot may issue from the VT: it is READY, resident, bound to the slot, and no stop of it has begun (R47, R311). -/
def State.canIssue (s : State) (core slot : Nat) (v : VT) : Bool :=
  v.st == .ready && v.resident && v.core == core && v.slot == slot && !v.stopping && !v.killed && v.violation.isNone
    && s.vtServed v

/-- The later of its last issue and the moment it became READY (R268), as a CYCLE of its core. -/
def VT.readySince (v : VT) : Int := (max v.lastIssue v.readyAt : Nat) - v.skew

/-- The order of a slot's choice at a cycle of its core: admitted VTs by deadline, then those that have waited 4,096 cycles,
longest first, then the others by ready time (R52, R268). -/
def VT.issueKey (now : Nat) (v : VT) : Nat × Int :=
  if v.admitted then (0, v.readySince + v.interval)
  else if v.aged || decide (v.readySince + 4096 ≤ now) then (1, v.readySince)
  else (2, v.readySince)

/-- `a` comes before `b`; a tie goes to the lower VTID (R268, log 12). -/
def issueBefore (now : Nat) (a b : Nat × VT) : Bool :=
  let x := a.2.issueKey now
  let y := b.2.issueKey now
  decide (x.1 < y.1) || (x.1 == y.1 && (decide (x.2 < y.2) || (x.2 == y.2 && decide (a.1 ≤ b.1))))

/-- A VT in its place among those that a slot may choose. -/
def insertIssue (now : Nat) (a : Nat × VT) : List (Nat × VT) → List (Nat × VT)
  | [] => [a]
  | b :: bs => if issueBefore now a b then a :: b :: bs else b :: insertIssue now a bs

/-- The VTs that a slot may choose, first choice first. -/
def State.issueOrder (s : State) (core slot : Nat) : List Nat :=
  ((s.vts.filter fun e => s.canIssue core slot e.2).foldr (insertIssue (s.coreCycle core)) []).map Prod.fst

/-- One core cycle passes at a core (R18, log 12). -/
def State.tick (s : State) (core n : Nat) : State :=
  s.setCore core { s.core core with cycle := (s.core core).cycle + BitVec.ofNat 64 n }

/-- What the fetch of a CT instruction comes to. -/
inductive CtFetch where
  | run (i : Instr) (s : State)
  /-- It faults, violates, or waits. -/
  | stop (s : State)

/-- The word at an address of its 128-byte line. -/
def lineWord (l : BitVec 1024) (addr : Nat) : Word32 := BitVec.ofNat 32 (l.toNat / 2 ^ (32 * (addr % 128 / 4)))

/-- The CT instruction at the PC, through the core's instruction cache (R29, R174); a fetch fault has WHERE 0 and DADDR 0
(R325), a violation's FREEZE record the address that FAULTREC does not (R315, R322). A word that is no instruction faults
with ILLOP whatever its guard (R151, R324, log 8). -/
def State.fetchCt (s : State) (id : Nat) (v : VT) : CtFetch :=
  match s.fetchLine v.core v.domain v.pc.toNat fun _ => (v.pc.toNat % 128, v.pc.toNat % 128 + 4) with
  | .fault c s' => .stop (s'.ctFault id v c 0)
  | .violation => .stop (s.violate id
      { cause := .domain, place := 0, vp := 0, elem := 0, infl := 0, code := 0, pc := v.pc, iaddr := v.pc, daddr := v.pc, fetch := true })
  | .wait s => .stop s
  | .ok l s' =>
    match decode (lineWord l v.pc.toNat) with
    | .ok i => .run i { s' with who := .ct id }
    | .error _ => .stop (s'.ctFault id v .illop 0)

/-- The VT issued, faulted or was stopped; else it stalled, and its slot may issue another (R49). -/
def State.issued (s s' : State) (id : Nat) : Bool :=
  match s.vt? id, s'.vt? id with
  | some v, some w => v.issued != w.issued || v.st != w.st || w.stopping || w.violation.isSome
  | _, _ => true

/-- The moment of a VT's issue is noted (R52, R268). -/
def State.noteIssue (s s' : State) (id : Nat) : State :=
  match s.vt? id, s'.vt? id with
  | some v, some w =>
    if v.issued != w.issued then s'.setVt id { w with lastIssue := s'.vtNow w, aged := false } else s'
  | _, _ => s'

/-- The CT instruction is not performed before the CT's earlier stores: a release, a fence, an atomic, a whole-VT synchroniser,
one that ends or parks the VT (R108 to R110, log 5). -/
def afterStores : Instr → Bool
  | .amowSwap .. | .amowAdd .. | .amowAnd .. | .amowOr .. | .amowXor .. | .amowMin .. | .amowMax .. | .amowCas ..
  | .amodSwap .. | .amodAdd .. | .amodAnd .. | .amodOr .. | .amodXor .. | .amodMin .. | .amodMax .. | .amodCas ..
  | .lda .. | .stl .. | .fence .. | .fenceSv .. | .fenceVs .. | .fenceE .. | .trap .. | .icinv .. | .park .. | .yield .. | .exit ..
  | .spawn .. | .vtctlResume .. | .vtctlKill .. | .vtctlWake .. | .bar .. | .bara .. | .barw .. | .mwait .. | .fnew .. | .fput ..
  | .fget .. | .ftake .. | .ftry .. | .ffree .. | .enq .. | .enqy .. | .deq .. | .deqt .. => true
  | _ => false

/-- The base and offset of a CT load. -/
def loadOperands : Instr → Option (Reg × Fin 4096)
  | .ldb _ _ a k | .ldbu _ _ a k | .ldh _ _ a k | .ldhu _ _ a k | .ldw _ _ a k | .ldwu _ _ a k | .ldd _ _ a k => some (a, k)
  | _ => none

/-- A load of a core finds its line in L1, which has the core's held stores (R84, R87). -/
def State.servedByL1 (s : State) (c : Nat) (t : Trans) : Bool :=
  (cachingOf t.leaf t.loc .normal).lookL1 && (l1Find (s.core c).l1 (t.loc / 64)).isSome

/-- The stores that the core holds are performed before an instruction that may not pass them: one of `afterStores`, or a load
from the home of a line that one of them touches (R102). One whose guard is false waits for nothing (R137). -/
def State.beforeCt (s : State) (id : Nat) (i : Instr) : State :=
  match s.vt? id with
  | none => s
  | some v =>
    if (s.core v.core).pend = [] ∨ v.guardHolds (guardField ((encodeNat i).getD 0)) = false then s
    else if afterStores i then s.flushCore v.core
    else
      match loadOperands i with
      | none => s
      | some (a, k) =>
        let va := (v.offsetAddr a k).toNat
        match s.resolve va (s.leafFor v.core v.domain va) with
        | some t =>
          if ((s.core v.core).pend.any fun p => p.meets t.loc 1) && !(s.servedByL1 v.core t) then s.flushCore v.core else s
        | none => s

/-! ### Virtual processors (R26, R31) -/

/-- The instruction that VP i executes next; `none` where no block runs on it or its VT is not in frames. -/
def State.vpNext (s : State) (id : Nat) (i : Fin 32) : Option (Except DecodeError Instr) :=
  match s.vt? id with
  | none => none
  | some v =>
    if v.resident && s.vtServed v then
      match v.runOf i with
      | none => none
      | some r => (r.words[r.idx]?).map decode
    else none

/-- A word that is no instruction, met in a running block; the words check of R328 leaves none. -/
def State.vpIllop (s : State) (id : Nat) (i : Fin 32) : State :=
  match s.vt? id with
  | none => s
  | some v =>
    match v.runOf i with
    | none => s
    | some r => s.vpFault id i r .illop 0 0

/-! ### Operations and events of the device -/

/-- What an operation or event belongs to: a VT and its core, the device, or nothing that a turn may name (instructions,
messages and requests come by their own turns). -/
inductive EventOf where
  | vt (id : Nat)
  | device
  | reset
  | none

/-- The master of an operation or event. -/
def eventOf : Instr → EventOf
  | .blockStart id _ | .threadFetch id _ | .vectorMemoryPerformed id _ | .monitorWake id | .parkTimeout id
  | .issueAgeing id | .swapIn id | .swapOut id | .move id _ | .faultStop id | .mopBlockCompletion id => .vt id
  | .freeze (.vt id) _ => .vt id
  | .freeze _ _ | .retry _ | .copy1d _ | .copy2d _ | .fill _ | .put _ | .get _ | .putadd _ | .signal _
  | .completionRecord _ | .scan _ _ | .launch _ | .copy _ | .prefetch _ | .unpin _ | .discard _ | .signalNode _
  | .waitfut _ | .nop _ | .nodeCompletion _ | .placement _ | .gangPreemption _ | .gangRestore _ | .lprWrite _ _
  | .fatalDump _ | .queueDestroyed _ _ | .retransmitTimeout _ | .rateIncrease _ | .handOver _ _ _
  | .newInstanceStart _ _ | .livenessBeat _ _ _ | .slackWaterCommit | .fallBack _ _ | .clockStep _ _ _ _
  | .heartbeatSend _ | .heartbeat _ _ _ | .heartbeatMiss _ _ | .accuse _ _ | .accuseRepeat _ _ | .withdraw _ _
  | .accusationExpiry _ _ _ | .cordoned _ _ | .portClosure _ _ | .cordonHandling _ | .selftest _ _ | .appeal _ _
  | .consent _ _ | .refuse _ _ | .readmit _ _ | .retire _ _ | .cxlLinkLoss _ | .softError _ | .cxlLinkDown _
  | .cxlLinkRetrained _ _ _ | .injectionAllowance _ _ => .device
  | .deviceReset => .reset
  | _ => .none

/-- The operation or event may take place now: after a fatal error only a reset and the retransmission of connection 0 (R323,
R382), and nothing of a VT whose cluster is out of service (R344, log 13, log 20). -/
def State.eventRuns (s : State) (e : Instr) : Bool :=
  match eventOf e with
  | .reset => true
  | .device => s.fatal.isNone || e == .retransmitTimeout 0
  | .vt id => s.fatal.isNone && match s.vt? id with
    | some v => s.vtServed v
    | none => true
  | .none => false

/-! ### Packets (R274, R276, R277, R280) -/

/-- A PLT packet: KIND, whether its header is within its limits, and its fields. -/
structure Arrived where
  kind : Nat
  legal : Bool
  packet : Packet

/-- The header and payload of a UDP payload; `none` where it holds no header. -/
def packetOf (port : Nat) (bs : List Byte) : Option Arrived :=
  if bs.length < 32 then none
  else
    let f (off n : Nat) : Nat := leNat ((bs.drop off).take n)
    let payload := bs.drop 32
    let kind := f 1 1
    let flags := f 2 1
    some
      { kind
        legal := f 0 1 == 1 && decide (flags < 16) && f 3 1 == 0 && decide (f 4 4 < 4096) && decide (f 8 4 < psnMod)
          && decide (f 0x0C 4 < psnMod) && decide (payload.length ≤ 8192)
          && (if kind = 0x02 then payload.isEmpty else f 0x18 4 == payload.length)
        packet :=
          { port, conn := f 4 4 % 4096, rel := flags % 2 == 1, ackreq := flags / 2 % 2 == 1, etype := flags / 4 % 4
            psn := f 8 4 % psnMod, apsn := f 0x0C 4 % psnMod, addr := BitVec.ofNat 64 (f 0x10 8), len := f 0x18 4
            tag := f 0x1C 4, payload } }

/-- A packet marked CE is answered by a CNP, at most one a connection in 12,000 I/O tile cycles (R280). -/
def State.answerCe (s : State) (p : Packet) : State :=
  match s.packetConn p with
  | none => s
  | some (key, c) =>
    let now := s.connNow key c
    if c.cnpSent.any fun t => now < t + 12000 then s
    else (s.setConn key { c with cnpSent := some now }).sendControl key 0x24 0 0 0 []

/-- A management message: what it asks for is done once it is acknowledged. -/
def State.askMgmt (s : State) (p : Packet) : Host.Outcome State Fault Refusal :=
  match s.receiveMgmt p with
  | (s', .run f) => f s'
  | (s', .malformed r code) => .next (s'.respond r code stMalformed [] [])
  | (s', .nothing) => .next s'

/-- A new instance of MGMT acts, and answers, at its beats alone: between them a message waits (R379, log 42). -/
def State.mgmtBetweenBeats (s : State) : Bool :=
  let x := (s.kind 0).insts[(0 : Fin 6)]
  s.fatal.isNone && x.running && x.isNew && !x.stopped && !x.window

/-- A management message arrives: it is taken, or waits for MGMT's next beat. -/
def State.takeMgmt (s : State) (p : Packet) : Host.Outcome State Fault Refusal :=
  if s.mgmtBetweenBeats then .next { s with heldMgmt := s.heldMgmt ++ [p] } else s.askMgmt p

/-- A control message within the table of R277: PSN 0, ETYPE 0, and but for READRESP no payload and ADDR 0. -/
def controlLegal (a : Arrived) : Bool :=
  a.legal && a.packet.psn == 0 && a.packet.etype == 0
    && (a.kind == 0x20 || (a.packet.payload.isEmpty && a.packet.addr == 0))

/-- A packet acts by its KIND. A sequenced message whose header is outside its limits is malformed; such a control message
does nothing, and is dropped where it names no open connection; another KIND is dropped (R274, R276, R277). -/
def State.takePacket (s : State) (a : Arrived) : Host.Outcome State Fault Refusal :=
  let p := a.packet
  if 1 ≤ a.kind ∧ a.kind ≤ 8 ∧ a.legal = false then .next (s.receive p false true fun _ _ s => .done s)
  else if 0x20 ≤ a.kind ∧ a.kind ≤ 0x24 ∧ controlLegal a = false then
    .next (if (s.packetConn p).isSome then s else s.drop p.port)
  else
    match a.kind with
    | 0x01 => execWrite p s
    | 0x02 => execRead p s
    | 0x03 => execSend p s
    | 0x04 => execDoorbell p s
    | 0x05 => execSubmit p s
    | 0x06 => s.takeMgmt p
    | 0x07 => execAddw p s
    | 0x08 => execSignalMessage p s
    | 0x20 => execReadresp p s
    | 0x21 => execAck p s
    | 0x22 => execNak p s
    | 0x23 => execStatus p s
    | 0x24 => execCnp p s
    | _ => .next (s.drop p.port)

/-! ### Operations, events and messages that wait (R90, R91, R341, R347) -/

/-- An operation, event or message whose accesses the slices take has come about; else it waits as a whole: of what it did
nothing counts but the requests that were rejected, or the walk that was held (log 28). -/
def State.commit (s : State) (w : Requester) (t : State) : State :=
  match t.stalled with
  | some _ => s.heldLine t.stalled
  | none =>
    match s.gate w t.wants.eraseDups with
    | .error s => s
    | .ok _ => { t with wants := [], rejected := t.rejected.filter fun r => r.who != w }

/-- What a requester does, as `commit` says. -/
def State.attempt (s : State) (w : Requester) (f : State → Host.Outcome State Fault Refusal) :
    Host.Outcome State Fault Refusal :=
  match f { s with who := .device, wants := [], stalled := none } with
  | .next t => .next (s.commit w t)
  | .fault x => .fault x
  | .refused r => .refused r

/-- The management messages that waited for a beat are taken, in order of arrival (R379). -/
def State.serveHeld (s : State) : Host.Outcome State Fault Refusal :=
  if s.heldMgmt = [] ∨ s.mgmtBetweenBeats = true then .next s
  else
    s.heldMgmt.foldl (fun (o : Host.Outcome State Fault Refusal) p => match o with
      | .next s => s.attempt (.message (packetKey p)) fun s => s.askMgmt p
      | .fault f => .fault f
      | .refused r => .refused r) (.next { s with heldMgmt := [] })

/-- A UDP payload arrives. Nothing passes a cordoned HOST port, and after a fatal error only connection 0 is open (R323, R358,
log 9). -/
def State.takeBytes (s : State) (port : Nat) (ce : Bool) (bs : List Byte) : Host.Outcome State Fault Refusal :=
  match packetOf port bs with
  | none => .next (s.drop port)
  | some a =>
    if (s.fatal.isSome && !(port == 0 && a.packet.conn == 0)) || (port == 0 && (s.tile hostTile).cordoned) then
      .next (s.drop port)
    else
      (if ce then s.answerCe a.packet else s).attempt (.message (packetKey a.packet)) fun s => s.takePacket a

/-! ### Clocks and settings -/

/-- Cycles of a local clock pass (R17, R18, log 54). -/
def State.elapse (s : State) (c : Clock) (n : Nat) : State :=
  match c with
  | .core k => s.tick k n
  | .tile t => { s with tileClock := s.tileClock.set t (s.tileClock.getD t 0 + n) }
  | .fw k => { s with fwClock := s.fwClock.set k (s.fwClock.getD k 0 + n) }

/-- The fields of EVRING: SIZE and BASE (R62). -/
def evringFields : Word64 := 0x000FFFFFFFFFF000

/-- Where MGMT finds storage for the ring pages of a domain: 128 MiB in CD7's stack, in no reserved region (log 19). -/
def ringStorage (d : Nat) : Nat := 7 * 2 ^ 36 + 2 ^ 35 + d * 2 ^ 27

/-- The pages of a ring that do not translate with R and W outside the reserved regions are mapped (R316). -/
def State.mapRing (s : State) (d base n : Nat) : State :=
  let need := (pagesOf base n).filter fun p => !(s.areaUsable d p 1)
  (s.putTables (need.foldl (fun t p =>
    leafTables t d p 4 (BitVec.ofNat 64 (ringStorage d + (p - base) + 0x0D))) s.tables)).tlbFlush

/-- MGMT sets a domain's EVRING and maps the ring's pages (R62, R316). -/
def State.setEvring (s : State) (d : Nat) (v : Word64) : State :=
  let e := v &&& evringFields
  if d < 64 then
    let s := s.setDomain d { s.domain d with evring := e }
    if e = 0 then s else s.mapRing d (bits64 e 12 36 * 4096) (128 * 2 ^ (bits64 e 48 4 + 5))
  else s

/-- A setting from outside, or from firmware, which a fatal error ends. -/
def State.unlessFatal (s : State) (f : State → State) : State := if s.fatal.isSome then s else f s

/-! ### Around a turn -/

/-- A turn of firmware, which leaves the acts of a new instance's last beat visible (R379, log 42). -/
def Turn.ofFirmware (t : Turn) : Bool :=
  match t with
  | .op e => match e with
    | .livenessBeat .. | .scan .. | .launch _ | .copy _ | .prefetch _ | .unpin _ | .discard _ | .signalNode _ | .waitfut _
    | .nop _ | .nodeCompletion _ | .gangRestore _ | .gangPreemption _ | .queueDestroyed .. | .cordonHandling _
    | .clockStep .. | .slackWaterCommit => true
    | _ => false
  | _ => false

/-- Any other turn ends the time in which a new instance acts (R379). -/
def State.beforeTurn (s : State) (t : Turn) : State := if t.ofFirmware then s else s.closeWindows

/-- A VT at a pre-emption point ends if it is killed, and is bound again if its slot changed (R45, R179); a span request
that waited for its `mop` takes effect (R228). -/
def State.settleVt (s : State) (id : Nat) : State :=
  match s.vt? id with
  | none => s
  | some v => if s.vtServed v then ((s.settleKill id).settleBind id).settleSpan id else s

/-- Every VT, and the posts that wait (R316, R347). -/
def State.settle (s : State) : State := (s.vts.foldl (fun s e => s.settleVt e.1) s).settlePosts

/-- The outcome of a turn, settled. -/
def settled : Host.Outcome State Fault Refusal → Host.Outcome State Fault Refusal
  | .next s => s.settle.serveHeld
  | .fault f => .fault f
  | .refused r => .refused r

/-- The turn that an empty schedule stands for: the start of a device that has not started, then the passing of time
(log 2). -/
def State.idleTurn (s : State) : Turn :=
  if s.conns.isEmpty then .op .deviceReset else .elapse (.fw 0) 1

end Sys2Proof.Machine
end

