-- ==== Sys2Proof/Machine/Step.lean ====
section
/-! DEFINITION. One step of the device: the next turn of the schedule (log 2), and the placing of an instruction where the
next step fetches it. -/

namespace Sys2Proof.Machine

open Sys2Proof

/-- The slot issues from the first VT of its order that does not stall; one core cycle has passed (R49, R52). -/
def issueFrom (core : Nat) : List Nat → State → Host.Outcome State Fault Refusal
  | [], s => .next s
  | id :: rest, s =>
    match s.vt? id with
    | none => issueFrom core rest s
    | some v =>
      match s.fetchCt id v with
      | .stop s' => if s.issued s' id then .next s' else issueFrom core rest s'
      | .run i s' =>
        match exec i (s'.beforeCt id i) with
        | .next t => if s'.issued t id then .next (s'.noteIssue t id) else issueFrom core rest t
        | .fault f => .fault f
        | .refused r => .refused r

/-- A turn of the schedule. -/
def takeTurn (t : Turn) (s : State) : Host.Outcome State Fault Refusal :=
  match t with
  | .issue core slot =>
    if s.fatal.isSome then .next s else issueFrom core (s.issueOrder core slot) (s.tick core 1)
  | .vp id i =>
    if s.fatal.isSome then .next s
    else
      match s.vpNext id i with
      | none => .next s
      | some (.ok e) => exec e { s with who := .vp id i }
      | some (.error _) => .next (s.vpIllop id i)
  | .op e => if s.eventRuns e then s.attempt (.event e) (exec e) else .next s
  | .packet port ce bs => s.takeBytes port ce bs
  | .badPacket port => .next (s.drop port)
  | .elapse c n => .next (s.elapse c n)
  | .setEvring d v => .next (s.unlessFatal fun s => s.setEvring d v)
  | .occupy k n => .next (s.unlessFatal fun s => s.setSlice k { s.slice k with used := min n 240 })
  | .setAllowance k n => .next (s.unlessFatal fun s => { s with allowance := s.allowance.set k n })
  | .corrected t n => .next (s.unlessFatal fun s => s.noteCorrected t n)
  | .bist t pass => .next (s.unlessFatal fun s => s.endBist t pass)
  | .delayStores id on => .next (s.unlessFatal fun s => s.modVt id fun v => { v with delays := on })
  | .performStore core k => .next (s.unlessFatal fun s => s.performStore core k)
  | .setPort port a => .next (s.unlessFatal fun s => { s with ports := s.ports.set port a })

/-- One step: the next turn of the schedule, or the turn that an empty schedule stands for. A device that a fatal error has
stopped, and to which nothing comes, stands still. -/
def step (s : State) : Host.Outcome State Fault Refusal :=
  match s.schedule with
  | t :: ts => settled (takeTurn t ({ s with schedule := ts }.beforeTurn t))
  | [] => if s.fatal.isSome then .fault .stoppedByFatalError else settled (takeTurn s.idleTurn (s.beforeTurn s.idleTurn))

/-! ### Placing an instruction -/

/-- The location of the page of code that `withFetchWord` uses: the first beyond the reserved regions at the start of CD0's
stack (log 15, log 59). -/
def fetchLoc : Nat := 0x80000000

/-- A VT of W = 16 in the frames of core 0, with every field as at creation. -/
def fetchVt : VT :=
  { domain := 0, gang := 0, gangId := 0, rank := 0, launch := none, launchNo := 0, launchIndex := 0, prio := 0, wsel := 2
    codebase := 0, tcmwin := 0, interval := 0, persistent := false, spillbase := 0, spillx := 0, spillv := 0
    st := .ready, resident := true, span := 4, pc := 0, vcfg := vcfgReset 2 }

/-- Its gang, of one member. -/
def fetchGang : Gang :=
  { domain := 0, id := 0, size := 1, st := .placed, frames := 4, members := [0], mem := 1, placedAt := 1, restored := true }

/-- The run of a block of one instruction. -/
def fetchRun (w : Word32) : Run :=
  { addr := 0
    words := [({ len := 1, wide := wordIsWide w, lqn := 0, sqn := 0, xqs := 0, xqr := 0 } : Header).encode, w]
    idx := 1, pc := 0, cap := fetchVt.capture, wide := wordIsWide w, thread := false, parts := 1, named := none
    suspended := false }

namespace State

/-- The machine with an instruction placed where the next step takes it: in the code of VT 0, which alone stands in the
frames of core 0 and whose slot has the next turn; or, where the word runs on a VP only, as the word that VP 0 of that VT is
at. What the fetch passes through is in service, has room, and holds nothing older: the core, its cluster and die, that
die's slices, the tables of domain 0 at the page (log 3). -/
def withFetchWord (s : State) (nbits w : Nat) : State :=
  let x : Word32 := BitVec.ofNat 32 (w % 2 ^ nbits)
  let onVp := contextOfOp (wordField x.toNat 26 6) == .vpOnly
  let vt := if onVp then { fetchVt with vps := fetchVt.vps.set 0 { run := some (fetchRun x) } } else fetchVt
  let t := ((s.tables.set (tableKey 0 1 0) 1).set (tableKey 0 2 0) 1).set (tableKey 0 3 0) 1
  let mine (r : Requester) : Bool := r == .agent (.ct 0) || r == .agent (.vp 0 0)
  let s := s.putTables (t.set (tableKey 0 4 0) (BitVec.ofNat 64 (fetchLoc + 0x1D)))
  { s with
    fatal := none
    schedule := [if onVp then .vp 0 0 else .issue 0 0]
    vts := (s.vts.mapVals fun _ v =>
      let v := { v with inflight := v.inflight.map fun e => { e with held := e.held.filter fun k => 12 ≤ k } }
      if v.core = 0 && v.resident then
        { v with resident := false, st := if v.st = .ready then .readyOut else v.st }
      else v).set 0 vt
    slices := s.slices.filter fun e => 12 ≤ e.1
    rejected := s.rejected.filter fun r => !(mine r.who)
    wants := []
    stalled := none
    gangs := s.gangs.set 0 fetchGang
    cores := s.cores.erase 0
    clusters := s.clusters.erase 0
    tiles := s.tiles.filter fun e => tileDie e.1 != 0
    dies := s.dies.erase 0
    reserved := s.reserved.filter fun r => !(decide (r.1 ≤ fetchLoc) && decide (fetchLoc < r.1 + r.2))
    poison := s.poison.filter fun u => !(isTableLoc (u * 8)) && !(decide (fetchLoc ≤ u * 8) && decide (u * 8 < fetchLoc + 128))
    mem := Memory.writeBytes s.mem fetchLoc (leBytes 4 x.toNat) }

end State

end Sys2Proof.Machine
end

