-- ==== Sys2Proof/Safety.lean ====
section
/-! DEFINITION. The terms in which claims about the machine are stated: when an instruction runs, what it means that an
instruction of a virtual processor completes, and the invariant of the state. -/

namespace Sys2Proof.Machine

open Sys2Proof

/-- The CT of VT `id` executes an instruction under a true guard `g`, and nothing that it reads, of `xs` and `ps`, is
poisoned or waits for a status (R137, R179, R346). -/
structure CtRuns (s : State) (id : Nat) (vt : VT) (g : Guard) (xs : List Reg) (ps : List (Fin 8)) : Prop where
  who : s.who = .ct id
  here : s.vt? id = some vt
  guard : vt.guardHolds g = true
  status : vt.awaitsStatus xs = false
  clean : vt.ctPoisoned g xs ps = false

/-- VP `i` of VT `id` executes an instruction of the run `r` of a block: it runs, no load that it must wait for is
outstanding, and nothing that it reads is poisoned: of each register of `vs` the bytes given with it, of the predicates `ps`
(R25, R26, R346). -/
structure VpRuns (s : State) (id : Nat) (vt : VT) (i : Fin 32) (r : Run) (g : Guard) (vs : List (Reg × Nat))
    (ps : List (Fin 8)) : Prop where
  who : s.who = .vp id i
  here : s.vt? id = some vt
  run : vt.runOf i = some r
  loads : vt.interlocked i r.vNames = false
  clean : vt.vpPoisoned i g vs ps = false

/-- The instruction answers the state `s` with VT `id` replaced, and nothing else changed. -/
def CtDone (e : Instr) (s : State) (id : Nat) (vt : VT) : Prop := exec e s = .next (s.setVt id vt)

/-- The instruction completes on VP `i`: the VP is now `vp`, past the instruction, and the flags `fl` are added to FFLAGS;
nothing outside the VT has changed. -/
def VpDone (e : Instr) (s : State) (id : Nat) (vt : VT) (i : Fin 32) (r : Run) (vp : VP) (fl : FFlags) : Prop :=
  exec e s = .next (s.setVt id (vt.vpRetire i r vp fl))

/-- The CT instruction has detected a fault and nothing else has changed: its record is complete (R311, R325). -/
def CtFaults (e : Instr) (s : State) (id : Nat) (vt : VT) (c : Cause) (daddr : Word64) : Prop :=
  exec e s = .next (s.setVt id { vt with
    stopping := true
    detected := vt.detected ++ [{ cause := c, place := 0, vp := 0, elem := 0, infl := 0, code := 0, pc := vt.pc,
                                  iaddr := vt.pc, daddr }] })

/-- The guard bits of the elements of VP `i`. -/
def VT.bits (vt : VT) (i : Fin 32) (g : Guard) : Nat → Bool := predBit (vt.vps[i].guardOf g)

/-! ### What integer instructions compute, in the arithmetic of words of `e` bits -/

/-- An integer instruction of two sources with its result. -/
structure IntBinary where
  instr : Guard → Reg → Reg → Reg → Instr
  result : (e : Nat) → BitVec e → BitVec e → BitVec e

/-- An integer instruction of one source with its result. -/
structure IntUnary where
  instr : Guard → Reg → Reg → Instr
  result : (e : Nat) → BitVec e → BitVec e

/-- The register operations of R159 and R161: shifts take the amount modulo e, products beyond e bits are formed in 2e
bits, quotients are rounded towards zero, a division by zero gives every bit set and its remainder the dividend. -/
def integerBinaries : List IntBinary :=
  [⟨.add, fun _ x y => x + y⟩, ⟨.sub, fun _ x y => x - y⟩, ⟨.and, fun _ x y => x &&& y⟩, ⟨.or, fun _ x y => x ||| y⟩,
   ⟨.xor, fun _ x y => x ^^^ y⟩, ⟨.sll, fun e x y => x <<< (y.toNat % e)⟩, ⟨.srl, fun e x y => x >>> (y.toNat % e)⟩,
   ⟨.sra, fun e x y => x.sshiftRight (y.toNat % e)⟩, ⟨.min, fun _ x y => if x.slt y then x else y⟩,
   ⟨.max, fun _ x y => if x.slt y then y else x⟩, ⟨.minu, fun _ x y => if x.ult y then x else y⟩,
   ⟨.maxu, fun _ x y => if x.ult y then y else x⟩, ⟨.mul, fun e x y => BitVec.ofInt e (x.toInt * y.toInt)⟩,
   ⟨.mulh, fun e x y => (x.signExtend (2 * e) * y.signExtend (2 * e)).extractLsb' e e⟩,
   ⟨.mulhu, fun e x y => (x.zeroExtend (2 * e) * y.zeroExtend (2 * e)).extractLsb' e e⟩,
   ⟨.div, fun e x y => if y = 0 then BitVec.allOnes e else x.sdiv y⟩,
   ⟨.divu, fun e x y => if y = 0 then BitVec.allOnes e else x.udiv y⟩,
   ⟨.rem, fun _ x y => if y = 0 then x else x.srem y⟩, ⟨.remu, fun _ x y => if y = 0 then x else x.umod y⟩]

/-- Bit counts (R159): 1 bits, zeros above the highest 1 bit, zeros below the lowest. -/
def integerUnaries : List IntUnary :=
  [⟨.popc, fun e x => BitVec.ofNat e ((List.range e).countP fun k => x.getLsbD k)⟩, ⟨.clz, fun _ x => x.clz⟩,
   ⟨.ctz, fun _ x => x.reverse.clz⟩]

/-- The immediate operations of R160 for one immediate and one shift amount. -/
def integerImmediates (imm : Fin 4096) (amt : Fin 64) : List IntUnary :=
  let v (e : Nat) : BitVec e := (BitVec.ofNat 12 imm.val).signExtend e
  [⟨fun g d a => .addi g d a imm, fun e x => x + v e⟩, ⟨fun g d a => .andi g d a imm, fun e x => x &&& v e⟩,
   ⟨fun g d a => .ori g d a imm, fun e x => x ||| v e⟩, ⟨fun g d a => .xori g d a imm, fun e x => x ^^^ v e⟩,
   ⟨fun g d a => .slli g d a amt, fun _ x => x <<< amt.val⟩, ⟨fun g d a => .srli g d a amt, fun _ x => x >>> amt.val⟩,
   ⟨fun g d a => .srai g d a amt, fun _ x => x.sshiftRight amt.val⟩]

/-- The saturating and averaging operations of R208, for elements of an i type (`signed`) or an n type. -/
def saturatingBinaries (signed : Bool) : List IntBinary :=
  let clamp (e : Nat) (t : Int) : BitVec e :=
    if (2 ^ (e - 1) : Nat) ≤ t then BitVec.intMax e
    else if t < -(2 ^ (e - 1) : Nat) then BitVec.intMin e else BitVec.ofInt e t
  [⟨.adds, fun e x y => clamp e (x.toInt + y.toInt)⟩, ⟨.subs, fun e x y => clamp e (x.toInt - y.toInt)⟩,
   ⟨.addsu, fun e x y => if 2 ^ e ≤ x.toNat + y.toNat then BitVec.allOnes e else x + y⟩,
   ⟨.subsu, fun _ x y => if x.ult y then 0 else x - y⟩,
   ⟨.avg, fun e x y => ((x.signExtend (e + 1) + y.signExtend (e + 1) + 1).sshiftRight 1).setWidth e⟩,
   ⟨.avgu, fun e x y => ((x.zeroExtend (e + 1) + y.zeroExtend (e + 1) + 1) >>> 1).setWidth e⟩,
   ⟨.absd, fun e x y =>
     if signed then (if x.slt y then BitVec.ofInt e (y.toInt - x.toInt) else BitVec.ofInt e (x.toInt - y.toInt))
     else if x.ult y then y - x else x - y⟩]

/-- Saturating absolute value (R208). -/
def absolute (e : Nat) (x : BitVec e) : BitVec e :=
  if x = BitVec.intMin e then BitVec.intMax e else if x.msb then -x else x

/-- What a condition of `cmp` says of two elements (R162). -/
def condMeans {e : Nat} (c : Cond) (x y : BitVec e) : Bool :=
  match c with
  | .eq => decide (x = y)
  | .ne => decide (x ≠ y)
  | .lt => x.slt y
  | .le => x.sle y
  | .gt => y.slt x
  | .ge => y.sle x
  | .ltu => x.ult y
  | .leu => x.ule y
  | .gtu => y.ult x
  | .geu => y.ule x
  | .tst => decide (x &&& y ≠ 0)
  | .ntst => decide (x &&& y = 0)

/-! ### Memory: what an access leaves -/

/-- The stores that a core holds, but for which of them its L1 has taken in. -/
def Core.held (k : Core) : List PendStore := k.pend.map fun p => { p with shown := false }

/-- Two cores differ at most in what their caches and TLBs hold: the stores that they hold are the same. -/
def SameCore (k k' : Core) : Prop :=
  k' = { k with l1 := k'.l1, icache := k'.icache, lanes := k'.lanes, tlb := k'.tlb, pend := k'.pend } ∧ k'.held = k.held

/-- A VT after an access that a monitor may have seen: only what the monitor notes for its parked VT may differ (R237). -/
def Watched (v v' : VT) : Prop := v' = { v with park := v'.park } ∧ (v.park = none → v'.park = none)

/-- The cores, clusters and VTs of two machines are the same but for caches, TLBs and what monitors have noted. -/
def SameUnits (s u : State) : Prop :=
  (∀ c, SameCore (s.core c) (u.core c)) ∧ (∀ g, u.cluster g = { s.cluster g with tlb := (u.cluster g).tlb })
    ∧ ∀ j, (s.vt? j = none → u.vt? j = none) ∧ ∀ v, s.vt? j = some v → ∃ v', u.vt? j = some v' ∧ Watched v v'

/-- The machine `u` is `s` but for what its caches and TLBs hold. A line that leaves L2 may show a monitor past L2 a new
value. -/
def SameButCaches (s u : State) : Prop :=
  u = { s with cores := u.cores, clusters := u.clusters, l2 := u.l2, vts := u.vts } ∧ SameUnits s u

/-- The machine `u` is `s` after a store of `n` bytes at location `loc`, seen by the monitors, and after VT `id` has become
`vt`: no byte outside them has changed, nor anything else but the contents of caches and TLBs. -/
def StoreFrame (s u : State) (id : Nat) (vt : VT) (loc n : Nat) : Prop :=
  u = { s with cores := u.cores, clusters := u.clusters, l2 := u.l2, mem := u.mem, vts := u.vts }
    ∧ SameUnits (s.setVt id vt) u ∧ ∀ a, (a < loc ∨ loc + n ≤ a) → u.byteAt a = s.byteAt a

/-- The location lies in no part of a stored VT's record that a wake rewrites (R66). -/
def State.outsideRecords (s : State) (a : Nat) : Prop :=
  ∀ e ∈ s.vts, e.2.resident = false → ∀ c, e.2.ctx = some c → a < c.1 ∨ c.1 + 0x140 ≤ a

/-- A scalar load: its size in bytes, and whether it sign-extends (R164). -/
def scalarLoads : List ((Guard → Reg → Reg → Fin 4096 → Instr) × Nat × Bool) :=
  [(.ldb, 1, true), (.ldbu, 1, false), (.ldh, 2, true), (.ldhu, 2, false), (.ldw, 4, true), (.ldwu, 4, false),
   (.ldd, 8, true)]

/-- A scalar store: its size in bytes (R164). -/
def scalarStores : List ((Guard → Reg → Reg → Fin 4096 → Instr) × Nat) := [(.stb, 1), (.sth, 2), (.stw, 4), (.std, 8)]

/-- An atomic: its size in bytes and the new value from the old one, b and the expected one (R167); none where a `cas` finds
another value. -/
structure AtomicOp where
  instr : Guard → Reg → Reg → Reg → Order → Fin 4 → Instr
  bytes : Nat
  cas : Bool
  new : (e : Nat) → BitVec e → BitVec e → BitVec e → Option (BitVec e)

/-- The atomics of R167. -/
def atomicOps : List AtomicOp :=
  let swap (e : Nat) (_ b _ : BitVec e) := some b
  let add (e : Nat) (o b _ : BitVec e) := some (o + b)
  let and' (e : Nat) (o b _ : BitVec e) := some (o &&& b)
  let or' (e : Nat) (o b _ : BitVec e) := some (o ||| b)
  let xor (e : Nat) (o b _ : BitVec e) := some (o ^^^ b)
  let min (e : Nat) (o b _ : BitVec e) := some (if o.slt b then o else b)
  let max (e : Nat) (o b _ : BitVec e) := some (if o.slt b then b else o)
  let cas (e : Nat) (o b x : BitVec e) := if o = x then some b else none
  [⟨.amowSwap, 4, false, swap⟩, ⟨.amowAdd, 4, false, add⟩, ⟨.amowAnd, 4, false, and'⟩, ⟨.amowOr, 4, false, or'⟩,
   ⟨.amowXor, 4, false, xor⟩, ⟨.amowMin, 4, false, min⟩, ⟨.amowMax, 4, false, max⟩, ⟨.amowCas, 4, true, cas⟩,
   ⟨.amodSwap, 8, false, swap⟩, ⟨.amodAdd, 8, false, add⟩, ⟨.amodAnd, 8, false, and'⟩, ⟨.amodOr, 8, false, or'⟩,
   ⟨.amodXor, 8, false, xor⟩, ⟨.amodMin, 8, false, min⟩, ⟨.amodMax, 8, false, max⟩, ⟨.amodCas, 8, true, cas⟩]

/-- No clean line of L2 differs from what storage holds, as only accesses past L2 to a line that is present make one do so,
and no unit of the storage below a line of L2 is poisoned (R84, R346). -/
def State.synced (s : State) : Prop := ∀ l ∈ s.l2, (l.dirty = false → l.old = none) ∧ l.oldMarks = 0

/-- An access of `n` bytes at `va` by VT `vt` finds nothing in its way: no slice turns it away, its translation is `t`, which
leaves the machine `s'`, its home and its storage are in reach, no unit is poisoned, and a write touches no line of a store
that the core holds (R83, R85, R90, R102, R344, R346, R347). -/
structure Passes (s s' : State) (vt : VT) (va n : Nat) (k : AccessKind) (t : Trans) : Prop where
  taken : s.gated vt.core vt.domain va n k .normal = .ok s
  translated : s.access vt.core vt.domain va k = .ok t s'
  reached : (linesOf t.loc n).any (fun l => s'.unreachable (l * 64)) = false
  link : s'.linkWaits (cachingOf t.leaf t.loc .normal) k t.loc n = false
  clean : s.poison = []
  lines : ∀ l ∈ (s.core vt.core).l1, l.poison = 0
  synced : s.synced
  held : k = .load ∨ ∀ p ∈ (s.core vt.core).pend, p.meets t.loc n = false

/-- What an access to a translated address reads: the home's bytes, or those of storage for a page that goes past L2. -/
def State.bytesAt (s : State) (t : Trans) (n : Nat) : List Byte := s.homeRead (cachingOf t.leaf t.loc .normal) t.loc n

/-- The bytes that a load of core `c` finds at a location: those of its L1 where the page may be read from there and the line
is present, else those of the home, or of storage where the page goes past L2, under the held stores that accesses of the
core may have read (R84, R87, R100). -/
def State.loadBytes (s : State) (c : Nat) (k : Caching) (loc n : Nat) : List Byte :=
  match (if k.lookL1 then l1Find (s.core c).l1 (loc / 64) else none) with
  | some l => lineBytes l.data (loc % 64) n
  | none => overlay (s.shownStores c) loc (s.homeRead k loc n)

/-! ### Floating point and wide operations -/

/-- A floating-point instruction of one source: the encoding and the flags of an element. -/
structure FloatUnary where
  instr : Guard → Reg → Reg → Instr
  result : FloatFormat → Rounding → Nat → Nat × FFlags

/-- A floating-point instruction of two sources. -/
structure FloatBinary where
  instr : Guard → Reg → Reg → Reg → Instr
  result : FloatFormat → Rounding → Nat → Nat → Nat × FFlags

/-- The instructions of R202 and R203. -/
def floatUnaries : List FloatUnary :=
  [⟨.fsqrt, fun f r x => f.sqrt r (f.decode x)⟩, ⟨.frcp, fun f r x => f.rcp r (f.decode x)⟩,
   ⟨.frsq, fun f r x => f.rsq r (f.decode x)⟩, ⟨.fexp2, fun f r x => f.exp2 r (f.decode x)⟩,
   ⟨.flog2, fun f r x => f.log2 r (f.decode x)⟩, ⟨.fabs, fun f _ x => f.signOp x false [f.decode x]⟩,
   ⟨.fneg, fun f _ x => f.signOp x (!(f.signOf x)) [f.decode x]⟩,
   ⟨.fclass, fun f _ x => (f.classOf x, signallingFlags [f.decode x])⟩]

/-- The instructions of R201 and `fsgnj`. -/
def floatBinaries : List FloatBinary :=
  [⟨.fadd, fun f r x y => f.add r (f.decode x) (f.decode y)⟩,
   ⟨.fsub, fun f r x y => f.add r (f.decode x) (f.decode y).neg⟩,
   ⟨.fmul, fun f r x y => f.mul r (f.decode x) (f.decode y)⟩, ⟨.fmin, fun f _ x y => f.minMax false x y⟩,
   ⟨.fmax, fun f _ x y => f.minMax true x y⟩, ⟨.fdiv, fun f r x y => f.div r (f.decode x) (f.decode y)⟩,
   ⟨.fsgnj, fun f _ x y => f.signOp x (f.signOf y) [f.decode x, f.decode y]⟩]

/-- The flags `fl` are exactly those that some guarded element raises. -/
def FlagsOf (n : Nat) (guard : Nat → Bool) (f : Nat → FFlags) (fl : FFlags) : Prop :=
  ∀ b, b < 5 → fl.getLsbD b = (List.range n).any fun k => guard k && (f k).getLsbD b

/-- What a source element of a conversion stands for: an integer, or what its format gives (R117, R119, R206). -/
def sourceValue (src : Fmt) (enc : Nat) : FValue :=
  if src.isInt then
    let v : Int := if fmtSigned src then sext (fmtBits src) enc else enc
    .fin (v < 0) v.natAbs 0
  else fmtValue src enc

/-- The magnitude m * 2^x as a multiple of 2^q, for q up to x. -/
def magnitudeAt (q : Int) (m : Nat) (x : Int) : Nat := m * 2 ^ (x - q).toNat

/-- The magnitude of a finite encoding as a multiple of 2^q. -/
def FloatFormat.magnitudeAt (f : FloatFormat) (q : Int) (enc : Nat) : Nat :=
  match f.decode enc with
  | .fin _ m x => Machine.magnitudeAt q m x
  | _ => 0

/-- A magnitude `v` strictly between `lo` and `hi` takes the upper one under a mode; `odd` says that the encoding of `lo` ends
in 1 (R123). -/
def takesUpper (r : Rounding) (neg odd : Bool) (lo v hi : Nat) : Bool :=
  match r with
  | .rne => decide (lo + hi < 2 * v) || (2 * v == lo + hi && odd)
  | .rtz => false
  | .rdn => neg
  | .rup => !neg

/-- A value is the sum of a list of values along some full binary tree, with the list's values in some order as leaves (R226). -/
inductive SumTree : List (BitVec 32) → BitVec 32 → Prop where
  | leaf (x : BitVec 32) : SumTree [x] x
  | node (l r p : List (BitVec 32)) (a b : BitVec 32) : SumTree l a → SumTree r b → List.Perm (l ++ r) p →
      SumTree p (accAdd a b).1

/-- A wide instruction completes jointly: each participant has its new registers and goes on, and the flags `fl` are added
once (R213). -/
def WideDone (e : Instr) (s : State) (id : Nat) (vt : VT) (outs : List (WideIn × VP)) (fl : FFlags) : Prop :=
  let t := outs.foldl (fun (t : VT) o => t.vpRetire o.1.j o.1.run o.2 0) vt
  exec e s = .next (s.setVt id { t with fflags := t.fflags ||| fl })

/-- Every participant `w` of a wide instruction can write what `f w` says, and `outs` lists them with their new registers. -/
def WideWrites (ins : List WideIn) (outs : List (WideIn × VP)) (f : WideIn → Option VP) : Prop :=
  outs.map Prod.fst = ins ∧ ∀ o ∈ outs, f o.1 = some o.2

/-- The invariant: the bytes of storage, of every TCM window and of every CSP window are in canonical form, so that equal
memories are equal data. -/
def State.wf (s : State) : Bool :=
  Memory.wf s.mem && (s.vts.all fun e => Memory.wf e.2.tcm) && s.gangs.all fun e => Memory.wf e.2.csp

end Sys2Proof.Machine
end

