-- ==== Sys2Proof/Certificates/Slice0/Obligations.lean ====
section
/-! DEFINITION. The statements about the machine, each named for what it states, with the rule that it formalises. -/

open Sys2Proof Sys2Proof.Machine

/-! ### Registers, guards, contexts -/

/-- R55: x0 reads zero and p7 reads true, writes to them are discarded, and any other register reads back what was written
while every other one keeps its value; in a VP, p7 reads all ones. -/
def Obligations.HardWiredRegisters : Prop :=
  ∀ (vt : VT) (vp : VP) (r q : Reg) (a b : Fin 8) (v : Word64) (c : Bool) (u : Pred),
    vt.readX 0 = 0 ∧ vt.writeX 0 v = vt ∧ vt.readP 7 = true ∧ vt.writeP 7 c = vt
      ∧ vp.readP 7 = BitVec.allOnes 256 ∧ vp.writeP 7 u = vp
      ∧ (r ≠ 0 → (vt.writeX r v).readX r = v) ∧ (q ≠ r → (vt.writeX r v).readX q = vt.readX q)
      ∧ (a ≠ 7 → (vt.writeP a c).readP a = c) ∧ (b ≠ a → (vt.writeP a c).readP b = vt.readP b)
      ∧ (a ≠ 7 → (vp.writeP a u).readP a = u) ∧ (b ≠ a → (vp.writeP a u).readP b = vp.readP b)

/-- R137: in the CT an instruction whose guard is 0 has no effect at all but that it issues: the PC goes on to the next word
and ISSUED counts it. It holds for every instruction that the CT may execute, with every operand; a `mova` or `movta` whose
block is beyond W is no instruction there (R326). -/
def Sys2Proof.Claim.FalseGuardHasNoEffect : Prop :=
  ∀ (s : State) (id : Nat) (vt : VT) (e : Instr) (w : Nat), e.wellFormed = true → encodeNat e = some w →
    e.context ≠ .vpOnly → (∀ h a va blk, e = .mova h a va blk ∨ e = .movta h a va blk → blk.val < 128 / vt.w) →
    s.who = .ct id → s.vt? id = some vt → vt.guardHolds (guardField w) = false → vt.ctPoisoned (guardField w) [] [] = false →
    exec e s = .next (s.setVt id { vt with pc := vt.pc + 4, issued := vt.issued + 1 })

/-- R140, R327: a VP-only instruction in CT code is not an instruction: the CT detects ILLOP with WHERE 0, whatever its
guard, and nothing else changes. -/
def Sys2Proof.Claim.VpInstructionInCtIsIllegal : Prop :=
  ∀ (s : State) (id : Nat) (vt : VT) (e : Instr), e.context = .vpOnly → s.who = .ct id → s.vt? id = some vt →
    CtFaults e s id vt .illop 0

/-- R137, R140, R327: a false guard leaves a CT instruction no effect but its issue, and a VP-only instruction in CT code faults. -/
def Obligations.GuardsAndContexts : Prop :=
  Claim.FalseGuardHasNoEffect ∧ Claim.VpInstructionInCtIsIllegal

/-! ### Integer instructions -/

/-- R158, R159, R161: the register operations of the CT on 64 bits. Nothing but x[d], the PC and ISSUED changes. -/
def Sys2Proof.Claim.ScalarRegisterResults : Prop :=
  ∀ (s : State) (id : Nat) (vt : VT) (g : Guard) (d a b : Reg), CtRuns s id vt g [a, b] [] →
    ∀ p ∈ integerBinaries,
      CtDone (p.instr g d a b) s id (vt.writeX d (p.result 64 (vt.readX a) (vt.readX b))).retire

/-- R159, R160: the bit counts and the immediate operations of the CT; `lui` gives its immediate times 4096, and `auipc`
that plus the address of the instruction. -/
def Sys2Proof.Claim.ScalarUnaryResults : Prop :=
  ∀ (s : State) (id : Nat) (vt : VT) (g : Guard) (d a : Reg) (imm : Fin 4096) (amt : Fin 64) (up : Fin 131072),
    (CtRuns s id vt g [a] [] → ∀ p ∈ integerUnaries ++ integerImmediates imm amt,
      CtDone (p.instr g d a) s id (vt.writeX d (p.result 64 (vt.readX a))).retire)
    ∧ (CtRuns s id vt g [] [] →
      let u : Word64 := (BitVec.ofNat 17 up.val).signExtend 64 <<< 12
      CtDone (.lui g d up) s id (vt.writeX d u).retire ∧ CtDone (.auipc g d up) s id (vt.writeX d (vt.pc + u)).retire)

/-- R158, R159, R161, R208: the same operations, and the saturating and averaging ones, on the elements of a VP's registers;
where an operand must wait for a queue, nothing happens. -/
def Sys2Proof.Claim.VpRegisterResults : Prop :=
  ∀ (s : State) (id : Nat) (vt : VT) (i : Fin 32) (r : Run) (g : Guard) (d a b : Reg), VpRuns s id vt i r g (wholeRegs [a, b]) [] →
    let e := vt.env r i
    ∀ p ∈ integerBinaries ++ saturatingBinaries (itSigned e.it),
      let x := vt.vps[i].binary e.w e.eInt e.nInt (vt.bits i g) d a b (p.result e.eInt)
      (∀ vp, x = some vp → VpDone (p.instr g d a b) s id vt i r vp 0) ∧ (x = none → exec (p.instr g d a b) s = .next s)

/-- R158, R159, R160, R208: the operations of one source on a VP: bit counts, immediates, `abs`, and `lui`, which gives every
element its immediate times 4096. -/
def Sys2Proof.Claim.VpUnaryResults : Prop :=
  ∀ (s : State) (id : Nat) (vt : VT) (i : Fin 32) (r : Run) (g : Guard) (d a : Reg) (imm : Fin 4096) (amt : Fin 64)
      (up : Fin 131072),
    let e := vt.env r i
    (VpRuns s id vt i r g (wholeRegs [a]) [] →
      ∀ p ∈ integerUnaries ++ integerImmediates imm amt ++ [⟨.abs, absolute⟩],
        let x := vt.vps[i].unary e.w e.eInt e.nInt (vt.bits i g) d a (p.result e.eInt)
        (∀ vp, x = some vp → VpDone (p.instr g d a) s id vt i r vp 0) ∧ (x = none → exec (p.instr g d a) s = .next s))
    ∧ (VpRuns s id vt i r g [] [] → ∀ vp,
      vt.vps[i].writeFrame e.w e.eInt e.nInt (vt.bits i g) d
          (fun _ => BitVec.ofInt e.eInt ((BitVec.ofNat 17 up.val).toInt * 4096)) = some vp →
        VpDone (.lui g d up) s id vt i r vp 0)

/-- R158, R159, R161, R208: the integer operations of two sources, in the CT and in a VP: what each gives its destination, and
that nothing else but the PC and ISSUED, or the VP's place in its block, changes. -/
def Obligations.IntegerRegisterResults : Prop :=
  Claim.ScalarRegisterResults ∧ Claim.VpRegisterResults

/-- R158, R159, R160, R208: bit counts, immediate operations and `abs`, in the CT and in a VP. -/
def Obligations.IntegerUnaryResults : Prop :=
  Claim.ScalarUnaryResults ∧ Claim.VpUnaryResults

/-- R158, R200, R40: the effect frame of an instruction on elements. A v register: the guarded elements take their results,
and every other bit of every register keeps its value. The queue port: one entry is pushed, whatever the guard, with zeros
where the guard is 0, and its mask bit is 1 for exactly the bytes of guarded elements. -/
def Obligations.ElementFrame : Prop :=
  ∀ (vp vp' : VP) (w e n : Nat) (guard : Nat → Bool) (d : Reg) (f : Nat → BitVec e),
    w ∈ [4, 8, 16, 32, 64, 128] → e ∈ [8, 16, 32, 64] → e * n = 8 * w → vp.writeFrame w e n guard d f = some vp' →
    (d ≠ 31 →
      (∀ k, k < n → elem e vp'.v[d] k = if guard k then f k else elem e vp.v[d] k)
      ∧ (∀ j, 8 * w ≤ j → vp'.v[d].getLsbD j = vp.v[d].getLsbD j)
      ∧ vp' = { vp with v := vp.v.set d vp'.v[d] })
    ∧ (d = 31 → ∃ x m, vp' = { vp with storeQ := vp.storeQ ++ [{ data := x, mask := m }] }
      ∧ (∀ k, k < n → elem e x k = if guard k then f k else 0)
      ∧ ∀ k j, k < n → j < e / 8 → m.getLsbD (e / 8 * k + j) = guard k)

/-- R40, R42, R158: operands. A v register is read in place; v31 pops the oldest filled entry of the load queue and waits for
one that is not yet filled; with v31 as destination a push waits while 8 entries stand in the store queue. An instruction of
two sources pops first for A, then for B, and reads both before it writes. -/
def Obligations.QueuePortOperands : Prop :=
  ∀ (vp : VP) (r a b d : Reg) (x v : VReg) (m : BitVec 128) (rest : List LoadEntry) (w e n : Nat) (guard : Nat → Bool)
      (f : BitVec e → BitVec e → BitVec e),
    (r ≠ 31 → vp.source r = some (vp.v[r], vp) ∧ vp.dest r v m = some { vp with v := vp.v.set r v })
    ∧ (vp.loadQ = .filled x :: rest → vp.source 31 = some (x, { vp with loadQ := rest }))
    ∧ ((∀ y t, vp.loadQ ≠ .filled y :: t) → vp.source 31 = none)
    ∧ (vp.storeQ.length < 8 → vp.dest 31 v m = some { vp with storeQ := vp.storeQ ++ [{ data := v, mask := m }] })
    ∧ (8 ≤ vp.storeQ.length → vp.dest 31 v m = none)
    ∧ (∀ x1 vp1 y vp2, vp.source a = some (x1, vp1) → vp1.source b = some (y, vp2) →
        vp.binary w e n guard d a b f = vp2.writeFrame w e n guard d fun k => f (elem e x1 k) (elem e y k))

/-! ### Compares and predicates -/

/-- R162: a compare of the CT writes p[PD1] with the new value of its form and p[PD2] with the complement, PD1 last. -/
def Sys2Proof.Claim.ScalarCompareResults : Prop :=
  ∀ (s : State) (id : Nat) (vt : VT) (g : Guard) (pd1 pd2 : Fin 8) (c : Cond) (a b : Reg) (f : Comb) (imm : Fin 128),
    let new (f : Comb) (t : Bool) : Bool := match f with
      | .plain => t
      | .nar => vt.readP pd1 && t
      | .wid => vt.readP pd1 || t
      | .cut => vt.readP pd1 && !t
    (CtRuns s id vt g [a, b] [pd1] →
      let q := new f (condMeans c (vt.readX a) (vt.readX b))
      CtDone (.cmp g pd1 pd2 c a b f) s id ((vt.writeP pd2 (!q)).writeP pd1 q).retire)
    ∧ (CtRuns s id vt g [a] [] →
      let q := condMeans c (vt.readX a) ((BitVec.ofNat 7 imm.val).signExtend 64)
      CtDone (.cmpi g pd1 pd2 c a imm) s id ((vt.writeP pd2 (!q)).writeP pd1 q).retire)

/-- R162: a compare of a VP, once it has read its sources. For each guarded element the pair of bits is written, in the order
PD2, PD1; other bits of the two predicates, and all else, keep their values. -/
def Sys2Proof.Claim.VpCompareResults : Prop :=
  ∀ (s : State) (id : Nat) (vt : VT) (i : Fin 32) (r : Run) (g : Guard) (pd1 pd2 : Fin 8) (c : Cond) (a b : Reg)
      (f : Comb) (imm : Fin 128) (x y : VReg) (vp1 vp2 : VP), vt.vps[i].source a = some (x, vp1) →
    let e := vt.env r i
    let vp := vt.vps[i]
    let wrote (cond : Nat → Bool) (f : Comb) (vp' : VP) : Prop :=
      ∀ k, k < 256 →
        let q := match f with
          | .plain => cond k
          | .nar => predBit (vp.readP pd1) k && cond k
          | .wid => predBit (vp.readP pd1) k || cond k
          | .cut => predBit (vp.readP pd1) k && !(cond k)
        let on : Bool := decide (k < e.nInt) && vt.bits i g k
        (pd1 ≠ 7 → predBit (vp'.readP pd1) k = if on then q else predBit (vp.readP pd1) k)
        ∧ (pd2 ≠ 7 → pd2 ≠ pd1 → predBit (vp'.readP pd2) k = if on then !q else predBit (vp.readP pd2) k)
    let kept (from' vp' : VP) : Prop :=
      ∃ p, vp' = { from' with p := p } ∧ ∀ q : Fin 8, q ≠ pd1 → q ≠ pd2 → p[q] = vp.p[q]
    (VpRuns s id vt i r g (wholeRegs [a, b]) [pd1] → vp1.source b = some (y, vp2) →
      ∃ vp', VpDone (.cmp g pd1 pd2 c a b f) s id vt i r vp' 0 ∧ kept vp2 vp'
        ∧ wrote (fun k => condMeans c (elem e.eInt x k) (elem e.eInt y k)) f vp')
    ∧ (VpRuns s id vt i r g (wholeRegs [a]) [] → ∃ vp', VpDone (.cmpi g pd1 pd2 c a imm) s id vt i r vp' 0 ∧ kept vp1 vp'
      ∧ wrote (fun k => condMeans c (elem e.eInt x k) ((BitVec.ofNat 7 imm.val).signExtend e.eInt)) .plain vp')

/-- R163: the predicate operations in the CT, on one bit. -/
def Sys2Proof.Claim.ScalarPredicateResults : Prop :=
  ∀ (s : State) (id : Nat) (vt : VT) (g : Guard) (d a b : Fin 8) (x y : Reg),
    (CtRuns s id vt g [] [a, b] →
      let p := vt.readP a
      let q := vt.readP b
      CtDone (.pand g d a b) s id (vt.writeP d (p && q)).retire
      ∧ CtDone (.por g d a b) s id (vt.writeP d (p || q)).retire
      ∧ CtDone (.pxor g d a b) s id (vt.writeP d (p != q)).retire
      ∧ CtDone (.pandn g d a b) s id (vt.writeP d (p && !q)).retire)
    ∧ (CtRuns s id vt g [] [a] → CtDone (.pgetx g x a) s id (vt.writeX x (if vt.readP a then 1 else 0)).retire)
    ∧ (CtRuns s id vt g [y] [] → CtDone (.psetx g d y) s id (vt.writeP d ((vt.readX y).getLsbD 0)).retire)

/-- R163: the predicate operations in a VP, on all 2W bits at once under bit 0 of the guard: a false guard writes nothing, and
a push of `pgetx` still takes place with an empty mask. -/
def Sys2Proof.Claim.VpPredicateResults : Prop :=
  ∀ (s : State) (id : Nat) (vt : VT) (i : Fin 32) (r : Run) (g : Guard) (d a b : Fin 8) (x y : Reg)
      (u : VReg) (vp1 : VP),
    let vp := vt.vps[i]
    let low (p : Pred) : Pred := p &&& lowOnes 256 (2 * vt.w)
    let p := vp.readP a
    let q := vp.readP b
    let on := vt.bits i g 0
    let wrote (v : Pred) : VP := if on then vp.writeP d (low v) else vp
    (VpRuns s id vt i r g [] [a, b] →
      VpDone (.pand g d a b) s id vt i r (wrote (p &&& q)) 0
      ∧ VpDone (.por g d a b) s id vt i r (wrote (p ||| q)) 0
      ∧ VpDone (.pxor g d a b) s id vt i r (wrote (p ^^^ q)) 0
      ∧ VpDone (.pandn g d a b) s id vt i r (wrote (p &&& ~~~q)) 0)
    ∧ (VpRuns s id vt i r g [] [a] →
      (x ≠ 31 → VpDone (.pgetx g x a) s id vt i r
        (if on then { vp with v := vp.v.set x ((low p).setWidth 1024) } else vp) 0)
      ∧ (x = 31 → vp.storeQ.length < 8 → VpDone (.pgetx g x a) s id vt i r
        { vp with storeQ := vp.storeQ ++ [if on then { data := (low p).setWidth 1024, mask := lowOnes 128 vt.w }
                                          else { data := 0, mask := 0 }] } 0))
    ∧ (VpRuns s id vt i r g (wholeRegs [y]) [] → vp.source y = some (u, vp1) →
      VpDone (.psetx g d y) s id vt i r (if on then vp1.writeP d (low (u.setWidth 256)) else vp1) 0)

/-- R162: compares, in the CT and in a VP. -/
def Obligations.CompareResults : Prop :=
  Claim.ScalarCompareResults ∧ Claim.VpCompareResults

/-- R163: predicate operations, in the CT and in a VP. -/
def Obligations.PredicateResults : Prop :=
  Claim.ScalarPredicateResults ∧ Claim.VpPredicateResults

/-! ### Scalar memory -/

/-- R164, R87: a scalar load that its checks pass. x[d] takes the bytes at its address, little-endian, sign- or zero-extended;
a load to x0 is performed and its value discarded (R165). Storage keeps every byte, and nothing else changes but caches and
TLBs. -/
def Obligations.ScalarLoads : Prop :=
  ∀ (s s' : State) (id : Nat) (vt : VT) (g : Guard) (d a : Reg) (imm : Fin 4096) (t : Trans), ∀ p ∈ scalarLoads,
    let n := p.2.1
    let addr := vt.readX a + (BitVec.ofNat 12 imm.val).signExtend 64
    CtRuns s id vt g [a] [] → addr.toNat % n = 0 → Passes s s' vt addr.toNat n .load t →
    let raw := BitVec.ofNat (8 * n) (leNat (s'.loadBytes vt.core (cachingOf t.leaf t.loc .normal) t.loc n))
    let v : Word64 := if p.2.2 then raw.signExtend 64 else raw.zeroExtend 64
    ∃ u, exec (p.1 g d a imm) s = .next u ∧ SameButCaches (s.setVt id (vt.writeX d v).retire) u

/-- R164, R237, R87: a scalar store that its checks pass. The low bytes of x[b] take their place at its address, little-endian, and
no other byte of storage changes; the VT goes on to its next instruction. Where the VT's stores are held back (R102, log 5),
the store joins the end of those that its core holds, updates the core's own L1, and no byte of storage changes yet. -/
def Obligations.ScalarStores : Prop :=
  ∀ (s s' : State) (id : Nat) (vt : VT) (g : Guard) (a b : Reg) (imm : Fin 4096) (t : Trans), ∀ p ∈ scalarStores,
    let n := p.2
    let addr := vt.readX a + (BitVec.ofNat 12 imm.val).signExtend 64
    let bytes := leBytes n (vt.readX b).toNat
    CtRuns s id vt g [a, b] [] → addr.toNat % n = 0 → Passes s s' vt addr.toNat n .store t → s.wf = true →
    (vt.delays = false ∨ entryDevice t.leaf = true →
      ∃ u, exec (p.1 g a b imm) s = .next u ∧ StoreFrame s u id vt.retire t.loc n ∧ u.bytesAt t n = bytes
        ∧ ∀ k, k < n → bytes[k]? = some ((vt.readX b).extractLsb' (8 * k) 8))
    ∧ (vt.delays = true → entryDevice t.leaf = false →
      let k := s.core vt.core
      let held : Core := { k with pend := k.pend ++ [{ loc := t.loc, leaf := t.leaf, data := bytes.map fun x => (x, true) }] }
      ∃ u, exec (p.1 g a b imm) s = .next u ∧ SameButCaches ((s.setCore vt.core held).setVt id vt.retire) u)

/-- R170, R87, R109: `lda` loads 8 bytes and then acquires: beyond core scope the core's L1 is empty after it. `stl` stores 8
bytes. -/
def Sys2Proof.Claim.AcquireLoadReleaseStore : Prop :=
  ∀ (s s' : State) (id : Nat) (vt : VT) (g : Guard) (d a b : Reg) (sc : Scope) (t : Trans),
    let addr := (vt.readX a).toNat
    addr % 8 = 0 →
    (CtRuns s id vt g [a] [] → Passes s s' vt addr 8 .load t →
      let v := BitVec.ofNat 64 (leNat (s'.loadBytes vt.core (cachingOf t.leaf t.loc .normal) t.loc 8))
      ∃ u, exec (.lda g d a sc) s = .next u ∧ SameButCaches (s.setVt id (vt.writeX d v).retire) u
        ∧ (sc ≠ .core → (u.core vt.core).l1 = []))
    ∧ (CtRuns s id vt g [a, b] [] → s.wf = true → Passes s s' vt addr 8 .store t →
      ∃ u, exec (.stl g a b sc) s = .next u ∧ StoreFrame s u id vt.retire t.loc 8
        ∧ u.bytesAt t 8 = leBytes 8 (vt.readX b).toNat)

/-- R167, R87: an atomic of the CT that its checks pass. x[d] takes the old value, sign-extended; the new value takes its
place in storage, unless a `cas` finds another value than the expected one in x[d]; no other byte changes; as an acquire it
leaves the core's L1 empty. -/
def Obligations.ScalarAtomics : Prop :=
  ∀ (s s' : State) (id : Nat) (vt : VT) (g : Guard) (d a b : Reg) (ord : Order) (sc : Fin 4) (t : Trans), ∀ p ∈ atomicOps,
    let m := p.bytes
    let addr := (vt.readX a).toNat
    CtRuns s id vt g (if p.cas then [a, b, d] else [a, b]) [] → addr % m = 0 → Passes s s' vt addr m .atomic t →
    s.wf = true →
    let old := BitVec.ofNat (8 * m) (leNat (s'.bytesAt t m))
    let new := (p.new (8 * m) old ((vt.readX b).setWidth _) ((vt.readX d).setWidth _)).getD old
    ∃ u, exec (p.instr g d a b ord sc) s = .next u
      ∧ StoreFrame s u id (vt.writeX d (old.signExtend 64)).retire t.loc m ∧ u.bytesAt t m = leBytes m new.toNat
      ∧ (orderAcquires ord = true → (u.core vt.core).l1 = [])

/-- R167, R168, R169, R106: an atomic of a VP whose operands can be read, in the order A, B, and D for a `cas`, with room for a
push and no earlier load of the VP outstanding. The address is the segment's BASE plus the low 4 bytes of A. Under a guard bit 0
it makes no access, and v[d] keeps its value or the queue takes an empty entry. Else the old value goes to the low bytes of
v[d], the rest of which stays, or with zeros above it to the store queue under a full mask; memory, or the window, takes the
new value, and nothing else changes. As an acquire it leaves the core's L1 empty. -/
def Obligations.VpAtomics : Prop :=
  ∀ (s s' : State) (id : Nat) (vt : VT) (i : Fin 32) (r : Run) (g : Guard) (d a b : Reg) (ord : Order) (sc : Fin 4)
      (vp1 vp2 vp3 : VP) (x y z : VReg) (t : Trans) (k : Gang), ∀ p ∈ atomicOps,
    let e := p.instr g d a b ord sc
    let m := p.bytes
    let reads : List Reg := if p.cas then [a, b, d] else [a, b]
    let seg := r.cap.seg[sc]
    let space := (seg >>> 62).toNat
    let sum := (seg &&& 0xFFFFFFFFFFFF).toNat + (elem 32 x 0).toNat
    let addr := if space = 0 then sum % 2 ^ 64 else sum
    VpRuns s id vt i r g (reads.map fun q => (q, if q = a then 4 else m)) [] → m ≤ vt.w →
    vt.vps[i].source a = some (x, vp1) → vp1.source b = some (y, vp2) →
    (if p.cas then vp2.source d = some (z, vp3) else vp3 = vp2) → (d = 31 → vp3.storeQ.length < 8) →
    let pushes (data : VReg) (mask : BitVec 128) : VP := { vp3 with storeQ := vp3.storeQ ++ [{ data, mask }] }
    let new (old : BitVec (8 * m)) : BitVec (8 * m) := (p.new (8 * m) old (y.setWidth _) (z.setWidth _)).getD old
    let takes (old : BitVec (8 * m)) (vp : VP) : Prop :=
      (d = 31 → vp = pushes (old.setWidth 1024) (lowOnes 128 vt.w))
      ∧ (d ≠ 31 → vp = { vp3 with v := vp3.v.set d vp.v[d] } ∧ vp.v[d].setWidth (8 * m) = old
          ∧ ∀ j, 8 * m ≤ j → vp.v[d].getLsbD j = vp3.v[d].getLsbD j)
    (vt.bits i g 0 = false → VpDone e s id vt i r (if d = 31 then pushes 0 0 else vp3) 0)
    ∧ (vt.bits i g 0 = true → vt.pendingLoads i = [] → addr % m = 0 → s.wf = true →
      (space = 0 → Passes s s' vt addr m .atomic t → ∃ u vp, exec e s = .next u
        ∧ StoreFrame s u id (vt.vpRetire i r vp 0) t.loc m ∧ takes (BitVec.ofNat (8 * m) (leNat (s'.bytesAt t m))) vp
        ∧ u.bytesAt t m = leBytes m (new (BitVec.ofNat (8 * m) (leNat (s'.bytesAt t m)))).toNat
        ∧ (orderAcquires ord = true → (u.core vt.core).l1 = []))
      ∧ (space = 1 ∨ space = 2 → s.gangs.get? vt.gang = some k → k.cspPoison = [] → vt.tcmPoison = [] →
        addr + m ≤ (if space = 1 then k.cspwin * 2048 else vt.tcmwin * 4096) →
        let cells := if space = 1 then k.csp else vt.tcm
        let old := BitVec.ofNat (8 * m) (leNat (Memory.readBytes cells addr m))
        ∃ u vp c, exec e s = .next u ∧ takes old vp ∧ Memory.readBytes c addr m = leBytes m (new old).toNat
          ∧ (∀ j, j < addr ∨ addr + m ≤ j → Memory.read c j = Memory.read cells j)
          ∧ u = { s with gangs := u.gangs, vts := u.vts, cores := u.cores }
          ∧ u.vt? id = some ((if space = 1 then vt else { vt with tcm := c }).vpRetire i r vp 0)
          ∧ u.gangs.get? vt.gang = some (if space = 1 then { k with csp := c } else k)
          ∧ (∀ q, (q ≠ id → u.vt? q = s.vt? q) ∧ (q ≠ vt.gang → u.gangs.get? q = s.gangs.get? q)
            ∧ (u.core q).cycle = (s.core q).cycle ∧ (u.core q).lpr = (s.core q).lpr)
          ∧ (orderAcquires ord = true → (u.core vt.core).l1 = [])))

/-- R313, R325: a scalar access, an atomic, an `mwait`, a jump through a register, a `spawn` or an `enqy` whose address is not a
multiple of its size detects MISALIGN at that address, and nothing is written, loaded or performed. -/
def Sys2Proof.Claim.MisalignedAddressFaults : Prop :=
  ∀ (s : State) (id : Nat) (vt : VT) (g : Guard) (d a b : Reg) (imm : Fin 4096) (ord : Order) (sc : Fin 4) (scope : Scope)
      (word : Bool) (c : MCond) (eng : Fin 8),
    let off := vt.readX a + (BitVec.ofNat 12 imm.val).signExtend 64
    (∀ p ∈ scalarLoads, CtRuns s id vt g [a] [] → off.toNat % p.2.1 ≠ 0 → CtFaults (p.1 g d a imm) s id vt .misalign off)
    ∧ (∀ p ∈ scalarStores, CtRuns s id vt g [a, b] [] → off.toNat % p.2 ≠ 0 →
        CtFaults (p.1 g a b imm) s id vt .misalign off)
    ∧ (∀ p ∈ atomicOps, CtRuns s id vt g (if p.cas then [a, b, d] else [a, b]) [] → (vt.readX a).toNat % p.bytes ≠ 0 →
        CtFaults (p.instr g d a b ord sc) s id vt .misalign (vt.readX a))
    ∧ (CtRuns s id vt g [a] [] → (vt.readX a).toNat % 8 ≠ 0 → CtFaults (.lda g d a scope) s id vt .misalign (vt.readX a))
    ∧ (CtRuns s id vt g [a, b] [] → (vt.readX a).toNat % 8 ≠ 0 →
        CtFaults (.stl g a b scope) s id vt .misalign (vt.readX a))
    ∧ (CtRuns s id vt g [a, b] [] → (vt.readX a).toNat % (if word then 4 else 8) ≠ 0 →
        CtFaults (.mwait g d a b word c) s id vt .misalign (vt.readX a))
    ∧ (CtRuns s id vt g [a] [] → off.toNat % 4 ≠ 0 → CtFaults (.jalr g d a imm) s id vt .misalign off)
    ∧ (CtRuns s id vt g [a] [] → (vt.readX a).toNat % 64 ≠ 0 → CtFaults (.spawn g d a) s id vt .misalign (vt.readX a))
    ∧ (CtRuns s id vt g (b :: cmdRegs a) [] → bits64 (vt.readX b) 0 2 ≠ 0 →
        CtFaults (.enqy g d a b eng) s id vt .misalign (vt.readX b))

/-! ### Jumps, CSRs, thread control -/

/-- R166: jumps. `br` and `jal` go to the PC plus four times their offset, `jalr` to x[a] plus its offset where that is a
multiple of 4; `jal` and `jalr` leave the address of the next instruction in x[d], and a `jalr` reads x[a] first. -/
def Sys2Proof.Claim.JumpResults : Prop :=
  ∀ (s : State) (id : Nat) (vt : VT) (g : Guard) (d a : Reg) (imm : Fin 4194304) (far : Fin 131072) (off : Fin 4096),
    let jumped (v : VT) (t : Word64) : VT := { v with pc := t, issued := vt.issued + 1 }
    (CtRuns s id vt g [] [] →
      CtDone (.br g imm) s id (jumped vt (vt.pc + 4 * (BitVec.ofNat 22 imm.val).signExtend 64))
      ∧ CtDone (.jal g d far) s id (jumped (vt.writeX d (vt.pc + 4)) (vt.pc + 4 * (BitVec.ofNat 17 far.val).signExtend 64)))
    ∧ (CtRuns s id vt g [a] [] →
      let t := vt.readX a + (BitVec.ofNat 12 off.val).signExtend 64
      t.toNat % 4 = 0 → CtDone (.jalr g d a off) s id (jumped (vt.writeX d (vt.pc + 4)) t))

/-- R57, R172: the CSR instructions. Each leaves the old value of the CSR in x[d]; `csrw` writes x[a], `csrs` sets and `csrc`
clears its bits, and with A = 0 the last two write nothing. FFLAGS waits for reconvergence and matrix work. -/
def Sys2Proof.Claim.CsrAccess : Prop :=
  ∀ (s : State) (id : Nat) (vt : VT) (g : Guard) (d a : Reg) (csr : Fin 1024), vt.csrHeld csr.val = false →
    let old := s.readCsr id vt csr.val
    let v := vt.readX a
    (CtRuns s id vt g [] [] → CtDone (.csrr g d csr) s id (vt.writeX d old).retire)
    ∧ (CtRuns s id vt g [a] [] →
      CtDone (.csrw g d a csr) s id ((vt.writeCsr csr.val v).writeX d old).retire
      ∧ CtDone (.csrs g d a csr) s id ((if a = 0 then vt else vt.writeCsr csr.val (old ||| v)).writeX d old).retire
      ∧ CtDone (.csrc g d a csr) s id ((if a = 0 then vt else vt.writeCsr csr.val (old &&& ~~~v)).writeX d old).retire)

/-- R57, R60: an access to FFLAGS stalls until the VT is reconverged and its matrix work is done; no other CSR waits. -/
def Sys2Proof.Claim.FflagsAccessIsHeld : Prop :=
  ∀ (s : State) (id : Nat) (vt : VT) (g : Guard) (d a : Reg) (csr : Fin 1024),
    (vt.csrHeld csr.val = true ↔ csr.val = 0x004 ∧ (vt.reconverged = false ∨ vt.matrixBusy = true))
    ∧ (vt.csrHeld csr.val = true →
      (CtRuns s id vt g [] [] → exec (.csrr g d csr) s = .next s)
      ∧ (CtRuns s id vt g [a] [] → ∀ e ∈ [Instr.csrw g d a csr, .csrs g d a csr, .csrc g d a csr], exec e s = .next s))

/-- R57 to R64, R184: what the CSRs are. VL, VCFG, VMT, EM, FFLAGS and the segment registers; MCFG and MSTAT of the claim held,
or 0; VTID, VTLOC with the core in bits [10:0], the slot in [12:11] and the span above, GANGID, RANK, DOMAIN; CYCLE, ISSUED,
PREEMPTS; MSEQ, CORDONS, the domain's EVRING; the four words of FAULTREC; any other number reads 0. A write reads back where
the CSR is writable and its value legal, reserved bits read 0, an illegal SPACE or TAG writes nothing, and a write of any
other CSR changes nothing. -/
def Sys2Proof.Claim.CsrValues : Prop :=
  ∀ (s : State) (id n : Nat) (vt : VT) (v : Word64) (k : Fin 4) (c : Claim),
    s.readCsr id vt 0x000 = BitVec.ofNat 64 vt.vl ∧ s.readCsr id vt 0x001 = vt.vcfg
    ∧ s.readCsr id vt 0x002 = BitVec.ofNat 64 vt.vmt ∧ s.readCsr id vt 0x003 = vt.em.zeroExtend 64
    ∧ s.readCsr id vt 0x004 = vt.fflags.zeroExtend 64 ∧ s.readCsr id vt (0x008 + k.val) = vt.seg[k]
    ∧ (vt.claim = some c → s.readCsr id vt 0x010 = c.mcfg ∧ s.readCsr id vt 0x011 = c.mstat)
    ∧ (vt.claim = none → s.readCsr id vt 0x010 = 0 ∧ s.readCsr id vt 0x011 = 0)
    ∧ s.readCsr id vt 0x040 = BitVec.ofNat 64 id
    ∧ (let loc := s.readCsr id vt 0x041
       vt.core < 2 ^ 11 → vt.slot < 4 → vt.span < 8 →
         bits64 loc 0 11 = vt.core ∧ bits64 loc 11 2 = vt.slot ∧ bits64 loc 13 3 = vt.span ∧ bits64 loc 16 48 = 0)
    ∧ s.readCsr id vt 0x042 = BitVec.ofNat 64 vt.gangId ∧ s.readCsr id vt 0x043 = BitVec.ofNat 64 vt.rank
    ∧ s.readCsr id vt 0x044 = BitVec.ofNat 64 vt.domain
    ∧ s.readCsr id vt 0x080 = (s.core vt.core).cycle ∧ s.readCsr id vt 0x081 = vt.issued ∧ s.readCsr id vt 0x082 = vt.preempts
    ∧ s.readCsr id vt 0x0C0 = s.mseq.zeroExtend 64 ∧ s.readCsr id vt 0x0C1 = s.cordons.zeroExtend 64
    ∧ s.readCsr id vt 0x0C2 = (s.domain vt.domain).evring ∧ s.readCsr id vt (0x0C8 + k.val) = vt.faultrec[k]
    ∧ (n ∉ [0x000, 0x001, 0x002, 0x003, 0x004, 0x008, 0x009, 0x00A, 0x00B, 0x010, 0x011, 0x040, 0x041, 0x042, 0x043, 0x044,
            0x080, 0x081, 0x082, 0x0C0, 0x0C1, 0x0C2, 0x0C8, 0x0C9, 0x0CA, 0x0CB] → s.readCsr id vt n = 0)
    ∧ s.readCsr id (vt.writeCsr 0x003 v) 0x003 = v &&& 0xFFFFFFFF
    ∧ s.readCsr id (vt.writeCsr 0x004 v) 0x004 = v &&& 0x1F
    ∧ s.readCsr id (vt.writeCsr 0x002 v) 0x002 = (if v &&& 3 = 3 then s.readCsr id vt 0x002 else v &&& 3)
    ∧ s.readCsr id (vt.writeCsr (0x008 + k.val) v) (0x008 + k.val)
        = (if v >>> 62 = 3 then s.readCsr id vt (0x008 + k.val) else v &&& 0xC000FFFFFFFFFFFF)
    ∧ (n ∉ [0x002, 0x003, 0x004, 0x008, 0x009, 0x00A, 0x00B] → vt.writeCsr n v = vt)

/-- R57 to R64, R172, R184: the CSR instructions and the CSRs they reach. -/
def Obligations.ControlAndStatusRegisters : Prop :=
  Claim.CsrAccess ∧ Claim.FflagsAccessIsHeld ∧ Claim.CsrValues

/-- R109, R87, R171: fences. `fence` and `fence.sv` go on at once; `fence.vs` and `fence.e` stall until the VT is reconverged
and its vector memory instructions are performed; beyond core scope the core's L1 is empty afterwards, and nothing else
changes. -/
def Sys2Proof.Claim.FenceEffects : Prop :=
  ∀ (s : State) (id : Nat) (vt : VT) (g : Guard) (sc : Scope), CtRuns s id vt g [] [] →
    let t := s.setVt id vt.retire
    let after := if sc = .core then t else t.setCore vt.core { t.core vt.core with l1 := [] }
    (∀ e ∈ [Instr.fence g sc, .fenceSv g sc], exec e s = .next after)
    ∧ ∀ e ∈ [Instr.fenceVs g sc, .fenceE g sc],
        (vt.accessesDone = true → exec e s = .next after) ∧ (vt.accessesDone = false → exec e s = .next s)

/-- R87, R109, R170, R171: acquire loads, release stores and fences. -/
def Obligations.AcquireReleaseAndFences : Prop :=
  Claim.AcquireLoadReleaseStore ∧ Claim.FenceEffects

/-- R173, R321, R174: `trap` completes and its VT begins to stop with TRAPI and the code; the PC recorded is its own.
`icinv` drops the 128-byte line of its address from every instruction cache and lane buffer of the device. -/
def Sys2Proof.Claim.TrapAndIcinv : Prop :=
  ∀ (s s' : State) (id : Nat) (vt : VT) (g : Guard) (code : Fin 256) (a : Reg) (t : Trans),
    (CtRuns s id vt g [] [] → CtDone (.trap g code) s id { vt.retire with
        stopping := true
        detected := vt.detected ++ [{ cause := .trapi, place := 0, vp := 0, elem := 0, infl := 0, code := code.val,
                                      pc := vt.pc, iaddr := vt.pc, daddr := 0 }] })
    ∧ (CtRuns s id vt g [a] [] → s.poison = [] → s.synced →
      (let q := s.missSlices vt.core vt.domain (vt.readX a).toNat
       q = [] ∨ s.gate (.agent s.who) q = .ok s) →
      s.translateAt vt.core vt.domain (vt.readX a).toNat = .ok t s' →
      ∃ u, exec (.icinv g a) s = .next u ∧ SameButCaches (s.setVt id vt.retire) u
        ∧ ∀ k ∈ u.cores,
            (∀ l ∈ k.2.icache, l.1 ≠ t.loc / 128) ∧ ∀ b ∈ k.2.lanes.toList, ∀ l ∈ b, l.1 ≠ t.loc / 128)

/-- R175, R176: `park` parks the VT after the instruction, with its timeout in cycles from now; `yield` makes it count as ready
from now. -/
def Sys2Proof.Claim.ParkAndYield : Prop :=
  ∀ (s : State) (id : Nat) (vt : VT) (g : Guard) (a : Reg),
    (CtRuns s id vt g [a] [] → CtDone (.park g a) s id { vt.retire with
        st := .parked, parkedAt := s.vtNow vt, park := some (.park (s.vtNow vt) (vt.readX a).toNat, vt.pc) })
    ∧ (CtRuns s id vt g [] [] → CtDone (.yield g) s id { vt.retire with readyAt := s.vtNow vt, aged := false })

/-- R166, R173 to R176, R321: jumps, `trap`, `icinv`, `park` and `yield`. -/
def Obligations.ControlResults : Prop :=
  Claim.JumpResults ∧ Claim.TrapAndIcinv ∧ Claim.ParkAndYield

/-- R177, R263: `exit` of a VT that has completed its accesses and matrix work: its spill record is written where it asks for
one, and it is ENDED: it holds no frames, waits for nothing and is registered in no future; its x registers keep their
values; no byte outside the spill record and the records of stored VTs changes. Until its accesses and matrix work are done it
stalls. With an empty spill list nothing is written (log 63). -/
def Obligations.ExitEndsTheThread : Prop :=
  ∀ (s s' : State) (id : Nat) (vt : VT) (g : Guard), CtRuns s id vt g [] [] → vt.st ≠ .ended →
    let parts := if vt.spillx = 0 ∧ vt.spillv = 0 then [] else vt.spillParts
    (vt.accessesDone = false ∨ vt.matrixBusy = true → exec (.exit g) s = .next s)
    ∧ (vt.accessesDone = true → vt.matrixBusy = false →
      s.gateSpill vt parts = .ok s → s.spill vt parts = .ok s' → s'.vt? id = some vt → (s'.core vt.core).pend = [] →
      ∃ u v, exec (.exit g) s = .next u ∧ u.vt? id = some v ∧ v.st = .ended ∧ v.resident = false ∧ v.park = none
        ∧ v.x = vt.x ∧ v.issued = vt.issued + 1 ∧ (∀ a, s'.outsideRecords a → u.byteAt a = s'.byteAt a)
        ∧ ∀ f ∈ u.futures, ∀ w ∈ f.2.waiters, w.1 ≠ id)

/-- R178, R62, R55, R59: `spawn` of a legal descriptor creates a VT of its own gang of one, in state NEW with the descriptor's
entry, width and window, the four arguments in x1 to x4 and every other register, counter and queue at reset; its VTID, which no
living VT bears, goes to x[d], and its gang joins the end of the placement queue of the issuer's cluster. A descriptor that is
not legal gives -1 and no VT. Until the issuer's earlier accesses are performed the `spawn` stalls, with its address checked
(R324). -/
def Obligations.SpawnCreatesAThread : Prop :=
  ∀ (s s' : State) (id : Nat) (vt : VT) (g : Guard) (d a : Reg) (bs : List Byte), CtRuns s id vt g [a] [] →
    (vt.readX a).toNat % 64 = 0 → s.gated vt.core vt.domain (vt.readX a).toNat 64 .load .normal = .ok s →
    s.loadGlobal vt.core vt.domain (vt.readX a).toNat 64 .normal = .ok bs s' → vt.st ≠ .ended → s'.vt? id = some vt →
    s'.vts.length + 1 < 2 ^ 32 →
    let field (off n : Nat) : Nat := leNat ((bs.drop off).take n)
    let legal : Prop := field 0 8 % 4 = 0 ∧ field 8 8 % 128 = 0 ∧ field 0x10 1 ≤ 5 ∧ field 0x11 1 ≤ 64 ∧ field 0x12 6 = 0
      ∧ field 0x38 8 = 0
    (∀ t s1, s.gatedAccess vt.core vt.domain (vt.readX a).toNat .load = .ok t s1 → vt.accessesDone = false →
      exec (.spawn g d a) s = .next s)
    ∧ (vt.accessesDone = true → ¬ legal →
      exec (.spawn g d a) s = .next (s'.setVt id (vt.writeX d (BitVec.allOnes 64)).retire))
    ∧ (vt.accessesDone = true → legal → ∃ u n k v, exec (.spawn g d a) s = .next u ∧ n < 2 ^ 32
      ∧ (∀ w, s'.vt? n = some w → w.st = .ended)
      ∧ u.vt? id = some (vt.writeX d (BitVec.ofNat 64 n)).retire
      ∧ u.vt? n = some v ∧ v.st = .new ∧ v.pc.toNat = field 0 8 ∧ v.codebase.toNat = field 8 8 ∧ v.wsel.val = field 0x10 1
      ∧ v.tcmwin = field 0x11 1 ∧ v.domain = vt.domain ∧ v.rank = 0 ∧ v.gang = k ∧ v.interval = 0 ∧ v.persistent = false
      ∧ v.spillx = 0 ∧ v.spillv = 0 ∧ v.resident = false
      ∧ (∀ j : Fin 32, (v.readX j).toNat = if 1 ≤ j.val ∧ j.val ≤ 4 then field (0x10 + 8 * j.val) 8 else 0)
      ∧ (∀ j : Fin 8, j ≠ 7 → v.readP j = false) ∧ (∀ j : Fin 4, v.d[j] = 0 ∧ v.seg[j] = 0 ∧ v.faultrec[j] = 0)
      ∧ v.vl = 32 ∧ v.vcfg = BitVec.ofNat 64 (0x20 + field 0x10 1) ∧ v.vmt = 0 ∧ v.em = 0xFFFFFFFF ∧ v.fflags = 0
      ∧ v.issued = 0 ∧ v.preempts = 0 ∧ v.claim = none ∧ v.drain = [] ∧ v.waiting = [] ∧ v.inflight = [] ∧ v.tcm = []
      ∧ (∀ i : Fin 32, let vp := v.vps[i]
         (∀ j : Reg, vp.v[j] = 0) ∧ (∀ j : Fin 8, j ≠ 7 → vp.readP j = 0) ∧ vp.thread = false ∧ vp.next = 0 ∧ vp.run = none
           ∧ vp.inbound = [] ∧ vp.loadQ = [] ∧ vp.storeQ = [] ∧ vp.cntL = 0 ∧ vp.cntS = 0)
      ∧ (u.cluster (clusterOfCore vt.core)).queue = (s'.cluster (clusterOfCore vt.core)).queue ++ [k]
      ∧ (∃ x, u.gangs.get? k = some x ∧ x.members = [n] ∧ x.size = 1 ∧ x.hasBarriers = false ∧ x.cspwin = 0)
      ∧ u.mem = s'.mem)

/-- R179, R320, R175: `vtctl` once the issuer's accesses are performed. A target that is no living VT of its domain gives
status 1; RESUME of a FAULTED VT makes it READY-OUT and gives 0; KILL ends at once a VT that is not resident or stands at its
point, and marks one that does not; WAKE ends a `park` and gives 0, its VT entering READY where it is resident, else READY-OUT
with its record rewritten; a target in another state gives RESUME and WAKE status 2. The issuer's own VTID is a target like
another, but that its KILL gives no status. A resident VT's core drops its L1 at a WAKE, which is an acquire (R110). -/
def Obligations.ThreadControl : Prop :=
  ∀ (s : State) (id t : Nat) (vt v : VT) (g : Guard) (d a : Reg), CtRuns s id vt g [a] [] → vt.accessesDone = true →
    let gives (e : Instr) (s : State) (n : Word64) : Prop := exec e s = .next (s.setVt id (vt.writeX d n).retire)
    (s.vtTarget vt a = none →
      gives (.vtctlResume g d a) s 1 ∧ gives (.vtctlKill g d a) s 1 ∧ gives (.vtctlWake g d a) s 1)
    ∧ (s.vtTarget vt a = some (t, v) →
      (v.st ≠ .faulted → gives (.vtctlResume g d a) s 2)
      ∧ (v.st ≠ .parked ∨ (∀ since limit pc, v.park ≠ some (.park since limit, pc)) → gives (.vtctlWake g d a) s 2))
    ∧ (s.vtTarget vt a = some (t, v) → t ≠ id →
      (v.st = .faulted →
        exec (.vtctlResume g d a) s = .next ((s.setVt t { v with
            st := .readyOut, vps := v.vps.map VP.unsuspend, aged := false, readyAt := s.vtNow v }).setVt id
              (vt.writeX d 0).retire))
      ∧ (v.resident = true → v.atPoint = false →
        let w := (vt.writeX d 0).retire
        let awaits : VT := { w with waitStatus := if d = 0 then w.waitStatus else (d, t) :: w.waitStatus }
        exec (.vtctlKill g d a) s = .next ((s.setVt id awaits).setVt t { v with killed := true }))
      ∧ (v.resident = false ∨ v.atPoint = true → vt.park = none →
        ∃ u v' w, exec (.vtctlKill g d a) s = .next u ∧ u.vt? t = some v' ∧ v'.st = .ended
          ∧ u.vt? id = some w ∧ w.readX d = 0 ∧ (d ≠ 0 → w.awaitsStatus [d] = false) ∧ w.pc = vt.pc + 4)
      ∧ (∀ since limit pc, v.st = .parked → v.park = some (.park since limit, pc) → v.violation = none → v.detected = [] →
        let w : VT := { v with
          park := none, st := if v.resident then .ready else .readyOut, readyAt := s.vtNow v, aged := false }
        let told := if v.resident then s.setCore v.core { s.core v.core with l1 := [] } else s.rewriteRecord w
        exec (.vtctlWake g d a) s = .next ((told.setVt t w).setVt id (vt.writeX d 0).retire)))
    ∧ (s.vtTarget vt a = some (id, vt) →
      (vt.resident = true → vt.atPoint = false →
        exec (.vtctlKill g d a) s = .next (s.setVt id { vt with killed := true }))
      ∧ (vt.resident = false ∨ vt.atPoint = true →
        ∃ u w, exec (.vtctlKill g d a) s = .next u ∧ u.vt? id = some w ∧ w.st = .ended))

/-! ### Synchronisation -/

/-- R233, R234: barriers of a gang, for a member whose accesses are performed. An arrival that does not complete the phase sets
the member's bits and counts it; `bar` then parks and `bara` goes on. `barw` goes on with no arrival outstanding, parks in an
incomplete phase, and else ends the wait, clears the bit and acquires. -/
def Obligations.BarrierArrivalAndWait : Prop :=
  ∀ (s : State) (id : Nat) (vt : VT) (g : Guard) (b : Fin 16) (x : Gang), CtRuns s id vt g [] [] → vt.rank < 1024 →
    s.gangs.get? vt.gang = some x → x.hasBarriers = true → x.barriers[b].poisoned = false →
    let bar := x.barriers[b]
    let m : BitVec 1024 := BitVec.twoPow 1024 vt.rank
    let put (c : Barrier) : State := { s with gangs := s.gangs.set vt.gang { x with barriers := x.barriers.set b c } }
    let parked : VT := { vt.retire with st := .parked, park := some (.barw b, vt.pc), parkedAt := s.vtNow vt }
    (vt.accessesDone = true → bar.arr.getLsbD vt.rank = false → x.mem &&& (bar.arr ||| m) ≠ x.mem →
      let t := put { bar with arr := bar.arr ||| m, pend := bar.pend ||| m, count := bar.count + 1 }
      exec (.bar g b) s = .next (t.setVt id parked) ∧ exec (.bara g b) s = .next (t.setVt id vt.retire))
    ∧ (bar.pend.getLsbD vt.rank = false → CtDone (.barw g b) s id vt.retire)
    ∧ (bar.pend.getLsbD vt.rank = true → bar.arr.getLsbD vt.rank = true → CtDone (.barw g b) s id parked)
    ∧ (bar.pend.getLsbD vt.rank = true → bar.arr.getLsbD vt.rank = false →
      let t := put { bar with pend := bar.pend &&& ~~~m }
      exec (.barw g b) s = .next ((t.setCore vt.core { s.core vt.core with l1 := [] }).setVt id vt.retire))

/-- R233, R234: the arrival that completes a phase, by `bar` or `bara`. PHASE inverts, ARR and COUNT are cleared, and every
member that waits at the barrier wakes with its bit of PEND cleared. With `bar` the member's own bit of PEND is cleared too, its
core's L1 is empty, and it goes on without parking; with `bara` its bit is left set. No other bit of PEND changes. -/
def Obligations.BarrierPhaseCompletes : Prop :=
  ∀ (s : State) (id : Nat) (vt : VT) (g : Guard) (b : Fin 16) (x : Gang), CtRuns s id vt g [] [] → vt.rank < 1024 →
    vt.accessesDone = true → vt.park = none → s.gangs.get? vt.gang = some x → x.hasBarriers = true →
    let bar := x.barriers[b]
    bar.poisoned = false → bar.arr.getLsbD vt.rank = false → x.mem ≠ 0 →
    x.mem &&& (bar.arr ||| BitVec.twoPow 1024 vt.rank) = x.mem →
    let waits (q : Nat) : Prop := ∃ n w pc, n ∈ x.members ∧ s.vt? n = some w ∧ w.park = some (.barw b, pc) ∧ w.rank = q
    ∀ p ∈ [(Instr.bar g b, true), (.bara g b, false)],
    ∃ u y v, exec p.1 s = .next u ∧ u.gangs.get? vt.gang = some y ∧ u.vt? id = some v
      ∧ y.barriers[b].phase = !bar.phase ∧ y.barriers[b].arr = 0 ∧ y.barriers[b].count = 0
      ∧ (∀ q, q < 1024 → (y.barriers[b].pend.getLsbD q = true ↔
          (bar.pend.getLsbD q = true ∨ q = vt.rank) ∧ ¬ waits q ∧ ¬ (p.2 = true ∧ q = vt.rank)))
      ∧ (p.2 = true → (u.core vt.core).l1 = []) ∧ v.pc = vt.pc + 4 ∧ v.st = vt.st ∧ v.x = vt.x
      ∧ (∀ c : Fin 16, c ≠ b → y.barriers[c] = x.barriers[c])
      ∧ (∀ n w pc, n ∈ x.members → n ≠ id → s.vt? n = some w → w.park = some (.barw b, pc) → w.violation = none →
          ∃ w', u.vt? n = some w' ∧ w'.park = none ∧ w'.st = (if w.resident then .ready else .readyOut) ∧ w'.x = w.x)
      ∧ (∀ a, s.outsideRecords a → u.byteAt a = s.byteAt a) ∧ u.futures = s.futures

/-- R236, R237, R239: `mwait` reads its word at its home, which is storage for a page that goes past L2 (R99). A value that
satisfies the condition goes to x[d] with an acquire; else the VT registers and parks. `waitd` goes on when its counter is at most n and stalls until then. -/
def Obligations.MwaitAndWaitd : Prop :=
  ∀ (s s' : State) (id : Nat) (vt : VT) (g : Guard) (d a b n : Reg) (word : Bool) (c : MCond) (dc : Fin 4) (t : Trans),
    (CtRuns s id vt g [a, b] [] →
      let m := if word then 4 else 8
      let addr := vt.readX a
      addr.toNat % m = 0 → s.homeAccess vt.core vt.domain addr.toNat m = .ok t s' → s.poison = [] → s.synced →
      (∀ r ∈ s.rejected, r.who ≠ .agent (.ct id)) →
      let raw := leNat (s'.bytesAt t m)
      let v : Word64 := if word then (BitVec.ofNat 32 raw).signExtend 64 else BitVec.ofNat 64 raw
      let w := vt.readX b
      let holds : Bool := match c with
        | .eq => if word then v.setWidth 32 == w.setWidth 32 else v == w
        | .ne => if word then v.setWidth 32 != w.setWidth 32 else v != w
        | .lt => if word then (v.setWidth 32).slt (w.setWidth 32) else v.slt w
        | .ge => if word then (w.setWidth 32).sle (v.setWidth 32) else w.sle v
        | .ltu => if word then (v.setWidth 32).ult (w.setWidth 32) else v.ult w
        | .geu => if word then (w.setWidth 32).ule (v.setWidth 32) else w.ule v
      ∃ u, exec (.mwait g d a b word c) s = .next u
        ∧ (holds = true → SameButCaches (s.setVt id (vt.writeX d v).retire) u ∧ (u.core vt.core).l1 = [])
        ∧ (holds = false → SameButCaches (s.setVt id { vt.retire with
            st := .parked, parkedAt := s.vtNow vt
            park := some (.mwait addr t.loc ((cachingOf t.leaf t.loc .normal).past t.loc) word c w d none, vt.pc) }) u))
    ∧ (CtRuns s id vt g [] [] → (vt.d[dc] ≤ n.val → CtDone (.waitd g n dc) s id vt.retire)
      ∧ (n.val < vt.d[dc] → exec (.waitd g n dc) s = .next s))

/-- R240, R241: what a handle names. A FREE entry, another domain's entry or an entry under another GEN is no valid handle:
`fput`, `fget`, `ftake`, `ftry` and `ffree` fault with FUTH there. -/
def Sys2Proof.Claim.StaleHandlesFault : Prop :=
  ∀ (s : State) (id : Nat) (vt : VT) (g : Guard) (d a b : Reg),
    let h := (vt.readX a).toNat % 2 ^ 32
    let f := s.futures.getD (h / 2 ^ 29 * 65536 + h / 2 ^ 13 % 65536) {}
    s.tableLost (h / 2 ^ 29) = false → (f.st = .free ∨ f.domain ≠ vt.domain ∨ f.gen ≠ h % 8192) →
    (CtRuns s id vt g [a, b] [] → vt.accessesDone = true → CtFaults (.fput g d a b) s id vt .futh 0)
    ∧ (CtRuns s id vt g [a] [] → ∀ e ∈ [Instr.fget g d a, .ftake g d a, .ftry g d a b, .ffree g a],
        CtFaults e s id vt .futh 0)

/-- R241, R242: the future instructions on a valid handle. `fnew` makes a FREE entry of its die EMPTY for its domain and gives
its handle. `fput` fills an EMPTY entry that nobody waits for, and gives status 1 on a FULL one. `fget` and `ftake` give the
value of a FULL entry and acquire, `ftake` emptying it, to CORDON where its owner is lost (R362); on an EMPTY one they register
and park. `ftry` gives value and status 0, or status 1 on an EMPTY entry, value before status (log 45). On a CORDON entry, or
in a table that is lost, `fput` and `ftry` give status 2 and `fget` and `ftake` fault with CORDON. `ffree` makes an entry that
nobody waits for FREE under the next GEN. With no FREE entry `fnew` gives 0. -/
def Sys2Proof.Claim.FutureResults : Prop :=
  ∀ (s : State) (id key : Nat) (vt : VT) (g : Guard) (d a b : Reg) (f : Future),
    let put (f : Future) : State := { s with futures := s.futures.set key f }
    let acq (t : State) : State := t.setCore vt.core { t.core vt.core with l1 := [] }
    let ref := s.futureOf vt.domain ((vt.readX a).toNat % 2 ^ 32)
    (ref = .lost ∨ (ref = .entry key f ∧ f.st = .cordon) →
      (CtRuns s id vt g [a, b] [] → vt.accessesDone = true → CtDone (.fput g d a b) s id (vt.writeX d 2).retire)
      ∧ (CtRuns s id vt g [a] [] → (∀ e ∈ [Instr.fget g d a, .ftake g d a], CtFaults e s id vt .cordon 0)
        ∧ CtDone (.ftry g d a b) s id ((vt.writeX d 0).writeX b 2).retire))
    ∧ (ref = .entry key f → CtRuns s id vt g [a, b] [] → vt.accessesDone = true →
      (f.st = .empty → f.waiters = [] → exec (.fput g d a b) s = .next
        ((put { f with value := vt.readX b, st := .full, poisoned := false }).setVt id (vt.writeX d 0).retire))
      ∧ (f.st = .full → CtDone (.fput g d a b) s id (vt.writeX d 1).retire))
    ∧ (ref = .entry key f → CtRuns s id vt g [a] [] →
      (f.st = .full → f.poisoned = false →
        exec (.fget g d a) s = .next ((acq s).setVt id (vt.writeX d f.value).retire)
        ∧ exec (.ftake g d a) s = .next ((acq (put { f with
            st := if f.lostOwner then .cordon else .empty, lostOwner := false })).setVt id (vt.writeX d f.value).retire)
        ∧ exec (.ftry g d a b) s = .next ((acq s).setVt id ((vt.writeX d f.value).writeX b 0).retire))
      ∧ (f.st = .empty →
        (∀ p ∈ [(Instr.fget g d a, false), (.ftake g d a, true)],
          exec p.1 s = .next ((put { f with waiters := f.waiters ++ [(id, p.2)] }).setVt id { vt.retire with
            st := .parked, park := some (.fut key f.gen p.2 d, vt.pc), parkedAt := s.vtNow vt }))
        ∧ CtDone (.ftry g d a b) s id ((vt.writeX d 0).writeX b 1).retire)
      ∧ (f.waiters = [] → exec (.ffree g a) s = .next
          ((put { st := .free, gen := if f.gen = 8191 then 1 else f.gen + 1 }).setVt id vt.retire)))
    ∧ (CtRuns s id vt g [] [] → let die := s.rolesDie (dieOfCore vt.core)
      (die < 8 → s.tableLost die = false → (∃ n, n < 65536 ∧ (s.futures.getD (die * 65536 + n) {}).st = .free) →
      ∃ n, n < 65536 ∧ (s.futures.getD (die * 65536 + n) {}).st = .free
        ∧ let e := s.futures.getD (die * 65536 + n) {}
          exec (.fnew g d) s = .next (({ s with
            picks := s.picks + 1
            futures := s.futures.set (die * 65536 + n) { st := .empty, gen := e.gen, domain := vt.domain, owner := id } }).setVt
              id (vt.writeX d (BitVec.ofNat 64 (die * 2 ^ 29 + n * 2 ^ 13 + e.gen))).retire))
      ∧ (s.tableLost die = false → (∀ n, n < 65536 → (s.futures.getD (die * 65536 + n) {}).st ≠ .free) →
        exec (.fnew g d) s = .next ({ s with picks := s.picks + 1 }.setVt id (vt.writeX d 0).retire)))

/-- R240, R241: the future instructions on valid handles and on others. -/
def Obligations.FutureInstructions : Prop :=
  Claim.StaleHandlesFault ∧ Claim.FutureResults

/-- R242, R111: an `fput` on an EMPTY entry with waiters serves them in order: each that can still be woken leaves the list with
the value in its x[D], until one takes it: then the entry is EMPTY again with the rest still waiting, else it is FULL. -/
def Sys2Proof.Claim.WaitersAreServed : Prop :=
  ∀ (s : State) (value : Word64) (id : Nat) (take : Bool) (ws : List (Nat × Bool)),
    s.serveWaiters value [] = (s, .full, [])
    ∧ (s.wakeVoid id = true → s.serveWaiters value ((id, take) :: ws) = s.serveWaiters value ws)
    ∧ (s.wakeVoid id = false →
      s.serveWaiters value ((id, true) :: ws) = (s.wakeFuture id value, .empty, ws)
      ∧ s.serveWaiters value ((id, false) :: ws) = (s.wakeFuture id value).serveWaiters value ws)
    ∧ ∀ v key gen d pc, s.vt? id = some v → v.park = some (.fut key gen take d, pc) → v.violation = none → v.detected = [] →
      ∃ v', (s.wakeFuture id value).vt? id = some v' ∧ v'.park = none ∧ v'.x = (v.writeX d value).x
        ∧ v'.st = (if v.resident then .ready else .readyOut)

/-- R241, R242, R260, R277: who makes an `fput`. On an EMPTY entry it serves the entry's waiters, whoever makes it: the
instruction, which gives status 0 and goes on, a SIGNAL node, which ends DONE, or a SIGNAL message in order. -/
def Sys2Proof.Claim.FputsServeTheEntry : Prop :=
  ∀ (s : State) (id key : Nat) (vt : VT) (g : Guard) (d a b : Reg) (f : Future) (n : SlotRef) (q : Queue) (x : Slot)
      (p : Packet) (ck : ConnKey) (c : Conn), f.st = .empty →
    let served (value : Word64) : State :=
      let r := s.serveWaiters value f.waiters
      { r.1 with futures := r.1.futures.set key { f with value, st := r.2.1, waiters := r.2.2, poisoned := false } }
    (∀ dom h value, s.futureOf dom h = .entry key f → s.fput dom h value = (.ok, served value))
    ∧ (CtRuns s id vt g [a, b] [] → vt.accessesDone = true →
      s.futureOf vt.domain ((vt.readX a).toNat % 2 ^ 32) = .entry key f →
      exec (.fput g d a b) s = .next ((served (vt.readX b)).modVt id fun v => (v.writeX d 0).retire))
    ∧ (s.dueNode n 6 = some (q, x) → s.futureOf n.domain (x.field 0x28 4) = .entry key f →
      exec (.signalNode n) s = .next ((served (BitVec.ofNat 64 (x.field 0x30 8))).nodeOutcome n false 0))
    ∧ (s.packetConn p = some (ck, c) → p.psn = c.expected → p.psn < 2 ^ 24 → p.port ≠ 0 → p.etype = 0 → p.len = 8 →
      p.payload.length = 8 → bits64 p.addr 32 32 = 0 → s.futureOf c.domain (bits64 p.addr 0 32) = .entry key f →
      ∃ u, exec (.signalMessage p) s = .next u ∧ u.futures = (served (BitVec.ofNat 64 (leNat p.payload))).futures
        ∧ u.vts = (served (BitVec.ofNat 64 (leNat p.payload))).vts)

/-- R241, R242, R111: an `fput` and the waiters that it serves. -/
def Obligations.FputServesWaiters : Prop :=
  Claim.WaitersAreServed ∧ Claim.FputsServeTheEntry

/-- R244, R249, R251, R334: `enq` and `enqy` of a command that passes its checks, with room in the unit's FIFO, no VT before it
waiting there, and the VT's accesses performed: the command takes the next number and the end of the list; `enq` reserves a
place in its channel and goes on, `enqy` parks. With the FIFO full, or a VT before it, it stalls at the end of those that wait
there. `deq` and `deqt` pop the oldest record of their channel into x[d] and free its place; with none `deq` parks
and `deqt` gives EMPTY. -/
def Obligations.EngineInstructions : Prop :=
  ∀ (s : State) (id : Nat) (vt : VT) (g : Guard) (d a b : Reg) (eng : Fin 8) (dc : Fin 4) (rec' : Word64) (ls : List Nat)
      (rest : List (Word64 × List Nat)),
    let ws : Vector Word64 4 := #v[vt.readX a, vt.readX (a + 1), vt.readX (a + 2), vt.readX (a + 3)]
    let unit := s.engineUnit vt eng.val
    let cmd (ch : Fin 8) (dest : CmdDest) : Command :=
      { id := s.nextCmd, domain := vt.domain, vt := id, eng := Fin.ofNat 2 eng.val, unit, chan := ch, dest, words := ws
        gang := vt.gang }
    let accepted (ch : Fin 8) (dest : CmdDest) : State :=
      { s with
        commands := s.commands ++ [cmd ch dest], nextCmd := s.nextCmd + 1
        fifoWait := s.fifoWait.filter fun w => w.2.2 != id }
    let waiting : State :=
      { s with fifoWait := if (eng.val, unit, id) ∈ s.fifoWait then s.fifoWait else s.fifoWait ++ [(eng.val, unit, id)] }
    let first : Prop := s.fifoFull eng.val unit = false
      ∧ ∀ w, s.fifoWait.find? (fun w => w.1 == eng.val && w.2.1 == unit) = some w → w.2.2 = id
    let ch : Fin 8 := Fin.ofNat 8 (eng.val * 4 + dc.val)
    let c := vt.channels[ch]
    (eng.val < 2 → cmdMalformed eng.val ws = false → (eng.val = 0 → s.cmdBounds vt ws = none) →
      vt.accessesDone = true →
      (CtRuns s id vt g (cmdRegs a) [] → c.frozen = false → c.reserved < 16 →
        (first → exec (.enq g a eng dc) s = .next ((accepted ch (.channel ch)).setVt id
          { vt.retire with channels := vt.channels.set ch { c with reserved := c.reserved + 1 } }))
        ∧ (¬ first → exec (.enq g a eng dc) s = .next waiting))
      ∧ (CtRuns s id vt g (b :: cmdRegs a) [] → bits64 (vt.readX b) 0 2 = 0 →
        (first → exec (.enqy g d a b eng) s = .next ((accepted (Fin.ofNat 8 (eng.val * 4)) .enqy).setVt id { vt.retire with
          st := .parked, parkedAt := s.vtNow vt, park := some (.enqy s.nextCmd d (vt.readX b), vt.pc) }))
        ∧ (¬ first → exec (.enqy g d a b eng) s = .next waiting)))
    ∧ (CtRuns s id vt g [] [] → c.frozen = false →
      (c.records = (rec', ls) :: rest → ∀ e ∈ [Instr.deq g d eng dc, .deqt g d eng dc],
        exec e s = .next ((s.acquireLines vt.core ls).setVt id (({ vt with
          channels := vt.channels.set ch { c with records := rest, reserved := c.reserved - 1 } } : VT).writeX d rec').retire))
      ∧ (c.records = [] →
        CtDone (.deq g d eng dc) s id { vt.retire with
          st := .parked, park := some (.deq ch d, vt.pc), parkedAt := s.vtNow vt }
        ∧ CtDone (.deqt g d eng dc) s id (vt.writeX d 0x0000FF0000000000).retire))

/-! ### Vector control -/

/-- R181, R182, R184, R228: configuration. `setvl` sets VL to min(x[a], 32), gives it to x[d] and closes the strip; with a span
request that no slot of the core satisfies, or none, the binding stays; a VT without a service interval is bound to the least
loaded slot of that span; while a `mop` of the VT runs such a request waits. `setcfg` applies a supported request of the VT's width, and sets ILL and VL 0 for any other; x[d]
takes VCFG. `setmt`, `setem` and `setseg` write VMT, EM and a segment register. -/
def Obligations.VectorConfiguration : Prop :=
  ∀ (s : State) (id : Nat) (vt : VT) (g : Guard) (d a b : Reg) (k : Fin 4), CtRuns s id vt g [a] [] →
    let x := vt.readX a
    let n := min x.toNat 32
    let set := { (vt.writeX d (BitVec.ofNat 64 n)).retire with vl := n, strip := vt.strip + 1 }
    (vcfgIll vt.vcfg = false →
      CtDone (.setvl g d a 0) s id set
      ∧ (let found := (s.setVt id set).leastBound vt.core
          (((s.setVt id set).slotsOf vt.core b.val).filter fun j => !vt.admitted || (s.setVt id set).admits vt.core j id vt.interval)
         b ≠ 0 → (found = none → CtDone (.setvl g d a b) s id set)
          ∧ (found ≠ none → vt.matrixBusy = true → CtDone (.setvl g d a b) s id { set with wantSpan := b.val }))
      ∧ ∀ j, b ≠ 0 → vt.matrixBusy = false → vt.interval = 0 → vt.admitted = false →
          (s.setVt id set).leastBound vt.core ((s.setVt id set).slotsOf vt.core b.val) = some j →
          exec (.setvl g d a b) s = .next ((s.setVt id set).setVt id { set with
            slot := j, span := (s.setVt id set).slotSpan vt.core j, quad0 := (s.setVt id set).firstQuad vt.core j }))
    ∧ (let legal := x &&& 0x1C0 ≤ 0x080 ∧ 2 ^ ((x.toNat / 8 % 8) / 2) ≤ vt.w ∧ x.toNat % 8 = vt.wsel.val
      (legal → CtDone (.setcfg g d a) s id (({ vt with vcfg := x &&& 0x7FF } : VT).writeX d (x &&& 0x7FF)).retire)
      ∧ (¬ legal → let c := vt.vcfg ||| 0x8000000000000000
          CtDone (.setcfg g d a) s id (({ vt with vcfg := c, vl := 0 } : VT).writeX d c).retire))
    ∧ CtDone (.setmt g a) s id (if x &&& 3 = 3 then vt else { vt with vmt := (x &&& 3).toNat }).retire
    ∧ CtDone (.setem g a) s id { vt.retire with em := x.setWidth 32 }
    ∧ CtDone (.setseg g k a) s id
        (if x >>> 62 = 3 then vt else { vt with seg := vt.seg.set k (x &&& 0xC000FFFFFFFFFFFF) }).retire

/-- R183: while VCFG.ILL is 1 every instruction that depends on VCFG detects ILLCFG and has no other effect. -/
def Sys2Proof.Claim.IllegalConfigurationFaults : Prop :=
  ∀ (s : State) (id : Nat) (vt : VT) (g : Guard) (d a b v : Reg) (imm : Fin 4194304) (off : Fin 4096) (mode : VMode)
      (dc : Fin 4) (q : Bool) (hint : Hint) (acc : Fin 2) (blk : Reg), vcfgIll vt.vcfg = true →
    (CtRuns s id vt g [] [] → ∀ e ∈ [Instr.xdrain g d, .vf g imm, .mopO g acc a b, .mopR g acc a b, .mopsO g acc a b v,
        .mopsR g acc a b v], CtFaults e s id vt .illcfg 0)
    ∧ (CtRuns s id vt g [] [] → blk.val < 128 / vt.w → ∀ e ∈ [Instr.mova g acc a blk, .movta g acc a blk],
        CtFaults e s id vt .illcfg 0)
    ∧ (CtRuns s id vt g [a] [] → ∀ e ∈ [Instr.setvl g d a b, .xseed g a, .vbcast g d a, .vextract g d a b, .vfr g a off],
        CtFaults e s id vt .illcfg 0)
    ∧ (CtRuns s id vt g (if mode = .s then [a, b] else [a]) [] →
        ∀ e ∈ [Instr.vld g v a b mode dc q hint, .vst g v a b mode dc q hint], CtFaults e s id vt .illcfg 0)

/-- R183, R313, R324: a misaligned address and an illegal configuration are found at issue, before any effect. -/
def Obligations.ChecksAtIssue : Prop :=
  Claim.MisalignedAddressFaults ∧ Claim.IllegalConfigurationFaults

/-- R186 to R189: single values, for a VT under a legal configuration. `vjoin` waits for reconvergence. `xseed` puts the low
bytes of x[a] at the end of the inbound queue of the lowest active VP, and `xdrain` takes the oldest entry of the drain queue;
each faults with QUEUE where it cannot. `vextract` reads the low bytes of a VP's register once it is written, and waits until
then. -/
def Sys2Proof.Claim.SingleValueTransfers : Prop :=
  ∀ (s : State) (id : Nat) (vt : VT) (g : Guard) (d a b : Reg) (i : Fin 32) (is : List (Fin 32)) (y : VReg) (ys : List VReg),
    let low (v : Nat) : Nat := if vt.w = 4 then v % 2 ^ 32 else v % 2 ^ 64
    (CtRuns s id vt g [] [] →
      (vt.reconverged = true → CtDone (.vjoin g) s id vt.retire)
      ∧ (vt.reconverged = false → exec (.vjoin g) s = .next s)
      ∧ (vcfgIll vt.vcfg = false → vt.reconverged = true →
        (vt.drain = y :: ys → vt.poison = [] → CtDone (.xdrain g d) s id
          { (vt.writeX d (BitVec.ofNat 64 (low y.toNat))).retire with drain := ys })
        ∧ (vt.drain = [] → CtFaults (.xdrain g d) s id vt .queue 0)))
    ∧ (CtRuns s id vt g [a] [] → vcfgIll vt.vcfg = false → vt.reconverged = true →
      (maskIndices vt.active = i :: is →
        let vp := vt.vps[i]
        (vp.inbound.length < 4 → CtDone (.xseed g a) s id { vt.retire with
          vps := vt.vps.set i { vp with inbound := vp.inbound ++ [BitVec.ofNat 1024 (low (vt.readX a).toNat)] } })
        ∧ (4 ≤ vp.inbound.length → CtFaults (.xseed g a) s id vt .queue 0))
      ∧ (maskIndices vt.active = [] → CtDone (.xseed g a) s id vt.retire)
      ∧ (let j : Fin 32 := Fin.ofNat 32 (vt.readX a).toNat
        (vt.sequenceWritten j = true → vt.regPoisoned j b 0 (min vt.w 8) = false → CtDone (.vextract g d a b) s id
          (({ vt with awaited := 0 } : VT).writeX d (BitVec.ofNat 64 (low vt.vps[j].v[b].toNat))).retire)
        ∧ (vt.sequenceWritten j = false →
          CtDone (.vextract g d a b) s id { vt with awaited := BitVec.twoPow 32 j.val })))

/-- R188: `vbcast` to a VT whose VPs are idle. Every element of v[d] of every active VP takes the low bits of x[a]; no other
register of a VP changes, nor anything else but the PC and ISSUED. -/
def Sys2Proof.Claim.BroadcastResult : Prop :=
  ∀ (s : State) (id : Nat) (vt : VT) (g : Guard) (d a : Reg), CtRuns s id vt g [a] [] → vcfgIll vt.vcfg = false → d ≠ 31 →
    vt.waiting = [] → vt.inflight = [] → (∀ i : Fin 32, vt.vps[i].run = none ∧ vt.vps[i].thread = false) →
    let e := itBits (vcfgIt vt.vcfg)
    e * (8 * vt.w / e) = 8 * vt.w →
    ∃ vps, CtDone (.vbcast g d a) s id { vt.retire with vps }
      ∧ ∀ i : Fin 32, (vt.active.getLsbD i.val = false → vps[i] = vt.vps[i])
        ∧ (vt.active.getLsbD i.val = true →
          vps[i] = { vt.vps[i] with v := vt.vps[i].v.set d vps[i].v[d] }
          ∧ (∀ k, k < 8 * vt.w / e → elem e vps[i].v[d] k = (vt.readX a).setWidth e)
          ∧ ∀ j, 8 * vt.w ≤ j → vps[i].v[d].getLsbD j = vt.vps[i].v[d].getLsbD j)

/-- R186 to R189: waiting for blocks, and single values between the CT and the VPs. -/
def Obligations.SingleValueInstructions : Prop :=
  Claim.SingleValueTransfers ∧ Claim.BroadcastResult

/-- R185, R25, R42, R141: `vf` and `vfr` of a block without WIDE that passes its checks, with room in the sequences: the block,
with the PC, the VT's binding and the capture of VCFG and the segment registers, enters the sequence of every active VP, which loses LQN from L
and gains SQN in S; the CT goes on. A target that is no multiple of 128 faults with MISALIGN, and a failed count check with
QUEUE at the target. -/
def Obligations.BlockIssue : Prop :=
  ∀ (s s' : State) (id : Nat) (vt : VT) (g : Guard) (a : Reg) (imm : Fin 4194304) (off : Fin 4096) (l : BitVec 1024)
      (h : Header),
    ∀ p ∈ [(Instr.vf g imm, ([] : List Reg), vt.pc + 4 * (BitVec.ofNat 22 imm.val).signExtend 64),
           (.vfr g a off, [a], vt.readX a + (BitVec.ofNat 12 off.val).signExtend 64)],
      let target := p.2.2
      CtRuns s id vt g p.2.1 [] → vcfgIll vt.vcfg = false →
      (target.toNat % 128 ≠ 0 → CtFaults p.1 s id vt .misalign target)
      ∧ (target.toNat % 128 = 0 → s.fetchLine vt.core vt.domain target.toNat (headerSpan (vt.active != 0)) = .ok l s' →
        decodeHeader (l.extractLsb' 0 32) = .ok h → h.wide = false →
        (vt.blockCountsOk h.lqn h.sqn = false → exec p.1 s = .next (s'.vfFault id vt .queue target))
        ∧ (vt.blockCountsOk h.lqn h.sqn = true → vt.active ≠ 0 →
          wordsCheck vt.w (vcfgIt vt.vcfg) h (blockWords h l).tail = none → vt.seqFull vt.active = false →
          vt.captureFull = false →
          ∃ vps, exec p.1 s = .next (s'.setVt id { vt.retire with
              vps, waiting := vt.waiting ++
                [{ op := .block target vt.pc { vcfg := vt.vcfg, seg := vt.seg } false vt.active vt.lane
                   mask := vt.active, instr := p.1 }] })
            ∧ ∀ i : Fin 32, vps[i] = if vt.active.getLsbD i.val
                then { vt.vps[i] with cntL := vt.vps[i].cntL - h.lqn, cntS := vt.vps[i].cntS + h.sqn } else vt.vps[i]))

/-- R25, R26, R28 to R30, R44, R181: BLOCK_START of the block at the head of a VP's sequence, on the quad that the binding under
which its `vf` issued gives it, and THREAD_FETCH of the block that a VP in THREAD mode has named, on the quad that its chain
runs on. The block's words are read whole, a named block's after its header has passed (R330); the VP runs from word 1, with
the capture of its `vf`; a LOCKSTEP block leaves the VP's sequence. A block of a VT that is stopped starts only where it is wide
and a participant has begun it (R31). -/
def Sys2Proof.Claim.BlockStarts : Prop :=
  ∀ (s s1 s' : State) (id : Nat) (v : VT) (i : Fin 32) (addr pc : Word64) (cap : Capture) (wide : Bool)
      (parts mask : BitVec 32) (ins : Instr) (l : BitVec 1024) (h : Header) (low span : Nat), s.vt? id = some v →
    v.vps[i].run = none → s'.vt? id = some v →
    let quad := if v.vps[i].thread then v.vps[i].quad else (low + i.val % (8 * max 1 span) / 8) % 4
    let line (t : State) (part : FetchSpan) : Access (BitVec 1024) := t.fetchLaneLine v.core quad v.domain addr.toNat part
    decodeHeader (l.extractLsb' 0 32) = .ok h →
    let words := (List.range (h.len + 1)).map fun k => l.extractLsb' (32 * k) 32
    let started (r : Run) : Vector VP 32 := v.vps.set i { v.vps[i] with quad, run := some r }
    h.len < 32 →
    (v.vps[i].thread = false → line s blockSpan = .ok l s' → v.running = true ∨ (wide = true ∧ v.wideBegun addr pc = true) →
      v.seqHead i = some { op := .block addr pc cap wide parts (low, span), mask, instr := ins } →
      exec (.blockStart id i) s = .next (s'.setVt id { v with
        waiting := seqPop i v.waiting
        vps := started { addr, words, idx := 1, pc, cap, wide, thread := false, parts, named := none, suspended := false } }))
    ∧ (v.vps[i].thread = true → line s (fun _ => (0, 4)) = .ok l s1 → line s1 blockSpan = .ok l s' → v.running = true →
      v.vps[i].chain = some (cap, pc) → v.vps[i].next = addr →
      h.wide = false → h.lqn = 0 → h.sqn = 0 → wordsCheck v.w (vcfgIt cap.vcfg) h words.tail = none →
      exec (.threadFetch id i) s = .next (s'.setVt id { v with
        vps := started { addr, words, idx := 1, pc, cap, wide := false, thread := true, parts := 0, named := none
                         suspended := false } }))

/-- R218, R28: `fetch` and `fetchr` under a true guard bit name the VP's next block, where their target may be executed; at the
end of its block the VP is then in THREAD mode at that block. Without a name it is in LOCKSTEP again. -/
def Sys2Proof.Claim.SuccessorAndBlockEnd : Prop :=
  ∀ (s s' : State) (id : Nat) (vt : VT) (i : Fin 32) (r : Run) (g : Guard) (a : Reg) (imm : Fin 131072) (t : Trans)
      (vp vp1 : VP) (a' : Word64) (x : VReg),
    (VpRuns s id vt i r g [] [] → vt.bits i g 0 = false → VpDone (.fetch g imm) s id vt i r vt.vps[i] 0)
    ∧ (VpRuns s id vt i r g [] [] → vt.bits i g 0 = true →
      let target := r.addr + 128 * (BitVec.ofNat 17 imm.val).signExtend 64
      inCodeReach vt.codebase target = true → s.gatedAccess vt.core vt.domain target.toNat .fetch = .ok t s' → s'.vt? id = some vt →
      exec (.fetch g imm) s = .next (s'.setVt id (vt.vpRetire i { r with named := some target } vt.vps[i] 0)))
    ∧ (VpRuns s id vt i r g [(a, 4)] [] → vt.vps[i].source a = some (x, vp1) →
      (vt.bits i g 0 = false → VpDone (.fetchr g a) s id vt i r vp1 0)
      ∧ (vt.bits i g 0 = true → let target := vt.codebase + (elem 32 x 0).zeroExtend 64
        target.toNat % 128 = 0 → s.gatedAccess vt.core vt.domain target.toNat .fetch = .ok t s' → s'.vt? id = some vt →
        exec (.fetchr g a) s = .next (s'.setVt id (vt.vpRetire i { r with named := some target } vp1 0))))
    ∧ (r.idx < r.len → vp.advance r = { vp with run := some { r with idx := r.idx + 1 } })
    ∧ (r.len ≤ r.idx → r.named = none → vp.advance r = { vp with run := none, thread := false, next := 0, chain := none })
    ∧ (r.len ≤ r.idx → r.named = some a' →
        vp.advance r = { vp with run := none, thread := true, next := a', chain := some (r.cap, r.pc) })

/-- R25 to R30, R218: how a block starts on a VP, and how it names its successor and ends. -/
def Obligations.BlockExecution : Prop :=
  Claim.BlockStarts ∧ Claim.SuccessorAndBlockEnd

/-- R191, R195, R196, R39, R42: the issue of `vld` and `vst` with an entry free in the run-ahead window and room in the
sequences and, for a queue form of `vld`, in the load queues. One entry with the instruction's address, stride, space, type and active VPs enters the window, its dependence
counter rises, a queue form takes a place in every active VP's queue, and its elements are still to be performed. A queue form
that a queue refuses faults with QUEUE. -/
def Obligations.VectorMemoryIssue : Prop :=
  ∀ (s : State) (id : Nat) (vt : VT) (g : Guard) (v a b : Reg) (mode : VMode) (dc : Fin 4) (q : Bool) (hint : Hint),
    ∀ p ∈ [(Instr.vld g v a b mode dc q hint, false), (.vst g v a b mode dc q hint, true)],
      CtRuns s id vt g (if mode = .s then [a, b] else [a]) [] → vcfgIll vt.vcfg = false →
      (q = true → vt.queueRefuses p.2 = true → CtFaults p.1 s id vt .queue 0)
      ∧ ((q = true → vt.queueRefuses p.2 = false) → vt.inflight.length < 8 → vt.seqFull vt.active = false →
        (q = true → p.2 = false → vt.loadQueueFull = false) →
        vt.active ≠ 0 → (∀ e ∈ vt.inflight, e.done = false) →
        ∃ w e, CtDone p.1 s id w ∧ w.pc = vt.pc + 4 ∧ w.issued = vt.issued + 1 ∧ w.inflight = vt.inflight ++ [e]
          ∧ w.d = vt.d.set dc (vt.d[dc] + 1) ∧ w.x = vt.x ∧ e.instr = p.1 ∧ e.pc = vt.pc ∧ e.isStore = p.2
          ∧ e.queueForm = q ∧ e.base = vt.readX a ∧ (mode = .s → e.stride = vt.readX b) ∧ e.space = vt.vmt
          ∧ e.it = vcfgIt vt.vcfg ∧ e.active = vt.active ∧ e.start = 0 ∧ e.done = false
          ∧ (∀ x ∈ vt.inflight, x.idx ≠ e.idx)
          ∧ ∀ i : Fin 32, vt.active.getLsbD i.val = true → q = true → vt.waiting = [] →
              (p.2 = false → w.vps[i].loadQ = vt.vps[i].loadQ ++ [.pending e.idx 0] ∧ w.vps[i].cntL = vt.vps[i].cntL + 1)
              ∧ (p.2 = true → w.vps[i].cntS = vt.vps[i].cntS - 1))

/-! ### Floating point -/

/-- R200 to R203, R60: the floating-point instructions of one and of two sources on the FT elements of a VP, in the format and
rounding of its capture: the guarded elements take their results, and FFLAGS gains exactly the flags that guarded elements
raise. -/
def Sys2Proof.Claim.FloatResults : Prop :=
  ∀ (s : State) (id : Nat) (vt : VT) (i : Fin 32) (r : Run) (g : Guard) (d a b : Reg) (x y : VReg) (vp1 vp2 vp' : VP),
    let e := vt.env r i
    let el (v : VReg) (k : Nat) : Nat := (elem e.eFlt v k).toNat
    vt.vps[i].source a = some (x, vp1) →
    (VpRuns s id vt i r g (wholeRegs [a]) [] → ∀ p ∈ floatUnaries,
      let res (k : Nat) := p.result (ftFormat e.ft) (roundingOf e.frm) (el x k)
      vp1.writeFrame e.w e.eFlt e.nFlt (vt.bits i g) d (fun k => BitVec.ofNat e.eFlt (res k).1) = some vp' →
      ∃ fl, VpDone (p.instr g d a) s id vt i r vp' fl ∧ FlagsOf e.nFlt (vt.bits i g) (fun k => (res k).2) fl)
    ∧ (VpRuns s id vt i r g (wholeRegs [a, b]) [] → vp1.source b = some (y, vp2) → ∀ p ∈ floatBinaries,
      let res (k : Nat) := p.result (ftFormat e.ft) (roundingOf e.frm) (el x k) (el y k)
      vp2.writeFrame e.w e.eFlt e.nFlt (vt.bits i g) d (fun k => BitVec.ofNat e.eFlt (res k).1) = some vp' →
      ∃ fl, VpDone (p.instr g d a b) s id vt i r vp' fl ∧ FlagsOf e.nFlt (vt.bits i g) (fun k => (res k).2) fl)

/-- R204: the fused instructions, one rounding of plus or minus the product, plus or minus c. -/
def Sys2Proof.Claim.FusedResults : Prop :=
  ∀ (s : State) (id : Nat) (vt : VT) (i : Fin 32) (r : Run) (g : Guard) (d a b c : Reg) (x y z : VReg)
      (vp1 vp2 vp3 vp' : VP),
    let e := vt.env r i
    let f := ftFormat e.ft
    let el (v : VReg) (k : Nat) : FValue := f.decode (elem e.eFlt v k).toNat
    VpRuns s id vt i r g (wholeRegs [a, b, c]) [] → vt.vps[i].source a = some (x, vp1) → vp1.source b = some (y, vp2) →
    vp2.source c = some (z, vp3) →
    ∀ p ∈ [(Instr.fma g d a b c, false, false), (.fms g d a b c, false, true), (.fnma g d a b c, true, false),
           (.fnms g d a b c, true, true)],
      let res (k : Nat) := f.fused (roundingOf e.frm) p.2.1 (el x k) (el y k) (if p.2.2 then (el z k).neg else el z k)
      vp3.writeFrame e.w e.eFlt e.nFlt (vt.bits i g) d (fun k => BitVec.ofNat e.eFlt (res k).1) = some vp' →
      ∃ fl, VpDone p.1 s id vt i r vp' fl ∧ FlagsOf e.nFlt (vt.bits i g) (fun k => (res k).2) fl

/-- R200 to R204: floating-point arithmetic of a VP. -/
def Obligations.FloatArithmeticResults : Prop :=
  Claim.FloatResults ∧ Claim.FusedResults

/-- R120, R123: a value that a format represents is its own rounding, under every rounding mode, and raises nothing. -/
def Obligations.RepresentableValuesAreExact : Prop :=
  ∀ (f : FloatFormat) (r : Rounding) (ov : Overflow) (enc m : Nat) (neg : Bool) (x : Int),
    f ∈ [fp32Format, fp16Format, bf16Format, e4m3Format, e5m2Format, e3m2Format, e2m3Format, e2m1Format] →
    enc < 2 ^ f.bits → f.decode enc = .fin neg m x → f.roundFin r ov neg m x = (enc, 0)

/-- R126, R127, R201, R202: what the operations give for operands that are no finite non-zero numbers. -/
def Obligations.FloatSpecialCases : Prop :=
  ∀ (f : FloatFormat) (r : Rounding) (v w : FValue) (m n : Bool) (k j : Nat) (x y : Int),
    f ∈ [fp32Format, fp16Format, bf16Format] →
    let nv : Nat × FFlags := (f.canonicalNan, flagNV)
    (v.isNan = true ∨ w.isNan = true →
      let fl := if v = .nan true ∨ w = .nan true then flagNV else 0
      f.add r v w = (f.canonicalNan, fl) ∧ f.mul r v w = (f.canonicalNan, fl) ∧ f.div r v w = (f.canonicalNan, fl))
    ∧ f.add r (.inf true) (.inf false) = nv ∧ f.add r (.inf m) (.inf m) = (f.infinity m, 0)
    ∧ f.add r (.inf m) (.fin n k x) = (f.infinity m, 0)
    ∧ f.mul r (.inf m) (.fin n 0 x) = nv ∧ f.mul r (.inf m) (.inf n) = (f.infinity (m ^^ n), 0)
    ∧ f.div r (.fin m 0 x) (.fin n 0 y) = nv ∧ f.div r (.inf m) (.inf n) = nv
    ∧ (k ≠ 0 → f.div r (.fin m k x) (.fin n 0 y) = (f.infinity (m ^^ n), flagDZ)
        ∧ f.mul r (.inf m) (.fin n k x) = (f.infinity (m ^^ n), 0)
        ∧ f.sqrt r (.fin true k x) = nv ∧ f.rsq r (.fin true k x) = nv ∧ f.log2 r (.fin true k x) = nv)
    ∧ f.sqrt r (.fin m 0 x) = (f.withSign m 0, 0) ∧ f.rcp r (.fin m 0 x) = (f.infinity m, flagDZ)
    ∧ f.log2 r (.fin m 0 x) = (f.infinity true, flagDZ) ∧ f.rcp r (.inf m) = (f.withSign m 0, 0)
    ∧ f.exp2 r (.inf true) = (f.withSign false 0, 0) ∧ f.exp2 r (.inf false) = (f.infinity false, 0)
    ∧ (k ≠ 0 ∨ j ≠ 0 → exactSum m k x n j y = (0, min x y) →
        f.add r (.fin m k x) (.fin n j y) = (f.withSign (r == .rdn) 0, 0))

/-- R205, R162: `fcmp` on FT elements: the pair of bits of every guarded element, and the flags. An ordered
condition is false of a NaN, `ne` and `unord` are true of one. -/
def Sys2Proof.Claim.FloatCompareResults : Prop :=
  ∀ (s : State) (id : Nat) (vt : VT) (i : Fin 32) (r : Run) (g : Guard) (pd1 pd2 : Fin 8) (c : FCond) (a b : Reg)
      (f : Comb) (x y : VReg) (vp1 vp2 : VP), VpRuns s id vt i r g (wholeRegs [a, b]) [pd1] → vt.vps[i].source a = some (x, vp1) →
    vp1.source b = some (y, vp2) →
    let e := vt.env r i
    let vp := vt.vps[i]
    let val (v : VReg) (k : Nat) : FValue := (ftFormat e.ft).decode (elem e.eFlt v k).toNat
    let res (k : Nat) := fcondHolds c (val x k) (val y k)
    ∃ vp' fl, VpDone (.fcmp g pd1 pd2 c a b f) s id vt i r vp' fl
      ∧ FlagsOf e.nFlt (vt.bits i g) (fun k => (res k).2) fl
      ∧ (∃ p, vp' = { vp2 with p := p } ∧ ∀ q : Fin 8, q ≠ pd1 → q ≠ pd2 → p[q] = vp.p[q])
      ∧ ∀ k, k < 256 →
        let old := predBit (vp.readP pd1) k
        let q := match f with
          | .plain => (res k).1
          | .nar => old && (res k).1
          | .wid => old || (res k).1
          | .cut => old && !(res k).1
        let on : Bool := decide (k < e.nFlt) && vt.bits i g k
        (pd1 ≠ 7 → predBit (vp'.readP pd1) k = if on then q else old)
        ∧ (pd2 ≠ 7 → pd2 ≠ pd1 → predBit (vp'.readP pd2) k = if on then !q else predBit (vp.readP pd2) k)

/-- R206, R207, R131, R132: conversions. `cvt` converts element by element; `cvts` converts blocks of 32 elements under a common
scale, which goes to a byte of the register after v[d] for every block with a guarded element. -/
def Sys2Proof.Claim.ConversionResults : Prop :=
  ∀ (s : State) (id : Nat) (vt : VT) (i : Fin 32) (r : Run) (g : Guard) (d a : Reg) (src dst : Fmt) (x : VReg)
      (vp1 vp2 vp' : VP), VpRuns s id vt i r g (wholeRegs [a]) [] → vt.vps[i].source a = some (x, vp1) →
    let e := vt.env r i
    let n := 8 * vt.w / max (fmtBits src) (fmtBits dst)
    let on := vt.bits i g
    let enc (k : Nat) : Nat := (elem (fmtBits src) x k).toNat
    (let res (k : Nat) := convertElement src dst (roundingOf e.frm) (enc k);
      vp1.writeFrame vt.w (fmtBits dst) n on d (fun k => BitVec.ofNat (fmtBits dst) (res k).1) = some vp' →
      ∃ fl, VpDone (.cvt g d a src dst) s id vt i r vp' fl ∧ FlagsOf n on (fun k => (res k).2) fl)
    ∧ (let members (b : Nat) : List Nat := (List.range n).filter (fun k => k / 32 == b && on k);
      let scale (b : Nat) : Option Int := blockScale dst ((members b).map fun k => fmtValue src (enc k));
      let res (k : Nat) := scaledElement dst (scale (k / 32)) (fmtValue src (enc k));
      let held (b : Nat) : Bool := decide (b < (n + 31) / 32) && members b != [];
      vp1.writeFrame vt.w (fmtBits dst) n on d (fun k => BitVec.ofNat (fmtBits dst) (res k).1) = some vp2 →
      vp2.writeFrame vt.w 8 ((n + 31) / 32) held (d + 1) (fun b => BitVec.ofNat 8 (match scale b with
        | some t => (t + 127).toNat
        | none => 0xFF)) = some vp' →
      ∃ fl, FlagsOf n on (fun k => (res k).2) fl
        ∧ ((∀ b, held b = true → scale b ≠ none) → VpDone (.cvts g d a src dst) s id vt i r vp' fl)
        ∧ ((∃ b, held b = true ∧ scale b = none) → VpDone (.cvts g d a src dst) s id vt i r vp' (fl ||| flagNV)))

/-- R123 to R125, R127 to R130: the finite value (-1)^neg * m * 2^x in a destination format, with magnitudes as multiples of
2^q. A magnitude of the format is its own result, without a flag. One between two neighbours takes the lower or the upper as the
mode says, always RNE in a narrow format, with NX, and with UF where it is tiny: below the least normal magnitude, and not
rounded up to it with as many bits as that has. One beyond the largest rounds to it, with NX, or on: it is an infinity or the
largest as mode and sign say, in a narrow format the largest, with OF and NX. -/
def Sys2Proof.Claim.ConversionRounding : Prop :=
  ∀ (dst : Fmt) (r : Rounding) (f : FloatFormat) (m j : Nat) (neg : Bool) (x q : Int), fmtFloat dst = some f → q ≤ x →
    q ≤ f.minQuantum →
    let res := if dst.isWide then toWide f r (.fin neg m x) else toNarrow f (.fin neg m x)
    let mode := if dst.isWide then r else .rne
    let v := magnitudeAt q m x
    let mag := f.magnitudeAt q
    (j ≤ f.maxEnc → mag j = v → res = (f.withSign neg j, 0))
    ∧ (j + 1 ≤ f.maxEnc → mag j < v → v < mag (j + 1) →
      let reaches : Bool := match mode with
        | .rne => mag j + 3 * mag (j + 1) ≤ 4 * v
        | .rtz => false
        | .rdn => neg && mag j + mag (j + 1) < 2 * v
        | .rup => !neg && mag j + mag (j + 1) < 2 * v
      let tiny : Bool := decide (j + 1 < 2 ^ f.mb) || (j + 1 == 2 ^ f.mb && !reaches)
      res = (f.withSign neg (if takesUpper mode neg (j % 2 == 1) (mag j) v (mag (j + 1)) then j + 1 else j),
        if tiny then flagUF ||| flagNX else flagNX))
    ∧ (mag f.maxEnc < v →
      let next := 2 * mag f.maxEnc - mag (f.maxEnc - 1)
      let beyond : Bool := decide (next ≤ v) || takesUpper mode neg (f.maxEnc % 2 == 1) (mag f.maxEnc) v next
      let infinite : Bool := dst.isWide && match mode with
        | .rne => true
        | .rtz => false
        | .rdn => neg
        | .rup => !neg
      res = if beyond then (if infinite then f.infinity neg else f.withSign neg f.maxEnc, flagOF ||| flagNX)
        else (f.withSign neg f.maxEnc, flagNX))

/-- R117, R126, R128 to R132: what an element becomes. A finite value is rounded to the destination's format as above; a NaN and
an infinity go to a narrow format as that has them, saturated. To an integer a finite value is rounded under the mode, with NX
where that changes it; a rounded value beyond the range, an infinity and a NaN give the nearer end of the range, or 0, with NV.
An integer goes to another one saturated, with no flag. A block's scale is the exponent of its greatest element less emax, within
-127 to 127; with a NaN or an infinity it has none, and its elements are 0; under a scale an element is its value over it,
rounded. -/
def Sys2Proof.Claim.ConversionCases : Prop :=
  ∀ (src dst : Fmt) (r : Rounding) (f : FloatFormat) (enc m : Nat) (neg sig : Bool) (x y q : Int) (vs : List FValue) (v : FValue),
    (fmtFloat dst = some f → src.isInt = false ∨ dst.isWide = true →
      (sourceValue src enc = .fin neg m x → convertElement src dst r enc
          = if dst.isWide then toWide f r (.fin neg m x) else toNarrow f (.fin neg m x))
      ∧ (sourceValue src enc = .nan sig → convertElement src dst r enc
          = (if f.hasNan then f.canonicalNan else 0, if sig ∨ f.hasNan = false then flagNV else 0))
      ∧ (sourceValue src enc = .inf neg → convertElement src dst r enc
          = if dst.isWide ∨ f.hasInf then (f.infinity neg, 0) else (f.withSign neg f.maxEnc, flagNV)))
    ∧ (src.isInt = false → dst.isInt = true →
      let code (k : Int) : Nat := (k % (2 ^ fmtBits dst : Nat)).toNat
      let lo := (fmtRange dst).1
      let hi := (fmtRange dst).2
      (fmtValue src enc = .nan sig → convertElement src dst r enc = (0, flagNV))
      ∧ (fmtValue src enc = .inf neg → convertElement src dst r enc = (code (if neg then lo else hi), flagNV))
      ∧ (fmtValue src enc = .fin neg m x → q ≤ x → q ≤ 0 →
          let unit : Nat := 2 ^ (-q).toNat
          let n := magnitudeAt q m x
          let low := n / unit
          let up : Bool := n % unit != 0 && takesUpper r neg (low % 2 == 1) (low * unit) n ((low + 1) * unit)
          let k : Int := (if neg then -1 else 1) * ((if up then low + 1 else low : Nat) : Int)
          convertElement src dst r enc
            = if k < lo then (code lo, flagNV) else if hi < k then (code hi, flagNV)
              else (code k, if n % unit = 0 then 0 else flagNX)))
    ∧ (src.isInt = true → dst.isInt = true →
      let k : Int := if fmtSigned src then sext (fmtBits src) enc else enc
      convertElement src dst r enc
        = (((max (fmtRange dst).1 (min k (fmtRange dst).2)) % (2 ^ fmtBits dst : Nat)).toNat, 0))
    ∧ ((∃ w ∈ vs, ∀ n k e, w ≠ .fin n k e) → blockScale dst vs = none)
    ∧ ((∀ w ∈ vs, ∃ n e, w = .fin n 0 e) → blockScale dst vs = some (-127))
    ∧ (m ≠ 0 → let top : Int := Nat.log2 m + x
        (∀ w ∈ vs, ∃ n k e, w = .fin n k e ∧ (k = 0 ∨ (Nat.log2 k : Int) + e ≤ top)) → .fin neg m x ∈ vs →
        blockScale dst vs = some (max (-127) (min (top - fmtEmax dst) 127)))
    ∧ scaledElement dst none v = (0, 0)
    ∧ (fmtFloat dst = some f → scaledElement dst (some y) (.fin neg m x) = toNarrow f (.fin neg m (x - y)))

/-- R117, R123, R128 to R132, R205 to R207: floating-point compares and conversions. -/
def Obligations.FloatCompareAndConversionResults : Prop :=
  Claim.FloatCompareResults ∧ Claim.ConversionResults ∧ Claim.ConversionRounding ∧ Claim.ConversionCases

/-! ### Moving elements -/

/-- R209 to R211: byte lookups, zips, moves and identities: which element of the sources each guarded element takes. -/
def Sys2Proof.Claim.PermuteAndMoveResults : Prop :=
  ∀ (s : State) (id : Nat) (vt : VT) (i : Fin 32) (r : Run) (g : Guard) (d a b : Reg) (x y : VReg) (vp1 vp2 vp' : VP),
    let e := vt.env r i
    let n := e.nInt
    let z := e.eInt
    let on := vt.bits i g
    let two (t : Nat) : BitVec z := if t < n then elem z x t else elem z y (t - n)
    let mix (t : Nat) : BitVec z := if t % 2 = 0 then elem z x (t / 2) else elem z y (t / 2)
    let puts (vp : VP) (f : Nat → BitVec z) : Prop := vp.writeFrame vt.w z n on d f = some vp'
    let done (e : Instr) : Prop := VpDone e s id vt i r vp' 0
    (VpRuns s id vt i r g (wholeRegs [a, b]) [] → vt.vps[i].source a = some (x, vp1) → vp1.source b = some (y, vp2) →
      (vp2.writeFrame vt.w 8 vt.w on d (fun k => if (elem 8 y k).toNat < vt.w then elem 8 x (elem 8 y k).toNat else 0)
        = some vp' → done (.permb g d a b))
      ∧ (vp2.writeFrame vt.w 8 vt.w on d (fun k => elem 8 x ((elem 8 y k).toNat % vt.w)) = some vp' →
        done (.shufb g d a b))
      ∧ (puts vp2 mix → done (.zipl g d a b)) ∧ (puts vp2 (fun k => mix (n + k)) → done (.ziph g d a b))
      ∧ (puts vp2 (fun k => two (2 * k)) → done (.uzpe g d a b))
      ∧ (puts vp2 (fun k => two (2 * k + 1)) → done (.uzpo g d a b))
      ∧ (vp2.writeFrame vt.w z n (fun _ => true) d (fun k => if on k then elem z x k else elem z y k) = some vp' →
        done (.sel g d a b)))
    ∧ (VpRuns s id vt i r g (wholeRegs [a]) [] → vt.vps[i].source a = some (x, vp1) → puts vp1 (elem z x) → done (.mov g d a))
    ∧ (VpRuns s id vt i r g [] [] →
      (puts vt.vps[i] (fun _ => BitVec.ofNat z i.val) → done (.vpid g d))
      ∧ (puts vt.vps[i] (elem z (BitVec.ofNat 1024 (2 ^ i.val - 1))) → done (.ltmask g d)))

/-- R35, R36, R212: `xsend` pushes its register, with zeros where the guard is 0, into the inbound queue of the next higher
participant or, from the highest, into the drain queue, and waits while that holds four entries; `xrecv` pops the VP's own
inbound queue and waits while it is empty. -/
def Sys2Proof.Claim.CrossVpTransfers : Prop :=
  ∀ (s : State) (id : Nat) (vt : VT) (i j : Fin 32) (r : Run) (g : Guard) (d a : Reg) (x y : VReg) (xs : List VReg)
      (vp1 vp' : VP),
    let e := vt.env r i
    let on := vt.bits i g
    let entry := writeElems 0 ((List.range e.nInt).map fun k => if on k then elem e.eInt y k else 0)
    (VpRuns s id vt i r g (wholeRegs [a]) [] → vt.vps[i].source a = some (y, vp1) →
      (r.parts.getLsbD j.val = true → i < j → (∀ k : Fin 32, i < k → k < j → r.parts.getLsbD k.val = false) →
        (vt.vps[j].inbound.length < 4 → exec (.xsend g a) s = .next (s.setVt id
          (({ vt with vps := vt.vps.set j { vt.vps[j] with inbound := vt.vps[j].inbound ++ [entry] } } : VT).vpRetire i r
            vp1 0)))
        ∧ (4 ≤ vt.vps[j].inbound.length → exec (.xsend g a) s = .next s))
      ∧ ((∀ k : Fin 32, i < k → r.parts.getLsbD k.val = false) → vt.drain.length < 4 →
        exec (.xsend g a) s = .next (s.setVt id (({ vt with drain := vt.drain ++ [entry] } : VT).vpRetire i r vp1 0))))
    ∧ (VpRuns s id vt i r g [] [] →
      (vt.vps[i].inbound = x :: xs → vt.queuePoisoned i .inbound 1 = false →
        ({ vt.vps[i] with inbound := xs } : VP).writeFrame e.w e.eInt e.nInt on d (elem e.eInt x) = some vp' →
        VpDone (.xrecv g d) s id vt i r vp' 0)
      ∧ (vt.vps[i].inbound = [] → exec (.xrecv g d) s = .next s))

/-- R209 to R212: permutes, moves and transfers between VPs. -/
def Obligations.DataMovementResults : Prop :=
  Claim.PermuteAndMoveResults ∧ Claim.CrossVpTransfers

/-! ### Wide operations -/

/-- R213, R214: votes, ballots, matches and shuffles. Once every participant of the block has reached the instruction and read
its operand, each takes its result and all go on together; before that nothing happens. -/
def Sys2Proof.Claim.WideVotesAndShuffles : Prop :=
  ∀ (s : State) (id : Nat) (vt : VT) (i : Fin 32) (r : Run) (g : Guard) (d a b : Reg) (p q : Fin 8) (ins : List WideIn)
      (outs : List (WideIn × VP)),
    let env (w : WideIn) : VpEnv := vt.env r w.j
    let one (w : WideIn) : Bool := (List.range (env w).nInt).any (predBit (w.vp.readP q))
    let allOf (w : WideIn) : Bool := (List.range (env w).nInt).all (predBit (w.vp.readP q))
    let mask (f : WideIn → Bool) : VReg := BitVec.ofNat 1024 (maskOf ins f)
    let puts (w : WideIn) (v : VReg) : Option VP :=
      w.vp.writeFrame vt.w (env w).eInt (env w).nInt (predBit (w.vp.guardOf g)) d (elem (env w).eInt v)
    let votes (w : WideIn) (t : Bool) : Option VP := some (w.vp.writeP p (writePred (env w).nInt (w.vp.readP p)
      fun k => if predBit (w.vp.guardOf g) k then t else predBit (w.vp.readP p) k))
    (VpRuns s id vt i r g [] [q] →
      (allSome (vt.wideRead r g [] [q]) (maskIndices r.parts) = none →
        ∀ e ∈ [Instr.vany g p q, .vall g p q, .vballot g d q], exec e s = .next s)
      ∧ (allSome (vt.wideRead r g [] [q]) (maskIndices r.parts) = some ins →
        (WideWrites ins outs (fun w => votes w (ins.any one)) → WideDone (.vany g p q) s id vt outs 0)
        ∧ (WideWrites ins outs (fun w => votes w (ins.all allOf)) → WideDone (.vall g p q) s id vt outs 0)
        ∧ (WideWrites ins outs (fun w => puts w (mask one)) → WideDone (.vballot g d q) s id vt outs 0)))
    ∧ (VpRuns s id vt i r g (wholeRegs [a]) [] → allSome (vt.wideRead r g [a] []) (maskIndices r.parts) = some ins →
      WideWrites ins outs (fun w => puts w (mask fun v => elem (env w).eInt v.x 0 == elem (env w).eInt w.x 0)) →
      WideDone (.vmatch g d a) s id vt outs 0)
    ∧ (VpRuns s id vt i r g (wholeRegs [a, b]) [] → allSome (vt.wideRead r g [a, b] []) (maskIndices r.parts) = some ins →
      WideWrites ins outs (fun w => puts w (((ins.find? fun v => v.j.val == (elem 32 w.y 0).toNat).map fun v => v.x).getD 0)) →
      WideDone (.vshfl g d a b) s id vt outs 0)
    ∧ ∀ (f : WideIn → Bool) (n : Nat), (maskOf ins f).testBit n = ins.any fun w => f w && w.j.val == n

/-- R213, R215: reductions and scans: element by element, every participant takes the value of the tree over all participants,
or for a scan over those up to itself. -/
def Sys2Proof.Claim.WideReductions : Prop :=
  ∀ (s : State) (id : Nat) (vt : VT) (i : Fin 32) (r : Run) (g : Guard) (d a : Reg) (float : Bool) (ins : List WideIn)
      (outs : List (WideIn × VP)),
    VpRuns s id vt i r g (wholeRegs [a]) [] → allSome (vt.wideRead r g [a] []) (maskIndices r.parts) = some ins →
    let env (w : WideIn) : VpEnv := vt.env r w.j
    ∀ p ∈ [(Instr.vredAdd g d a float, RedKind.add, false), (.vredMin g d a float, .min, false),
           (.vredMax g d a float, .max, false), (.vscanAdd g d a float, .add, true)],
      let value (w : WideIn) (k : Nat) : Nat :=
        let from' := if p.2.2 then ins.filter fun v => v.j ≤ w.j else ins
        (tree (redCombine p.2.1 float (env w))
          (from'.map fun v => (elem (redBits float (env w)) v.x k).toNat)).1
      WideWrites ins outs (fun w => w.vp.writeFrame vt.w (redBits float (env w)) (redCount float (env w))
          (predBit (w.vp.guardOf g)) d fun k => BitVec.ofNat _ (value w k)) →
      ∃ fl, WideDone p.1 s id vt outs fl ∧ (float = false → fl = 0)

/-- R213 to R215: the wide operations. -/
def Obligations.WideOperations : Prop :=
  Claim.WideVotesAndShuffles ∧ Claim.WideReductions

/-- R134: the tree over up to 32 integers sums them modulo 2^e, or gives the least or the greatest, in either signedness. -/
def Obligations.IntegerReductionValue : Prop :=
  ∀ (e : VpEnv) (l : List Nat), l ≠ [] → l.length ≤ 32 → (∀ x ∈ l, x < 2 ^ e.eInt) →
    let val (x : Nat) : Int := if itSigned e.it then (BitVec.ofNat e.eInt x).toInt else x
    tree (redCombine .add false e) l = (l.sum % 2 ^ e.eInt, 0)
    ∧ ((tree (redCombine .min false e) l).1 ∈ l ∧ ∀ x ∈ l, val (tree (redCombine .min false e) l).1 ≤ val x)
    ∧ ((tree (redCombine .max false e) l).1 ∈ l ∧ ∀ x ∈ l, val x ≤ val (tree (redCombine .max false e) l).1)

/-! ### Memory of virtual processors -/

/-- R73, R74, R337: windows. An access that lies in the VT's CSP or TCM window reads or writes its bytes; one that leaves it
fails with BOUND and changes nothing. -/
def Obligations.WindowAccesses : Prop :=
  ∀ (s : State) (id : Nat) (vt : VT) (space n : Nat) (addr : Int) (bs : List (Byte × Bool)) (h : Hint)
      (f : Nat → Option Nat) (x : Gang), space = 1 ∨ space = 2 → s.vt? id = some vt → s.gangs.get? vt.gang = some x →
    let size : Nat := if space = 1 then x.cspwin * 2048 else vt.tcmwin * 4096
    let cells := if space = 1 then x.csp else vt.tcm
    ((addr < 0 ∨ (size : Int) < addr + n) →
      s.loadSpace vt space addr n h = .fault .bound s ∧ s.atomicSpace id vt space addr n f = .fault .bound s
      ∧ (bs.length = n → s.storeSpace id vt space addr bs h = .fault .bound s))
    ∧ (0 ≤ addr → addr + n ≤ size → x.cspPoison = [] → vt.tcmPoison = [] →
      s.loadSpace vt space addr n h = .ok (Memory.readBytes cells addr.toNat n) s
      ∧ (bs.length = n → Memory.wf cells = true → ∃ c,
        s.storeSpace id vt space addr bs h = .ok () (if space = 1 then { s with gangs := s.gangs.set vt.gang { x with csp := c } }
          else s.setVt id { vt with tcm := c })
        ∧ Memory.wf c = true
        ∧ ∀ a, Memory.read c a = match (if addr ≤ a then bs[a - addr.toNat]? else none) with
          | some (b, true) => b
          | _ => Memory.read cells a))

/-- R216, R217, R314, R337: the sized forms of `ldv` and `stv`, of 1 to 8 bytes at BASE plus the low 4 bytes of v[a] plus the
offset times the size. Under a guard bit 0 no access is made. A size above W is ILLOP, a misaligned address MISALIGN, one outside
the window BOUND, each with nothing done. Else a load extends its bytes to the whole register, or pushes that under a full
mask, and a store writes the low bytes of v[d]; nothing else changes. -/
def Sys2Proof.Claim.SizedVpAccesses : Prop :=
  ∀ (s s' : State) (id : Nat) (vt : VT) (i : Fin 32) (r : Run) (g : Guard) (d a : Reg) (seg : Fin 4) (sz : Fin 8)
      (imm : Fin 128) (x v : VReg) (vp vp2 : VP) (t : Trans) (k : Gang), sz ≠ 7 → vt.vps[i].source a = some (x, vp) →
    let n := if sz.val < 2 then 1 else if sz.val < 4 then 2 else if sz.val < 6 then 4 else 8
    let seg' := r.cap.seg[seg]
    let space := (seg' >>> 62).toNat
    let sum : Int := (seg' &&& 0xFFFFFFFFFFFF).toNat + (elem 32 x 0).toNat + (BitVec.ofNat 7 imm.val).toInt * n
    let addr : Int := if space = 0 then sum % (2 ^ 64 : Nat) else sum
    let off := addr.toNat
    let on := vt.bits i g 0
    let window : Prop := (space = 1 ∨ space = 2) ∧ s.gangs.get? vt.gang = some k ∧ k.cspPoison = [] ∧ vt.tcmPoison = []
    let size : Nat := if space = 1 then k.cspwin * 2048 else vt.tcmwin * 4096
    let cells := if space = 1 then k.csp else vt.tcm
    let extended (bs : List Byte) : VReg :=
      let raw := BitVec.ofNat (8 * n) (leNat bs)
      BitVec.ofNat 1024 ((if sz.val % 2 = 0 then raw.signExtend (8 * vt.w) else raw.zeroExtend (8 * vt.w)).toNat)
    let takes (y : VReg) : VP :=
      if d = 31 then { vp with storeQ := vp.storeQ ++ [{ data := y, mask := lowOnes 128 vt.w }] }
      else { vp with v := vp.v.set d y }
    let skips : VP := if d = 31 then { vp with storeQ := vp.storeQ ++ [{ data := 0, mask := 0 }] } else vp
    let faults (e : Instr) (c : Cause) (at' : Int) : Prop := exec e s = .next (s.vpFault id i r c (BitVec.ofInt 64 at') 0)
    let checked (e : Instr) : Prop :=
      (vt.w < n → faults e .illop 0)
      ∧ (n ≤ vt.w → vt.pendingLoads i = [] → addr % n ≠ 0 → faults e .misalign addr)
      ∧ (n ≤ vt.w → vt.pendingLoads i = [] → addr % n = 0 → window → addr < 0 ∨ (size : Int) < addr + n → faults e .bound addr)
    let free : Prop := n ≤ vt.w ∧ vt.pendingLoads i = [] ∧ addr % n = 0
    (VpRuns s id vt i r g [(a, 4)] [] → (d = 31 → vp.storeQ.length < 8) →
      let e := Instr.ldv g d a seg sz imm
      (on = false → VpDone e s id vt i r skips 0)
      ∧ (on = true → checked e)
      ∧ (on = true → free → space = 0 → Passes s s' vt off n .load t → ∃ u, exec e s = .next u
        ∧ SameButCaches (s.setVt id (vt.vpRetire i r
            (takes (extended (s'.loadBytes vt.core (cachingOf t.leaf t.loc .normal) t.loc n))) 0)) u)
      ∧ (on = true → free → window → 0 ≤ addr → addr + n ≤ size →
        VpDone e s id vt i r (takes (extended (Memory.readBytes cells off n))) 0))
    ∧ (VpRuns s id vt i r g [(a, 4), (d, n)] [] → vp.source d = some (v, vp2) → s.wf = true →
      let e := Instr.stv g d a seg sz imm
      (on = false → VpDone e s id vt i r vp2 0)
      ∧ (on = true → checked e)
      ∧ (on = true → free → space = 0 → Passes s s' vt off n .store t → ∃ u, exec e s = .next u
        ∧ StoreFrame s u id (vt.vpRetire i r vp2 0) t.loc n ∧ u.bytesAt t n = leBytes n v.toNat)
      ∧ (on = true → free → window → 0 ≤ addr → addr + n ≤ size → ∃ u c, exec e s = .next u
        ∧ Memory.readBytes c off n = leBytes n v.toNat ∧ (∀ j, j < off ∨ off + n ≤ j → Memory.read c j = Memory.read cells j)
        ∧ u = { s with gangs := u.gangs, vts := u.vts }
        ∧ u.vt? id = some ((if space = 1 then vt else { vt with tcm := c }).vpRetire i r vp2 0)
        ∧ u.gangs.get? vt.gang = some (if space = 1 then { k with csp := c } else k)
        ∧ ∀ q, (q ≠ id → u.vt? q = s.vt? q) ∧ (q ≠ vt.gang → u.gangs.get? q = s.gangs.get? q)))

/-- R216, R217, R312, R314: the whole-register forms of `ldv` and `stv`. They access the guarded elements in increasing order, each
by an access of its own; with none they make no access; an address that is not aligned to W is MISALIGN at the first guarded
element. A load takes every guarded element; one whose element fails changes nothing but by the fault. A store stores every
guarded element; of one whose element fails those below stand. -/
def Sys2Proof.Claim.WholeVpAccesses : Prop :=
  ∀ (s s' u : State) (id : Nat) (vt : VT) (i : Fin 32) (r : Run) (g : Guard) (d a : Reg) (seg : Fin 4) (imm : Fin 128)
      (x v : VReg) (vp vp2 vp' : VP) (m : SMap (List Byte)) (z z' : Nat) (c : Cause) (k : Gang) (zs : List Nat) (bs : List Byte),
    vt.vps[i].source a = some (x, vp) →
    let e := vt.env r i
    let seg' := r.cap.seg[seg]
    let space := (seg' >>> 62).toNat
    let sum : Int := (seg' &&& 0xFFFFFFFFFFFF).toNat + (elem 32 x 0).toNat + (BitVec.ofNat 7 imm.val).toInt * vt.w
    let addr : Int := if space = 0 then sum % (2 ^ 64 : Nat) else sum
    let b := e.eInt / 8
    let at' (z : Nat) : Int := if space = 0 then (addr + b * z) % (2 ^ 64 : Nat) else addr + b * z
    let ks := (List.range e.nInt).filter (vt.bits i g)
    let ld := Instr.ldv g d a seg 7 imm
    let st := Instr.stv g d a seg 7 imm
    let loads : Prop := VpRuns s id vt i r g [(a, 4)] [] ∧ (d = 31 → vp.storeQ.length < 8)
    let stores : Prop := VpRuns s id vt i r g [(a, 4), (d, 128)] [] ∧ vp.source d = some (v, vp2)
    let window : Prop := (space = 1 ∨ space = 2) ∧ s.gangs.get? vt.gang = some k ∧ k.cspPoison = [] ∧ vt.tcmPoison = []
      ∧ 0 ≤ addr ∧ addr + vt.w ≤ (if space = 1 then k.cspwin * 2048 else vt.tcmwin * 4096 : Nat)
    let cells := if space = 1 then k.csp else vt.tcm
    let takes (f : Nat → BitVec e.eInt) : Prop := vp.writeFrame e.w e.eInt e.nInt (vt.bits i g) d f = some vp'
    let gated (q : AccessKind) : Prop := space = 0 → s.gated vt.core vt.domain addr.toNat vt.w q .normal = .ok s
    let fails (e : Instr) (t : State) (z : Nat) : Prop := exec e s = .next (t.vpFault id i r c (BitVec.ofInt 64 (at' z)) z)
    (ks = [] → (loads → takes (fun _ => 0) → VpDone ld s id vt i r vp' 0) ∧ (stores → VpDone st s id vt i r vp2 0))
    ∧ (vt.pendingLoads i = [] → addr % vt.w ≠ 0 → ks = z :: zs → c = .misalign →
      (loads → fails ld s z) ∧ (stores → fails st s z))
    ∧ (vt.pendingLoads i = [] → addr % vt.w = 0 → ks ≠ [] → window → s.wf = true →
      (loads → takes (fun q => BitVec.ofNat e.eInt (leNat (Memory.readBytes cells (at' q).toNat b))) →
        VpDone ld s id vt i r vp' 0)
      ∧ (stores → ∃ t y, exec st s = .next t ∧ t = { s with gangs := t.gangs, vts := t.vts }
        ∧ t.vt? id = some ((if space = 1 then vt else { vt with tcm := y }).vpRetire i r vp2 0)
        ∧ t.gangs.get? vt.gang = some (if space = 1 then { k with csp := y } else k)
        ∧ (∀ q, (q ≠ id → t.vt? q = s.vt? q) ∧ (q ≠ vt.gang → t.gangs.get? q = s.gangs.get? q))
        ∧ (∀ q, q ∈ ks → Memory.readBytes y (at' q).toNat b = leBytes b (elem e.eInt v q).toNat)
        ∧ ∀ j, (∀ q ∈ ks, j < (at' q).toNat ∨ (at' q).toNat + b ≤ j) → Memory.read y j = Memory.read cells j))
    ∧ (vt.pendingLoads i = [] → addr % vt.w = 0 → ks ≠ [] →
      (loads → gated .load →
        (s.loadElems vt space addr b ks [] = (.ok m s', z) → takes (fun q => BitVec.ofNat e.eInt (leNat (m.getD q []))) →
          exec ld s = .next (s'.modVt id fun t => t.vpRetire i r vp' 0))
        ∧ (s.loadElems vt space addr b ks [] = (.fault c s', z) → fails ld s' z))
      ∧ (stores → gated .store →
        (s.storeElems id vt space addr b v ks = (u, .ok () s', z) →
          exec st s = .next (s'.modVt id fun t => t.vpRetire i r vp2 0))
        ∧ (s.storeElems id vt space addr b v ks = (u, .fault c s', z) → fails st u z)))
    ∧ s.loadElems vt space addr b [] m = (.ok m s, 0)
    ∧ (s.loadSpace vt space (at' z) b .normal = .ok bs s' →
      s.loadElems vt space addr b (z :: zs) m = s'.loadElems vt space addr b zs (m.set z bs))
    ∧ (s.loadSpace vt space (at' z) b .normal = .fault c s' → s.loadElems vt space addr b (z :: zs) m = (.fault c s', z))
    ∧ s.storeElems id vt space addr b v [] = (s, .ok () s, 0)
    ∧ (let data := (leBytes b (elem (8 * b) v z).toNat).map fun y => (y, true)
       (s.storeSpace id vt space (at' z) data .normal = .ok () s' →
         s.storeElems id vt space addr b v (z :: zs) = s'.storeElems id vt space addr b v zs)
       ∧ (s.storeSpace id vt space (at' z) data .normal = .fault c s' →
         s.storeElems id vt space addr b v (z :: zs) = (s', .fault c s', z)))

/-- R216, R217, R312, R314, R337: `ldv` and `stv`. -/
def Obligations.VpLoadsAndStores : Prop :=
  Claim.SizedVpAccesses ∧ Claim.WholeVpAccesses

/-- R192, R193, R195, R313: the elements of a vector memory instruction: their addresses by mode, the check of alignment, and
what an element that is performed leaves in a register. -/
def Obligations.VectorMemoryElements : Prop :=
  ∀ (s s' : State) (id k w : Nat) (vt : VT) (e : InFlight) (i : Fin 32) (vp : VP) (bs : List Byte),
    let raw : Int := match e.mode with
      | .u => i.val * w
      | .s => i.val * e.stride.toInt
      | .x => (vp.v[e.b].toNat % 2 ^ 32 : Nat)
      | .e => (if itSigned e.it then (elem (itBits e.it) vp.v[e.b] k).toInt else (elem (itBits e.it) vp.v[e.b] k).toNat)
          * (itBits e.it / 8 : Nat)
    (e.space = 0 → e.addr w vp i k = (e.base.toNat + raw) % (2 ^ 64 : Nat))
    ∧ (e.space ≠ 0 → e.addr w vp i k = e.base.toInt + raw)
    ∧ (let p := e.prog[i]
       let a := e.addr vt.w vt.vps[i] i p
       let n := e.elemBytes vt.w
       vt.mayAttempt e i = true → vt.inTurn e i = true → (∀ x ∈ e.ahead, x.again = false) → vt.poison = [] → e.isStore = false →
       s.behindStrip vt e a n = false → s.behindDevice vt e i a = false →
       (∀ q ∈ s.elementSlices vt e a, q ∈ e.held) →
      (a % n ≠ 0 → s.attemptElement id vt e i = .failed (s.elementFault id vt e i .misalign a))
      ∧ (a % n = 0 → s.loadElement vt e a = .ok bs s' → s'.vt? id = some vt → e.queueForm = false →
        s.attemptElement id vt e i = .performed (s'.setVt id
          (let loaded : VP := { vt.vps[i] with v := vt.vps[i].v.set e.v (setElem (8 * n) vt.vps[i].v[e.v] p (leNat bs)) };
            ({ vt with vps := vt.vps.set i loaded } : VT).nextElement e i))))
    ∧ ∀ (b j x : Nat) (v : VReg), b ∈ [8, 16, 32, 64, 128, 256, 512, 1024] → b * (k + 1) ≤ 1024 → b * (j + 1) ≤ 1024 →
        elem b (setElem b v k x) j = if j = k then BitVec.ofNat b x else elem b v j

/-- R196, R105, R90, R91: VECTOR_MEMORY_PERFORMED of a unit-stride register load with one active VP, whose slices have taken its
headers: its register takes the loaded bytes, the dependence counter falls and the instruction leaves the window. RETRY of a
rejected request: too early nothing happens; from its fourth retry on it is among the slice's aged ones; a slice with fewer
than 240 entries in use takes it, as one with fewer than 256 does for the first of its aged ones; else the slice rejects it
again and counts the retry. A vector header that is taken holds an entry of the slice; another request is granted. -/
def Obligations.VectorMemoryCompletes : Prop :=
  (∀ (s s' : State) (id : Nat) (vt : VT) (e : InFlight) (bs : List Byte), s.vt? id = some vt → vt.inflight = [e] →
    e.mode = .u → e.isStore = false → e.queueForm = false → e.done = false → (e.space = 0 → s.entrySlices vt e = []) →
    e.prog[(0 : Fin 32)] = 0 → e.ahead = [] → e.active = 1 → e.v ≠ 31 → vt.waiting = [] → vt.resident = true →
    vt.violation = none → vt.detected = [] → vt.stopping = false → vt.poison = [] → vt.killed = false → 1 ≤ vt.d[e.dc] → vt.w ≤ 128 →
    (e.addr vt.w vt.vps[0] 0 0) % vt.w = 0 →
    (if e.space = 0 then s.setVt id vt else s).loadElement vt e (e.addr vt.w vt.vps[0] 0 0) = .ok bs s' →
    s'.vt? id = some vt → bs.length = vt.w →
    ∃ u v, exec (.vectorMemoryPerformed id e.idx) s = .next u ∧ u.vt? id = some v ∧ v.inflight = []
      ∧ v.d = vt.d.set e.dc (vt.d[e.dc] - 1) ∧ v.x = vt.x ∧ v.pc = vt.pc ∧ u.mem = s'.mem
      ∧ elem (8 * vt.w) v.vps[0].v[e.v] 0 = BitVec.ofNat (8 * vt.w) (leNat bs)
      ∧ (∀ q : Reg, q ≠ e.v → v.vps[0].v[q] = vt.vps[0].v[q]) ∧ ∀ i : Fin 32, i ≠ 0 → v.vps[i] = vt.vps[i])
  ∧ ∀ (s : State) (n id : Nat) (k : Fin 8) (r : Rejected) (vt : VT) (e : InFlight),
    s.rejected.find? (fun r => r.id == n && !r.granted) = some r →
    let now := s.tileCycle (s.requesterTile r.who)
    let used := (s.slice r.slice).used + s.heldAt r.slice
    let before := (s.slice r.slice).aged
    let aged := if 3 ≤ r.count ∧ n ∉ before then before ++ [n] else before
    let taken : Prop := ∃ u, exec (.retry n) s = .next u ∧ n ∉ (u.slice r.slice).aged
      ∧ (u.slice r.slice).used = (s.slice r.slice).used
      ∧ (r.who = .vector id k → s.vt? id = some vt → vt.entry k = some e → (∀ x ∈ u.rejected, x.id ≠ n)
        ∧ ∃ v, u.vt? id = some v ∧ v.entry k = some { e with held := e.held ++ [r.slice] } ∧ v.vps = vt.vps)
      ∧ ((∀ i q, r.who ≠ .vector i q) → u.vts = s.vts ∧ ∀ x ∈ u.rejected, x.id = n → x.granted = true)
    (now < r.sentAt + 32 → exec (.retry n) s = .next s)
    ∧ (r.sentAt + 32 ≤ now → used < 240 ∨ (used < 256 ∧ aged.head? = some n) → taken)
    ∧ (r.sentAt + 32 ≤ now → 240 ≤ used → 256 ≤ used ∨ aged.head? ≠ some n → exec (.retry n) s = .next
        { s.setSlice r.slice { s.slice r.slice with aged } with
          rejected := s.rejected.map fun x => if x.id = n then { r with count := min 15 (r.count + 1), sentAt := now } else x })

/-- R175, R236, R237, R52, R66: wakes and ageing. MONITOR_WAKE gives the value that the monitor found to x[D] of the parked VT,
and PARK_TIMEOUT ends a `park` whose cycles have passed, and does nothing earlier; the VT is then READY, or READY-OUT with the
state, the PC and the registers of its stored record rewritten. A READY normal-class VT that has not issued for 4,096 cycles is
aged. -/
def Obligations.WakesAndAgeing : Prop :=
  ∀ (s : State) (id : Nat) (vt : VT), s.vt? id = some vt → vt.killed = false → vt.violation = none → vt.detected = [] →
    let woken (v : VT) : VT := { v with
      park := none, aged := false, st := if vt.resident then .ready else .readyOut, readyAt := s.vtNow vt }
    (∀ a l past w c y d v pc, vt.park = some (.mwait a l past w c y d (some v), pc) → s.vtCut vt = false →
      let t := woken (vt.writeX d v)
      exec (.monitorWake id) s = .next
        ((if vt.resident then s.setCore vt.core { s.core vt.core with l1 := [] } else s.rewriteRecord t).setVt id t))
    ∧ (∀ since limit pc, vt.park = some (.park since limit, pc) →
      (limit ≠ 0 → since + limit ≤ s.vtNow vt → exec (.parkTimeout id) s = .next ((if vt.resident then s else s.rewriteRecord (woken vt)).setVt id (woken vt)))
      ∧ (limit = 0 ∨ s.vtNow vt < since + limit → exec (.parkTimeout id) s = .next s))
    ∧ (vt.st = .ready → vt.resident = true → vt.admitted = false → max vt.lastIssue vt.readyAt + 4096 ≤ s.vtNow vt →
      exec (.issueAgeing id) s = .next (s.setVt id { vt with aged := true }))
    ∧ ∀ c, vt.ctx = some c → s.wf = true →
      let u := s.rewriteRecord vt
      u = { s with mem := u.mem } ∧ u.byteAt (c.1 + 0x06) = (if vt.st = .readyOut then 2 else 3)
      ∧ Memory.readBytes u.mem (c.1 + 0x40) 8 = leBytes 8 vt.pc.toNat
      ∧ (∀ k : Reg, k ≠ 0 → Memory.readBytes u.mem (c.1 + 0x40 + 8 * k.val) 8 = leBytes 8 (vt.readX k).toNat)
      ∧ ∀ a, a ≠ c.1 + 0x06 → (a < c.1 + 0x40 ∨ c.1 + 0x140 ≤ a) → u.byteAt a = s.byteAt a

/-! ### Matrix instructions -/

/-- R220, R221, R230, R232: claims and accumulators. `mxon` of a supported request gives a cleared claim, or changes the
configuration of the one held; of any other it faults with ILLOP; with 64 holders on the core the CT stalls. `mxoff` gives it
up. `mopz` clears an accumulator, or joins the clears that follow the `mop` in progress; `mova` reads and `movta` writes one
block of a register's elements in every row, a `mova` once the vector memory instructions before it have read their registers
(log 66); without a claim, or with a block beyond W, they fault with ILLOP. -/
def Obligations.MatrixClaimsAndMoves : Prop :=
  ∀ (s : State) (id : Nat) (vt : VT) (g : Guard) (a blk : Reg) (acc : Fin 2) (c : Claim), vt.matrixBusy = false →
    let req := (vt.readX a).toNat % 2 ^ 20
    let zero : Vector (BitVec 32) 1024 := Vector.replicate 1024 0
    (CtRuns s id vt g [a] [] →
      (matrixSupported req = false → CtFaults (.mxon g a) s id vt .illop 0)
      ∧ (matrixSupported req = true →
        (vt.claim = some c → CtDone (.mxon g a) s id { vt.retire with claim := some { c with mcfg := BitVec.ofNat 64 req } })
        ∧ (vt.claim = none → s.claimsOn vt.core < 64 → CtDone (.mxon g a) s id { vt.retire with
            claimWait := false, claim := some { mcfg := BitVec.ofNat 64 req, mstat := 1, acc0 := zero, acc1 := zero } })
        ∧ (vt.claim = none → 64 ≤ s.claimsOn vt.core → CtDone (.mxon g a) s id { vt with claimWait := true })))
    ∧ (CtRuns s id vt g [] [] →
      CtDone (.mxoff g) s id { vt.retire with
        claim := none, mop := none, poison := vt.poison.filter fun u => !(isClaimUnit u) }
      ∧ (vt.claim = none → CtFaults (.mopz g acc) s id vt .illop 0)
      ∧ (vt.claim = some c → vt.mop = none → CtDone (.mopz g acc) s id { vt.retire with
          claim := some (if acc = 0 then { c with acc0 := zero } else { c with acc1 := zero }) })
      ∧ (blk.val < 128 / vt.w → vcfgIll vt.vcfg = false → vt.claim = none →
        CtFaults (.mova g acc a blk) s id vt .illop 0 ∧ CtFaults (.movta g acc a blk) s id vt .illop 0)
      ∧ (128 / vt.w ≤ blk.val → CtFaults (.mova g acc a blk) s id vt .illop 0 ∧ CtFaults (.movta g acc a blk) s id vt .illop 0)
      ∧ (vt.claim = some c → vcfgIll vt.vcfg = false → blk.val < 128 / vt.w → vt.reconverged = true →
        vt.sequencesWritten c.rows = true → vt.poison = [] → vt.w ∈ [4, 8, 16, 32, 64, 128] →
        let n := vt.w / 4
        let old := if acc = 0 then c.acc0 else c.acc1
        (vt.memoryAhead c.rows = false → ∃ vps, CtDone (.mova g acc a blk) s id { vt.retire with vps, awaited := 0 }
          ∧ ∀ i : Fin 32, (∀ q : Reg, q ≠ a → vps[i].v[q] = vt.vps[i].v[q])
            ∧ (c.rows ≤ i.val → vps[i] = vt.vps[i])
            ∧ ∀ k : Fin 1024, i.val < c.rows → k.val < n → ∀ j : Fin 1024, j.val = 32 * i.val + blk.val * n + k.val →
                elem 32 vps[i].v[a] k.val = old[j])
        ∧ ∃ new, CtDone (.movta g acc a blk) s id { vt.retire with
            claim := some (if acc = 0 then { c with acc0 := new } else { c with acc1 := new }), awaited := 0 }
          ∧ ∀ (k : Fin 1024) (i : Fin 32), i.val = k.val / 32 →
              new[k] = if i.val < c.rows ∧ k.val % 32 / n = blk.val then elem 32 vt.vps[i].v[a] (k.val % 32 % n) else old[k]))

/-- R223, R224, R225, R228, R231, R232, R345: `mop` and `mops`. Without a claim, and for `mops` without a scaled one, they fault
with ILLOP. The CT stalls at the instruction while the VT is not reconverged, a block of the VT runs, an earlier operation of a
VP that they read has yet to write its registers, or the engines of its quads are not free for it; of the last it notes when it
came there, of the one before which VPs it waits for. Otherwise a block starts: the first where MSTAT says that the VT goes on, each next one where the last has
left off. It reads the groups of its operands, and its scales, from the VPs; with the last block started the CT goes on. -/
def Obligations.MatrixOperationStarts : Prop :=
  ∀ (s : State) (id : Nat) (vt : VT) (g : Guard) (acc : Fin 2) (va vb vs : Reg) (c : Claim) (m : Mop),
    CtRuns s id vt g [] [] → vcfgIll vt.vcfg = false →
    ∀ p ∈ [(Instr.mopO g acc va vb, false, false, (0 : Reg)), (.mopR g acc va vb, false, true, 0),
           (.mopsO g acc va vb vs, true, false, vs), (.mopsR g acc va vb vs, true, true, vs)],
      let waits := vt.reconverged = false ∨ vt.matrixBusy = true
      let ahead := vt.sequencesWritten (max c.rows c.cols) = false
      let since := some (vt.mopSince.getD (s.coreCycle vt.core))
      let first : Nat := min (c.mstat.toNat / 256 % 256) (c.blocks vt.w - 1)
      let scales (v : Reg) : List Byte :=
        if m.scaled then vt.vps.toList.map fun vp => BitVec.ofNat 8 (vp.v[v].toNat / 2 ^ (8 * m.t)) else []
      let runs : Mop := { m with
        running := true
        aOps := vt.vps.toList.map fun vp => vp.group vt.w m.va
        bOps := vt.vps.toList.map fun vp => vp.group vt.w m.vb
        aScales := scales m.vs
        bScales := scales (m.vs + 1) }
      let held : Claim := { c with
        mstat := BitVec.ofNat 64 (256 * m.t + 4 * m.acc.val + (if c.mstat.getLsbD 1 then 2 else 0) + 1) }
      (vt.claim = none → CtFaults p.1 s id vt .illop 0)
      ∧ (vt.claim = some c → p.2.1 = true → c.mcfg.getLsbD 19 = false → CtFaults p.1 s id vt .illop 0)
      ∧ (vt.claim = some c → (p.2.1 = true → c.mcfg.getLsbD 19 = true) → vt.poison = [] →
        (waits → exec p.1 s = .next s)
        ∧ (¬ waits → ahead → CtDone p.1 s id { vt with awaited := lowOnes 32 (max c.rows c.cols) })
        ∧ (¬ waits → ¬ ahead → s.enginesFree id vt = false → CtDone p.1 s id { vt with mopSince := since, awaited := 0 })
        ∧ (¬ waits → ¬ ahead → s.enginesFree id vt = true →
          (vt.mop = some m ∨ (vt.mop = none ∧ m = {
            acc, scaled := p.2.1, reassoc := p.2.2.1, va, vb, vs := p.2.2.2, t := first, nb := c.blocks vt.w, running := false
            aOps := [], bOps := [], aScales := [], bScales := [], pool := [], clears := [] })) →
          (m.t + 1 < m.nb → CtDone p.1 s id { vt with mop := some runs, claim := some held, mopSince := since, awaited := 0 })
          ∧ (m.nb ≤ m.t + 1 →
            CtDone p.1 s id { vt.retire with mop := some runs, claim := some held, mopSince := none, awaited := 0 })))

/-- R225, R226, R230, R231: MOP_BLOCK_COMPLETION. In the ordered forms every element below MR and MC gains the block's sum of
products: integers modulo 2^32, else a floating-point addition of the block's partial; the other elements keep their values.
A reassociated form with floating-point elements holds the partials back, each after those before it, the first after the
element's value, and the accumulator waits. With blocks to come the `mop` stands at the next, and MSTAT names it; after the last
the VT has no `mop` any more, what was held back is added in, each element's along some tree, and the accumulators that a later
`mopz` clears are cleared. -/
def Obligations.MatrixBlockCompletes : Prop :=
  ∀ (s : State) (id : Nat) (vt : VT) (m : Mop) (c : Claim), s.vt? id = some vt → vt.mop = some m → vt.claim = some c →
    vt.killed = false → m.running = true →
    let acc (c : Claim) : Vector (BitVec 32) 1024 := if m.acc = 0 then c.acc0 else c.acc1
    let other (c : Claim) : Vector (BitVec 32) 1024 := if m.acc = 0 then c.acc1 else c.acc0
    let held (i j : Fin 32) (k : Fin 1024) : List (BitVec 32) :=
      m.pool.getD k.val [(acc c)[k]] ++ [(m.partialOf c vt.w i j).1]
    let added (x : Claim) : Prop := ∀ i j : Fin 32, ∀ k : Fin 1024, k.val = 32 * i.val + j.val →
      (i.val < c.rows ∧ j.val < c.cols →
        (c.mcfg.getLsbD 8 = true → (acc x)[k] = (acc c)[k] + BitVec.ofInt 32 (m.intSum c vt.w i j))
        ∧ (c.mcfg.getLsbD 8 = false → (acc x)[k] = (accAdd (acc c)[k] (m.partialOf c vt.w i j).1).1))
      ∧ (c.rows ≤ i.val ∨ c.cols ≤ j.val → (acc x)[k] = (acc c)[k])
    (m.t + 1 < m.nb → ∃ v m' c', exec (.mopBlockCompletion id) s = .next (s.setVt id v)
      ∧ v = { vt with mop := some m', claim := some c', fflags := v.fflags } ∧ (∀ b, vt.fflags.getLsbD b = true → v.fflags.getLsbD b = true)
      ∧ m' = { m with running := false, t := m.t + 1, pool := m'.pool } ∧ c'.mcfg = c.mcfg ∧ other c' = other c
      ∧ c'.mstat = BitVec.ofNat 64 (256 * (m.t + 1) + 4 * m.acc.val + (if c.mstat.getLsbD 1 then 2 else 0) + 1)
      ∧ (m.reassoc = false → m'.pool = m.pool ∧ added c')
      ∧ (m.reassoc = true → c.mcfg.getLsbD 8 = true → m'.pool = m.pool ∧ added c')
      ∧ (m.reassoc = true → c.mcfg.getLsbD 8 = false → acc c' = acc c
          ∧ ∀ i j : Fin 32, ∀ k : Fin 1024, k.val = 32 * i.val + j.val → m'.pool.get? k.val =
            if i.val < c.rows ∧ j.val < c.cols then some (held i j k) else m.pool.get? k.val))
    ∧ (m.nb ≤ m.t + 1 → (m.pool.map Prod.fst).Nodup → (∀ e ∈ m.pool, e.1 < 1024 ∧ e.2 ≠ []) →
      let holds : Prop := m.reassoc = true ∧ c.mcfg.getLsbD 8 = false
      ∃ n v c', exec (.mopBlockCompletion id) s = .next ({ s with picks := n }.setVt id v) ∧ v.mop = none ∧ v.claim = some c'
        ∧ v.vps = vt.vps ∧ v.pc = vt.pc ∧ v.x = vt.x ∧ c'.mcfg = c.mcfg ∧ c'.mstat = BitVec.ofNat 64 (4 * m.acc.val + 1)
        ∧ (∀ b, vt.fflags.getLsbD b = true → v.fflags.getLsbD b = true)
        ∧ (m.clears = [] → other c' = other c ∧ (¬ holds → m.pool = [] → added c')
          ∧ (holds → ∀ i j : Fin 32, ∀ k : Fin 1024, k.val = 32 * i.val + j.val →
            (i.val < c.rows ∧ j.val < c.cols → SumTree (held i j k) (acc c')[k])
            ∧ (c.rows ≤ i.val ∨ c.cols ≤ j.val → m.pool.get? k.val = none → (acc c')[k] = (acc c)[k])))
        ∧ ∀ a ∈ m.clears, (if a = 0 then c'.acc0 else c'.acc1) = Vector.replicate 1024 0)

/-! ### Engines -/

/-- R244, R246, R248, R250: COPY1D, COPY2D and FILL into a TCM window, from a CSP window or of a pattern, once every command that
the engine accepted before has started. A command's accesses fall in one step (the model's choice, log 16). Every byte of every row takes its source byte, or its byte of the pattern; no other
byte of the window changes; the command has ended DONE with its length. -/
def Sys2Proof.Claim.CopyCommands : Prop :=
  ∀ (s : State) (c : Command) (vt : VT) (g : Gang), s.command? c.id = some c → c.phase = .queued → c.eng = 0 →
    c.orphan = false → c.gone = false → s.vt? c.vt = some vt → s.gangs.get? c.gang = some g →
    Memory.wf vt.tcm = true → cmdMalformed 0 c.words = false → addrSpace c.words[1] = 2 → s.mayRun c = true →
    (∀ r ∈ s.rejected, r.who ≠ .command c.id) →
    let r := cmdRows c.words
    let at' (w : Word64) (stride : Int) (q j : Nat) : Nat := ((addrOffset w : Int) + q * stride).toNat + j
    let dst := at' c.words[1] r.2.2.1
    let done (e : Instr) (byte : Nat → Nat → Byte) : Prop :=
      ∃ v, exec e s = .next ((s.setVt c.vt v).setCommand { c with phase := .ended 0 (r.1 * r.2.1), written := [] })
        ∧ v = { vt with tcm := v.tcm, tcmPoison := v.tcmPoison }
        ∧ (∀ q j, q < r.1 → j < r.2.1 → Memory.read v.tcm (dst q j) = byte q j)
        ∧ ∀ a, (∀ q j, q < r.1 → j < r.2.1 → a ≠ dst q j) → Memory.read v.tcm a = Memory.read vt.tcm a
    (∀ p ∈ [(Instr.copy1d c.id, 1), (.copy2d c.id, 2)], cmdKind c.words = p.2 → addrSpace c.words[2] = 1 →
      g.cspPoison = [] → (r.1 = 1 ∨ (r.2.1 : Int) ≤ r.2.2.1 ∨ r.2.2.1 ≤ -(r.2.1 : Int)) →
      done p.1 fun q j => Memory.read g.csp (at' c.words[2] r.2.2.2 q j))
    ∧ (cmdKind c.words = 3 → done (.fill c.id) fun _ j => (c.words[2]).extractLsb' (8 * (j % 8)) 8)

/-- R66, R246, R249 to R251: COMPLETION_RECORD of an ended command. Its record, with TAG, STATUS and BYTES, joins its channel; a
VT parked at a `deq` of the channel or at the command's `enqy` takes it and wakes, the latter at its continuation, a stored one
with its context record rewritten; the record of an ENDED VT is discarded. -/
def Sys2Proof.Claim.CompletionRecords : Prop :=
  ∀ (s : State) (c : Command) (vt : VT) (status bytes : Nat) (ch : Fin 8) (d : Reg) (cont pc : Word64),
    s.command? c.id = some c → c.phase = .ended status bytes → status < 256 → bytes < 2 ^ 40 →
    let less : State := { s with commands := s.commands.filter fun x => x.id != c.id }
    let rec' : Word64 := BitVec.ofNat 64 (cmdTag c.words * 2 ^ 48 + status * 2 ^ 40 + bytes)
    let k := vt.channels[ch]
    let woken (v : VT) : VT := { v.writeX d rec' with
      park := none, aged := false, st := if vt.resident then .ready else .readyOut, readyAt := s.vtNow vt }
    let tells (v : VT) : Prop := ∃ u, exec (.completionRecord c.id) s = .next u ∧ u.commands = less.commands
      ∧ u.mem = (if vt.resident then s.mem else (s.rewriteRecord v).mem) ∧ u.vt? c.vt = some v
    (c.orphan = true → exec (.completionRecord c.id) s = .next less)
    ∧ (c.orphan = false → s.vt? c.vt = some vt → vt.killed = false → vt.violation = none → vt.detected = [] →
      (c.dest = .channel ch → vt.park = none → exec (.completionRecord c.id) s = .next (less.setVt c.vt { vt with
        channels := vt.channels.set ch { k with records := k.records ++ [(rec', c.written)] } }))
      ∧ (c.dest = .channel ch → vt.park = some (.deq ch d, pc) → k.frozen = false →
        tells (woken { vt with channels := vt.channels.set ch { k with reserved := k.reserved - 1 } }))
      ∧ (c.dest = .enqy → vt.park = some (.enqy c.id d cont, pc) → tells { woken vt with pc := cont }))

/-- R283, R246, R276, R277, R382: a link command of at most 8,192 bytes over an open peer connection of its domain, whose window
takes it: one message with its bytes, address and type goes out under the connection's next PSN and waits for its
acknowledgement, and the command runs. Its FLAGS but for a type, and its TAG, are the model's choices (logs 17, 69). A command whose connection is not open, or is another domain's, ends with PERM, a SIGNAL
with BYTES 8 (log 18); one whose connection is frozen with LINK. -/
def Sys2Proof.Claim.LinkCommands : Prop :=
  ∀ (s s2 : State) (k : Command) (c : Conn) (bs : List Byte), s.command? k.id = some k → k.phase = .queued → k.eng = 1 →
    k.sent = 0 → k.pending = 0 → k.failAt = none → cmdMalformed 1 k.words = false → s.mayRun k = true →
    let key := 0x10000 + cmdPeer k.words
    let len := cmdLen k.words
    let far : Word64 := BitVec.ofNat 64 (addrOffset k.words[1])
    let near := addrOffset k.words[2]
    let etype := bits64 k.words[0] 8 4
    let kinds := [(Instr.put k.id, 0x10), (.get k.id, 0x11), (.putadd k.id, 0x12), (.signal k.id, 0x13)]
    let sends (e : Instr) (kind flags : Nat) (addr : Word64) (len : Nat) (payload : List Byte) : Prop :=
      ∃ u m c' k', exec e s = .next u ∧ u.outbox = s.outbox ++ [m] ∧ m.key = key ∧ m.kind = kind ∧ m.psn = c.nextPsn
        ∧ m.conn = c.remote ∧ m.tag = c.nextPsn ∧ m.flags = flags ∧ m.addr = addr ∧ m.len = len ∧ m.payload = payload ∧ m.cmd = some k.id ∧ m.off = 0
        ∧ u.conn? key = some c' ∧ c'.nextPsn = (c.nextPsn + 1) % 2 ^ 24 ∧ c'.unacked = c.unacked ++ [m]
        ∧ c'.reads = (if kind = 0x02 then c.reads ++ [(c.nextPsn, k.id, 0, len)] else c.reads)
        ∧ u.command? k.id = some k' ∧ k' = { k with phase := .running, sent := len, pending := 1 }
    (cmdPeer k.words < 4096 → s.conn? key = some c → c.domain = k.domain → c.frozen = false → c.violated = none →
      c.unacked.length < 1024 → c.backlog = [] → (∀ r ∈ s.rejected, r.who ≠ .command k.id) →
      (∀ q ∈ s.linkSlices k, s.sliceFull q false = false) →
      (cmdKind k.words = 0x10 ∨ cmdKind k.words = 0x12 → len ≤ 8192 →
        (s.setCommand { k with phase := .running }).copyReads k.window k.domain 0 near len = (bs, none, s2) →
        (cmdKind k.words = 0x10 → sends (.put k.id) 0x01 0 far len bs)
        ∧ (cmdKind k.words = 0x12 → sends (.putadd k.id) 0x07 (etype * 4) far len bs))
      ∧ (cmdKind k.words = 0x11 → len ≤ 8192 → sends (.get k.id) 0x02 0 (BitVec.ofNat 64 near) len [])
      ∧ (cmdKind k.words = 0x13 →
        sends (.signal k.id) 0x08 0 (BitVec.ofNat 64 (bits64 k.words[1] 0 32)) 8 (leBytes 8 k.words[2].toNat)))
    ∧ (s.conn? key = none ∨ (cmdPeer k.words < 4096 ∧ s.conn? key = some c ∧ c.domain ≠ k.domain) →
      ∀ p ∈ kinds, cmdKind k.words = p.2 →
        exec p.1 s = .next (s.setCommand { k with phase := .ended 0x05 (if p.2 = 0x13 then 8 else 0) }))
    ∧ (cmdPeer k.words < 4096 → s.conn? key = some c → c.domain = k.domain → c.frozen = true →
      ∀ p ∈ kinds, cmdKind k.words = p.2 → exec p.1 s = .next (s.setCommand { k with phase := .ended 0x81 0 }))

/-- R244 to R251, R283, R382: the commands of copy and link engines and their completion records. -/
def Obligations.EngineCommands : Prop :=
  Claim.CopyCommands ∧ Claim.CompletionRecords ∧ Claim.LinkCommands

/-! ### Queues and nodes -/

/-- R256, R257, R385 to R387: SCAN of an ACTIVE queue whose doorbell and bitmap can be read. With no bit changed nothing more
happens; a changed slot is taken: its bit is SEEN, and it is RELEASED when it has its credits, PENDING when it lacks some,
FAILED with MALFORMED when it has more, or with the cause of a check; one that is not IDLE is a queue fault of WHAT 4, and one that
cannot be read fails with the cause. -/
def Sys2Proof.Claim.ScanTakesSlots : Prop :=
  ∀ (s s1 s2 : State) (dom qn k : Nat) (q y : Queue) (x : Slot) (b0 bm body : List Byte) (ids : List Nat) (r : Nat)
      (e : Option Cause),
    let n : SlotRef := { domain := dom, queue := qn, slot := k }
    let bit (j : Nat) : Bool := ((bm[j / 8]?).getD 0).getLsbD (j % 8)
    let seen (j : Nat) : Bool := (q.slots.getD j {}).seen
    let own (c : Option Cause) : Nat := match c with
      | some c => c.code
      | none => 0x0E
    (s.queue? dom qn = some q → q.st = .active → s.schedPaused dom = false →
      (s.setQueue dom qn { q with scan := false }).schedRead dom .atomic q.doorbell.toNat 8 = (.ok b0, s1) →
      s1.schedRead dom .atomic q.bitmap.toNat (2 ^ q.log2n / 8) = (.ok bm, s2) →
      ((∀ j, j < 2 ^ q.log2n → bit j = seen j) → exec (.scan dom qn) s = .next s2)
      ∧ (k < 2 ^ q.log2n → (∀ j, j < 2 ^ q.log2n → (bit j ≠ seen j ↔ j = k)) → s2.queue? dom qn = some y → y.st = .active →
        exec (.scan dom qn) s = .next (s2.takeSlot n)))
    ∧ (s.slot? n = some (q, x) →
      let at' := (s.setSlot n { x with seen := !x.seen }).schedRead dom .atomic (q.ring.toNat + 128 * k) 128
      let taken : Slot := { x with seen := !x.seen, body, succ := [] }
      (at' = (.error e, s1) →
        s.takeSlot n = (s1.setSlot n { x with seen := !x.seen, body := [], succ := [] }).finishNode n false (own e))
      ∧ (at' = (.ok body, s1) → leNat ((body.drop 1).take 1) ≠ 0 → s.takeSlot n = s1.queueFault dom qn (qn * 2 ^ 16 + k) 4 0)
      ∧ (at' = (.ok body, s1) → leNat ((body.drop 1).take 1) = 0 →
        ((s1.setSlot n taken).checkNode dom taken = (.error r, s2) → s.takeSlot n = s2.finishNode n false r)
        ∧ ((s1.setSlot n taken).checkNode dom taken = (.ok ids, s2) →
          let y : Slot := { taken with succ := ids }
          (y.preds = x.cred → s.takeSlot n = (s2.setSlot n y).releaseNode n)
          ∧ (x.cred < y.preds → s.takeSlot n = (s2.setSlot n { y with st := .pending }).publish n 0)
          ∧ (y.preds < x.cred → s.takeSlot n = (s2.setSlot n y).finishNode n false 0x0C))))

/-- R256, R258, R262, R273, R386: NODE_COMPLETION publishes DONE or FAILED with its RESULT, and a DONE node credits its
successors; on a queue that is destroyed the node becomes ABORTED. A credit reaches a PENDING node of an ACTIVE queue, which
is RELEASED with its last one; a LAUNCH has its register image read then. -/
def Sys2Proof.Claim.NodeStates : Prop :=
  ∀ (s s1 s2 : State) (n m : SlotRef) (q : Queue) (x y : Slot) (res sid : Nat) (o : Queue) (h v : List Byte) (c : Cause),
    (s.slot? n = some (q, x) → s.schedPaused n.domain = false → x.st = .released →
      let ends (st : NodeState) (res : Nat) : State :=
        (s.setSlot n { x with st, cred := 0, handed := false, outcome := none }).publish n res
      (q.st = .active → x.overCredit = false → x.outcome = some (false, res) → exec (.nodeCompletion n) s = .next
        (x.succ.foldl (fun s sid => s.creditNode n.domain sid) (ends .done res)))
      ∧ (q.st = .active → x.outcome = some (true, res) → exec (.nodeCompletion n) s = .next (ends .failed res))
      ∧ (q.st = .active → x.overCredit = true → x.outcome = some (false, res) →
        exec (.nodeCompletion n) s = .next (ends .failed 0x0C))
      ∧ (q.st ≠ .active → x.kind ≠ 1 → q.offending ≠ some n.slot → x.outcome.isSome = true →
        exec (.nodeCompletion n) s = .next (s.abortNode n)))
    ∧ (s.slot? n = some (q, x) → x.st ≠ .released → exec (.nodeCompletion n) s = .next s)
    ∧ (m = { domain := n.domain, queue := sid / 2 ^ 16 % 4096, slot := sid % 2 ^ 16 } → s.slot? m = some (o, y) →
      o.st = .active → y.st = .pending →
      let z : Slot := { y with cred := y.cred + 1 }
      s.creditNode n.domain sid = if y.cred + 1 = y.preds then (s.setSlot m z).releaseNode m else s.setSlot m z)
    ∧ (s.slot? n = some (q, x) →
      let released (s : State) (x : Slot) : State :=
        ({ s.setSlot n { x with st := .released, order := s.nextOrder, outcome := none, handed := false, overCredit := false } with
           nextOrder := s.nextOrder + 1 } : State).publish n 0
      let image := x.field 0x38 8
      (x.kind ≠ 1 → s.releaseNode n = released s x)
      ∧ (x.kind = 1 → s.schedRead n.domain .load image 0x180 = (.error (some c), s1) →
        s.releaseNode n = released s1 { x with image := ([], []), imageFail := some c.code })
      ∧ (x.kind = 1 → s.schedRead n.domain .load image 0x180 = (.ok h, s1) →
        s1.schedRead n.domain .load (image + 0x180)
          (32 * (4 * 2 ^ x.field 0x54 1) * countOnes (leNat ((h.drop 0x140).take 4) % 2 ^ 31) 31) = (.ok v, s2) →
        s.releaseNode n = released s2 { x with image := (h, v), imageFail := none }))

/-- R259, R260: the nodes that are next to be handed on and act by themselves. NOP ends at once, SIGNAL is an `fput`, WAITFUT
writes the future's value into its slot once it is FULL, poisoned there where it was poisoned (log 73), COPY runs its command; each leaves its outcome for NODE_COMPLETION. -/
def Sys2Proof.Claim.NodeActions : Prop :=
  ∀ (s s1 : State) (n : SlotRef) (q : Queue) (x : Slot) (key : Nat) (f : Future) (d : CopyDone) (c : Cause) (a : Nat),
    let ends (s : State) (failed : Bool) (res : Nat) : Host.Outcome State Fault Refusal := .next (s.nodeOutcome n failed res)
    (s.dueNode n 8 = some (q, x) → exec (.nop n) s = .next (s.setSlot n { x with handed := true, outcome := some (false, 0) }))
    ∧ (s.dueNode n 6 = some (q, x) → ∀ p ∈ [(FputStatus.ok, false, 0), (.full, false, 0x80), (.cordon, true, 0x07),
        (.stale, true, 0x0B)], s.fput n.domain (x.field 0x28 4) (BitVec.ofNat 64 (x.field 0x30 8)) = (p.1, s1) →
        exec (.signalNode n) s = ends s1 p.2.1 p.2.2)
    ∧ (s.dueNode n 7 = some (q, x) →
      (s.futureOf n.domain (x.field 0x28 4) = .stale → exec (.waitfut n) s = ends s true 0x0B)
      ∧ (s.futureOf n.domain (x.field 0x28 4) = .entry key f →
        (f.st = .empty → exec (.waitfut n) s = .next s)
        ∧ (f.st = .cordon → exec (.waitfut n) s = ends s true 0x07)
        ∧ (f.st = .full →
          let va := q.ring.toNat + 128 * n.slot + 0x30
          s.schedWrite n.domain va (leBytes 8 f.value.toNat) = (none, s1) →
          exec (.waitfut n) s = ends (if f.poisoned then s1.poisonAt n.domain va else s1) false 0)))
    ∧ (s.dueNode n 2 = some (q, x) → s.copyRun { vt := none, gang := none } n.domain x.command = (d, s1) →
      (d.stop = none → exec (.copy n) s = ends s1 false 0)
      ∧ (d.stop = some (.fault c) → exec (.copy n) s = ends s1 true c.code)
      ∧ (d.stop = some (.violation a) → exec (.copy n) s = ends s1 true 0x0E))
    ∧ (s.slot? n = some (q, x) → s.nodeOutcome n true a = s.setSlot n { x with handed := true, outcome := some (true, a) })

/-- R88, R92 to R94, R368: the nodes that act on L2, for a range of one line. PREFETCH brings a cacheable line in, pinned where the
node says so, over the line that the set evicts where it is full, or pins the line that is there, which becomes the most recently
used (log 57); a full set of pinned lines REFUSES, an uncached page or a line out of reach is SKIPPED (R368, log 36). UNPIN takes
the pin away and leaves the line the most recently used. DISCARD invalidates a line without write-back: storage's own bytes and
poison marks come back, and monitors test them; a line that may not be written, or is none of L2, is SKIPPED. -/
def Sys2Proof.Claim.LineNodes : Prop :=
  ∀ (s s1 s2 : State) (n : SlotRef) (q : Queue) (x : Slot) (t : Trans) (l : L2Line),
    let a := x.field 0x28 8 / 64 * 64
    let line := t.loc / 64
    let slot := q.ring.toNat + 128 * n.slot
    let pin : Bool := x.field 0x38 1 == 1
    let one : Prop := 0 < x.field 0x30 8 ∧ x.field 0x28 8 % 64 + x.field 0x30 8 ≤ 64
    let wrote (s : State) (bs : List Byte) : Prop := s.schedWrite n.domain (slot + 0x48) bs = (none, s2)
    let counts (s : State) (skipped refused : Nat) : Prop := wrote s (leBytes 4 skipped ++ leBytes 4 refused)
    let cached (s : State) : Prop :=
      entryDevice t.leaf = false ∧ entryPolicy t.leaf ≠ 2 ∧ isSram t.loc = false ∧ s.unreachable t.loc = false
    let fresh : L2Line := { line, dirty := false, old := none, pinned := pin, first := entryPolicy t.leaf == 3 }
    one →
    (s.dueNode n 3 = some (q, x) → s.accessWalk n.domain a .load = .ok t s1 →
      let ends (u : State) (skipped refused : Nat) : Prop :=
        counts u skipped refused → exec (.prefetch n) s = .next (s2.nodeOutcome n false 0)
      let asked := s1.want (s1.slicesOf (cachingOf t.leaf t.loc .normal) .load (line * 64) 64)
      let missing : Prop := cached s1 ∧ s1.l2Find line = none ∧ s1.linkDown t.loc = false
      (¬ cached s1 → ends s1 1 0)
      ∧ (missing → (s1.homeSlice (line * 64)).isSome = true → (s1.ways line).length < 16 →
        ends { asked with l2 := fresh :: s1.l2 } 0 0)
      ∧ (missing → (s1.homeSlice (line * 64)).isSome = true → 16 ≤ (s1.ways line).length → s1.victim line = some l →
        ends { asked.l2Evict l with l2 := fresh :: (asked.l2Evict l).l2 } 0 0)
      ∧ (missing → 16 ≤ (s1.ways line).length → (∀ w ∈ s1.ways line, w.pinned = true) → ends s1 0 1)
      ∧ (cached s1 → s1.l2Find line = some l →
        ends { s1 with l2 := { l with pinned := l.pinned || pin } :: s1.l2.filter fun k => k.line != line } 0 0))
    ∧ (s.dueNode n 4 = some (q, x) → s.translate n.domain a = .ok t s1 → s1.isReserved t.loc = false →
      (s1.l2Find line = some l → exec (.unpin n) s = .next (({ s1 with
        l2 := { l with pinned := false, first := false } :: s1.l2.filter fun k => k.line != line } : State).nodeOutcome n false 0))
      ∧ (s1.l2Find line = none → exec (.unpin n) s = .next (s1.nodeOutcome n false 0)))
    ∧ (s.dueNode n 5 = some (q, x) → s.translate n.domain a = .ok t s1 → s1.isReserved t.loc = false →
      let rest := s1.l2.filter fun k => k.line != line
      let back : State := match s1.l2Find line with
        | none => s1
        | some k => match k.old with
          | none => { s1 with l2 := rest }
          | some o => ({ s1 with
            l2 := rest, mem := Memory.writeBytes s1.mem (line * 64) (leBytes 64 o.toNat)
            poison := (s1.poison.filter fun u => u / 8 != line)
              ++ ((List.range 8).filter fun j => k.oldMarks.getLsbD j).map fun j => line * 8 + j } : State).notify (line * 64) 64
      (entryW t.leaf = true → cached s1 → wrote back (leBytes 4 0) → exec (.discard n) s = .next (s2.nodeOutcome n false 0))
      ∧ (¬ (entryW t.leaf = true ∧ cached s1) → wrote s1 (leBytes 4 1) →
        exec (.discard n) s = .next (s2.nodeOutcome n false 0)))

/-- R261, R262, R264, R265: LAUNCH of one gang, from the register image as read at its release. A legal one that some permitted
cluster can hold becomes a gang that waits, with no member yet, at the end of the queue of the cluster chosen; the node stays
RELEASED. An image that could not be read or is malformed, or that no cluster can hold, fails the node. -/
def Sys2Proof.Claim.LaunchNode : Prop :=
  ∀ (s : State) (n : SlotRef) (q : Queue) (x : Slot) (l : Launch) (c e : Nat),
    s.dueNode n 1 = some (q, x) → q.st = .active →
    let image := launchImage n (s.nextOrder + 1) x q.prio x.image.1 x.image.2
    (x.imageFail = some e → exec (.launch n) s = .next (s.nodeOutcome n true e))
    ∧ (x.imageFail = none → image = none → exec (.launch n) s = .next (s.nodeOutcome n true 0x0C))
    ∧ (x.imageFail = none → image = some l →
      (l.unplaceable = true ∨ s.pickCluster l.clusters = none → exec (.launch n) s = .next (s.nodeOutcome n true 0x0D))
      ∧ (l.unplaceable = false → s.pickCluster l.clusters = some c → l.gangs = 1 →
        ∃ u y key g, exec (.launch n) s = .next u ∧ u.launches = s.launches ++ [l] ∧ u.mem = s.mem
          ∧ u.slot? n = some y ∧ y.2 = { x with handed := true } ∧ u.gangs.get? key = some g ∧ g.st = .waiting
          ∧ g.size = l.gang + 1 ∧ g.index = 0 ∧ g.launch = some n ∧ g.launchNo = l.no ∧ g.cluster = c ∧ g.members = []
          ∧ g.frames = 2 ^ l.wsel.val ∧ g.tcmwin = l.tcmwin ∧ g.cspwin = l.cspwin ∧ g.domain = n.domain
          ∧ (u.cluster c).queue = (s.cluster c).queue ++ [key]))

/-- R92 to R94, R256 to R265, R385 to R387: queues, nodes and SCHED. -/
def Obligations.QueuesAndNodes : Prop :=
  Claim.ScanTakesSlots ∧ Claim.NodeStates ∧ Claim.NodeActions ∧ Claim.LineNodes ∧ Claim.LaunchNode

/-! ### Placement, residency, slots -/

/-- R265, R266, R262: PLACEMENT of the one gang that waits for a cluster in service. A gang that fits is placed on the cores and at
the CSP base found for it; the members of a new gang of a launch are created in rank order from the launch as read, in
state NEW, with frames kept for them. A gang that does not fit keeps waiting. -/
def Sys2Proof.Claim.GangPlacement : Prop :=
  ∀ (s : State) (g k base : Nat) (x : Gang) (l : Launch) (cs : List Nat), s.inService g = true →
    (s.cluster g).queue = [k] → s.gangs.get? k = some x →
    (s.fit g x = none → exec (.placement g) s = .next s)
    ∧ (s.fit g x = some (cs, base) → x.st = .waiting → x.members = [] →
      s.launches.find? (fun y => y.no == x.launchNo) = some l → s.vts.length + cs.length < 2 ^ 32 →
      ∃ u y, exec (.placement g) s = .next u ∧ u.gangs.get? k = some y ∧ y.st = .placed ∧ y.cluster = g ∧ y.base = base
        ∧ y.mem = lowOnes 1024 x.size ∧ y.members.length = cs.length ∧ (u.cluster g).queue = [] ∧ u.mem = s.mem
        ∧ ∀ j (h : j < cs.length), ∃ id v, y.members[j]? = some id ∧ u.vt? id = some v ∧ v.st = .new ∧ v.rank = j
          ∧ v.core = cs[j] ∧ v.gang = k ∧ v.pc = l.entry ∧ v.x = l.x ∧ v.seg = l.seg ∧ v.em = l.em ∧ v.vmt = l.vmt
          ∧ v.codebase = l.codebase ∧ v.reserved = true ∧ v.resident = false)

/-- R46, R47, R267, R114, R322: SWAP_IN of a READY-OUT VT of a placed gang, in order of request: it is READY and resident on the
core chosen, its registers as they were, and that core's L1 is empty (log 57; R114 says it of another core). The core is the one kept for it, or its previous core where
that has room; an admitted VT goes nowhere else; with no core, or while another VT's request is older, it stays out. A VT whose
record names another domain is FROZEN. -/
def Sys2Proof.Claim.SwapIn : Prop :=
  ∀ (s : State) (id c : Nat) (v : VT), s.vt? id = some v → v.st = .readyOut → s.gangPlaced v = true →
    s.inService (clusterOfCore v.core) = true →
    (s.swapCore v = none → exec (.swapIn id) s = .next s)
    ∧ (s.swapCore v = some c → s.nextSwapIn c ≠ some id → exec (.swapIn id) s = .next s)
    ∧ (s.swapCore v = some c → s.nextSwapIn c = some id → s.recordServes v = true → s.ctxOwn v.ctx 4 v.domain = true →
      ∃ u w, exec (.swapIn id) s = .next u ∧ u.vt? id = some w ∧ w.st = .ready
        ∧ w.resident = true ∧ w.reserved = false ∧ w.core = c ∧ w.x = v.x ∧ w.p = v.p ∧ w.pc = v.pc ∧ w.ctx = none
        ∧ (∀ i : Fin 32, w.vps[i] = { v.vps[i] with quad := w.vps[i].quad })
        ∧ w.issued = v.issued ∧ (u.core c).l1 = [] ∧ (v.interval = 0 → u.mem = s.mem))
    ∧ (s.swapCore v = some c → s.nextSwapIn c = some id → s.recordServes v = true → s.ctxOwn v.ctx 4 v.domain = false →
      ∃ u w, exec (.swapIn id) s = .next u ∧ u.vt? id = some w ∧ w.st = .frozen ∧ w.resident = false ∧ w.x = v.x ∧ w.pc = v.pc)
    ∧ (v.reserved = true → v.claim = none → s.swapCore v = some v.core)
    ∧ (v.reserved = false → s.canHold v.core v = true → s.swapCore v = some v.core)
    ∧ (v.reserved = false → s.canHold v.core v = false → v.admitted = true → s.swapCore v = none)

/-- R51, R62, R65, R267, R269, R270: SWAP_OUT of the VT that the residency engine chooses, and MOVE of a READY VT to a core of its
cluster that can hold it. Leaving a core frees its frames, counts a pre-emption and writes the VT's context record into its
domain's context store area, whose place is the model's (log 59); nothing of its registers changes, and no other byte of storage.
A VT that may not leave stays, an admitted one is not moved, and no move goes before a request for a swap-in there (R267). -/
def Sys2Proof.Claim.SwapOutAndMove : Prop :=
  ∀ (s : State) (id core : Nat) (v : VT), s.vt? id = some v → v.mop = none → (s.core v.core).pend = [] →
    (s.mayLeave id v = true →
      s.victimForAged (clusterOfCore v.core) = some id ∨ s.victimForRoom v.core = some id ∨ s.victimForClaim v.core = some id →
      ∃ u w, exec (.swapOut id) s = .next u ∧ u.vt? id = some w
        ∧ w = { v with
          resident := false, reserved := false, claimWait := false, mopSince := none, awaited := 0, preempts := v.preempts + 1
          st := if v.st = .ready then .readyOut else v.st, readyAt := if v.st = .ready then s.vtNow v else v.readyAt
          inflight := w.inflight, ctx := w.ctx }
        ∧ (v.inflight = [] → w.inflight = []) ∧ (v.inflight = [] → Memory.wf s.mem = true →
          ∃ loc r, w.ctx = some (loc, w.recordSize) ∧ r ∈ ctxArea v.domain ∧ r.1 ≤ loc ∧ loc + w.recordSize ≤ r.1 + r.2
            ∧ Memory.readBytes u.mem loc (w.record id).length = w.record id
            ∧ ∀ a, (a < loc ∨ loc + (w.record id).length ≤ a) → u.byteAt a = s.byteAt a))
    ∧ (s.mayLeave id v = true → v.st = .ready → v.admitted = false → core ≠ v.core →
      clusterOfCore core = clusterOfCore v.core → s.canHold core v = true → s.nextSwapIn core = none →
      ∃ u w, exec (.move id core) s = .next u ∧ u.vt? id = some w ∧ w.st = .ready
        ∧ w.resident = true ∧ w.core = core ∧ w.preempts = v.preempts + 1 ∧ w.x = v.x ∧ w.pc = v.pc
        ∧ (∀ i : Fin 32, w.vps[i] = { v.vps[i] with quad := w.vps[i].quad }) ∧ (u.core core).l1 = [])
    ∧ (v.admitted = true ∨ s.nextSwapIn core ≠ none → exec (.move id core) s = .next s)
    ∧ (s.mayLeave id v = false → exec (.swapOut id) s = .next s ∧ exec (.move id core) s = .next s)

/-- R43, R45: a write of LPR. An illegal partition is ignored. A legal one takes its place in bits [7:0], and the VTs of the core
whose slot has other quads now are to be bound again; nothing else changes. -/
def Sys2Proof.Claim.PartitionWrite : Prop :=
  ∀ (s : State) (core id : Nat) (value : Word32) (v : VT),
    let quads (x : Word32) (slot : Nat) : List Nat := (List.range 4).filter fun q => x.toNat / 4 ^ q % 4 == slot
    let legal : Prop := ∀ k, k < 4 → quads value k ∈ [[], [0], [1], [2], [3], [0, 1], [2, 3], [0, 1, 2, 3]]
    (¬ legal → exec (.lprWrite core value) s = .next s)
    ∧ (legal → ∃ u, exec (.lprWrite core value) s = .next u
      ∧ u.core core = { s.core core with lpr := (value.setWidth 8).setWidth 32 }
      ∧ u = { s with cores := u.cores, vts := u.vts } ∧ (∀ c, c ≠ core → u.core c = s.core c)
      ∧ (s.vt? id = some v → u.vt? id = some (if v.core = core ∧ v.span ≠ 0
          ∧ quads (s.core core).lpr v.slot ≠ quads value v.slot then { v with rebind := true } else v)))

/-- R266, R270, R271, R322: GANG_PREEMPTION stores the gang chosen for an AGED one once every member is at its point and the
commands of its windows are done, with room for the records: each member leaves its core, and the gang's own record stands in
its domain's context store area, whose place is the model's (log 59). GANG_RESTORE hands a STORED gang to a permitted cluster, where
it stands behind the AGED gangs and the restored ones saved before it, and ahead of the rest, its overtakes at 0 (log 67) and what of
its record was struck since poisoned (R346, log 72); a gang whose record names another domain has its members FROZEN instead. -/
def Sys2Proof.Claim.GangsStoredAndRestored : Prop :=
  ∀ (s : State) (gang id c loc : Nat) (x a : Gang) (v : VT), s.gangs.get? gang = some x →
    (s.pressing x.cluster = some a → s.nextPreempted a = some gang → s.cspBusy gang = false → s.schedPaused a.domain = false →
      (∀ e ∈ s.liveMembers x, e.2.resident = false ∨ s.mayLeave e.1 e.2 = true) →
      let t := x.members.foldl State.storeMember s
      (∀ e ∈ s.liveMembers x, e.2.resident = true → ∃ w, t.vt? e.1 = some w ∧ w.ctx ≠ none) →
      t.ctxRoom x.domain x.recordSize (t.ctxInUse none (some gang)) = some loc →
      ∃ u, exec (.gangPreemption gang) s = .next u
        ∧ u.gangs.get? gang = some { x with st := .stored, savedAt := s.nextOrder + 1, ctx := some (loc, x.recordSize) }
        ∧ (Memory.wf t.mem = true → Memory.readBytes u.mem loc x.record.length = x.record)
        ∧ (id ∈ x.members → s.vt? id = some v → v.mop = none → ∃ w, u.vt? id = some w ∧ w.resident = false
            ∧ w.reserved = false ∧ w.x = v.x ∧ w.pc = v.pc ∧ w.vps = v.vps
            ∧ w.st = (if v.resident = true ∧ v.st = .ready then .readyOut else v.st)))
    ∧ (s.pressing x.cluster = none → exec (.gangPreemption gang) s = .next s)
    ∧ (x.st = .stored → s.schedPaused x.domain = false → s.ctxReady x.ctx = true →
      (s.ctxOwn x.ctx 4 x.domain = true → s.ctxWhole x.ctx 5 = true → s.pickCluster x.clusters = some c →
        let before (k : Nat) : Bool := match s.gangs.get? k with
          | some y => y.st == .aged || (y.placedAt != 0 && y.savedAt < x.savedAt)
          | none => false
        ∃ u p q, exec (.gangRestore gang) s = .next u ∧ (s.cluster c).queue = p ++ q
          ∧ (u.cluster c).queue = p ++ gang :: q ∧ (∀ k ∈ q, before k = false) ∧ (∀ k, p.getLast? = some k → before k = true)
          ∧ u.gangs.get? gang = some { s.restoredGang x with st := .waiting, overtakes := 0, cluster := c }
          ∧ (s.newMarks (x.ctx.getD (0, 0)) (x.recordMarks (x.ctx.getD (0, 0)).1) = [] → s.restoredGang x = x)
          ∧ u.vts = s.vts ∧ u.mem = s.mem)
      ∧ (s.ctxOwn x.ctx 4 x.domain = false → ∃ u, exec (.gangRestore gang) s = .next u
        ∧ ∀ e ∈ s.liveMembers x, ∃ w, u.vt? e.1 = some w ∧ w.st = .frozen))

/-- R43 to R47, R262, R265 to R271: placement, residency, binding and gang pre-emption. -/
def Obligations.PlacementAndResidency : Prop :=
  Claim.GangPlacement ∧ Claim.SwapIn ∧ Claim.SwapOutAndMove ∧ Claim.PartitionWrite ∧ Claim.GangsStoredAndRestored

/-! ### Faults, freezes, the end of queues and of the machine -/

/-- R311, R315, R318: taking a fault. FAULT_STOP of a READY VT at its boundary writes the record of the fault it chooses into
FAULTREC, takes the VT off its core and leaves it FAULTED, its registers and its PC as they were; one record goes to the
domain's event ring. A VT that is not at its boundary, or not stopping, stays as it is, as one does whose TCM window a copy
command still uses. -/
def Sys2Proof.Claim.FaultIsTaken : Prop :=
  ∀ (s : State) (id : Nat) (v : VT) (f : FaultInfo), s.vt? id = some v → v.mop = none → (s.core v.core).pend = [] →
    (v.st = .ready → v.resident = true → v.stopping = true → v.killed = false → v.violation = none → v.atPoint = true →
      s.tcmBusy id = false → s.canStore id v = true → chooseFault v v.detected = some f → f.code < 256 → f.place < 16 → f.infl < 8 → f.vp < 32 → f.elem < 65536 →
      ∃ u w, exec (.faultStop id) s = .next u ∧ u.vt? id = some w ∧ w.st = .faulted ∧ w.resident = false
        ∧ w.stopping = false ∧ w.detected = [] ∧ w.pc = v.pc ∧ w.x = v.x ∧ w.p = v.p ∧ w.vps = v.vps ∧ w.issued = v.issued
        ∧ bits64 w.faultrec[0] 0 8 = f.cause.code ∧ bits64 w.faultrec[0] 8 8 = f.code ∧ bits64 w.faultrec[0] 28 4 = f.place
        ∧ bits64 w.faultrec[0] 32 3 = f.infl ∧ bits64 w.faultrec[0] 35 5 = f.vp ∧ bits64 w.faultrec[0] 40 16 = f.elem
        ∧ w.faultrec[1] = f.pc ∧ w.faultrec[2] = f.iaddr ∧ w.faultrec[3] = (if f.fetch then 0 else f.daddr)
        ∧ (u.domain v.domain).seq = (s.domain v.domain).seq + 1)
    ∧ (v.stopping = false ∨ v.atPoint = false ∨ v.st ≠ .ready ∨ s.tcmBusy id = true → exec (.faultStop id) s = .next s)

/-- R313: the fault that a stop records, of those detected: one of the CT at issue if there is one; of faults of VPs alone, one of
the lowest VP. -/
def Sys2Proof.Claim.FaultChosen : Prop :=
  ∀ (v : VT) (fs : List FaultInfo) (f g : FaultInfo), chooseFault v fs = some f → g ∈ fs →
    f ∈ fs ∧ (g.place = 0 → f.place = 0 ∨ f.place = 4) ∧ ((∀ h ∈ fs, h.place = 2 ∨ h.place = 3) → f.vp ≤ g.vp)

/-- R316, R347: a record is posted in three writes, SEQ 0, the body, SEQ k, into slot (k - 1) mod N of the ring, where the slot can be
written; where it cannot, none of it is. A post whose accesses wait, or that comes after one of its domain that waits, is kept until
they are made (log 28). The domain's sequence goes up by one in each case; a domain with no ring gets no record (log 19). -/
def Sys2Proof.Claim.RecordIsPosted : Prop :=
  ∀ (s s1 : State) (dom source : Nat) (body : List (Nat × List Byte)) (t : Trans) (c : Cause),
    let d := s.domain dom
    let k := d.seq + 1
    let va := bits64 d.evring 12 36 * 4096 + (k - 1) % 2 ^ (bits64 d.evring 48 4 + 5) * 128
    let bytes := recordBytes ([(8, leBytes 1 5), (9, leBytes 1 1), (10, leBytes 2 source), (12, leBytes 4 s.mseq.toNat)] ++ body)
    let counted := s.setDomain dom { d with seq := k }
    let put (s : State) (off : Nat) (bs : List Byte) : State :=
      s.homeWrite (cachingOf t.leaf t.loc .normal) (t.loc + off) (bs.map fun b => (b, true))
    let later (s1 : State) : State :=
      { s1 with wants := s.wants, duePosts := s1.duePosts ++ [{ domain := dom, va, record := bytes, seq := k }] }
    (((s.post dom 5 source body).domain dom).seq = k ∧ ((s.post dom 5 source body).domain dom).evring = d.evring)
    ∧ (d.evring = 0 → s.post dom 5 source body = counted)
    ∧ (d.evring ≠ 0 → (∃ q ∈ s.duePosts, q.domain = dom) → s.post dom 5 source body = later counted)
    ∧ (d.evring ≠ 0 → (∀ q ∈ s.duePosts, q.domain ≠ dom) →
      (counted.postSlot dom va = .wait s1 → s.post dom 5 source body = later s1)
      ∧ (counted.postSlot dom va = .fault c s1 → s.post dom 5 source body = { s1 with wants := s.wants })
      ∧ (counted.postSlot dom va = .ok t s1 →
        s.post dom 5 source body
          = put (put (put { s1 with wants := s.wants } 0 (leBytes 8 0)) 8 (bytes.drop 8)) 0 (leBytes 8 k)))

/-- R83, R244, R315, R322, R384: FREEZE. A VT that met a reserved region is FROZEN at its boundary with CAUSE DOMAIN in FAULTREC,
parked nowhere, in no engine's line and off its core; the completion channel of such a command is frozen, with no record; such a connection keeps nothing to
send. Each posts one record to its domain's ring. -/
def Sys2Proof.Claim.MastersAreFrozen : Prop :=
  ∀ (s : State) (id : Nat) (v : VT) (f : FaultInfo) (addr : Word64) (c : Command) (ch : Fin 4) (eng : Fin 2) (key : ConnKey)
      (k : Conn),
    (s.vt? id = some v → v.mop = none → (s.core v.core).pend = [] → v.violation = some f → v.killed = false → v.atPoint = true →
      s.tcmBusy id = false → s.canStore id v = true →
      ∃ u w, exec (.freeze (.vt id) f.daddr) s = .next u ∧ u.vt? id = some w ∧ w.st = .frozen ∧ w.resident = false
        ∧ w.park = none ∧ w.x = v.x ∧ w.pc = v.pc ∧ bits64 w.faultrec[0] 0 8 = 0x0D
        ∧ w.faultrec[3] = (if f.fetch then 0 else f.daddr) ∧ (∀ e ∈ u.futures, ∀ x ∈ e.2.waiters, x.1 ≠ id)
        ∧ (∀ e ∈ u.fifoWait, e.2.2 ≠ id)
        ∧ (u.domain v.domain).seq = (s.domain v.domain).seq + 1)
    ∧ (s.commands = [c] → c.vt = id → c.eng = eng → c.phase = .frozen addr →
      c.dest = .channel (Fin.ofNat 8 (eng.val * 4 + ch.val)) → s.vt? id = some v →
      ∃ u w, exec (.freeze (.channel id eng.val ch.val) addr) s = .next u ∧ u.commands = [] ∧ u.vt? id = some w
        ∧ (let n : Fin 8 := Fin.ofNat 8 (eng.val * 4 + ch.val)
           w.channels[n] = { v.channels[n] with frozen := true })
        ∧ (u.domain c.domain).seq = (s.domain c.domain).seq + 1)
    ∧ (s.conn? key = some k → k.violated = some addr → ∃ u k', exec (.freeze (.conn key) addr) s = .next u
      ∧ u.conn? key = some k' ∧ k'.frozen = true ∧ k'.unacked = [] ∧ k'.reads = []
      ∧ (u.domain k.domain).seq = (s.domain k.domain).seq + 1)

/-- R272, R273, R319: QUEUE_DESTROYED of a DESTROYING queue once every VT of its launches has ENDED and no node of it is RELEASED: it
is DESTROYED and one record goes to its domain. Until then nothing happens, but that the nodes which a pause of SCHED left waiting are
aborted first (R379). -/
def Sys2Proof.Claim.QueueIsDestroyed : Prop :=
  ∀ (s : State) (dom n : Nat) (q : Queue), s.queue? dom n = some q →
    (q.stopDue = true → exec (.queueDestroyed dom n) s = .next (if s.schedPaused dom then s else s.stopNodes dom n))
    ∧ (q.stopDue = false → q.st = .destroying → s.schedPaused dom = false → (∀ l ∈ s.launchesOf dom n, s.liveVts l.no = []) → (∀ e ∈ q.slots, e.2.st ≠ .released) →
      exec (.queueDestroyed dom n) s = .next ((s.setQueue dom n { q with st := .destroyed }).post dom 4 (schedTile dom)
        [(0x10, leBytes 2 n), (0x12, leBytes 1 q.drain), (0x14, leBytes 4 q.aborted), (0x18, leBytes 4 q.ended)]))
    ∧ (q.stopDue = false → q.st ≠ .destroying ∨ s.schedPaused dom = true ∨ (∃ l ∈ s.launchesOf dom n, s.liveVts l.no ≠ []) →
      exec (.queueDestroyed dom n) s = .next s)

/-- R323, R388: FATAL_DUMP for a reason that holds. The reason stands, the dump's first doubleword is its version and reason, MSEQ
and CORDONS follow at 0x10, and no byte outside the dump region changes (its place, location 0 to 0x3FFF_FFFF, is the model's, log 15); a
second one does nothing. Afterwards no core issues and no VP executes. -/
def Sys2Proof.Claim.FatalErrorStops : Prop :=
  ∀ (s : State) (reason a core slot id : Nat) (i : Fin 32), s.wf = true → (s.records.flatMap fun r => r).length ≤ 0x800000 →
    (s.fatalDue reason = true → s.fatal = none → reason < 16 → ∃ u, exec (.fatalDump reason) s = .next u ∧ u.fatal = some reason
      ∧ Memory.readBytes u.mem 0 8 = leBytes 8 (1 + reason * 65536)
      ∧ Memory.readBytes u.mem 16 8 = leBytes 4 s.mseq.toNat ++ leBytes 4 s.cordons.toNat ∧ u.dump = some (reason, s.picks)
      ∧ (0x40000000 ≤ a → u.byteAt a = s.byteAt a) ∧ u.vts = s.vts)
    ∧ (s.fatalDue reason = false ∨ s.fatal ≠ none → exec (.fatalDump reason) s = .next s)
    ∧ (s.fatal ≠ none → takeTurn (.issue core slot) s = .next s ∧ takeTurn (.vp id i) s = .next s)

/-- R272, R273, R311 to R323: faults, domain violations, the end of a queue, and fatal errors. -/
def Obligations.FaultsAndFreezes : Prop :=
  Claim.FaultIsTaken ∧ Claim.FaultChosen ∧ Claim.RecordIsPosted ∧ Claim.MastersAreFrozen ∧ Claim.QueueIsDestroyed
    ∧ Claim.FatalErrorStops

/-! ### The Palern Link Transport -/

/-- R278: what every sequenced message comes to. A packet of no open connection is dropped and counted; one ahead of the expected
sequence number draws one NAK for the gap; a duplicate is acknowledged again and performed no more, but for a READ; a
malformed one in order fails with MALFORMED, its STATUS before its ACK, and E moves on. The FLAGS of what the device sends are 0 (log
17). -/
def Sys2Proof.Claim.MessagesAreSequenced : Prop :=
  ∀ (s : State) (p : Packet) (key : ConnKey) (c : Conn),
    let read := Instr.read p
    let all := [Instr.write p, read, .send p, .doorbell p, .submit p, .addw p, .signalMessage p]
    let d := (p.psn + 2 ^ 24 - c.expected) % 2 ^ 24
    let ack : State := s.sendControl key 0x21 ((c.expected + 2 ^ 24 - 1) % 2 ^ 24) 0 0 []
    let conn := if 0x10000 ≤ key then c.remote else key
    (s.packetConn p = none → ∀ e ∈ all, exec e s = .next { s with
      drops := s.drops.set p.port (s.drops.getD p.port 0 + 1) })
    ∧ (s.packetConn p = some (key, c) → ∀ e ∈ all,
      (0 < d → d < 2 ^ 23 → exec e s = .next (if c.nakSent then s
        else (s.setConn key { c with nakSent := true }).sendControl key 0x22 c.expected 0 0 []))
      ∧ (2 ^ 23 ≤ d → e ≠ read → (∀ f ∈ c.failures, f.1 ≠ p.psn) → exec e s = .next ack)
      ∧ (d = 0 → p.len ≠ p.payload.length → p.payload ≠ [] → p.psn < 2 ^ 24 → ∃ u c', exec e s = .next u
        ∧ u.conn? key = some c' ∧ c'.expected = (p.psn + 1) % 2 ^ 24 ∧ (p.psn, 0x0C) ∈ c'.failures ∧ u.mem = s.mem
        ∧ u.outbox = s.outbox ++ [{ key, conn, kind := 0x23, psn := 0, apsn := p.psn, flags := 0, addr := 0, len := 0, tag := 0x0C
                                    payload := [] },
                                  { key, conn, kind := 0x21, psn := 0, apsn := p.psn, flags := 0, addr := 0, len := 0, tag := 0
                                    payload := [] }]))

/-- R257, R277, R278, R281, R319, R383: messages in order, performed. WRITE of one chunk stores its bytes; READ of one chunk answers
them; SEND posts a MAIL record; DOORBELL has its ACTIVE queue scanned; SUBMIT writes one node, inverts its bitmap bit and has the
queue scanned; ADDW adds one element; SIGNAL is an `fput`. Each is acknowledged, and E moves on; that the ACK leaves in the same step
is the model's choice (log 16), its FLAGS 0 (log 17), and the scan that it falls in it (log 37). One whose accesses wait has come to no effect yet (log 28). -/
def Sys2Proof.Claim.MessagesInOrder : Prop :=
  ∀ (s s' : State) (p : Packet) (key : ConnKey) (c : Conn) (bs : List Byte) (q : Queue) (n : Nat),
    s.packetConn p = some (key, c) → p.psn = c.expected → p.psn < 2 ^ 24 → ¬ (p.port = 0 ∧ p.conn = 0) →
    let conn := if 0x10000 ≤ key then c.remote else key
    let message (kind apsn : Nat) (addr : Word64) (tag : Nat) (payload : List Byte) : Sent :=
      { key, conn, kind, psn := 0, apsn, flags := 0, addr, len := payload.length, tag, payload }
    let accepts (e : Instr) (t : State) (answer : List Sent) : Prop :=
      ∃ u c', exec e s = .next u ∧ u.conn? key = some c' ∧ c'.expected = (p.psn + 1) % 2 ^ 24 ∧ c'.nakSent = false
        ∧ c'.unacked = c.unacked ∧ c'.nextPsn = c.nextPsn ∧ u.mem = t.mem ∧ u.futures = t.futures ∧ u.domains = t.domains
        ∧ u.queues = t.queues ∧ u.vts = t.vts ∧ u.outbox = s.outbox ++ answer ++ [message 0x21 p.psn 0 0 []]
    let quiet (t : State) : Prop := t.conn? key = some c ∧ t.outbox = s.outbox
    let chunk : Prop := 0 < p.len ∧ p.addr.toNat % 64 + p.len ≤ 64 ∧ s.violatingChunk c.domain [(p.addr.toNat, p.len)] = none
    let sized : Prop := p.payload.length = p.len
    (p.etype = 0 → chunk → sized → s.writeHome c.domain p.addr.toNat p.payload = .ok () s' → accepts (.write p) s' [])
    ∧ (p.etype = 0 → chunk → p.payload = [] → s.readHome c.domain p.addr.toNat p.len = .ok bs s' →
      accepts (.read p) s' [message 0x20 0 p.addr p.tag bs])
    ∧ (p.etype = 0 → p.port = 0 → sized → 0 < p.len → p.len ≤ 96 → p.addr = 0 →
      accepts (.send p) (s.post c.domain 5 0x8010
        [(0x10, leBytes 2 p.conn), (0x12, leBytes 1 p.len), (0x20, p.payload)]) [])
    ∧ (p.etype = 0 → p.port = 0 → p.len = 0 → p.payload = [] → p.addr.toNat < 4096 →
      s.queue? c.domain p.addr.toNat = some q →
      let t := (s.setQueue c.domain p.addr.toNat { q with scan := true }).scanQueue c.domain p.addr.toNat
      (q.st = .active → quiet t → accepts (.doorbell p) t [])
      ∧ (q.st ≠ .active → accepts (.doorbell p) s [message 0x23 p.psn 0 0x0C []]))
    ∧ (p.etype = 0 → p.port = 0 → p.len = 128 → sized → n < 2 ^ q.log2n → q.log2n ≤ 16 →
      p.addr = BitVec.ofNat 64 (p.addr.toNat / 65536 % 4096 * 65536 + n) →
      s.queue? c.domain (p.addr.toNat / 65536 % 4096) = some q → q.st = .active →
      let slot := (q.slots.getD n {}).st
      let scanned (s : State) : State := s.askScan c.domain (p.addr.toNat / 65536 % 4096)
      (slot = .pending ∨ slot = .released → quiet (scanned s) →
        accepts (.submit p) (scanned s) [message 0x23 p.psn 0 0x80 []])
      ∧ (slot ≠ .pending → slot ≠ .released → let va := q.ring.toNat + 128 * n
        let bit := q.bitmap.toNat + n / 8
        let cs := chunksOf va 128 ++ [(bit, 1)]
        s.violatingChunk c.domain cs = none →
        s.submitNodes c.domain q [(n, p.payload)] = (s', none) → s'.stalled = none → quiet (scanned s') → accepts (.submit p) (scanned s') []))
    ∧ (p.port ≠ 0 → sized → p.etype ≤ 1 →
      let size := if p.etype = 0 then 4 else 2
      p.len = size → p.addr.toNat % size = 0 → s.violatingChunk c.domain [(p.addr.toNat, size)] = none →
      s.addElement c.domain p.addr.toNat size (leNat p.payload) = (s', none) → s'.stalled = none → accepts (.addw p) s' [])
    ∧ (p.port ≠ 0 → p.etype = 0 → p.len = 8 → sized → bits64 p.addr 32 32 = 0 →
      let r := s.fput c.domain (bits64 p.addr 0 32) (BitVec.ofNat 64 (leNat p.payload))
      (r.1 = .ok → accepts (.signalMessage p) r.2 [])
      ∧ (r.1 = .full → accepts (.signalMessage p) r.2 [message 0x23 p.psn 0 0x80 []])
      ∧ (r.1 = .stale → accepts (.signalMessage p) r.2 [message 0x23 p.psn 0 0x0B []])
      ∧ (r.1 = .cordon → accepts (.signalMessage p) r.2 [message 0x23 p.psn 0 0x07 []]))

/-- R111, R246, R281: what a SUBMIT of a node and an element add do where their accesses succeed: the node is written whole with
STATE 0 before its bitmap bit is inverted; an element, of FP32 or of bf16, takes the sum with it, rounded once to nearest even. -/
def Sys2Proof.Claim.SubmitAndAddEffects : Prop :=
  ∀ (s s1 s2 s3 : State) (dom n va x : Nat) (q : Queue) (node bs : List Byte) (t : Trans),
    (s.writeChunks dom (node.take 1 ++ 0 :: node.drop 2) (q.ring.toNat + 128 * n)
        (chunksOf (q.ring.toNat + 128 * n) 128) = (s1, none) → node.length = 128 →
      s1.readHome dom (q.bitmap.toNat + n / 8) 1 = .ok bs s2 →
      s2.writeHome dom (q.bitmap.toNat + n / 8) [(bs[0]?).getD 0 ^^^ BitVec.twoPow 8 (n % 8)] = .ok () s3 →
      s.submitNodes dom q [(n, node)] = (s3, none))
    ∧ ∀ f ∈ [(4, fp32Format), (2, bf16Format)], s.atHome dom va f.1 .atomic .atomic = .ok t s1 →
      let k := cachingOf t.leaf t.loc .normal
      s1.homePoisoned k t.loc f.1 = false →
      let sum := (f.2.add .rne (f.2.decode (leNat (s1.homeRead k t.loc f.1))) (f.2.decode x)).1
      s.addElement dom va f.1 x = (s1.homeWrite k t.loc ((leBytes f.1 sum).map fun b => (b, true)), none)

/-- R277 to R281, R283, R319, R383: messages that the device receives. -/
def Obligations.MessagesReceived : Prop :=
  Claim.MessagesAreSequenced ∧ Claim.MessagesInOrder ∧ Claim.SubmitAndAddEffects

/-- R278 to R280, R283, R382: control messages and the sender's side of a connection. An ACK takes away the messages that it covers, and
ends a link command whose last message it was; a NAK resends from its APSN; a STATUS gives the message's command its cause; a
READRESP is written to its destination; a CNP lowers the rate, `rate` / 8 ^ `rateDiv` Mb/s, by an eighth exactly and quiet raises it;
120,000 cycles without progress resend everything, and the seventh time freezes the connection at once, with nothing sent again
(log 23), and ends its link commands with LINK. A packet of no open connection is dropped. -/
def Obligations.ControlMessages : Prop :=
  ∀ (s s2 : State) (p : Packet) (key : ConnKey) (c : Conn) (m : Sent) (k : Command) (off n : Nat),
    let covers (m : Sent) : Bool := (p.apsn + 2 ^ 24 - m.psn) % 2 ^ 24 < 2 ^ 23
    let now := s.connNow key c
    (s.packetConn p = none → ∀ e ∈ [Instr.ack p, .nak p, .status p, .readresp p, .cnp p],
      exec e s = .next { s with drops := s.drops.set p.port (s.drops.getD p.port 0 + 1) })
    ∧ (s.packetConn p = some (key, c) →
      (c.reads = [] → c.backlog = [] → (∀ x ∈ c.unacked, x.cmd = none ∧ x.acked = false) →
        exec (.ack p) s = .next (s.setConn key { c with
          unacked := c.unacked.filter fun x => !(covers x)
          timeouts := if c.unacked.any covers then 0 else c.timeouts
          lastProgress := if c.unacked.any covers then now else c.lastProgress }))
      ∧ (c.reads = [] → c.backlog = [] → s.engineLost k = false → c.unacked = [m] → covers m = true → m.cmd = some k.id → s.command? k.id = some k →
        k.phase = .running → k.pending = 1 → k.failAt = none → cmdKind k.words ≠ 0x13 → cmdLen k.words ≤ k.sent →
        ∃ u c', exec (.ack p) s = .next u ∧ u.conn? key = some c' ∧ c'.unacked = []
          ∧ u.command? k.id = some { k with pending := 0, phase := .ended 0 (cmdLen k.words) })
      ∧ exec (.nak p) s = .next { s with
          outbox := s.outbox ++ c.unacked.filter (fun x => (x.psn + 2 ^ 24 - p.apsn) % 2 ^ 24 < 2 ^ 23) }
      ∧ (c.unacked.find? (fun x => x.psn == p.apsn) = none → exec (.status p) s = .next s)
      ∧ (c.unacked.find? (fun x => x.psn == p.apsn) = some m → m.cmd = some k.id → s.command? k.id = some k →
        k.phase = .running → s.engineLost k = false → k.pending ≠ 0 → k.failAt = none →
        exec (.status p) s = .next (s.setCommand { k with failAt := some (m.off, p.tag % 256) }))
      ∧ (c.reads = [(p.tag, k.id, off, n)] → (∀ x ∈ c.unacked, x.acked = false) → p.payload.length = n → 0 < n →
        c.backlog = [] → s.command? k.id = some k → k.phase = .running → s.engineLost k = false → k.pending ≠ 0 →
        p.addr = BitVec.ofNat 64 (addrOffset k.words[2] + off) →
        let dst := addrOffset k.words[1] + off
        dst % 64 + n ≤ 64 → s.violatingChunk k.domain [(dst, n)] = none →
        (s.setConn key { c with reads := [] }).writeHome k.domain dst p.payload = .ok () s2 →
        ∃ u c' k', exec (.readresp p) s = .next u ∧ u.mem = s2.mem ∧ u.conn? key = some c' ∧ c'.reads = []
          ∧ c'.unacked = c.unacked ∧ u.command? k.id = some k' ∧ k' = { k with written := k'.written })
      ∧ ∃ c' : Conn, exec (.cnp p) s = .next (s.setConn key { c' with lastCnp := now })
        ∧ c' = { c with rate := c'.rate, rateDiv := c'.rateDiv }
        ∧ c'.rate * 8 ^ (c.rateDiv + 1) = max (1600 * 8 ^ (c'.rateDiv + c.rateDiv + 1)) (c.rate * 7 * 8 ^ c'.rateDiv))
    ∧ (s.conn? key = some c →
      (now < c.lastCnp + 60000 → exec (.rateIncrease key) s = .next s)
      ∧ (c.lastCnp + 60000 ≤ now → ∃ c' : Conn, exec (.rateIncrease key) s = .next (s.setConn key { c' with lastCnp := now })
        ∧ c' = { c with rate := c'.rate, rateDiv := c'.rateDiv }
        ∧ c'.rate * 8 ^ c.rateDiv
          = min (1600000 * 8 ^ (c'.rateDiv + c.rateDiv)) ((c.rate + 25000 * 8 ^ c.rateDiv) * 8 ^ c'.rateDiv))
      ∧ (c.frozen = true ∨ c.unacked = [] ∨ now < c.lastProgress + 120000 → exec (.retransmitTimeout key) s = .next s)
      ∧ (c.frozen = false → c.violated = none → c.unacked ≠ [] → c.lastProgress + 120000 ≤ now →
        (c.timeouts < 6 ∨ key = 0 → exec (.retransmitTimeout key) s = .next
          ({ s.setConn key { c with timeouts := c.timeouts + 1, lastProgress := now } with
             outbox := s.outbox ++ c.unacked }))
        ∧ (6 ≤ c.timeouts → key ≠ 0 → ∃ u c', exec (.retransmitTimeout key) s = .next u ∧ u.conn? key = some c'
          ∧ c'.frozen = true ∧ c'.unacked = [] ∧ c'.backlog = [] ∧ u.outbox = s.outbox
          ∧ (∀ x ∈ s.commands, x.eng = 1 → x.phase = .running → 0x10000 + cmdPeer x.words = key → s.engineLost x = false →
            ∃ y ∈ u.commands, y.id = x.id ∧ ∃ b, y.phase = .ended 0x81 b)
          ∧ (u.domain c.domain).seq = (s.domain c.domain).seq + 1)))

/-! ### Management and measurement -/

/-- The requests of R282 with their code, whether they are served on connection 0 only, whether they name a domain, whether they
run without MGMT's image, and when their arguments are within their limits. -/
def Sys2Proof.Claim.requests (r : Request) (a b c d : Nat) (x y z : Word64) (drain : Bool) (bytes : List Byte) :
    List (Instr × Code × Bool × Bool) :=
  let kind : Bool := decide (1 ≤ a) && decide (a ≤ 3)
  let reg : Bool := match a with
    | 1 | 2 => b == 0
    | 3 => b ≤ 4095
    | 4 => b < 2 ^ 16
    | 5 => b < 2 ^ 19
    | _ => false
  let size : Nat := if c = 2 then 2 ^ 30 else if c = 3 then 2 ^ 21 else 2 ^ 12
  [(.createq r a x b c y z, ⟨0x01, false, true⟩, false, a ≤ 4095 && 4 ≤ b && b ≤ 16 && c ≤ 7 && x.toNat % 4096 == 0
      && y.toNat % 64 == 0 && z.toNat % 8 == 0),
   (.destroyq r a drain, ⟨0x02, false, true⟩, false, a ≤ 4095), (.openhost r x y, ⟨0x03, true, true⟩, false, true),
   (.openpeer r a x y b, ⟨0x04, true, true⟩, false, a ≤ 7 && b ≤ 4095),
   (.close r a, ⟨0x05, true, false⟩, false, (1 ≤ a && a ≤ 4095) || (0x10000 ≤ a && a ≤ 0x10FFF)),
   (.mapleaf r x c y, ⟨0x06, false, true⟩, false, 2 ≤ c && c ≤ 4 && x.toNat < 2 ^ 48 && x.toNat % size == 0
      && (!(y.getLsbD 0) || (c == 4 || y.getLsbD 1))),
   (.stage r a b bytes, ⟨0x07, true, false⟩, true, kind && bytes.length ≤ 8160),
   (.stageend r a b, ⟨0x08, true, false⟩, true, kind), (.raisesvn r a b, ⟨0x09, true, false⟩, false, kind && b ≤ 255),
   (.readreg r a b, ⟨0x0A, a != 3, a == 3⟩, a == 1, reg),
   (.readdump r a b, ⟨0x0B, true, false⟩, false, 1 ≤ b && b ≤ 8176), (.releasedump r, ⟨0x0C, true, false⟩, false, true),
   (.readctx r a b d, ⟨0x0D, true, true⟩, false, 1 ≤ d && d ≤ 8176)]

/-- R282, R323, R376: how a request on an open host connection is turned away before it acts: MALFORMED, DENIED, NOIMAGE, REFUSED
after a fatal error; that they are tried in this order is the model's (log 39). Each response repeats RTAG and domain under the request's code with bit 15 set, and
nothing else changes. While MGMT takes no requests they wait (log 40). -/
def Sys2Proof.Claim.RequestsAreScreened : Prop :=
  ∀ (s : State) (r : Request) (k : Conn) (a b c d : Nat) (x y z : Word64) (drain : Bool) (bytes : List Byte) (st : Nat)
      (results : List Nat) (tail : List Byte),
    s.conn? r.conn = some k → k.frozen = false → r.conn < 0x10000 →
    let up (k : Fin 3) : Bool := (s.kind k).insts[(0 : Fin 6)].running && !s.fw.mgmtDead
    (s.mgmtServes = false → ∀ p ∈ Claim.requests r a b c d x y z drain bytes, exec p.1 s = .next s)
    ∧ (s.mgmtServes = true → ∀ p ∈ Claim.requests r a b c d x y z drain bytes,
      let n := p.2.1.n
      let answers (status : Nat) : Prop := exec p.1 s = .next (s.respond r n status [] [])
      let malformed : Prop := 63 < r.domain ∨ p.2.2.2 = false ∨ (p.2.1.names = false ∧ r.domain ≠ 0)
      let denied : Prop := r.conn ≠ 0 ∧ (p.2.1.owner = true ∨ k.domain ≠ r.domain)
      let noImage : Prop := (up 0 = false ∧ p.2.2.1 = false) ∨ ((up 1 = false ∨ up 2 = false) ∧ (n = 1 ∨ n = 3 ∨ n = 4))
      (malformed → answers 6) ∧ (¬ malformed → denied → answers 4) ∧ (¬ malformed → ¬ denied → noImage → answers 5)
      ∧ (¬ malformed → ¬ denied → ¬ noImage → s.fatal ≠ none → s.fw.mgmtDead = false → n < 0x0A → answers 7))
    ∧ (k.backlog = [] → k.unacked.length < 1024 → ∃ m k', (s.respond r c st results tail) = { s.setConn r.conn k' with outbox := s.outbox ++ [m] }
      ∧ k'.unacked = k.unacked ++ [m] ∧ k'.nextPsn = (k.nextPsn + 1) % 2 ^ 24 ∧ m.key = r.conn ∧ m.conn = r.conn
      ∧ m.kind = 0x06 ∧ m.psn = k.nextPsn ∧ m.addr = 0
      ∧ m.payload = 2 :: leBytes 2 (c ||| 0x8000) ++ leBytes 1 st ++ leBytes 4 r.rtag ++ leBytes 8 r.domain
          ++ results.flatMap (leBytes 8) ++ tail)

/-- R254, R272, R275, R282, R86, R343: the requests that change queues, connections and translations, once they pass: each answers OK
with its effect, or REFUSED with none. That the number of a DESTROYED queue may be used again and a second DESTROYQ is REFUSED is
the model's (log 38), as are the number of a connection and what MAPLEAF is REFUSED for beyond R282 (logs 38, 41). -/
def Sys2Proof.Claim.QueueAndConnectionRequests : Prop :=
  ∀ (s : State) (r : Request) (k : Conn) (a b c : Nat) (x y z : Word64) (q : Queue) (o : Conn),
    s.conn? r.conn = some k → k.frozen = false → r.conn < 0x10000 → s.mgmtServes = true →
    let passes (n : Nat) (owner names : Bool) : Prop := s.screen r k.domain ⟨n, owner, names⟩ true false = 0
    let refused (e : Instr) (n : Nat) : Prop := exec e s = .next (s.respond r n 7 [] [])
    let drawn : State := { s with picks := s.picks + 1 }
    (passes 1 false true → a ≤ 4095 → 4 ≤ b → b ≤ 16 → c ≤ 7 → x.toNat % 4096 = 0 → y.toNat % 64 = 0 → z.toNat % 8 = 0 →
      let e := Instr.createq r a x b c y z
      let usable : Prop := s.areaUsable r.domain x.toNat (128 * 2 ^ b) = true
        ∧ s.areaUsable r.domain y.toNat (2 ^ b / 8) = true ∧ s.areaUsable r.domain z.toNat 8 = true
      (usable → (s.queue? r.domain a = none ∨ (s.queue? r.domain a = some q ∧ q.st = .destroyed)) → exec e s = .next
        ((s.setQueue r.domain a { ring := x, log2n := b, prio := c, bitmap := y, doorbell := z }).respond r 1 0 [] []))
      ∧ (¬ usable ∨ (s.queue? r.domain a = some q ∧ q.st ≠ .destroyed) → refused e 1))
    ∧ (passes 2 false true → a ≤ 4095 → ∀ drain : Bool,
      (s.queue? r.domain a = some q → q.st = .active →
        exec (.destroyq r a drain) s = .next ((s.destroyQueue r.domain a (if drain then 1 else 0)).respond r 2 0 [] []))
      ∧ (s.queue? r.domain a = none ∨ (s.queue? r.domain a = some q ∧ q.st ≠ .active) → refused (.destroyq r a drain) 2))
    ∧ (s.queue? r.domain a = some q → s.launchesOf r.domain a = [] →
      (∀ e ∈ q.slots, e.2.st ≠ .pending ∧ e.2.st ≠ .released) → s.destroyQueue r.domain a b
        = s.setQueue r.domain a { q with st := .destroying, drain := b, ended := 0, stopDue := s.schedPaused r.domain })
    ∧ (passes 3 true true → (∃ n, 1 ≤ n ∧ n ≤ 4095 ∧ s.conn? n = none) → ∃ n, 1 ≤ n ∧ n ≤ 4095 ∧ s.conn? n = none
      ∧ exec (.openhost r x y) s = .next ((drawn.setConn n { domain := r.domain, addrHi := x, addrLo := y }).respond r 3 0
          [n] []))
    ∧ (passes 4 true true → a ≤ 7 → b ≤ 4095 →
      ((s.tile (peerTile a)).cordoned = true → refused (.openpeer r a x y b) 4)
      ∧ ((s.tile (peerTile a)).cordoned = false → (∃ n, n ≤ 4095 ∧ s.conn? (0x10000 + n) = none) →
        ∃ n, n ≤ 4095 ∧ s.conn? (0x10000 + n) = none ∧ exec (.openpeer r a x y b) s = .next
          ((drawn.setConn (0x10000 + n) { domain := r.domain, port := a, addrHi := x, addrLo := y, remote := b }).respond r 4
            0 [n] [])))
    ∧ (passes 5 true false → (1 ≤ a ∧ a ≤ 4095) ∨ (0x10000 ≤ a ∧ a ≤ 0x10FFF) →
      (s.conn? a = none → refused (.close r a) 5)
      ∧ (s.conn? a = some o → (∀ k ∈ s.commands, k.eng = 1 → k.phase = .running → 0x10000 + cmdPeer k.words ≠ a) →
        exec (.close r a) s = .next (({ s with conns := s.conns.erase a } : State).respond r 5 0 [] [])))
    ∧ (passes 6 false true → 2 ≤ c → c ≤ 4 → x.toNat < 2 ^ 48 → x.toNat % leafBytes c = 0 →
      (y.getLsbD 0 = true → c = 4 ∨ y.getLsbD 1 = true) →
      let bad : Prop := (s.leafPages c y).any s.pageReserved = true ∨ s.clearsDead c y = true
        ∨ s.harmsRing (s.writeLeaf r.domain x.toNat c y) r.domain = true
      (bad → refused (.mapleaf r x c y) 6)
      ∧ (¬ bad → exec (.mapleaf r x c y) s = .next ((s.writeLeaf r.domain x.toNat c y).respond r 6 0 [] [])))

/-- R81, R82, R85, R86: tables in storage. A walk goes from the domain's root page through the pages that valid non-leaf entries
name, each the one of 512 that the level's 9 bits of the address choose, and ends at the first leaf. Where the domain had no
tables, the leaf that MGMT writes is what a walk of each of its addresses finds, at its level, and no TLB holds another. The root
page's place, 0x40000 + the domain, and the region of the table pages are the model's (log 59). -/
def Sys2Proof.Claim.LeafIsFound : Prop :=
  ∀ (s : State) (dom va level core : Nat) (w : Word64) (page : Nat → Nat), 2 ≤ level → level ≤ 4 → va < 2 ^ 48 → dom < 64 →
    entryV w = true → entryIsLeaf level w = true → entryMalformed level w = false → s.poison = [] →
    (let at' (l : Nat) : Nat := page l * 4096 + 8 * (va / 2 ^ (48 - 9 * l) % 512)
     page 1 = 0x40000 + dom → (∀ l, 1 ≤ l → l ≤ level → s.unreachable (at' l) = false) →
     (∀ l, 1 ≤ l → l < level → leNat (Memory.readBytes s.mem (at' l) 8) = page (l + 1) * 4096 + 1 ∧ page (l + 1) < 2 ^ 36) →
     leNat (Memory.readBytes s.mem (at' level) 8) = w.toNat → s.walk dom va = some (level, w))
    ∧ (va % leafBytes level = 0 → s.tables = [] → s.tablePages = [] → Memory.wf s.mem = true → (∀ c, (s.core c).pend = []) →
      (∀ loc, isTableLoc loc = true → s.unreachable loc = false) →
      ∀ off, off < leafBytes level →
        (s.writeLeaf dom va level w).walk dom (va + off) = some (level, w)
        ∧ (s.writeLeaf dom va level w).leafFor core dom (va + off) = some (level, w))

/-- R286, R290, R298, R299, R322, R376, R377: the requests about images, registers and dumps, once they pass. -/
def Sys2Proof.Claim.ImageAndReadRequests : Prop :=
  ∀ (s : State) (r : Request) (c : Conn) (k : Fin 3) (a b : Nat) (v : VT) (p : Nat × Nat) (bytes : List Byte),
    s.conn? r.conn = some c → c.frozen = false → r.conn < 0x10000 → s.mgmtServes = true →
    let passes (n : Nat) (owner names imageless : Bool) : Prop := s.screen r c.domain ⟨n, owner, names⟩ true imageless = 0
    let answers (e : Instr) (t : State) (n st : Nat) : Prop := exec e s = .next (t.respond r n st [] [])
    let x := s.kind k
    let image := padTo b x.idle
    let cleared : State := s.setKind k (x.setIdle [])
    (passes 7 true false true → bytes.length ≤ 8160 →
      (s.fw.slack ≠ none → answers (.stage r (k.val + 1) a bytes) s 7 1)
      ∧ (s.fw.slack = none → 0x200000 < a + bytes.length → answers (.stage r (k.val + 1) a bytes) s 7 7)
      ∧ (s.fw.slack = none → a + bytes.length ≤ 0x200000 → ∃ t, answers (.stage r (k.val + 1) a bytes) t 7 0
        ∧ t = s.setKind k (x.setIdle (t.kind k).idle)
        ∧ ∀ j, ((t.kind k).idle)[j]? = if a ≤ j ∧ j < a + bytes.length then bytes[j - a]?
            else if j < a ∧ x.idle.length ≤ j then some 0 else x.idle[j]?))
    ∧ (passes 8 true false true → s.fw.slack ≠ none →
      answers (.stageend r (k.val + 1) b) cleared 8 1)
    ∧ (passes 8 true false true → s.fw.slack = none → 0x200000 < b → answers (.stageend r (k.val + 1) b) cleared 8 2)
    ∧ (passes 8 true false true → s.fw.slack = none → b ≤ 0x200000 →
      (verify k x image = .badImage → answers (.stageend r (k.val + 1) b) cleared 8 2)
      ∧ (verify k x image = .svnLow → answers (.stageend r (k.val + 1) b) cleared 8 3)
      ∧ (verify k x image = .accepted → x.insts[(0 : Fin 6)].running = true → ∃ t, answers (.stageend r (k.val + 1) b) t 8 0
        ∧ t.fw.slack = some { kind := k.val + 1, digest := imageDigest image, image, committed := false } ∧ (t.kind k).idle = image ∧ (t.kind k).cur = x.cur
        ∧ (t.kind k).active = x.active)
      ∧ (verify k x image = .accepted → x.insts[(0 : Fin 6)].running = false → s.fw.mgmtUp = true → s.fatal = none → image ≠ [] →
        ∃ t, answers (.stageend r (k.val + 1) b) t 8 0 ∧ t.fw.slack = none ∧ (t.kind k).inForce = image
          ∧ (t.kind k).cur = imageDigest image ∧ (t.kind k).insts[(0 : Fin 6)].running = true
          ∧ t.fw.ms = extendSlot s.fw.ms (slotOfKind k) (imageDigest image)
          ∧ (t.kind k).copies.1 = image))
    ∧ (passes 9 true false false → b ≤ 255 →
      (b < x.minSvn → answers (.raisesvn r (k.val + 1) b) s 9 7)
      ∧ (x.minSvn ≤ b → answers (.raisesvn r (k.val + 1) b) (s.setKind k { x with minSvn := b }) 9 0))
    ∧ (passes 0x0A (a != 3) (a == 3) (a == 1) → registerLegal a b = true → ∀ n, s.register r.domain a b = some n →
      exec (.readreg r a b) s = .next (s.respond r 0x0A 0 [n] []))
    ∧ (passes 0x0B true false false → 1 ≤ b → b ≤ 8176 →
      (s.dump = none ∨ 0x40000000 < a + b → answers (.readdump r a b) s 0x0B 7)
      ∧ (s.dump = some p → a + b ≤ 0x01000000 →
        exec (.readdump r a b) s = .next (s.respond r 0x0B 0 [] (Memory.readBytes s.mem a b))))
    ∧ (passes 0x0C true false false →
      (s.dump = none → answers (.releasedump r) s 0x0C 7)
      ∧ (s.dump ≠ none → answers (.releasedump r) { s with dump := none } 0x0C 0))
    ∧ (passes 0x0D true true false → 1 ≤ b → b ≤ 8176 → ∀ id,
      (s.vt? id = none ∨ (s.vt? id = some v ∧ v.st ≠ .frozen) → answers (.readctx r id a b) s 0x0D 7)
      ∧ (s.vt? id = some v → v.st = .frozen → v.ctx = some p → s.storageReachable p.1 = true →
        (a + b ≤ p.2 → exec (.readctx r id a b) s = .next (s.respond r 0x0D 0 [] (Memory.readBytes s.mem (p.1 + a) b)))
        ∧ (p.2 < a + b → answers (.readctx r id a b) s 0x0D 7)))

/-- R282, R289: SPDM requests on an open host connection are answered by one message each. SPDM 1.3 and no other version; ECDSA with
P-384 and SHA-384; no key exchange, so no secure session. GET_MEASUREMENTS with operation 0 gives the number of blocks, with
0xFF all of blocks 1 to 8 and 17 to 19, else the one named: the measurement slots and the digests in force, all of one state.
What else an answer holds is SPDM's, a free value of the model (log 35). -/
def Sys2Proof.Claim.SpdmAnswers : Prop :=
  ∀ (s : State) (conn : Nat) (msg : List Byte) (c : Conn), s.conn? conn = some c → c.frozen = false → conn < 0x10000 →
    c.backlog = [] → c.unacked.length < 1024 →
    let measured := s.fw.ms.toList ++ [s.fw.kinds[0].cur, s.fw.kinds[1].cur, s.fw.kinds[2].cur]
    let blocks := [1, 2, 3, 4, 5, 6, 7, 8, 17, 18, 19].zip measured
    let op := ((msg[3]?).getD 0).toNat
    let sends (e : Instr) (ok : List Byte → Prop) : Prop :=
      ∃ m c' answer, exec e s = .next { s.setConn conn c' with outbox := s.outbox ++ [m] } ∧ m.key = conn ∧ m.conn = conn
        ∧ m.kind = 0x06 ∧ m.psn = c.nextPsn ∧ m.payload = 1 :: answer ∧ ok answer ∧ c'.unacked = c.unacked ++ [m]
        ∧ c'.nextPsn = (c.nextPsn + 1) % 2 ^ 24
    let free (code : Byte) (values : List (BitVec 384)) (answer : List Byte) : Prop :=
      answer = 0x13 :: code :: Config.spdmAnswer values msg
    let record (answer : List Byte) (b : Nat × BitVec 384) : List Byte :=
      leBytes 1 b.1 ++ [1] ++ leBytes 2 51 ++ (answer.drop 12).take 1 ++ leBytes 2 48 ++ digestBytes b.2
    sends (.getVersion conn msg) (fun answer => answer = [0x10, 0x04, 0, 0, 0, 1, 0x00, 0x13])
    ∧ sends (.getCapabilities conn msg) (fun answer => answer.length = 20 ∧ answer.take 5 = [0x13, 0x61, 0, 0, 0]
        ∧ (answer.drop 8).take 4 = [0x16, 0, 0, 0])
    ∧ sends (.negotiateAlgorithms conn msg) (fun answer => answer = [0x13, 0x63, 0, 0, 36, 0, 1, 0, 4, 0, 0, 0, 0x80, 0, 0, 0, 2, 0, 0, 0]
        ++ List.replicate 16 0)
    ∧ sends (.getDigests conn msg) (free 0x01 []) ∧ sends (.getCertificate conn msg) (free 0x02 [])
    ∧ sends (.challenge conn msg) (free 0x03 measured)
    ∧ (op = 0 → sends (.getMeasurements conn msg) fun answer => answer.take 8 = [0x13, 0x60, 11, 0, 0, 0, 0, 0])
    ∧ (∀ b ∈ blocks, op = b.1 → sends (.getMeasurements conn msg) fun answer =>
        answer.take 8 = [0x13, 0x60, 0, 0, 1, 55, 0, 0] ∧ (answer.drop 8).take 55 = record answer b)
    ∧ (op = 0xFF → sends (.getMeasurements conn msg) fun answer => answer.take 5 = [0x13, 0x60, 0, 0, 11]
        ∧ (answer.drop 5).take 3 = leBytes 3 605
        ∧ ∀ (k : Nat) (b : Nat × BitVec 384), blocks[k]? = some b → (answer.drop (8 + 55 * k)).take 4 = leBytes 1 b.1 ++ [1, 51, 0]
          ∧ (answer.drop (8 + 55 * k + 5)).take 50 = leBytes 2 48 ++ digestBytes b.2)

/-- R282, R289: management requests and SPDM. -/
def Obligations.ManagementRequests : Prop :=
  Claim.RequestsAreScreened ∧ Claim.QueueAndConnectionRequests ∧ Claim.LeafIsFound ∧ Claim.ImageAndReadRequests
    ∧ Claim.SpdmAnswers

/-! ### Firmware, Slack Water, power -/

/-- R6, R62, R286 to R288, R298, R375, R376, R388: DEVICE_RESET. No VT, gang, queue, future, command or translation is left, MSEQ
and CORDONS are 0, connection 0 alone is open, storage reads zero (log 4) but for a dump not yet released; fuses and boot flash stand
(log 43). Of each
kind the current flash copy is taken if it is accepted, else the other, else none. With an image for MGMT each kind that has one is
measured and runs from bank A; without it start goes no further. MS0 measures the boot ROM, MS6 and MS7 stay 0 (the digests of the ROM,
the fuses and the CXL configuration are the model's free values, log 10). -/
def Sys2Proof.Claim.DeviceReset : Prop :=
  ∀ (s : State) (k : Fin 3) (a : Nat), ∃ u, exec .deviceReset s = .next u ∧ u.vts = [] ∧ u.gangs = [] ∧ u.launches = []
    ∧ u.queues = [] ∧ u.futures = [] ∧ u.commands = [] ∧ u.tables = [] ∧ u.tablePages = [] ∧ u.cores = [] ∧ u.clusters = []
    ∧ u.l2 = [] ∧ u.poison = [] ∧ u.slices = [] ∧ u.tiles = [] ∧ u.views = [] ∧ u.dies = []
    ∧ u.mseq = 0 ∧ u.cordons = 0 ∧ u.fatal = none ∧ u.dump = s.dump ∧ u.conns = [(0, {})] ∧ u.fw.slack = none
    ∧ u.byteAt a = (if s.dump.isSome ∧ a < 0x40000000 then s.byteAt a else 0)
    ∧ (let x := s.kind k
       let y := u.kind k
       let now := if x.flashCur then x.flash1 else x.flash0
       let other := if x.flashCur then x.flash0 else x.flash1
       let taken := if verify k x now = .accepted then now else if verify k x other = .accepted then other else []
       y.rsaHash = x.rsaHash ∧ y.slhHash = x.slhHash ∧ y.minSvn = x.minSvn ∧ y.flash0 = x.flash0 ∧ y.flash1 = x.flash1
       ∧ y.flashCur = x.flashCur ∧ y.active = false
       ∧ y.boot = (if verify k x now = .accepted then 0 else if verify k x other = .accepted then 1 else 2)
       ∧ (k = 0 → (u.fw.mgmtUp = true ↔ taken ≠ []))
       ∧ (u.fw.mgmtUp = true → taken ≠ [] → y.bankA = taken ∧ y.cur = imageDigest taken
          ∧ u.fw.ms[slotOfKind k] = digestOf (leBytes 48 0 ++ leBytes 48 (imageDigest taken).toNat)
          ∧ ∀ i : Fin 6, y.insts[i].running = (instances k).contains i)
       ∧ (taken = [] → y.bankA = [] ∧ y.cur = 0 ∧ u.fw.ms[slotOfKind k] = 0 ∧ ∀ i : Fin 6, y.insts[i].running = false)
       ∧ (u.fw.mgmtUp = false → y.bankA = [] ∧ y.found = taken ∧ u.fw.ms[slotOfKind k] = 0
          ∧ ∀ i : Fin 6, y.insts[i].running = false))
    ∧ u.fw.ms[(0 : Fin 8)] = digestOf (leBytes 48 0 ++ leBytes 48 Config.bootRomDigest.toNat)
    ∧ u.fw.ms[(6 : Fin 8)] = 0 ∧ u.fw.ms[(7 : Fin 8)] = 0

/-- R290 to R292, R379, R380: the steps of a Slack Water at one instance. An old instance that runs stops intake with its hand-over
record, or completes the record within 100,000 cycles of the stop (an empty record is one not complete yet, log 42); a record that is
not written as its image writes them is none. A new one starts on the record and accepts it, or not; it gives beats in time, each of
which makes its acts visible (log 42). An old instance that a fall-back restarted gives a beat within 200,000 cycles. Out of turn
nothing happens. -/
def Sys2Proof.Claim.SlackWaterSteps : Prop :=
  ∀ (s : State) (k : Fin 3) (i : Fin 6) (digest : BitVec 384) (image bytes : List Byte) (t : Nat),
    s.fw.slack = some ⟨k.val + 1, digest, image, false⟩ → i ∈ instances k →
    let x := (s.kind k).insts[i]
    let now := s.instNow k i
    let put (e : Instr) (y : FwInst) : Prop :=
      exec e s = .next (s.setKind k { s.kind k with insts := (s.kind k).insts.set i y })
    let hand := Instr.handOver (k.val + 1) i.val bytes
    let start := Instr.newInstanceStart (k.val + 1) i.val
    let beat := Instr.livenessBeat (k.val + 1) i.val bytes
    let written : Prop := bytes = [] ∨ s.recordWritten k i bytes = true
    (x.isNew = false → x.running = true → x.stopped = false → written →
      put hand { x with stopped := true, stoppedAt := now, handOver := bytes })
    ∧ (x.isNew = false → x.running = true → x.stopped = true → written → x.handOver = [] → now ≤ x.stoppedAt + 100000 →
      put hand { x with handOver := bytes })
    ∧ (x.isNew = true ∨ x.running = false ∨ ¬ written ∨ x.stopped = true ∧ (x.handOver ≠ [] ∨ x.stoppedAt + 100000 < now) →
      exec hand s = .next s)
    ∧ (x.stopped = true → x.isNew = false → x.handOver ≠ [] →
      let ok := (rejectReason image digest k i x.handOver).isNone
      put start { x with isNew := true, startedAt := now, beats := 0, accepted := ok, stopped := !ok, window := false })
    ∧ (x.stopped = false ∨ x.isNew = true ∨ x.handOver = [] → exec start s = .next s)
    ∧ (bytes.length ≤ 2 ^ 20 →
      (x.isNew = false → x.restartedAt = some t → now ≤ t + 200000 →
        put beat { x with restartedAt := none, lastBeat := now, region := bytes })
      ∧ (x.isNew = true → x.accepted = true → (x.beats = 0 → now ≤ x.startedAt + 200000) →
        (x.beats ≠ 0 → now ≤ x.lastBeat + 8192) →
        put beat { x with beats := x.beats + 1, lastBeat := now, region := bytes, window := true })
      ∧ (x.isNew = true ∧ x.accepted = false ∨ x.isNew = false ∧ (∀ t, x.restartedAt = some t → t + 200000 < now) →
        exec beat s = .next s))

/-- R288, R293, R62, R319: SLACK_WATER_COMMIT after the 64th beat of every instance: the digest is in force, the banks change places,
the new image in the one that becomes active, the kind's measurement slot is extended, MSEQ goes up by one and every domain has a record, with the boot flash as it was; then, in a
turn of its own (log 42), MGMT makes the image the current flash copy and the Slack Water is over. Before that beat nothing happens. -/
def Sys2Proof.Claim.Commit : Prop :=
  ∀ (s : State) (k : Fin 3) (digest : BitVec 384) (image : List Byte) (dom : Nat),
    let x := s.kind k
    let ready (i : Fin 6) : Prop := x.insts[i].isNew = true ∧ x.insts[i].accepted = true ∧ 64 ≤ x.insts[i].beats
    let slot : Fin 8 := Fin.ofNat 8 (k.val + 1)
    let serves := (s.kind 0).insts[(0 : Fin 6)].serves
    (s.fw.slack = some ⟨k.val + 1, digest, image, false⟩ →
      ((∀ i ∈ instances k, ready i) → dom < 64 → ∃ u, exec .slackWaterCommit s = .next u
        ∧ u.fw.slack = some ⟨k.val + 1, digest, image, true⟩
        ∧ u.mseq = s.mseq + 1 ∧ (u.kind k).cur = digest ∧ (u.kind k).active = !x.active
        ∧ (u.kind k).inForce = image ∧ (u.kind k).idle = x.inForce ∧ (u.kind k).flashCur = x.flashCur
        ∧ (u.kind k).flash0 = x.flash0 ∧ (u.kind k).flash1 = x.flash1
        ∧ u.fw.ms[slot] = digestOf (leBytes 48 (s.fw.ms[slot]).toNat ++ leBytes 48 digest.toNat)
        ∧ (∀ j : Fin 8, j ≠ slot → u.fw.ms[j] = s.fw.ms[j]) ∧ (∀ i ∈ instances k, (u.kind k).insts[i].isNew = false)
        ∧ (u.domain dom).seq = (s.domain dom).seq + 1)
      ∧ ((∃ i ∈ instances k, ¬ ready i) → exec .slackWaterCommit s = .next s))
    ∧ (s.fw.slack = some ⟨k.val + 1, digest, image, true⟩ →
      (serves = true → ∃ u, exec .slackWaterCommit s = .next u ∧ u.fw.slack = none ∧ u.mseq = s.mseq ∧ u.fw.ms = s.fw.ms
        ∧ (u.kind k).flashCur = !x.flashCur ∧ (u.kind k).cur = x.cur ∧ (u.kind k).active = x.active
        ∧ (if x.flashCur then (u.kind k).flash0 else (u.kind k).flash1) = (if x.active then x.bankB else x.bankA)
        ∧ (if x.flashCur then (u.kind k).flash1 else (u.kind k).flash0) = (if x.flashCur then x.flash1 else x.flash0))
      ∧ (serves = false → exec .slackWaterCommit s = .next s))

/-- R290, R378, R380, R381: FALL_BACK for a failure that is due: no Slack Water is in progress any more, the image in force and its
flash copy stand, the idle bank is empty, every new or stopped instance is an old one that starts again. -/
def Sys2Proof.Claim.FallBack : Prop :=
  ∀ (s : State) (k : Fin 3) (i j : Fin 6) (digest : BitVec 384) (image : List Byte) (reason step dom : Nat),
    s.fw.slack = some ⟨k.val + 1, digest, image, false⟩ → i ∈ instances k →
    let x := s.kind k
    (s.fallBackStep k ⟨k.val + 1, digest, image, false⟩ i reason = some step → dom < 64 → ∃ u, exec (.fallBack i.val reason) s = .next u
      ∧ u.fw.slack = none ∧ u.mseq = s.mseq ∧ u.fw.ms = s.fw.ms ∧ (u.kind k).cur = x.cur ∧ (u.kind k).active = x.active
      ∧ (u.kind k).idle = [] ∧ (u.kind k).inForce = x.inForce ∧ (u.kind k).flash0 = x.flash0 ∧ (u.kind k).flash1 = x.flash1
      ∧ (u.domain dom).seq = (s.domain dom).seq + 1
      ∧ (let y := x.insts[j]
         let z := (u.kind k).insts[j]
         if y.isNew = true ∨ y.stopped = true then
           z.isNew = false ∧ z.stopped = false ∧ z.restartedAt = some (s.instNow k j) ∧ z.region = y.region
         else z = y))
    ∧ (s.fallBackStep k ⟨k.val + 1, digest, image, false⟩ i reason = none → exec (.fallBack i.val reason) s = .next s)

/-- R19, R299, R319: CLOCK_STEP. Above 35 °C or 2,800 W a die's clock step goes down by one, at most to 0; with both back it goes
up by one, at most to 7, and every domain has a record; else the readings alone are taken. Without MGMT nothing happens. -/
def Sys2Proof.Claim.ClockSteps : Prop :=
  ∀ (s : State) (die : Fin 8) (up : Bool) (power inlet dom : Nat), dom < 64 →
    let e := Instr.clockStep die.val up power inlet
    let hot : Bool := 35 < inlet
    let high : Bool := 2800 < power
    let old := s.fw.clk[die]
    let read : Firmware := { s.fw with power := power % 65536, inlet := inlet % 256, overtemp := hot, overpower := high }
    let falls : Prop := up = false ∧ 0 < old ∧ (hot = true ∨ high = true)
    let rises : Prop := up = true ∧ old < 7 ∧ hot = false ∧ high = false
    let serves := (s.kind 0).insts[(0 : Fin 6)].serves
    (serves = false → exec e s = .next s)
    ∧ (serves = true → ¬ falls → ¬ rises → exec e s = .next { s with fw := read })
    ∧ (serves = true → falls ∨ rises → ∃ u, exec e s = .next u ∧ u.fw = { read with clk := u.fw.clk }
      ∧ u.fw.clk[die] = (if up then old + 1 else old - 1) ∧ (∀ d : Fin 8, d ≠ die → u.fw.clk[d] = s.fw.clk[d])
      ∧ (u.domain dom).seq = (s.domain dom).seq + 1)

/-- R6, R19, R285 to R293, R299, R375 to R381: the start of the device, Slack Water, and the power manager. -/
def Obligations.FirmwareAndPower : Prop :=
  Claim.DeviceReset ∧ Claim.SlackWaterSteps ∧ Claim.Commit ∧ Claim.FallBack ∧ Claim.ClockSteps

/-! ### Tidewatch -/

/-- R296, R345, R352: flits. HEARTBEAT_SEND of a tile whose BIST has passed raises SEQ and sends one heartbeat to every witness, with
SEQ, STATE, HEALTH and the tile's ID in their places and a CHECK that holds; earlier than 2,048 cycles after the last one, from a
RETIRED tile, or from one whose BIST has not passed, nothing is sent. -/
def Sys2Proof.Claim.HeartbeatsAreSent : Prop :=
  ∀ (s : State) (t : TileId), (tileRole t).isSome = true →
    let x := s.tile t
    let now := s.tileCycle t
    let errors := ((x.corrected.filter fun e => now < e.1 + 2 ^ 32).map Prod.snd).sum
    x.st < 16 →
    (x.bist = some true → x.st ≠ 6 → (x.sentAny = true → x.lastSend + 2048 ≤ now) → ∃ f,
      exec (.heartbeatSend t) s = .next { s.setTile t { x with seq := (x.seq + 1) % 65536, sentAny := true, lastSend := now } with
        sideband := s.sideband ++ (witnesses t).map fun w => (w, f) }
      ∧ flitValid f = true ∧ bits64 f 48 16 = (x.seq + 1) % 65536 ∧ bits64 f 44 4 = x.st ∧ bits64 f 40 4 = 0
      ∧ bits64 f 32 8 = 1 + (if 4096 < errors then 2 else 0) + (if s.fw.overtemp then 4 else 0) ∧ bits64 f 16 16 = t)
    ∧ (x.bist ≠ some true ∨ x.st = 6 ∨ (x.sentAny = true ∧ now < x.lastSend + 2048) → exec (.heartbeatSend t) s = .next s)

/-- R350, R351, R354: a witness judges a flit that arrives from a subject in service. A heartbeat with the next SEQ is clean: it
counts, and a verdict falls at 16 or 64 clean ones (at exactly that count, log 31). One with a later SEQ is a gap, which clears the count. A repeat or a
regression, a malformed flit, and a third flit in a period, is a babble event: DOUBT, then ACCUSE with its cause. A vote flit with
the right CHECK and TILEID is not judged; of a cordoned subject the port passes two heartbeats in a period. -/
def Sys2Proof.Claim.HeartbeatsAreJudged : Prop :=
  ∀ (s : State) (w t : TileId) (f : Word64), (witnesses t).contains w = true →
    let v := s.view w t
    let now := s.tileCycle w
    let d := (bits64 f 48 16 + 65536 - v.lastSeq) % 65536
    let good : Prop := flitValid f = true ∧ bits64 f 16 16 = t ∧ bits64 f 40 4 = 0 ∧ bits64 f 44 4 ≤ 6 ∧ bits64 f 32 8 < 8
    let lately := (v.arrivals.filter fun a => now < a + period w t).length
    let judged (P : State → View → Prop) : Prop := ∃ u, exec (.heartbeat w t f) s = .next u ∧ P u (u.view w t) ∧ u.mem = s.mem
    let babbles (cause : Nat) : Prop := judged fun u y =>
      y.verdict = (if v.verdict = 0 then 1 else if v.verdict = 1 then 2 else v.verdict)
      ∧ (v.verdict = 1 → y.cause = cause ∧ ((s.tile w).st ≠ 6 → ∀ x ∈ (witnesses t).filter (fun x => x != w) ++ [t],
          (x, voteFlit t 1 cause w) ∈ u.sideband))
    v.verdict ≤ 2 →
    ((s.tile t).cordoned = false → lately < 2 →
      (good → d = 1 → judged fun _ y => y.lastSeq = bits64 f 48 16 ∧ y.missed = 0 ∧ y.clean = min 0xFFFF (v.clean + 1)
        ∧ y.lastJudged = now
        ∧ y.verdict = (if v.verdict = 1 ∧ y.clean = 16 ∨ v.verdict = 2 ∧ y.clean = 64 then 0 else v.verdict))
      ∧ (good → 2 ≤ d → d < 0x8000 → judged fun _ y => y.lastSeq = bits64 f 48 16 ∧ y.missed = 0 ∧ y.clean = 0
        ∧ y.lastJudged = now ∧ y.verdict = v.verdict)
      ∧ (good → d = 0 ∨ 0x8000 ≤ d → babbles 2)
      ∧ (flitValid f = false ∨ bits64 f 16 16 ≠ t ∨ 8 < bits64 f 40 4 ∨ bits64 f 40 4 = 0 ∧ (6 < bits64 f 44 4 ∨ 8 ≤ bits64 f 32 8)
        → babbles 3))
    ∧ ((s.tile t).cordoned = false → 2 ≤ lately → good → d = 1 → v.clean = 0 → babbles 4)
    ∧ (flitValid f = true → bits64 f 16 16 = t → bits64 f 40 4 ≠ 0 → bits64 f 40 4 ≤ 8 → (s.tile t).cordoned = false →
      exec (.heartbeat w t f) s = .next s)
    ∧ ((s.tile t).cordoned = true → s.allConsent w t = false ∨ s.cutOff w = true → bits64 f 40 4 = 0 →
      2 ≤ (v.passed.filter fun a => now < a + period w t).length →
      exec (.heartbeat w t f) s = .next { s with sideband := s.sideband.erase (w, f) })

/-- R350, R351, R353: what a witness does of itself. A HEARTBEAT_MISS that is due counts, up to 3: the first gives DOUBT, the third
in DOUBT gives ACCUSE; an ACCUSE is repeated once in a period, but by a RETIRED tile to no one; injection above the kind's allowance
is babble. -/
def Sys2Proof.Claim.MissesAndRepeats : Prop :=
  ∀ (s : State) (w t : TileId) (limit : Nat), (witnesses t).contains w = true →
    let v := s.view w t
    let now := s.tileCycle w
    let recent := (v.injections.filter fun a => now < a + period w t) ++ [now]
    let miss := Instr.heartbeatMiss w t
    (now < v.lastJudged + (9 * period w t + 7) / 8 → exec miss s = .next s)
    ∧ (v.lastJudged + (9 * period w t + 7) / 8 ≤ now → ∃ u, exec miss s = .next u
      ∧ (let y := u.view w t
         y.missed = min 3 (v.missed + 1) ∧ y.clean = 0 ∧ y.lastJudged = now
         ∧ y.verdict = (if v.verdict = 0 then 1 else if v.verdict = 1 ∧ 2 ≤ v.missed then 2 else v.verdict))
      ∧ u.mem = s.mem)
    ∧ (v.verdict = 2 → v.lastAccuse + period w t ≤ now → ∃ u, exec (.accuseRepeat w t) s = .next u
      ∧ u.sideband = s.sideband ++ (if (s.tile w).st = 6 then []
          else ((witnesses t).filter (fun x => x != w) ++ [t]).map (fun x => (x, voteFlit t 1 v.cause w)))
      ∧ (u.view w t).lastAccuse = now)
    ∧ (v.verdict ≠ 2 ∨ now < v.lastAccuse + period w t → exec (.accuseRepeat w t) s = .next s)
    ∧ ((meshNeighbours t).contains w = true → s.allowance.get? (tileKind t) = some limit →
      ∃ u, exec (.injectionAllowance w t) s = .next u ∧ (u.view w t).injections = recent
        ∧ (recent.length ≤ limit → (u.view w t).verdict = v.verdict)
        ∧ (limit < recent.length → v.verdict = 0 → (u.view w t).verdict = 1)
        ∧ (limit < recent.length → v.verdict = 1 → (u.view w t).verdict = 2 ∧ (u.view w t).cause = 4))
    ∧ ((meshNeighbours t).contains w = false → exec (.injectionAllowance w t) s = .next s)

/-- R352, R353, R356: votes against a tile. An ACCUSE from a witness is held by another witness and noted by the subject, which is then
DOUBTED; a WITHDRAW, or 3P cycles without a repeat, takes it away, and a subject with none left is LIVE again. -/
def Sys2Proof.Claim.Accusations : Prop :=
  ∀ (s : State) (r t w : TileId) (f : Word64), flitValid f = true → bits64 f 48 16 = t → bits64 f 16 16 = w →
    (witnesses t).contains w = true → (s.tile w).cordoned = false →
    let x := s.tile t
    let v := s.view r t
    let without := x.accusers.filter fun a => a.1 != w
    let cleared : Tile := { x with accusers := without, st := if without = [] ∧ x.st = 1 then 0 else x.st }
    let fewer := v.held.filter fun a => a.1 != w
    let bound := 3 * period r t
    (bits64 f 40 4 = 1 →
      (∃ u, exec (.accuse t f) s = .next u
        ∧ u.tile t = { x with st := if x.st = 0 then 1 else x.st, accusers := without ++ [(w, s.tileCycle t)] }
        ∧ u.mem = s.mem)
      ∧ (r ≠ t → r ≠ w → (witnesses t).contains r = true → s.witnessServes w = true → ∃ u, exec (.accuse r f) s = .next u
        ∧ (u.view r t).held = fewer ++ [(w, s.tileCycle r, bits64 f 32 8)] ∧ (u.view r t).verdict = v.verdict
        ∧ ((u.view r t).quorumKnown = true ↔ v.quorumKnown = true ∨ u.quorum t ≤ u.accused r t)))
    ∧ (bits64 f 40 4 = 2 →
      (∃ u, exec (.withdraw t f) s = .next u ∧ u.tile t = cleared)
      ∧ (r ≠ t → ∃ u, exec (.withdraw r f) s = .next u ∧ u.view r t = { v with held := fewer }))
    ∧ (r ≠ t →
      ((∃ a ∈ v.held, a.1 = w ∧ a.2.1 + bound < s.tileCycle r) →
        ∃ u, exec (.accusationExpiry r t w) s = .next u ∧ u.view r t = { v with held := fewer })
      ∧ ((∀ a ∈ v.held, a.1 = w → s.tileCycle r ≤ a.2.1 + bound) → exec (.accusationExpiry r t w) s = .next s))
    ∧ ((∃ a ∈ x.accusers, a.1 = w ∧ a.2 + 3 * period t t < s.tileCycle t) →
      ∃ u, exec (.accusationExpiry t t w) s = .next u ∧ u.tile t = cleared)

/-- R296, R297, R350 to R353, R356: heartbeats, how they are judged, and accusations. -/
def Obligations.Tidewatch : Prop :=
  Claim.HeartbeatsAreSent ∧ Claim.HeartbeatsAreJudged ∧ Claim.MissesAndRepeats ∧ Claim.Accusations

/-! ### Cordons, CXL links, soft errors -/

/-- R354, R356, R358, R360, R363, R365, R366, R368: closure. A neighbour that knows the quorum closes its port: the subject is cordoned and hears
of it, as do its witnesses, its other neighbours and FAB; without a quorum the port stays open. By hardware an HBM tile is then out of
reach, a ring bridge's die severed, and no line of a slice is left; a store that a core of a cordoned cluster held is dropped whole. The
subject is CORDONED by that message, and another neighbour
then knows the quorum. -/
def Sys2Proof.Claim.PortsClose : Prop :=
  ∀ (s : State) (n t r : TileId) (k : Nat) (f : Word64), (neighbours t).contains n = true → (s.tile n).cordoned = false →
    (s.tile n).st ≠ 6 →
    let v := s.view n t
    let x := s.tile t
    let d := tileDie t
    (v.portClosed = false → v.quorumKnown = true → ∃ u, exec (.portClosure n t) s = .next u ∧ (u.tile t).cordoned = true
      ∧ (u.view n t).portClosed = true
      ∧ (x.cordoned = false → (u.tile t).firstCause = v.quorumCause ∧ (u.tile t).handled = false
        ∧ (tileRole t = some (.hbm k) → (if k = 0 then (u.die d).hbm0 else (u.die d).hbm1) = false)
        ∧ (tileRole t = some .ringBridge → (u.die d).severed = true)
        ∧ (tileRole t = some (.cluster k) → (s.cluster (4 * d + k)).queue = [] → x.tally.handOn = [] →
          (∀ c, clusterOfCore c ≠ 4 * d + k → (s.core c).pend = []) → u.mem = s.mem ∧ ∀ c, (u.core c).pend = [])
        ∧ (tileRole t = some (.slice k) → ∀ l ∈ u.l2, ¬ (homeDie (l.line * 64) = d ∧ ∃ y, u.homeSlice (l.line * 64) = some (k, y))))
      ∧ ∀ y, y = t ∨ y ∈ witnesses t ∨ y ∈ neighbours t ∨ y = fw1Tile → y ≠ n → (y, voteFlit t 3 0 n) ∈ u.sideband)
    ∧ (v.portClosed = true ∨ v.quorumKnown = false → exec (.portClosure n t) s = .next s)
    ∧ (flitValid f = true → bits64 f 40 4 = 3 → bits64 f 48 16 = t → bits64 f 16 16 = n →
      (∃ u, exec (.cordoned t f) s = .next u
        ∧ u.tile t = if x.st = 0 ∨ x.st = 1 ∨ x.st = 5 then { x with st := 2, accusers := [] } else x)
      ∧ (r ≠ t → (neighbours t).contains r = true →
        ∃ u, exec (.cordoned r f) s = .next u ∧ u.view r t = { s.view r t with quorumKnown := true }))

/-- R358 to R367: CORDON_HANDLING takes the next step of a tile's cordon. The remap, for which no firmware is waited for: a slice leaves
its die's mask, a steward's futures are gone and its roles move. The marks: every leaf of a page whose contents are lost is LOST. Then,
while FAB serves, CORDONS goes up by one, every domain has a record, and the VTs of a cordoned cluster have ENDED; and each event that
FAB owes a record of gives one. With nothing to do the tile stands, and a cordon that is fatal is no matter of FAB's. That a turn takes
one step is the model's (log 44). -/
def Sys2Proof.Claim.CordonsAreHandled : Prop :=
  ∀ (s : State) (t : TileId) (k id key : Nat) (e : CordonNote) (g : Gang) (v : VT) (dom : Nat), fatalTile t = false → dom < 64 →
    let x := s.tile t
    let d := tileDie t
    let handles (P : State → Prop) : Prop := ∃ u, exec (.cordonHandling t) s = .next u ∧ P u
    let idle : Prop := x.tally.again = [] ∧ x.tally.handOn = []
    (x.handled = false → x.remapped = false → handles fun u => u.cordons = s.cordons ∧ (u.tile t).remapped = true
      ∧ (tileRole t = some (.slice k) → (u.die d).sliceMask = (s.die d).sliceMask &&& ~~~(BitVec.twoPow 12 k))
      ∧ (tileRole t = some .steward → (u.die d).futuresLost = true ∧ (u.die d).steward = s.adopter d
        ∧ (∀ f ∈ u.futures, f.1 / 65536 ≠ d)
        ∧ ∀ c ∈ u.commands, c.eng = 1 → c.unit = d → c.phase ≠ .queued ∧ c.phase ≠ .running))
    ∧ (x.handled = false → x.remapped = true → x.marked = false → handles fun u => u.cordons = s.cordons
      ∧ (u.tile t).marked = true
      ∧ ∀ (key : Nat) (w : Word64) (loc : Nat), u.tables.get? key = some w → keyLevel key = 4 → leafMaps key w loc = true →
          s.takenPages t (loc / 4096) = true → entryLost w = true)
    ∧ (x.handled = false → x.remapped = true → x.marked = true → x.owed = [] → s.fabPaused = false →
      handles fun u => u.cordons = s.cordons + 1 ∧ (u.tile t).handled = true ∧ (u.tile t).owed = []
        ∧ (u.tile t).cordoned = x.cordoned ∧ (u.domain dom).seq = (s.domain dom).seq + 1
        ∧ (tileRole t = some (.cluster k) → s.gangs.get? key = some g → g.st = .placed → g.cluster = 4 * d + k →
            id ∈ g.members → s.vt? id = some v → v.st ≠ .ended → ∃ v', u.vt? id = some v' ∧ v'.st = .ended))
    ∧ (x.handled = true → x.owed = [e] → idle → s.fabPaused = false → handles fun u =>
      u.cordons = s.cordons + (if e.event = 1 then 1 else 0) ∧ u.tile t = { x with owed := [] } ∧ (u.domain dom).seq = (s.domain dom).seq + 1)
    ∧ (idle → x.handled = true ∧ (x.owed = [] ∨ s.fabPaused = true)
        ∨ x.remapped = true ∧ x.marked = true ∧ s.fabPaused = true →
      handles fun u => u.cordons = s.cordons ∧ u.tile t = x ∧ u.vts = s.vts ∧ u.mem = s.mem ∧ u.domain dom = s.domain dom)

/-- R356, R357: the life of a cordoned tile. A CORDONED tile tests itself and, passing in time, appeals; it is RETIRED by a failed test
or after two appeals; its vote registers outlive the test (log 34). A witness that hears the APPEAL counts afresh, unless the closed port drops it; the CONSENT that completes a
neighbour's set readmits the tile, what its cordon took being taken first (log 44), and leaves FAB a record to post; a REFUSE that
reaches it makes it CORDONED again, a READMIT puts it in PROBATION, either from a sender that is not cordoned; RETIRE is reported
once. -/
def Sys2Proof.Claim.AppealsAndReadmission : Prop :=
  ∀ (s : State) (t r w : TileId) (f : Word64) (pass : Bool), flitValid f = true → bits64 f 48 16 = t → bits64 f 16 16 = w →
    let x := s.tile t
    let now := s.tileCycle t
    let msg := bits64 f 40 4
    let bound := if tileDie t < 8 then 2800000 else 2400000
    let test := Instr.selftest t pass
    let lately (r : TileId) : Nat := ((s.view r t).passed.filter fun a => s.tileCycle r < a + period r t).length
    let dropped : State := { s with sideband := s.sideband.erase (r, f) }
    (x.st = 2 → x.appeals < 2 → ∃ u, exec test s = .next u ∧ u.tile t = { x with st := 3, testAt := now })
    ∧ (x.st = 2 → 2 ≤ x.appeals → ∃ u, exec test s = .next u ∧ u.tile t = { x with st := 6 } ∧ u.mem = s.mem
      ∧ ∀ y ∈ neighbours t ++ [fw1Tile], (y, voteFlit t 8 0 t) ∈ u.sideband)
    ∧ (x.st = 3 → pass = true → now ≤ x.testAt + bound → ∃ u, exec test s = .next u
      ∧ u.tile t = { x with st := 4, appeals := x.appeals + 1, bist := some true }
      ∧ ∀ y ∈ witnesses t ++ neighbours t, (y, voteFlit t 4 (x.appeals + 1) t) ∈ u.sideband)
    ∧ (x.st = 3 → pass = false ∨ x.testAt + bound < now → ∃ u, exec test s = .next u ∧ u.tile t = { x with st := 6 })
    ∧ (x.st ≠ 2 → x.st ≠ 3 → exec test s = .next s)
    ∧ (msg = 4 → w = t → x.cordoned = true →
      (lately r < 2 → ∃ u, exec (.appeal r f) s = .next u ∧ (u.view r t).consents = []
        ∧ ((witnesses t).contains r = true → (u.view r t).fresh = some 0))
      ∧ (2 ≤ lately r → exec (.appeal r f) s = .next dropped))
    ∧ (msg = 5 → (neighbours t).contains r = true → (witnesses t).contains w = true → s.witnessServes w = true →
      x.cordoned = true →
      ((∃ y ∈ witnesses t, y ≠ w ∧ y ∉ (s.view r t).consents) → ∃ u, exec (.consent r f) s = .next u ∧ u.tile t = x
        ∧ w ∈ (u.view r t).consents)
      ∧ ((∀ y ∈ witnesses t, y = w ∨ y ∈ (s.view r t).consents) → s.cutOff r = false → ∃ u, exec (.consent r f) s = .next u
        ∧ (u.tile t).cordoned = false ∧ (u.tile t).st = x.st ∧ (u.tile t).handled = true
        ∧ (x.handled = true → (u.tile t).owed = x.owed ++ [{ event := 2 }])
        ∧ (x.handled = false → ∃ y : CordonNote, y.event = 1 ∧ y.cause = x.firstCause
          ∧ (u.tile t).owed = x.owed ++ [y, { event := 2 }])
        ∧ (u.view r t).portClosed = false ∧ (u.view r t).verdict = 0
        ∧ ((s.tile r).st ≠ 6 → (t, voteFlit t 7 0 r) ∈ u.sideband)))
    ∧ (msg = 6 → (s.tile w).cordoned = false → ∃ u, exec (.refuse t f) s = .next u ∧ u.tile t = if x.st = 4 then { x with st := 2 } else x)
    ∧ (msg = 6 → r ≠ t → (neighbours t).contains r = true → (witnesses t).contains w = true → s.witnessServes w = true →
      ∃ u, exec (.refuse r f) s = .next u ∧ ((s.tile r).st ≠ 6 → (t, voteFlit t 6 0 r) ∈ u.sideband)
        ∧ (u.view r t).consents = [])
    ∧ (msg = 6 ∨ msg = 7 → (s.tile w).cordoned = true → ∀ e ∈ [Instr.refuse t f, .readmit r f], exec e s
      = .next { s with sideband := s.sideband.erase (if e = .refuse t f then t else r, f) })
    ∧ (msg = 7 → (neighbours t).contains w = true → (s.tile w).cordoned = false →
      (∃ u, exec (.readmit t f) s = .next u ∧ u.tile t = if x.st = 4 then { x with st := 5 } else x)
      ∧ (r ≠ t → (neighbours t).contains r = true →
        ∃ u, exec (.readmit r f) s = .next u ∧ (u.view r t).portClosed = false))
    ∧ (msg = 8 → w = t → x.retired = false →
      (x.cordoned = false ∨ lately fw1Tile < 2 → ∃ u, exec (.retire fw1Tile f) s = .next u
        ∧ u.tile t = { x with retired := true, owed := x.owed ++ [{ event := 3 }] })
      ∧ (x.cordoned = true → 2 ≤ lately fw1Tile → r = fw1Tile → exec (.retire r f) s = .next dropped))

/-- R16, R80, R347: a CXL link goes down, comes back within 1,200,000 cycles at any width and rate, or is lost after them: no line and no
translation of its storage is left, and every leaf of its pages is LOST. -/
def Sys2Proof.Claim.CxlLinks : Prop :=
  ∀ (s : State) (k : Fin 4) (width rate since : Nat),
    let link := s.links[k]
    let now := s.tileCycle (cxlTile k.val)
    let put (l : Link) : State := { s with links := s.links.set k l }
    let on (loc : Nat) : Prop := isCxl loc = true ∧ cxlOf loc = k
    exec (.cxlLinkDown k) s = .next (if link.st = .up then put { link with st := .down now } else s)
    ∧ (link.st = .down since →
      (now ≤ since + 1200000 → exec (.cxlLinkRetrained k width rate) s = .next (put { link with st := .up, width, rate }))
      ∧ (since + 1200000 < now → exec (.cxlLinkRetrained k width rate) s = .next s)
      ∧ (now < since + 1200000 → exec (.cxlLinkLoss k) s = .next s)
      ∧ (since + 1200000 ≤ now → ∃ u, exec (.cxlLinkLoss k) s = .next u ∧ (u.links[k]).st = .lost
        ∧ (∀ l ∈ u.l2, ¬ on (l.line * 64)) ∧ (∀ c, (u.core c).tlb = [])
        ∧ ∀ (key : Nat) (w : Word64) (loc : Nat), u.tables.get? key = some w → keyLevel key = 4 → leafMaps key w loc = true →
            on (loc / 4096 * 4096) → entryLost w = true))
    ∧ (link.st = .up ∨ link.st = .lost → exec (.cxlLinkRetrained k width rate) s = .next s ∧ exec (.cxlLinkLoss k) s = .next s)

/-- R345, R346: an uncorrectable soft error. In a unit of a register, a predicate, a claim, a queue, a window, storage, a future or a
barrier it poisons that unit; in a clean copy, which has its home to go back to, it is corrected; in storage under a clean line of L2
the line keeps serving what it holds; in firmware it is fatal. x0, v31's
place, the predicates 7, what lies above W and the empty places of a queue are no storage. -/
def Sys2Proof.Claim.SoftErrors : Prop :=
  ∀ (s : State) (id off loc core line gang n : Nat) (vt : VT) (r : Reg) (i : Fin 32) (p : Fin 8) (j : Fin 16) (h : Fin 4)
      (c : Fin 1024) (u : RegUnit) (key : Nat) (f : Future) (g : Gang) (b : Fin 16),
    let strikes (v : VT) : Prop := exec (.softError (.reg id u)) s = .next (s.setVt id v)
    let stored : Prop :=
      (u = .x r ∧ r ≠ 0) ∨ (u = .v i r j ∧ r ≠ 31 ∧ 8 * j.val < vt.w) ∨ (u = .p p ∧ p ≠ 7)
        ∨ (u = .vp i p h ∧ p ≠ 7 ∧ 64 * h.val < 2 * vt.w) ∨ (u = .claim c ∧ vt.claim ≠ none)
        ∨ (u = .queue i .inbound n ∧ n < vt.vps[i].inbound.length) ∨ (u = .queue i .load n ∧ n < vt.vps[i].loadQ.length)
        ∨ (u = .queue i .store n ∧ n < vt.vps[i].storeQ.length) ∨ (u = .drain n ∧ n < vt.drain.length)
    let none' : Prop := u = .x 0 ∨ u = .v i 31 j ∨ u = .p 7 ∨ u = .vp i 7 h ∨ (u = .v i r j ∧ vt.w ≤ 8 * j.val)
    let code := (linesOf (line * 128) 128).any fun l => s.unreachable (l * 64)
    (s.vt? id = some vt →
      (stored → u ∉ vt.poison → strikes { vt with poison := vt.poison ++ [u] })
      ∧ (none' ∨ u ∈ vt.poison → strikes vt)
      ∧ (off / 8 ∉ vt.tcmPoison → exec (.softError (.tcm id off)) s
        = .next (s.setVt id { vt with tcmPoison := vt.tcmPoison ++ [off / 8] })))
    ∧ (s.gangs.get? gang = some g →
      (off / 4 ∉ g.cspPoison → exec (.softError (.csp gang off)) s
        = .next { s with gangs := s.gangs.set gang { g with cspPoison := g.cspPoison ++ [off / 4] } })
      ∧ ∃ t y, exec (.softError (.barrier gang b.val)) s = .next t ∧ t = { s with gangs := s.gangs.set gang y }
        ∧ y.barriers[b].poisoned = true ∧ y.barriers[b].arr = g.barriers[b].arr)
    ∧ (s.l2Find (loc / 64) = none ∨ (∃ l, s.l2Find (loc / 64) = some l ∧ l.dirty = true) → loc / 8 ∉ s.poison →
      exec (.softError (.mem loc)) s = .next { s with poison := s.poison ++ [loc / 8] })
    ∧ (∀ l, s.l2Find (loc / 64) = some l → l.dirty = false → ∃ t, exec (.softError (.mem loc)) s = .next t ∧ t.mem = s.mem
      ∧ t.poison = s.poison ∧ t.l2Find (loc / 64) = some { l with
          old := some (s.storageLine (loc / 64)), oldMarks := s.storageMarks (loc / 64) ||| BitVec.twoPow 8 (loc / 8 % 8) })
    ∧ (∀ l, s.l2Find line = some l →
      (l.dirty = false → ∃ t, exec (.softError (.l2clean line)) s = .next t ∧ t.l2Find line = some { l with old := none }
        ∧ t.cores = s.cores ∧ (l.old = none → t.mem = s.mem ∧ t.poison = s.poison)
        ∧ ∀ o, l.old = some o → t.mem = Memory.writeBytes s.mem (line * 64) (leBytes 64 o.toNat)
          ∧ t.poison = (s.poison.filter fun u => u / 8 != line) ++ markedUnits line l.oldMarks)
      ∧ (l.dirty = true → exec (.softError (.l2clean line)) s = .next s))
    ∧ (∃ t, exec (.softError (.l1 core line)) s = .next t ∧ t = s.setCore core { s.core core with l1 := (t.core core).l1 }
      ∧ (s.unreachable (line * 64) = true → ∀ e ∈ (t.core core).l1, e.line ≠ line)
      ∧ (s.unreachable (line * 64) = false → ∀ e ∈ (t.core core).l1, e.line = line →
        e = (s.l1Line line).merged (s.core core).pend))
    ∧ (∃ t, exec (.softError (.icache core line)) s = .next t
      ∧ (s.poisoned (line * 128) 128 = true ∨ code = true → ∀ e ∈ (t.core core).icache, e.1 ≠ line)
      ∧ (s.poisoned (line * 128) 128 = false → code = false →
        ∀ e ∈ (t.core core).icache, e.1 = line → e.2 = s.codeLine (cachingOf 0 (line * 128) .normal) (line * 128)))
    ∧ (s.futures.get? key = some f → ∃ t, exec (.softError (.future key)) s = .next t
      ∧ t.futures.get? key = some { f with poisoned := true } ∧ t.vts = s.vts)
    ∧ (s.fatal = none → ∃ t, exec (.softError .firmware) s = .next t ∧ t.fatal = some 7)

/-- R16, R345 to R347, R354 to R367: cordons by tile kind, appeals, CXL links and soft errors. -/
def Obligations.CordonsAndErrors : Prop :=
  Claim.PortsClose ∧ Claim.CordonsAreHandled ∧ Claim.AppealsAndReadmission ∧ Claim.CxlLinks ∧ Claim.SoftErrors

/-! ### Steps, words, reset, the invariant -/

/-- R29, R49, R52, R324: the turn of an issue slot. One cycle passes at its core, and the first VT of its order fetches: the
instruction at its PC is executed, once the stores that it may not pass are performed (log 5), and what it leaves is the next state
once its issue is noted and the VTs at their boundaries, and what waits at the tiles, are settled; a VT that stalls leaves the slot to the next one; a word that is no
instruction is ILLOP. -/
def Sys2Proof.Claim.SlotIssues : Prop :=
  ∀ (s s' t : State) (core slot id : Nat) (rest : List Nat) (ts : List Turn) (v : VT) (l : BitVec 1024) (e : Instr),
    let s0 : State := { s with schedule := ts }.closeWindows
    let s1 := s0.setCore core { s0.core core with cycle := (s0.core core).cycle + 1 }
    let at' := v.pc.toNat % 128
    let word : Word32 := (l >>> (32 * (at' / 4))).setWidth 32
    let s2 : State := { s' with who := .ct id }
    s.schedule = .issue core slot :: ts → s.fatal = none →
    (s0.issueOrder core slot = [] → step s = settled (.next s1))
    ∧ (s0.issueOrder core slot = id :: rest → s1.vt? id = some v →
      s1.fetchLine v.core v.domain v.pc.toNat (fun _ => (at', at' + 4)) = .ok l s' →
      (∀ x, decode word = .error x → s'.ctFault id v .illop 0 = t → s1.issued t id = true → step s = settled (.next t))
      ∧ (decode word = .ok e → exec e (s2.beforeCt id e) = .next t →
        (s2.issued t id = true → step s = settled (.next (s2.noteIssue t id)))
        ∧ (s2.issued t id = false → rest = [] → step s = settled (.next t))))
    ∧ (t.settle.heldMgmt = [] → settled (.next t) = .next t.settle)

/-- R26, R31, R90, R91, R323, R341, R347: the turn of a virtual processor: the word that it is at in its block is decoded and executed.
The turn of an operation or event of the device, where it may take place, is its effect, once the slices take its requests and no line of
it is held; else it waits as a whole (log 28). A device that a fatal error has stopped, and to which nothing
comes, stands still. -/
def Sys2Proof.Claim.OtherTurns : Prop :=
  ∀ (s t u : State) (id : Nat) (i : Fin 32) (ts : List Turn) (v : VT) (r : Run) (w : Word32) (e : Instr),
    let after (x : Turn) : State := { s with schedule := ts }.beforeTurn x
    (s.fatal = none → s.schedule = .vp id i :: ts → s.vt? id = some v → v.resident = true → s.vtServed v = true →
      v.runOf i = some r → r.words[r.idx]? = some w → decode w = .ok e →
      exec e { after (.vp id i) with who := .vp id i } = .next t → step s = settled (.next t))
    ∧ (s.schedule = .op e :: ts → s.eventRuns e = true →
      exec e { after (.op e) with who := .device, wants := [], stalled := none } = .next t →
      let gate := (after (.op e)).gate (.event e) t.wants.eraseDups
      (t.stalled = none → t.wants = [] → (∀ r ∈ s.rejected, r.who ≠ .event e) →
        step s = settled (.next { t with rejected := t.rejected.filter fun r => r.who != .event e }))
      ∧ (t.stalled = none → gate = .ok u →
        step s = settled (.next { t with wants := [], rejected := t.rejected.filter fun r => r.who != .event e }))
      ∧ (t.stalled = none → gate = .error u → step s = settled (.next u))
      ∧ (t.stalled ≠ none → step s = settled (.next ((after (.op e)).heldLine t.stalled))))
    ∧ (s.schedule = .op e :: ts → s.eventRuns e = false → step s = settled (.next (after (.op e))))
    ∧ (s.schedule = [] → s.fatal ≠ none → step s = .fault .stoppedByFatalError)

/-- R52, R53, R268: the VT that a slot issues from is READY, resident and bound to it, and none of those comes before it: an admitted
one with an earlier deadline, else one that has waited 4,096 cycles, else one that has been ready longer, by its own time in core cycles
(log 12). -/
def Sys2Proof.Claim.SlotChoosesVt : Prop :=
  ∀ (s : State) (core slot id : Nat) (rest : List Nat), s.issueOrder core slot = id :: rest →
    let since (v : VT) : Int := (max v.lastIssue v.readyAt : Nat) - v.skew
    let rank (v : VT) : Nat := if v.admitted then 0 else if v.aged ∨ since v + 4096 ≤ s.coreCycle core then 1 else 2
    let time (v : VT) : Int := if v.admitted then since v + v.interval else since v
    ∃ v, (id, v) ∈ s.vts ∧ v.st = .ready ∧ v.resident = true ∧ v.core = core ∧ v.slot = slot
      ∧ ∀ n w, (n, w) ∈ s.vts → s.canIssue core slot w = true →
          rank v < rank w ∨ (rank v = rank w ∧ (time v < time w ∨ (time v = time w ∧ id ≤ n)))

/-- R26, R29, R49, R52, R268, R324: a step runs the decoded instruction. -/
def Obligations.StepRunsDecodedInstruction : Prop :=
  Claim.SlotIssues ∧ Claim.OtherTurns ∧ Claim.SlotChoosesVt

/-- R136 to R151: words written out from the encoding tables, with the instructions that they stand for, and words that stand for
none. -/
def Obligations.DecodingWords : Prop :=
  decode 0x09CA6FF0 = .ok (.addi { p := 3, neg := true } 5 6 0xFF0) ∧ decode 0x6F844196 = .ok (.amowAdd { p := 7, neg := false } 2 4 3 .acq 2)
    ∧ decode 0xA3864000 = .ok (.vld { p := 7, neg := false } 3 4 0 .u 0 false .normal)
    ∧ decode 0x00000000 = .error .reservedOpcode ∧ decode 0xD8200000 = .error .header
    ∧ (∀ k, k < 0x40 → 0x37 ≤ k → decodeNat (k * 2 ^ 26) = .error .reservedOpcode)

/-- R136 to R150: decoding the word of a well-formed instruction gives the instruction again, with every operand at every value. -/
def Obligations.DecodeAfterEncode : Prop :=
  ∀ (i : Instr) (w : Nat), i.wellFormed = true → encodeNat i = some w → w < 2 ^ 32 ∧ decodeNat w = .ok i

/-- R73, R74, R76 (the canonical form is the model's own, log 4): whatever a step does, the bytes of storage and of every window keep
their canonical form. -/
def Obligations.StepKeepsMemoryCanonical : Prop :=
  ∀ (s s' : State), s.wf = true → step s = .next s' → s'.wf = true

/-- R43, R62, R288, R297, R298: the machine at reset: MSEQ, CORDONS, every CYCLE and every LPR are 0, every measurement slot is 0,
every router's TWSELF reads 0, no VT exists, no translation and no table. The region of the fatal dump is reserved; storage is in
canonical form and reads zero (logs 4 and 15: the model's choices). -/
def Obligations.ResetState : Prop :=
  State.reset.wf = true ∧ State.reset.mseq = 0 ∧ State.reset.cordons = 0 ∧ State.reset.vts = [] ∧ State.reset.gangs = []
    ∧ State.reset.tables = [] ∧ State.reset.tablePages = [] ∧ State.reset.futures = [] ∧ State.reset.fatal = none
    ∧ (0, 0x40000000) ∈ State.reset.reserved
    ∧ (∀ c, (State.reset.core c).cycle = 0 ∧ (State.reset.core c).lpr = 0) ∧ (∀ a, State.reset.byteAt a = 0)
    ∧ (∀ k : Fin 8, State.reset.fw.ms[k] = 0) ∧ (∀ t, State.reset.twself t = 0)
    ∧ ∀ w t, (State.reset.view w t).verdict = 0 ∧ (State.reset.view w t).missed = 0 ∧ (State.reset.view w t).clean = 0
end

