-- ==== Sys2Proof/Laws/Encoding.lean ====
section
/-! SUPPORT. The fields of an encoded word: what `wordField` reads from the sum of a head and the fields under it, and the
codes of operand names. -/

namespace Sys2Proof

theorem toNat_lt_two (b : Bool) : b.toNat < 2 := by cases b <;> decide

theorem encHead_eq_mul (op : Nat) (g : Guard) : encHead op g = (op * 16 + g.p.val * 2 + g.neg.toNat) * 4194304 := by
  simp only [encHead]; omega

theorem head_lt (op : Nat) (g : Guard) (x : Nat) (h : op < 64) (hx : x < 4194304) : encHead op g + x < 4294967296 := by
  have := toNat_lt_two g.neg
  have := g.p.isLt
  simp only [encHead]; omega

theorem wordField_op (op : Nat) (g : Guard) (x : Nat) (h : op < 64) (hx : x < 4194304) :
    wordField (encHead op g + x) 26 6 = op := by
  have := toNat_lt_two g.neg
  have := g.p.isLt
  simp only [wordField, encHead]; omega

theorem guardField_head (op : Nat) (g : Guard) (x : Nat) (hx : x < 4194304) : guardField (encHead op g + x) = g := by
  obtain ⟨p, n⟩ := g
  have := p.isLt
  have e1 : (encHead op ⟨p, n⟩ + x) / 2 ^ 23 % 2 ^ 3 = p.val := by
    have := toNat_lt_two n; simp only [encHead]; omega
  have e2 : (encHead op ⟨p, n⟩ + x) / 2 ^ 22 % 2 ^ 1 = n.toNat := by
    have := toNat_lt_two n; simp only [encHead]; omega
  simp only [guardField, wordField, e1, e2]
  congr 1
  · ext; simp [Fin.ofNat]
  · cases n <;> rfl

theorem wordField_skip (y x k lo n : Nat) (h : lo + n ≤ k) : wordField (y * 2 ^ k + x) lo n = wordField x lo n := by
  simp only [wordField]
  obtain ⟨m, hm⟩ : ∃ m, k = lo + n + m := ⟨k - (lo + n), by omega⟩
  subst hm
  rw [show y * 2 ^ (lo + n + m) + x = x + 2 ^ lo * (2 ^ n * (2 ^ m * y)) by ring,
    Nat.add_mul_div_left _ _ (by positivity), Nat.add_mul_mod_self_left]

theorem wordField_low (op : Nat) (g : Guard) (x lo n : Nat) (h : lo + n ≤ 22) :
    wordField (encHead op g + x) lo n = wordField x lo n := by
  rw [encHead_eq_mul]
  exact wordField_skip _ x 22 lo n h

theorem wordField_take (y x lo n : Nat) (h : y < 2 ^ n) (hx : x < 2 ^ lo) : wordField (y * 2 ^ lo + x) lo n = y := by
  simp only [wordField]
  rw [Nat.add_comm, Nat.add_mul_div_right _ _ (by positivity), Nat.div_eq_of_lt hx, Nat.zero_add, Nat.mod_eq_of_lt h]

theorem wordField_mul (y lo n : Nat) (h : y < 2 ^ n) : wordField (y * 2 ^ lo) lo n = y :=
  wordField_take y 0 lo n h (by positivity)

theorem wordField_all (y n : Nat) (h : y < 2 ^ n) : wordField y 0 n = y := by
  simp only [wordField, Nat.pow_zero, Nat.div_one]; exact Nat.mod_eq_of_lt h

theorem wordField_above (y lo n : Nat) (h : y < 2 ^ lo) : wordField y lo n = 0 := by
  simp only [wordField, Nat.div_eq_of_lt h, Nat.zero_mod]

theorem fin_ofNat_val {n : Nat} [NeZero n] (d : Fin n) : Fin.ofNat n d.val = d := by
  ext; simp [Fin.ofNat, Nat.mod_eq_of_lt d.isLt]

theorem toNat_beq_one (b : Bool) : (b.toNat == 1) = b := by cases b <;> rfl

theorem Cond.code_lt (c : Cond) : c.code < 16 := by cases c <;> decide
theorem condOfCode_code (c : Cond) : condOfCode c.code = some c := by cases c <;> rfl
theorem FCond.code_lt (c : FCond) : c.code < 16 := by cases c <;> decide
theorem fcondOfCode_code (c : FCond) : fcondOfCode c.code = some c := by cases c <;> rfl
theorem MCond.code_lt (c : MCond) : c.code < 8 := by cases c <;> decide
theorem mcondOfCode_code (c : MCond) : mcondOfCode c.code = some c := by cases c <;> rfl
theorem Scope.code_lt (c : Scope) : c.code < 8 := by cases c <;> decide
theorem scopeOfCode_code (c : Scope) : scopeOfCode c.code = some c := by cases c <;> rfl
theorem Fmt.code_lt (c : Fmt) : c.code < 32 := by cases c <;> decide
theorem fmtOfCode_code (c : Fmt) : fmtOfCode c.code = some c := by cases c <;> rfl
theorem Hint.code_lt (c : Hint) : c.code < 4 := by cases c <;> decide
theorem hintOfCode_code (c : Hint) : hintOfCode c.code = some c := by cases c <;> rfl
theorem Comb.code_lt (c : Comb) : c.code < 4 := by cases c <;> decide
theorem combOfCode_code (c : Comb) : combOfCode c.code = c := by cases c <;> rfl
theorem Order.code_lt (c : Order) : c.code < 4 := by cases c <;> decide
theorem orderOfCode_code (c : Order) : orderOfCode c.code = c := by cases c <;> rfl
theorem VMode.code_lt (c : VMode) : c.code < 4 := by cases c <;> decide
theorem vmodeOfCode_code (c : VMode) : vmodeOfCode c.code = c := by cases c <;> rfl

end Sys2Proof
end

