-- ==== Sys2Proof/Laws/Issue.lean ====
section
/-! SUPPORT. What issuing a CT instruction and running a VP instruction can do, said once: the cases of `ctOnly`, `vpOnly`,
`shared` and what they are built of. -/

namespace Sys2Proof.Machine

open Sys2Proof

variable {s : State} {id : Nat} {vt : VT} {i : Fin 32} {r : Run} {g : Guard} {xs : List Reg} {ps : List (Fin 8)}

/-- An instruction that reads no poisoned unit has no poisoned guard. -/
theorem VT.ctPoisoned_guard (h : vt.ctPoisoned g xs ps = false) : vt.ctPoisoned g [] [] = false := by
  simp only [VT.ctPoisoned, Bool.or_eq_false_iff, List.any_cons, List.any_nil] at h ⊢
  exact ⟨trivial, h.2.1, trivial⟩

theorem VT.awaitsStatus_nil : vt.awaitsStatus [] = false := rfl

/-- Everything that issuing a CT instruction can do. -/
theorem State.ctIssue_cases (s : State) (id : Nat) (g : Guard) (xs : List Reg) (ps : List (Fin 8)) (body : VT → State) :
    (s.vt? id = none ∧ s.ctIssue id g xs ps body = s) ∨
    ∃ vt, s.vt? id = some vt ∧
      (s.ctIssue id g xs ps body = s.ctFault id vt .eccu 0
      ∨ (vt.guardHolds g = false ∧ s.ctIssue id g xs ps body = s.setVt id vt.retire)
      ∨ (vt.guardHolds g = true ∧ vt.awaitsStatus xs = true ∧ s.ctIssue id g xs ps body = s)
      ∨ (vt.guardHolds g = true ∧ vt.ctPoisoned g xs ps = false ∧ s.ctIssue id g xs ps body = body vt)) := by
  cases h : s.vt? id with
  | none => left; simp [State.ctIssue, h]
  | some vt =>
    right; refine ⟨vt, rfl, ?_⟩
    simp only [State.ctIssue, h]
    by_cases h1 : vt.ctPoisoned g [] [] = true
    · simp [h1]
    by_cases h2 : vt.guardHolds g = true
    · by_cases h3 : vt.awaitsStatus xs = true
      · simp [h1, h2, h3]
      · by_cases h4 : vt.ctPoisoned g xs ps = true <;> simp [h1, h2, h3, h4]
    · simp [h1, h2]

/-- A CT instruction under a true guard, with nothing in its way, does what its body says. -/
theorem State.ctIssue_runs (h : CtRuns s id vt g xs ps) (body : VT → State) : s.ctIssue id g xs ps body = body vt := by
  simp [State.ctIssue, h.here, h.guard, h.status, h.clean, VT.ctPoisoned_guard h.clean]

/-- A CT instruction under a false guard issues and does nothing else (R137). -/
theorem State.ctIssue_skips (hv : s.vt? id = some vt) (hg : vt.guardHolds g = false)
    (hp : vt.ctPoisoned g [] [] = false) (body : VT → State) :
    s.ctIssue id g xs ps body = s.setVt id vt.retire := by
  simp [State.ctIssue, hv, hg, hp]

theorem State.ctOnly_runs (h : CtRuns s id vt g xs ps) (body : Nat → VT → State) :
    s.ctOnly g xs ps body = body id vt := by
  simp only [State.ctOnly, h.who]; exact State.ctIssue_runs h _

theorem State.ctOnly_skips (hw : s.who = .ct id) (hv : s.vt? id = some vt) (hg : vt.guardHolds g = false)
    (hp : vt.ctPoisoned g [] [] = false) (body : Nat → VT → State) :
    s.ctOnly g xs ps body = s.setVt id vt.retire := by
  simp only [State.ctOnly, hw]; exact State.ctIssue_skips hv hg hp _

/-- A CT-only word in a block is not an instruction (R140). -/
theorem State.ctOnly_vp (hw : s.who = .vp id i) (hv : s.vt? id = some vt) (hr : vt.runOf i = some r)
    (body : Nat → VT → State) : s.ctOnly g xs ps body = s.vpFault id i r .illop 0 0 := by
  simp [State.ctOnly, hw, hv, hr]

theorem State.ctRegs_runs (h : CtRuns s id vt g xs []) (f : VT → VT) :
    s.ctRegs g xs f = s.setVt id (f vt).retire := State.ctOnly_runs h _

/-- Everything that running a VP instruction can do. -/
theorem State.vpIssue_cases (s : State) (id : Nat) (i : Fin 32) (g : Guard) (vs : List (Reg × Nat)) (ps : List (Fin 8))
    (body : VT → Run → State) :
    s.vpIssue id i g vs ps body = s ∨
    ∃ vt r, s.vt? id = some vt ∧ vt.runOf i = some r ∧
      (s.vpIssue id i g vs ps body = s.vpFault id i r .eccu 0 0
      ∨ (vt.vpPoisoned i g vs ps = false ∧ s.vpIssue id i g vs ps body = body vt r)) := by
  cases h : s.vt? id with
  | none => left; simp [State.vpIssue, h]
  | some vt =>
    cases hr : vt.runOf i with
    | none => left; simp [State.vpIssue, h, hr]
    | some r =>
      simp only [State.vpIssue, h, hr]
      by_cases h1 : vt.interlocked i r.vNames = true
      · left; simp [h1]
      · right; refine ⟨vt, r, rfl, hr, ?_⟩
        by_cases h2 : vt.vpPoisoned i g vs ps = true <;> simp [h1, h2]

theorem State.vpIssue_runs {vs : List (Reg × Nat)} (h : VpRuns s id vt i r g vs ps) (body : VT → Run → State) :
    s.vpIssue id i g vs ps body = body vt r := by
  simp [State.vpIssue, h.here, h.run, h.loads, h.clean]

theorem State.vpOnly_runs {vs : List (Reg × Nat)} (h : VpRuns s id vt i r g vs ps) (body : Nat → Fin 32 → VT → Run → State) :
    s.vpOnly g vs ps body = body id i vt r := by
  simp only [State.vpOnly, h.who]; exact State.vpIssue_runs h _

/-- A VP-only word in CT code is not an instruction (R140, R327). -/
theorem State.vpOnly_ct {vs : List (Reg × Nat)} (hw : s.who = .ct id) (hv : s.vt? id = some vt)
    (body : Nat → Fin 32 → VT → Run → State) : s.vpOnly g vs ps body = s.ctFault id vt .illop 0 := by
  simp [State.vpOnly, hw, hv]

theorem State.vpRegs_runs {vs : List Reg} (h : VpRuns s id vt i r g (wholeRegs vs) ps)
    (f : VpEnv → Run → VP → Option (VP × FFlags)) :
    s.vpRegs g vs ps f = match f (vt.env r i) r vt.vps[i] with
      | none => s
      | some (vp, fl) => s.setVt id (vt.vpRetire i r vp fl) := State.vpOnly_runs h _

theorem State.shared_ct {rs : List Reg} (h : CtRuns s id vt g rs ps) (ct : VT → VT) (vp : VpEnv → VP → Option VP) :
    s.shared g rs ps ct vp = s.setVt id (ct vt).retire := by
  simp only [State.shared, h.who]; exact State.ctIssue_runs h _

theorem State.shared_skips {rs : List Reg} (hw : s.who = .ct id) (hv : s.vt? id = some vt) (hg : vt.guardHolds g = false)
    (hp : vt.ctPoisoned g [] [] = false) (ct : VT → VT) (vp : VpEnv → VP → Option VP) :
    s.shared g rs ps ct vp = s.setVt id vt.retire := by
  simp only [State.shared, hw]; exact State.ctIssue_skips hv hg hp _

theorem State.shared_vp {rs : List Reg} (h : VpRuns s id vt i r g (wholeRegs rs) ps) (ct : VT → VT) (vp : VpEnv → VP → Option VP) :
    s.shared g rs ps ct vp = match vp (vt.env r i) vt.vps[i] with
      | none => s
      | some v => s.setVt id (vt.vpRetire i r v 0) := by
  simp only [State.shared, h.who, State.vpRegs_runs h]
  cases vp (vt.env r i) vt.vps[i] <;> rfl

/-- A fault of a CT instruction at issue leaves its record in the VT and changes nothing else. -/
theorem State.ctFault_eq (hv : s.vt? id = some vt) (c : Cause) (daddr : Word64) :
    s.ctFault id vt c daddr = s.setVt id { vt with
      detected := vt.detected ++ [{ cause := c, place := 0, vp := 0, elem := 0, infl := 0, code := 0, pc := vt.pc,
                                    iaddr := vt.pc, daddr }]
      stopping := true } := by
  simp [State.ctFault, State.detect, State.modVt, hv]

end Sys2Proof.Machine
end

