-- ==== Sys2Proof/Laws/Memory.lean ====
section
/-! SUPPORT. The canonical form of memory and sparse tables: every operation on memory keeps the form, and a read after a
write gives what was written; a table's entry after an update is the one that was set, and every other one stands. -/

namespace Sys2Proof

/-! ### Sparse tables -/

@[simp] theorem SMap.get?_set_self {α : Type} (m : SMap α) (n : Nat) (a : α) : (m.set n a).get? n = some a := by
  induction m with
  | nil => simp [SMap.set, SMap.get?]
  | cons e t ih =>
    obtain ⟨k, b⟩ := e
    simp only [SMap.set]
    split
    · simp [SMap.get?]
    · split
      · simp [SMap.get?]
      · rw [SMap.get?, if_neg (by omega), ih]

theorem SMap.get?_set_ne {α : Type} (m : SMap α) {n k : Nat} (a : α) (h : k ≠ n) : (m.set n a).get? k = m.get? k := by
  induction m with
  | nil => simp [SMap.set, SMap.get?, Ne.symm h]
  | cons e t ih =>
    obtain ⟨j, b⟩ := e
    simp only [SMap.set]
    split
    · rw [SMap.get?, if_neg (Ne.symm h)]
    · split
      · next h1 => subst h1; rw [SMap.get?, if_neg (Ne.symm h), SMap.get?, if_neg (Ne.symm h)]
      · rw [SMap.get?, SMap.get?, ih]

@[simp] theorem SMap.set_set {α : Type} (m : SMap α) (n : Nat) (a b : α) : (m.set n a).set n b = m.set n b := by
  induction m with
  | nil => simp [SMap.set]
  | cons e t ih =>
    obtain ⟨k, c⟩ := e
    simp only [SMap.set]
    split
    · simp [SMap.set]
    · split
      · simp [SMap.set]
      · next h1 h2 => simp [SMap.set, h1, h2, ih]

@[simp] theorem SMap.getD_set_self {α : Type} (m : SMap α) (n : Nat) (a d : α) : (m.set n a).getD n d = a := by
  simp [SMap.getD]

theorem SMap.getD_set_ne {α : Type} (m : SMap α) {n k : Nat} (a d : α) (h : k ≠ n) : (m.set n a).getD k d = m.getD k d := by
  simp [SMap.getD, SMap.get?_set_ne m a h]

theorem SMap.get?_mapVals {α : Type} (f : Nat → α → α) (m : SMap α) (n : Nat) :
    (m.mapVals f).get? n = (m.get? n).map (f n) := by
  induction m with
  | nil => rfl
  | cons e t ih =>
    obtain ⟨k, a⟩ := e
    simp only [SMap.mapVals, SMap.get?]
    split
    · next h => simp [h]
    · exact ih

theorem SMap.mem_of_get? {α : Type} {m : SMap α} {n : Nat} {a : α} (h : m.get? n = some a) : (n, a) ∈ m := by
  induction m with
  | nil => simp [SMap.get?] at h
  | cons e t ih =>
    obtain ⟨k, b⟩ := e
    rw [SMap.get?] at h
    split at h
    · next hk => cases h; simp [hk]
    · exact List.mem_cons_of_mem _ (ih h)

/-- What holds of every entry of a table and of a new one holds of every entry after the new one is set. -/
theorem SMap.all_set {α : Type} {p : Nat × α → Bool} {m : SMap α} {n : Nat} {a : α} (hm : m.all p = true)
    (ha : p (n, a) = true) : (m.set n a).all p = true := by
  induction m with
  | nil => simp [SMap.set, ha]
  | cons e t ih =>
    obtain ⟨k, b⟩ := e
    simp only [List.all_cons, Bool.and_eq_true] at hm
    simp only [SMap.set]
    split
    · simp [hm.1, hm.2, ha]
    · split
      · simp [hm.2, ha]
      · simp [hm.1, ih hm.2]

theorem SMap.all_mapVals {α : Type} {p : Nat × α → Bool} {f : Nat → α → α} {m : SMap α}
    (h : ∀ k a, p (k, a) = true → p (k, f k a) = true) (hm : m.all p = true) : (m.mapVals f).all p = true := by
  induction m with
  | nil => rfl
  | cons e t ih =>
    obtain ⟨k, b⟩ := e
    simp only [List.all_cons, Bool.and_eq_true] at hm
    simp [SMap.mapVals, h k b hm.1, ih hm.2]

/-! ### The canonical form -/

theorem Memory.wfFrom_mono {lo hi : Nat} {m : List Host.Cell} (h : lo ≤ hi) (hm : Memory.wfFrom hi m = true) :
    Memory.wfFrom lo m = true := by
  cases m with
  | nil => rfl
  | cons e t =>
    obtain ⟨k, b⟩ := e
    simp only [Memory.wfFrom, Bool.and_eq_true, decide_eq_true_eq] at hm ⊢
    exact ⟨⟨by omega, hm.1.2⟩, hm.2⟩

/-- Below its first address a canonical memory reads zero. -/
theorem Memory.read_below {lo a : Nat} {m : List Host.Cell} (hm : Memory.wfFrom lo m = true) (h : a < lo) :
    Memory.read m a = 0 := by
  induction m generalizing lo with
  | nil => rfl
  | cons e t ih =>
    obtain ⟨k, b⟩ := e
    simp only [Memory.wfFrom, Bool.and_eq_true, decide_eq_true_eq] at hm
    rw [Memory.read, if_neg (by omega), ih hm.2 (by omega)]

theorem Memory.wfFrom_write {lo a : Nat} {m : List Host.Cell} (b : Byte) (hm : Memory.wfFrom lo m = true) (h : lo ≤ a) :
    Memory.wfFrom lo (Memory.write m a b) = true := by
  induction m generalizing lo with
  | nil =>
    rw [Memory.write]
    split
    · rfl
    · next hb => simpa [Memory.wfFrom, h] using hb
  | cons e t ih =>
    obtain ⟨k, c⟩ := e
    simp only [Memory.wfFrom, Bool.and_eq_true, decide_eq_true_eq] at hm
    simp only [Memory.write]
    split
    · next hk =>
      split
      · simp only [Memory.wfFrom, Bool.and_eq_true, decide_eq_true_eq]
        exact hm
      · next hb =>
        simp only [Memory.wfFrom, Bool.and_eq_true, decide_eq_true_eq]
        exact ⟨⟨h, by simpa using hb⟩, ⟨by omega, hm.1.2⟩, hm.2⟩
    · split
      · next hk =>
        subst hk
        split
        · exact Memory.wfFrom_mono (by omega) hm.2
        · next hb =>
          simp only [Memory.wfFrom, Bool.and_eq_true, decide_eq_true_eq]
          exact ⟨⟨h, by simpa using hb⟩, hm.2⟩
      · simp only [Memory.wfFrom, Bool.and_eq_true, decide_eq_true_eq]
        exact ⟨hm.1, ih hm.2 (by omega)⟩

/-- A write keeps the canonical form. -/
theorem Memory.wf_write {m : List Host.Cell} (a : Nat) (b : Byte) (hm : Memory.wf m = true) :
    Memory.wf (Memory.write m a b) = true := Memory.wfFrom_write b hm (Nat.zero_le a)

/-- A write of bytes keeps the canonical form. -/
theorem Memory.wf_writeBytes {m : List Host.Cell} (a : Nat) (bs : List Byte) (hm : Memory.wf m = true) :
    Memory.wf (Memory.writeBytes m a bs) = true := by
  induction bs generalizing m a with
  | nil => exact hm
  | cons b t ih => exact ih (a + 1) (Memory.wf_write a b hm)

/-- A masked write keeps the canonical form. -/
theorem Memory.wf_writeMasked {m : List Host.Cell} (a : Nat) (bs : List (Byte × Bool)) (hm : Memory.wf m = true) :
    Memory.wf (Memory.writeMasked m a bs) = true := by
  induction bs generalizing m a with
  | nil => exact hm
  | cons b t ih =>
    obtain ⟨b, w⟩ := b
    refine ih (a + 1) ?_
    split
    · exact Memory.wf_write a b hm
    · exact hm

theorem Memory.wfFrom_filter {lo : Nat} {m : List Host.Cell} (p : Host.Cell → Bool) (hm : Memory.wfFrom lo m = true) :
    Memory.wfFrom lo (m.filter p) = true := by
  induction m generalizing lo with
  | nil => rfl
  | cons e t ih =>
    obtain ⟨k, b⟩ := e
    simp only [Memory.wfFrom, Bool.and_eq_true, decide_eq_true_eq] at hm
    rw [List.filter_cons]
    split
    · simp only [Memory.wfFrom, Bool.and_eq_true, decide_eq_true_eq]
      exact ⟨hm.1, ih hm.2⟩
    · exact Memory.wfFrom_mono (by omega) (ih hm.2)

/-- Dropping bytes keeps the canonical form. -/
theorem Memory.wf_filter {m : List Host.Cell} (p : Host.Cell → Bool) (hm : Memory.wf m = true) :
    Memory.wf (m.filter p) = true := Memory.wfFrom_filter p hm

theorem Memory.wf_reset : Memory.wf Machine.State.reset.mem = true := rfl

/-! ### Reads -/

theorem Memory.read_write_from {lo : Nat} {m : List Host.Cell} (a k : Nat) (b : Byte) (hm : Memory.wfFrom lo m = true) :
    Memory.read (Memory.write m a b) k = if k = a then b else Memory.read m k := by
  induction m generalizing lo with
  | nil =>
    rw [Memory.write]
    split
    · next hb => rw [hb, Memory.read, ite_self]
    · by_cases h : k = a
      · simp [Memory.read, h]
      · simp [Memory.read, h, Ne.symm h]
  | cons e t ih =>
    obtain ⟨j, c⟩ := e
    simp only [Memory.wfFrom, Bool.and_eq_true, decide_eq_true_eq] at hm
    simp only [Memory.write]
    split
    · next hj =>
      split
      · next hb =>
        split
        · next h =>
          subst h
          rw [Memory.read, if_neg (by omega), Memory.read_below hm.2 (by omega), hb]
        · rfl
      · by_cases h : k = a
        · simp [Memory.read, h]
        · rw [if_neg h, Memory.read, if_neg (Ne.symm h)]
    · split
      · next hj =>
        subst hj
        split
        · next hb =>
          by_cases h : k = a
          · rw [if_pos h, h, Memory.read_below hm.2 (by omega), hb]
          · rw [if_neg h, Memory.read, if_neg (Ne.symm h)]
        · by_cases h : k = a
          · simp [Memory.read, h]
          · rw [if_neg h, Memory.read, Memory.read, if_neg (Ne.symm h), if_neg (Ne.symm h)]
      · rw [Memory.read, ih hm.2]
        by_cases h : k = a
        · subst h
          rw [if_pos rfl, if_neg (by omega), if_pos rfl]
        · rw [if_neg h, if_neg h, Memory.read]

/-- A read after a write: the byte written at its address, every other byte as before. -/
theorem Memory.read_write {m : List Host.Cell} (a k : Nat) (b : Byte) (hm : Memory.wf m = true) :
    Memory.read (Memory.write m a b) k = if k = a then b else Memory.read m k := Memory.read_write_from a k b hm

/-- A read after a write of bytes. -/
theorem Memory.read_writeBytes {m : List Host.Cell} (a k : Nat) (bs : List Byte) (hm : Memory.wf m = true) :
    Memory.read (Memory.writeBytes m a bs) k = if a ≤ k then (bs[k - a]?).getD (Memory.read m k) else Memory.read m k := by
  induction bs generalizing m a with
  | nil => simp [Memory.writeBytes]
  | cons b t ih =>
    rw [Memory.writeBytes, ih (a + 1) (Memory.wf_write a b hm), Memory.read_write a k b hm]
    by_cases h : a + 1 ≤ k
    · rw [if_pos h, if_neg (show k ≠ a by omega), if_pos (show a ≤ k by omega), show k - a = k - (a + 1) + 1 by omega,
        List.getElem?_cons_succ]
    · rw [if_neg h]
      by_cases h1 : k = a
      · subst h1; simp
      · rw [if_neg h1, if_neg (by omega)]

/-- A read after a masked write. -/
theorem Memory.read_writeMasked {m : List Host.Cell} (a k : Nat) (bs : List (Byte × Bool)) (hm : Memory.wf m = true) :
    Memory.read (Memory.writeMasked m a bs) k = match (if a ≤ k then bs[k - a]? else none) with
      | some (b, true) => b
      | _ => Memory.read m k := by
  induction bs generalizing m a with
  | nil => simp [Memory.writeMasked]
  | cons e t ih =>
    obtain ⟨b, w⟩ := e
    have hw : Memory.wf (if w = true then Memory.write m a b else m) = true := by
      split
      · exact Memory.wf_write a b hm
      · exact hm
    rw [Memory.writeMasked, ih (a + 1) hw]
    by_cases h : a + 1 ≤ k
    · rw [if_pos h, if_pos (show a ≤ k by omega), show k - a = k - (a + 1) + 1 by omega, List.getElem?_cons_succ]
      have : Memory.read (if w = true then Memory.write m a b else m) k = Memory.read m k := by
        split
        · rw [Memory.read_write a k b hm, if_neg (by omega)]
        · rfl
      rw [this]
    · rw [if_neg h]
      by_cases h1 : k = a
      · subst h1
        cases w <;> simp [Memory.read_write k k b hm]
      · rw [if_neg (show ¬ a ≤ k by omega)]
        show Memory.read (if w = true then Memory.write m a b else m) k = Memory.read m k
        split
        · rw [Memory.read_write a k b hm, if_neg h1]
        · rfl

theorem Memory.length_readBytes (m : List Host.Cell) (a n : Nat) : (Memory.readBytes m a n).length = n := by
  induction n generalizing a with
  | zero => rfl
  | succ n ih => simp [Memory.readBytes, ih]

theorem Memory.getElem?_readBytes (m : List Host.Cell) (a n k : Nat) :
    (Memory.readBytes m a n)[k]? = if k < n then some (Memory.read m (a + k)) else none := by
  induction n generalizing a k with
  | zero => simp [Memory.readBytes]
  | succ n ih =>
    cases k with
    | zero => simp [Memory.readBytes]
    | succ k => simp [Memory.readBytes, ih, Nat.add_assoc, Nat.add_comm 1 k]

/-! ### Little-endian values (R4) -/

theorem length_leBytes (n v : Nat) : (leBytes n v).length = n := by
  induction n generalizing v with
  | zero => rfl
  | succ n ih => simp [leBytes, ih]

theorem leNat_leBytes (n v : Nat) : leNat (leBytes n v) = v % 2 ^ (8 * n) := by
  induction n generalizing v with
  | zero => simp [leBytes, leNat, Nat.mod_one]
  | succ n ih =>
    rw [leBytes, leNat, ih, BitVec.toNat_ofNat, show 8 * (n + 1) = 8 + 8 * n by ring, pow_add,
      Nat.mod_mul (x := v) (a := 2 ^ 8) (b := 2 ^ (8 * n))]
    rfl

theorem leNat_lt (bs : List Byte) : leNat bs < 2 ^ (8 * bs.length) := by
  induction bs with
  | nil => simp [leNat]
  | cons b t ih =>
    rw [leNat, List.length_cons, show 8 * (t.length + 1) = 8 * t.length + 8 by ring, pow_add]
    have := b.isLt
    omega

end Sys2Proof
end

