-- ==== Sys2Proof/Laws/PerInstr.lean ====
section
/-! SUPPORT. Per instruction: the word that the encoder gives decodes to the instruction, operand by operand. -/

namespace Sys2Proof

set_option linter.unusedSimpArgs false
set_option Elab.async false

/-- A well-formed instruction's word fits 32 bits and decodes to it. -/
def Laws.RoundTrip.Statement (i : Instr) : Prop :=
  i.wellFormed = true → ∀ w, encodeNat i = some w → w < 2 ^ 32 ∧ decodeNat w = .ok i

theorem decodeNat_01 (w : Nat) (h : wordField w 26 6 = 1) : decodeNat w = decodeInteger w := by simp only [decodeNat, h]

theorem decodeNat_02 (w : Nat) (h : wordField w 26 6 = 2) : decodeNat w = .ok (.addi (guardField w) (regField w 17) (regField w 12) (Fin.ofNat 4096 (wordField w 0 12))) := by simp only [decodeNat, h]

theorem decodeNat_03 (w : Nat) (h : wordField w 26 6 = 3) : decodeNat w = .ok (.andi (guardField w) (regField w 17) (regField w 12) (Fin.ofNat 4096 (wordField w 0 12))) := by simp only [decodeNat, h]

theorem decodeNat_04 (w : Nat) (h : wordField w 26 6 = 4) : decodeNat w = .ok (.ori (guardField w) (regField w 17) (regField w 12) (Fin.ofNat 4096 (wordField w 0 12))) := by simp only [decodeNat, h]

theorem decodeNat_05 (w : Nat) (h : wordField w 26 6 = 5) : decodeNat w = .ok (.xori (guardField w) (regField w 17) (regField w 12) (Fin.ofNat 4096 (wordField w 0 12))) := by simp only [decodeNat, h]

theorem decodeNat_06 (w : Nat) (h : wordField w 26 6 = 6) : decodeNat w = decodeShiftImm w := by simp only [decodeNat, h]

theorem decodeNat_07 (w : Nat) (h : wordField w 26 6 = 7) : decodeNat w = decodeMulDiv w := by simp only [decodeNat, h]

theorem decodeNat_08 (w : Nat) (h : wordField w 26 6 = 8) : decodeNat w = .ok (.lui (guardField w) (regField w 17) (Fin.ofNat 131072 (wordField w 0 17))) := by simp only [decodeNat, h]

theorem decodeNat_09 (w : Nat) (h : wordField w 26 6 = 9) : decodeNat w = .ok (.auipc (guardField w) (regField w 17) (Fin.ofNat 131072 (wordField w 0 17))) := by simp only [decodeNat, h]

theorem decodeNat_0A (w : Nat) (h : wordField w 26 6 = 10) : decodeNat w = .ok (.ldb (guardField w) (regField w 17) (regField w 12) (Fin.ofNat 4096 (wordField w 0 12))) := by simp only [decodeNat, h]

theorem decodeNat_0B (w : Nat) (h : wordField w 26 6 = 11) : decodeNat w = .ok (.ldbu (guardField w) (regField w 17) (regField w 12) (Fin.ofNat 4096 (wordField w 0 12))) := by simp only [decodeNat, h]

theorem decodeNat_0C (w : Nat) (h : wordField w 26 6 = 12) : decodeNat w = .ok (.ldh (guardField w) (regField w 17) (regField w 12) (Fin.ofNat 4096 (wordField w 0 12))) := by simp only [decodeNat, h]

theorem decodeNat_0D (w : Nat) (h : wordField w 26 6 = 13) : decodeNat w = .ok (.ldhu (guardField w) (regField w 17) (regField w 12) (Fin.ofNat 4096 (wordField w 0 12))) := by simp only [decodeNat, h]

theorem decodeNat_0E (w : Nat) (h : wordField w 26 6 = 14) : decodeNat w = .ok (.ldw (guardField w) (regField w 17) (regField w 12) (Fin.ofNat 4096 (wordField w 0 12))) := by simp only [decodeNat, h]

theorem decodeNat_0F (w : Nat) (h : wordField w 26 6 = 15) : decodeNat w = .ok (.ldwu (guardField w) (regField w 17) (regField w 12) (Fin.ofNat 4096 (wordField w 0 12))) := by simp only [decodeNat, h]

theorem decodeNat_10 (w : Nat) (h : wordField w 26 6 = 16) : decodeNat w = .ok (.ldd (guardField w) (regField w 17) (regField w 12) (Fin.ofNat 4096 (wordField w 0 12))) := by simp only [decodeNat, h]

theorem decodeNat_11 (w : Nat) (h : wordField w 26 6 = 17) : decodeNat w = .ok (.stb (guardField w) (regField w 12) (regField w 7) (Fin.ofNat 4096 (wordField w 17 5 * 128 + wordField w 0 7))) := by simp only [decodeNat, h]

theorem decodeNat_12 (w : Nat) (h : wordField w 26 6 = 18) : decodeNat w = .ok (.sth (guardField w) (regField w 12) (regField w 7) (Fin.ofNat 4096 (wordField w 17 5 * 128 + wordField w 0 7))) := by simp only [decodeNat, h]

theorem decodeNat_13 (w : Nat) (h : wordField w 26 6 = 19) : decodeNat w = .ok (.stw (guardField w) (regField w 12) (regField w 7) (Fin.ofNat 4096 (wordField w 17 5 * 128 + wordField w 0 7))) := by simp only [decodeNat, h]

theorem decodeNat_14 (w : Nat) (h : wordField w 26 6 = 20) : decodeNat w = .ok (.std (guardField w) (regField w 12) (regField w 7) (Fin.ofNat 4096 (wordField w 17 5 * 128 + wordField w 0 7))) := by simp only [decodeNat, h]

theorem decodeNat_15 (w : Nat) (h : wordField w 26 6 = 21) : decodeNat w = decodeCmp w := by simp only [decodeNat, h]

theorem decodeNat_16 (w : Nat) (h : wordField w 26 6 = 22) : decodeNat w = decodeCmpi w := by simp only [decodeNat, h]

theorem decodeNat_17 (w : Nat) (h : wordField w 26 6 = 23) : decodeNat w = decodePred w := by simp only [decodeNat, h]

theorem decodeNat_18 (w : Nat) (h : wordField w 26 6 = 24) : decodeNat w = .ok (.br (guardField w) (Fin.ofNat 4194304 (wordField w 0 22))) := by simp only [decodeNat, h]

theorem decodeNat_19 (w : Nat) (h : wordField w 26 6 = 25) : decodeNat w = .ok (.jal (guardField w) (regField w 17) (Fin.ofNat 131072 (wordField w 0 17))) := by simp only [decodeNat, h]

theorem decodeNat_1A (w : Nat) (h : wordField w 26 6 = 26) : decodeNat w = .ok (.jalr (guardField w) (regField w 17) (regField w 12) (Fin.ofNat 4096 (wordField w 0 12))) := by simp only [decodeNat, h]

theorem decodeNat_1B (w : Nat) (h : wordField w 26 6 = 27) : decodeNat w = decodeAmow w := by simp only [decodeNat, h]

theorem decodeNat_1C (w : Nat) (h : wordField w 26 6 = 28) : decodeNat w = decodeAmod w := by simp only [decodeNat, h]

theorem decodeNat_1D (w : Nat) (h : wordField w 26 6 = 29) : decodeNat w = decodeAcqRel w := by simp only [decodeNat, h]

theorem decodeNat_1E (w : Nat) (h : wordField w 26 6 = 30) : decodeNat w = decodeFence w := by simp only [decodeNat, h]

theorem decodeNat_1F (w : Nat) (h : wordField w 26 6 = 31) : decodeNat w = decodeCsr w := by simp only [decodeNat, h]

theorem decodeNat_20 (w : Nat) (h : wordField w 26 6 = 32) : decodeNat w = decodeThread w := by simp only [decodeNat, h]

theorem decodeNat_21 (w : Nat) (h : wordField w 26 6 = 33) : decodeNat w = decodeBarrier w := by simp only [decodeNat, h]

theorem decodeNat_22 (w : Nat) (h : wordField w 26 6 = 34) : decodeNat w = decodeFuture w := by simp only [decodeNat, h]

theorem decodeNat_23 (w : Nat) (h : wordField w 26 6 = 35) : decodeNat w = decodeEnq w := by simp only [decodeNat, h]

theorem decodeNat_24 (w : Nat) (h : wordField w 26 6 = 36) : decodeNat w = decodeDeq w := by simp only [decodeNat, h]

theorem decodeNat_25 (w : Nat) (h : wordField w 26 6 = 37) : decodeNat w = decodeVectorControl w := by simp only [decodeNat, h]

theorem decodeNat_26 (w : Nat) (h : wordField w 26 6 = 38) : decodeNat w = .ok (.vf (guardField w) (Fin.ofNat 4194304 (wordField w 0 22))) := by simp only [decodeNat, h]

theorem decodeNat_27 (w : Nat) (h : wordField w 26 6 = 39) : decodeNat w = whenZero (regField w 17).val (.vfr (guardField w) (regField w 12) (Fin.ofNat 4096 (wordField w 0 12))) := by simp only [decodeNat, h]

theorem decodeNat_28 (w : Nat) (h : wordField w 26 6 = 40) : decodeNat w = decodeVmem true w := by simp only [decodeNat, h]

theorem decodeNat_29 (w : Nat) (h : wordField w 26 6 = 41) : decodeNat w = decodeVmem false w := by simp only [decodeNat, h]

theorem decodeNat_2A (w : Nat) (h : wordField w 26 6 = 42) : decodeNat w = decodeFloat w := by simp only [decodeNat, h]

theorem decodeNat_2B (w : Nat) (h : wordField w 26 6 = 43) : decodeNat w = decodeFused w := by simp only [decodeNat, h]

theorem decodeNat_2C (w : Nat) (h : wordField w 26 6 = 44) : decodeNat w = decodeFcmp w := by simp only [decodeNat, h]

theorem decodeNat_2D (w : Nat) (h : wordField w 26 6 = 45) : decodeNat w = decodeConvert w := by simp only [decodeNat, h]

theorem decodeNat_2E (w : Nat) (h : wordField w 26 6 = 46) : decodeNat w = decodeSaturating w := by simp only [decodeNat, h]

theorem decodeNat_2F (w : Nat) (h : wordField w 26 6 = 47) : decodeNat w = decodePermute w := by simp only [decodeNat, h]

theorem decodeNat_30 (w : Nat) (h : wordField w 26 6 = 48) : decodeNat w = decodeTransfer w := by simp only [decodeNat, h]

theorem decodeNat_31 (w : Nat) (h : wordField w 26 6 = 49) : decodeNat w = decodeWide w := by simp only [decodeNat, h]

theorem decodeNat_32 (w : Nat) (h : wordField w 26 6 = 50) : decodeNat w = decodeLdv w := by simp only [decodeNat, h]

theorem decodeNat_33 (w : Nat) (h : wordField w 26 6 = 51) : decodeNat w = decodeStv w := by simp only [decodeNat, h]

theorem decodeNat_34 (w : Nat) (h : wordField w 26 6 = 52) : decodeNat w = decodeMove w := by simp only [decodeNat, h]

theorem decodeNat_35 (w : Nat) (h : wordField w 26 6 = 53) : decodeNat w = decodeMatrix w := by simp only [decodeNat, h]

theorem encR_low (op : Nat) (g : Guard) (d a b f : Nat) :
    encR op g d a b f = encHead op g + (d * 2 ^ 17 + (a * 2 ^ 12 + (b * 2 ^ 7 + (f)))) := by
  simp only [encR, Nat.add_assoc]

theorem encR_fields (op : Nat) (g : Guard) (d a b f : Nat) (hop : op < 64) (hd : d < 2 ^ 5) (ha : a < 2 ^ 5) (hb : b < 2 ^ 5) (hf : f < 2 ^ 7) :
    encR op g d a b f < 2 ^ 32
    ∧ wordField (encR op g d a b f) 26 6 = op
    ∧ guardField (encR op g d a b f) = g
    ∧ wordField (encR op g d a b f) 17 5 = d
    ∧ wordField (encR op g d a b f) 12 5 = a
    ∧ wordField (encR op g d a b f) 7 5 = b
    ∧ wordField (encR op g d a b f) 0 7 = f := by
  rw [encR_low]
  refine ⟨head_lt _ _ _ hop (by omega), wordField_op _ _ _ hop (by omega), guardField_head _ _ _ (by omega), ?_, ?_, ?_, ?_⟩
  · rw [wordField_low _ _ _ _ _ (by decide), wordField_take _ _ _ _ (by omega) (by omega)]
  · rw [wordField_low _ _ _ _ _ (by decide), wordField_skip _ _ _ _ _ (by decide), wordField_take _ _ _ _ (by omega) (by omega)]
  · rw [wordField_low _ _ _ _ _ (by decide), wordField_skip _ _ _ _ _ (by decide), wordField_skip _ _ _ _ _ (by decide), wordField_take _ _ _ _ (by omega) (by omega)]
  · rw [wordField_low _ _ _ _ _ (by decide), wordField_skip _ _ _ _ _ (by decide), wordField_skip _ _ _ _ _ (by decide), wordField_skip _ _ _ _ _ (by decide), wordField_all _ _ (by omega)]

theorem encI_low (op : Nat) (g : Guard) (d a i : Nat) :
    encI op g d a i = encHead op g + (d * 2 ^ 17 + (a * 2 ^ 12 + (i))) := by
  simp only [encI, Nat.add_assoc]

theorem encI_fields (op : Nat) (g : Guard) (d a i : Nat) (hop : op < 64) (hd : d < 2 ^ 5) (ha : a < 2 ^ 5) (hi : i < 2 ^ 12) :
    encI op g d a i < 2 ^ 32
    ∧ wordField (encI op g d a i) 26 6 = op
    ∧ guardField (encI op g d a i) = g
    ∧ wordField (encI op g d a i) 17 5 = d
    ∧ wordField (encI op g d a i) 12 5 = a
    ∧ wordField (encI op g d a i) 0 12 = i := by
  rw [encI_low]
  refine ⟨head_lt _ _ _ hop (by omega), wordField_op _ _ _ hop (by omega), guardField_head _ _ _ (by omega), ?_, ?_, ?_⟩
  · rw [wordField_low _ _ _ _ _ (by decide), wordField_take _ _ _ _ (by omega) (by omega)]
  · rw [wordField_low _ _ _ _ _ (by decide), wordField_skip _ _ _ _ _ (by decide), wordField_take _ _ _ _ (by omega) (by omega)]
  · rw [wordField_low _ _ _ _ _ (by decide), wordField_skip _ _ _ _ _ (by decide), wordField_skip _ _ _ _ _ (by decide), wordField_all _ _ (by omega)]

theorem encS_low (op : Nat) (g : Guard) (a b i : Nat) :
    encS op g a b i = encHead op g + (i / 2 ^ 7 * 2 ^ 17 + (a * 2 ^ 12 + (b * 2 ^ 7 + i % 2 ^ 7))) := by
  simp only [encS, Nat.add_assoc]

theorem encS_fields (op : Nat) (g : Guard) (a b i : Nat) (hop : op < 64) (ha : a < 32) (hb : b < 32) (hi : i < 4096) :
    encS op g a b i < 2 ^ 32
    ∧ wordField (encS op g a b i) 26 6 = op
    ∧ guardField (encS op g a b i) = g
    ∧ wordField (encS op g a b i) 17 5 = i / 2 ^ 7
    ∧ wordField (encS op g a b i) 12 5 = a
    ∧ wordField (encS op g a b i) 7 5 = b
    ∧ wordField (encS op g a b i) 0 7 = i % 2 ^ 7 := by
  rw [encS_low]
  refine ⟨head_lt _ _ _ hop (by omega), wordField_op _ _ _ hop (by omega), guardField_head _ _ _ (by omega), ?_, ?_, ?_, ?_⟩
  · rw [wordField_low _ _ _ _ _ (by decide), wordField_take _ _ _ _ (by omega) (by omega)]
  · rw [wordField_low _ _ _ _ _ (by decide), wordField_skip _ _ _ _ _ (by decide), wordField_take _ _ _ _ (by omega) (by omega)]
  · rw [wordField_low _ _ _ _ _ (by decide), wordField_skip _ _ _ _ _ (by decide), wordField_skip _ _ _ _ _ (by decide), wordField_take _ _ _ _ (by omega) (by omega)]
  · rw [wordField_low _ _ _ _ _ (by decide), wordField_skip _ _ _ _ _ (by decide), wordField_skip _ _ _ _ _ (by decide), wordField_skip _ _ _ _ _ (by decide), wordField_all _ _ (by omega)]

theorem encJ_low (op : Nat) (g : Guard) (i : Nat) :
    encJ op g i = encHead op g + (i) := by
  simp only [encJ, Nat.add_assoc]

theorem encJ_fields (op : Nat) (g : Guard) (i : Nat) (hop : op < 64) (hi : i < 2 ^ 22) :
    encJ op g i < 2 ^ 32
    ∧ wordField (encJ op g i) 26 6 = op
    ∧ guardField (encJ op g i) = g
    ∧ wordField (encJ op g i) 0 22 = i := by
  rw [encJ_low]
  refine ⟨head_lt _ _ _ hop (by omega), wordField_op _ _ _ hop (by omega), guardField_head _ _ _ (by omega), ?_⟩
  · rw [wordField_low _ _ _ _ _ (by decide), wordField_all _ _ (by omega)]

theorem encU_low (op : Nat) (g : Guard) (d i : Nat) :
    encU op g d i = encHead op g + (d * 2 ^ 17 + (i)) := by
  simp only [encU, Nat.add_assoc]

theorem encU_fields (op : Nat) (g : Guard) (d i : Nat) (hop : op < 64) (hd : d < 2 ^ 5) (hi : i < 2 ^ 17) :
    encU op g d i < 2 ^ 32
    ∧ wordField (encU op g d i) 26 6 = op
    ∧ guardField (encU op g d i) = g
    ∧ wordField (encU op g d i) 17 5 = d
    ∧ wordField (encU op g d i) 0 17 = i := by
  rw [encU_low]
  refine ⟨head_lt _ _ _ hop (by omega), wordField_op _ _ _ hop (by omega), guardField_head _ _ _ (by omega), ?_, ?_⟩
  · rw [wordField_low _ _ _ _ _ (by decide), wordField_take _ _ _ _ (by omega) (by omega)]
  · rw [wordField_low _ _ _ _ _ (by decide), wordField_skip _ _ _ _ _ (by decide), wordField_all _ _ (by omega)]

theorem encP_low (op : Nat) (g : Guard) (p q c a lo : Nat) :
    encP op g p q c a lo = encHead op g + (p * 2 ^ 19 + (q * 2 ^ 16 + (c * 2 ^ 12 + (a * 2 ^ 7 + (lo))))) := by
  simp only [encP, Nat.add_assoc]

theorem encP_fields (op : Nat) (g : Guard) (p q c a lo : Nat) (hop : op < 64) (hp : p < 2 ^ 3) (hq : q < 2 ^ 3) (hc : c < 2 ^ 4) (ha : a < 2 ^ 5) (hlo : lo < 2 ^ 7) :
    encP op g p q c a lo < 2 ^ 32
    ∧ wordField (encP op g p q c a lo) 26 6 = op
    ∧ guardField (encP op g p q c a lo) = g
    ∧ wordField (encP op g p q c a lo) 19 3 = p
    ∧ wordField (encP op g p q c a lo) 16 3 = q
    ∧ wordField (encP op g p q c a lo) 12 4 = c
    ∧ wordField (encP op g p q c a lo) 7 5 = a
    ∧ wordField (encP op g p q c a lo) 0 7 = lo := by
  rw [encP_low]
  refine ⟨head_lt _ _ _ hop (by omega), wordField_op _ _ _ hop (by omega), guardField_head _ _ _ (by omega), ?_, ?_, ?_, ?_, ?_⟩
  · rw [wordField_low _ _ _ _ _ (by decide), wordField_take _ _ _ _ (by omega) (by omega)]
  · rw [wordField_low _ _ _ _ _ (by decide), wordField_skip _ _ _ _ _ (by decide), wordField_take _ _ _ _ (by omega) (by omega)]
  · rw [wordField_low _ _ _ _ _ (by decide), wordField_skip _ _ _ _ _ (by decide), wordField_skip _ _ _ _ _ (by decide), wordField_take _ _ _ _ (by omega) (by omega)]
  · rw [wordField_low _ _ _ _ _ (by decide), wordField_skip _ _ _ _ _ (by decide), wordField_skip _ _ _ _ _ (by decide), wordField_skip _ _ _ _ _ (by decide), wordField_take _ _ _ _ (by omega) (by omega)]
  · rw [wordField_low _ _ _ _ _ (by decide), wordField_skip _ _ _ _ _ (by decide), wordField_skip _ _ _ _ _ (by decide), wordField_skip _ _ _ _ _ (by decide), wordField_skip _ _ _ _ _ (by decide), wordField_all _ _ (by omega)]

theorem encV_low (op : Nat) (g : Guard) (v a b m dc q h : Nat) :
    encV op g v a b m dc q h = encHead op g + (v * 2 ^ 17 + (a * 2 ^ 12 + (b * 2 ^ 7 + (m * 2 ^ 5 + (dc * 2 ^ 3 + (q * 2 ^ 2 + (h))))))) := by
  simp only [encV, Nat.add_assoc]

theorem encV_fields (op : Nat) (g : Guard) (v a b m dc q h : Nat) (hop : op < 64) (hv : v < 2 ^ 5) (ha : a < 2 ^ 5) (hb : b < 2 ^ 5) (hm : m < 2 ^ 2) (hdc : dc < 2 ^ 2) (hq : q < 2 ^ 1) (hh : h < 2 ^ 2) :
    encV op g v a b m dc q h < 2 ^ 32
    ∧ wordField (encV op g v a b m dc q h) 26 6 = op
    ∧ guardField (encV op g v a b m dc q h) = g
    ∧ wordField (encV op g v a b m dc q h) 17 5 = v
    ∧ wordField (encV op g v a b m dc q h) 12 5 = a
    ∧ wordField (encV op g v a b m dc q h) 7 5 = b
    ∧ wordField (encV op g v a b m dc q h) 5 2 = m
    ∧ wordField (encV op g v a b m dc q h) 3 2 = dc
    ∧ wordField (encV op g v a b m dc q h) 2 1 = q
    ∧ wordField (encV op g v a b m dc q h) 0 2 = h := by
  rw [encV_low]
  refine ⟨head_lt _ _ _ hop (by omega), wordField_op _ _ _ hop (by omega), guardField_head _ _ _ (by omega), ?_, ?_, ?_, ?_, ?_, ?_, ?_⟩
  · rw [wordField_low _ _ _ _ _ (by decide), wordField_take _ _ _ _ (by omega) (by omega)]
  · rw [wordField_low _ _ _ _ _ (by decide), wordField_skip _ _ _ _ _ (by decide), wordField_take _ _ _ _ (by omega) (by omega)]
  · rw [wordField_low _ _ _ _ _ (by decide), wordField_skip _ _ _ _ _ (by decide), wordField_skip _ _ _ _ _ (by decide), wordField_take _ _ _ _ (by omega) (by omega)]
  · rw [wordField_low _ _ _ _ _ (by decide), wordField_skip _ _ _ _ _ (by decide), wordField_skip _ _ _ _ _ (by decide), wordField_skip _ _ _ _ _ (by decide), wordField_take _ _ _ _ (by omega) (by omega)]
  · rw [wordField_low _ _ _ _ _ (by decide), wordField_skip _ _ _ _ _ (by decide), wordField_skip _ _ _ _ _ (by decide), wordField_skip _ _ _ _ _ (by decide), wordField_skip _ _ _ _ _ (by decide), wordField_take _ _ _ _ (by omega) (by omega)]
  · rw [wordField_low _ _ _ _ _ (by decide), wordField_skip _ _ _ _ _ (by decide), wordField_skip _ _ _ _ _ (by decide), wordField_skip _ _ _ _ _ (by decide), wordField_skip _ _ _ _ _ (by decide), wordField_skip _ _ _ _ _ (by decide), wordField_take _ _ _ _ (by omega) (by omega)]
  · rw [wordField_low _ _ _ _ _ (by decide), wordField_skip _ _ _ _ _ (by decide), wordField_skip _ _ _ _ _ (by decide), wordField_skip _ _ _ _ _ (by decide), wordField_skip _ _ _ _ _ (by decide), wordField_skip _ _ _ _ _ (by decide), wordField_skip _ _ _ _ _ (by decide), wordField_all _ _ (by omega)]

theorem encX_low (op : Nat) (g : Guard) (d a b e dc f : Nat) :
    encX op g d a b e dc f = encHead op g + (d * 2 ^ 17 + (a * 2 ^ 12 + (b * 2 ^ 7 + (e * 2 ^ 4 + (dc * 2 ^ 2 + (f)))))) := by
  simp only [encX, Nat.add_assoc]

theorem encX_fields (op : Nat) (g : Guard) (d a b e dc f : Nat) (hop : op < 64) (hd : d < 2 ^ 5) (ha : a < 2 ^ 5) (hb : b < 2 ^ 5) (he : e < 2 ^ 3) (hdc : dc < 2 ^ 2) (hf : f < 2 ^ 2) :
    encX op g d a b e dc f < 2 ^ 32
    ∧ wordField (encX op g d a b e dc f) 26 6 = op
    ∧ guardField (encX op g d a b e dc f) = g
    ∧ wordField (encX op g d a b e dc f) 17 5 = d
    ∧ wordField (encX op g d a b e dc f) 12 5 = a
    ∧ wordField (encX op g d a b e dc f) 7 5 = b
    ∧ wordField (encX op g d a b e dc f) 4 3 = e
    ∧ wordField (encX op g d a b e dc f) 2 2 = dc
    ∧ wordField (encX op g d a b e dc f) 0 2 = f := by
  rw [encX_low]
  refine ⟨head_lt _ _ _ hop (by omega), wordField_op _ _ _ hop (by omega), guardField_head _ _ _ (by omega), ?_, ?_, ?_, ?_, ?_, ?_⟩
  · rw [wordField_low _ _ _ _ _ (by decide), wordField_take _ _ _ _ (by omega) (by omega)]
  · rw [wordField_low _ _ _ _ _ (by decide), wordField_skip _ _ _ _ _ (by decide), wordField_take _ _ _ _ (by omega) (by omega)]
  · rw [wordField_low _ _ _ _ _ (by decide), wordField_skip _ _ _ _ _ (by decide), wordField_skip _ _ _ _ _ (by decide), wordField_take _ _ _ _ (by omega) (by omega)]
  · rw [wordField_low _ _ _ _ _ (by decide), wordField_skip _ _ _ _ _ (by decide), wordField_skip _ _ _ _ _ (by decide), wordField_skip _ _ _ _ _ (by decide), wordField_take _ _ _ _ (by omega) (by omega)]
  · rw [wordField_low _ _ _ _ _ (by decide), wordField_skip _ _ _ _ _ (by decide), wordField_skip _ _ _ _ _ (by decide), wordField_skip _ _ _ _ _ (by decide), wordField_skip _ _ _ _ _ (by decide), wordField_take _ _ _ _ (by omega) (by omega)]
  · rw [wordField_low _ _ _ _ _ (by decide), wordField_skip _ _ _ _ _ (by decide), wordField_skip _ _ _ _ _ (by decide), wordField_skip _ _ _ _ _ (by decide), wordField_skip _ _ _ _ _ (by decide), wordField_skip _ _ _ _ _ (by decide), wordField_all _ _ (by omega)]

theorem encL_low (op : Nat) (g : Guard) (d a seg sz i : Nat) :
    encL op g d a seg sz i = encHead op g + (d * 2 ^ 17 + (a * 2 ^ 12 + (seg * 2 ^ 10 + (sz * 2 ^ 7 + (i))))) := by
  simp only [encL, Nat.add_assoc]

theorem encL_fields (op : Nat) (g : Guard) (d a seg sz i : Nat) (hop : op < 64) (hd : d < 2 ^ 5) (ha : a < 2 ^ 5) (hseg : seg < 2 ^ 2) (hsz : sz < 2 ^ 3) (hi : i < 2 ^ 7) :
    encL op g d a seg sz i < 2 ^ 32
    ∧ wordField (encL op g d a seg sz i) 26 6 = op
    ∧ guardField (encL op g d a seg sz i) = g
    ∧ wordField (encL op g d a seg sz i) 17 5 = d
    ∧ wordField (encL op g d a seg sz i) 12 5 = a
    ∧ wordField (encL op g d a seg sz i) 10 2 = seg
    ∧ wordField (encL op g d a seg sz i) 7 3 = sz
    ∧ wordField (encL op g d a seg sz i) 0 7 = i := by
  rw [encL_low]
  refine ⟨head_lt _ _ _ hop (by omega), wordField_op _ _ _ hop (by omega), guardField_head _ _ _ (by omega), ?_, ?_, ?_, ?_, ?_⟩
  · rw [wordField_low _ _ _ _ _ (by decide), wordField_take _ _ _ _ (by omega) (by omega)]
  · rw [wordField_low _ _ _ _ _ (by decide), wordField_skip _ _ _ _ _ (by decide), wordField_take _ _ _ _ (by omega) (by omega)]
  · rw [wordField_low _ _ _ _ _ (by decide), wordField_skip _ _ _ _ _ (by decide), wordField_skip _ _ _ _ _ (by decide), wordField_take _ _ _ _ (by omega) (by omega)]
  · rw [wordField_low _ _ _ _ _ (by decide), wordField_skip _ _ _ _ _ (by decide), wordField_skip _ _ _ _ _ (by decide), wordField_skip _ _ _ _ _ (by decide), wordField_take _ _ _ _ (by omega) (by omega)]
  · rw [wordField_low _ _ _ _ _ (by decide), wordField_skip _ _ _ _ _ (by decide), wordField_skip _ _ _ _ _ (by decide), wordField_skip _ _ _ _ _ (by decide), wordField_skip _ _ _ _ _ (by decide), wordField_all _ _ (by omega)]

theorem encC_low (g : Guard) (sub lo : Nat) :
    encC g sub lo = encHead 0x34 g + (sub * 2 ^ 17 + (lo)) := by
  simp only [encC, Nat.add_assoc]

theorem encC_fields (g : Guard) (sub lo : Nat) (hsub : sub < 2 ^ 5) (hlo : lo < 2 ^ 17) :
    encC g sub lo < 2 ^ 32
    ∧ wordField (encC g sub lo) 26 6 = 0x34
    ∧ guardField (encC g sub lo) = g
    ∧ wordField (encC g sub lo) 17 5 = sub
    ∧ wordField (encC g sub lo) 0 17 = lo := by
  rw [encC_low]
  refine ⟨head_lt _ _ _ (by decide) (by omega), wordField_op _ _ _ (by decide) (by omega), guardField_head _ _ _ (by omega), ?_, ?_⟩
  · rw [wordField_low _ _ _ _ _ (by decide), wordField_take _ _ _ _ (by omega) (by omega)]
  · rw [wordField_low _ _ _ _ _ (by decide), wordField_skip _ _ _ _ _ (by decide), wordField_all _ _ (by omega)]

theorem encM_low (g : Guard) (acc va vb vs f : Nat) :
    encM g acc va vb vs f = encHead 0x35 g + (acc * 2 ^ 21 + (va * 2 ^ 16 + (vb * 2 ^ 11 + (vs * 2 ^ 6 + (f))))) := by
  simp only [encM, Nat.add_assoc]

theorem encM_fields (g : Guard) (acc va vb vs f : Nat) (hacc : acc < 2 ^ 1) (hva : va < 2 ^ 5) (hvb : vb < 2 ^ 5) (hvs : vs < 2 ^ 5) (hf : f < 2 ^ 6) :
    encM g acc va vb vs f < 2 ^ 32
    ∧ wordField (encM g acc va vb vs f) 26 6 = 0x35
    ∧ guardField (encM g acc va vb vs f) = g
    ∧ wordField (encM g acc va vb vs f) 21 1 = acc
    ∧ wordField (encM g acc va vb vs f) 16 5 = va
    ∧ wordField (encM g acc va vb vs f) 11 5 = vb
    ∧ wordField (encM g acc va vb vs f) 6 5 = vs
    ∧ wordField (encM g acc va vb vs f) 0 6 = f := by
  rw [encM_low]
  refine ⟨head_lt _ _ _ (by decide) (by omega), wordField_op _ _ _ (by decide) (by omega), guardField_head _ _ _ (by omega), ?_, ?_, ?_, ?_, ?_⟩
  · rw [wordField_low _ _ _ _ _ (by decide), wordField_take _ _ _ _ (by omega) (by omega)]
  · rw [wordField_low _ _ _ _ _ (by decide), wordField_skip _ _ _ _ _ (by decide), wordField_take _ _ _ _ (by omega) (by omega)]
  · rw [wordField_low _ _ _ _ _ (by decide), wordField_skip _ _ _ _ _ (by decide), wordField_skip _ _ _ _ _ (by decide), wordField_take _ _ _ _ (by omega) (by omega)]
  · rw [wordField_low _ _ _ _ _ (by decide), wordField_skip _ _ _ _ _ (by decide), wordField_skip _ _ _ _ _ (by decide), wordField_skip _ _ _ _ _ (by decide), wordField_take _ _ _ _ (by omega) (by omega)]
  · rw [wordField_low _ _ _ _ _ (by decide), wordField_skip _ _ _ _ _ (by decide), wordField_skip _ _ _ _ _ (by decide), wordField_skip _ _ _ _ _ (by decide), wordField_skip _ _ _ _ _ (by decide), wordField_all _ _ (by omega)]

theorem encRC_low (g : Guard) (d a b c f : Nat) :
    encRC g d a b c f = encHead 0x2B g + (d * 2 ^ 17 + (a * 2 ^ 12 + (b * 2 ^ 7 + (c * 2 ^ 2 + (f))))) := by
  simp only [encRC, Nat.add_assoc]

theorem encRC_fields (g : Guard) (d a b c f : Nat) (hd : d < 2 ^ 5) (ha : a < 2 ^ 5) (hb : b < 2 ^ 5) (hc : c < 2 ^ 5) (hf : f < 2 ^ 2) :
    encRC g d a b c f < 2 ^ 32
    ∧ wordField (encRC g d a b c f) 26 6 = 0x2B
    ∧ guardField (encRC g d a b c f) = g
    ∧ wordField (encRC g d a b c f) 17 5 = d
    ∧ wordField (encRC g d a b c f) 12 5 = a
    ∧ wordField (encRC g d a b c f) 7 5 = b
    ∧ wordField (encRC g d a b c f) 2 5 = c
    ∧ wordField (encRC g d a b c f) 0 2 = f := by
  rw [encRC_low]
  refine ⟨head_lt _ _ _ (by decide) (by omega), wordField_op _ _ _ (by decide) (by omega), guardField_head _ _ _ (by omega), ?_, ?_, ?_, ?_, ?_⟩
  · rw [wordField_low _ _ _ _ _ (by decide), wordField_take _ _ _ _ (by omega) (by omega)]
  · rw [wordField_low _ _ _ _ _ (by decide), wordField_skip _ _ _ _ _ (by decide), wordField_take _ _ _ _ (by omega) (by omega)]
  · rw [wordField_low _ _ _ _ _ (by decide), wordField_skip _ _ _ _ _ (by decide), wordField_skip _ _ _ _ _ (by decide), wordField_take _ _ _ _ (by omega) (by omega)]
  · rw [wordField_low _ _ _ _ _ (by decide), wordField_skip _ _ _ _ _ (by decide), wordField_skip _ _ _ _ _ (by decide), wordField_skip _ _ _ _ _ (by decide), wordField_take _ _ _ _ (by omega) (by omega)]
  · rw [wordField_low _ _ _ _ _ (by decide), wordField_skip _ _ _ _ _ (by decide), wordField_skip _ _ _ _ _ (by decide), wordField_skip _ _ _ _ _ (by decide), wordField_skip _ _ _ _ _ (by decide), wordField_all _ _ (by omega)]

theorem ofNat_zero32 : Fin.ofNat 32 0 = 0 := rfl
theorem ofNat_zero2 : Fin.ofNat 2 0 = 0 := rfl
theorem ofNat_zero8 : Fin.ofNat 8 0 = 0 := rfl
theorem mul_div_mod (i : Fin 4096) : Fin.ofNat 4096 (i.val / 2 ^ 7 * 128 + i.val % 2 ^ 7) = i := by
  rw [show i.val / 2 ^ 7 * 128 + i.val % 2 ^ 7 = i.val by omega, fin_ofNat_val]

theorem Laws.RoundTrip.add (g : Guard) (d a b : Reg) : Statement (.add g d a b) := by
  intro hw w h
  injection h with h
  subst h
  obtain ⟨hlt, ho, hg, n0, n1, n2, n3⟩ := encR_fields 1 g d a b 0 (by decide) d.isLt a.isLt b.isLt (by decide)
  generalize encR 0x01 g d a b 0 = w at hlt ho hg n0 n1 n2 n3 ⊢
  refine ⟨hlt, ?_⟩
  rw [decodeNat_01 _ ho]
  simp only [decodeInteger, regField, predField, n0, n1, n2, n3, hg, fin_ofNat_val, ofNat_zero32, ofNat_zero8, ofNat_zero2, Nat.one_ne_zero, if_false, Bool.false_eq_true, whenZero, whenLegal, hw, if_true, Nat.add_zero, ne_eq, not_true_eq_false, false_or, or_self, and_self, Nat.zero_ne_one, reduceIte, Fin.val_zero, mul_div_mod]

theorem Laws.RoundTrip.sub (g : Guard) (d a b : Reg) : Statement (.sub g d a b) := by
  intro hw w h
  injection h with h
  subst h
  obtain ⟨hlt, ho, hg, n0, n1, n2, n3⟩ := encR_fields 1 g d a b 1 (by decide) d.isLt a.isLt b.isLt (by decide)
  generalize encR 0x01 g d a b 1 = w at hlt ho hg n0 n1 n2 n3 ⊢
  refine ⟨hlt, ?_⟩
  rw [decodeNat_01 _ ho]
  simp only [decodeInteger, regField, predField, n0, n1, n2, n3, hg, fin_ofNat_val, ofNat_zero32, ofNat_zero8, ofNat_zero2, Nat.one_ne_zero, if_false, Bool.false_eq_true, whenZero, whenLegal, hw, if_true, Nat.add_zero, ne_eq, not_true_eq_false, false_or, or_self, and_self, Nat.zero_ne_one, reduceIte, Fin.val_zero, mul_div_mod]

theorem Laws.RoundTrip.and (g : Guard) (d a b : Reg) : Statement (.and g d a b) := by
  intro hw w h
  injection h with h
  subst h
  obtain ⟨hlt, ho, hg, n0, n1, n2, n3⟩ := encR_fields 1 g d a b 2 (by decide) d.isLt a.isLt b.isLt (by decide)
  generalize encR 0x01 g d a b 2 = w at hlt ho hg n0 n1 n2 n3 ⊢
  refine ⟨hlt, ?_⟩
  rw [decodeNat_01 _ ho]
  simp only [decodeInteger, regField, predField, n0, n1, n2, n3, hg, fin_ofNat_val, ofNat_zero32, ofNat_zero8, ofNat_zero2, Nat.one_ne_zero, if_false, Bool.false_eq_true, whenZero, whenLegal, hw, if_true, Nat.add_zero, ne_eq, not_true_eq_false, false_or, or_self, and_self, Nat.zero_ne_one, reduceIte, Fin.val_zero, mul_div_mod]

theorem Laws.RoundTrip.or (g : Guard) (d a b : Reg) : Statement (.or g d a b) := by
  intro hw w h
  injection h with h
  subst h
  obtain ⟨hlt, ho, hg, n0, n1, n2, n3⟩ := encR_fields 1 g d a b 3 (by decide) d.isLt a.isLt b.isLt (by decide)
  generalize encR 0x01 g d a b 3 = w at hlt ho hg n0 n1 n2 n3 ⊢
  refine ⟨hlt, ?_⟩
  rw [decodeNat_01 _ ho]
  simp only [decodeInteger, regField, predField, n0, n1, n2, n3, hg, fin_ofNat_val, ofNat_zero32, ofNat_zero8, ofNat_zero2, Nat.one_ne_zero, if_false, Bool.false_eq_true, whenZero, whenLegal, hw, if_true, Nat.add_zero, ne_eq, not_true_eq_false, false_or, or_self, and_self, Nat.zero_ne_one, reduceIte, Fin.val_zero, mul_div_mod]

theorem Laws.RoundTrip.xor (g : Guard) (d a b : Reg) : Statement (.xor g d a b) := by
  intro hw w h
  injection h with h
  subst h
  obtain ⟨hlt, ho, hg, n0, n1, n2, n3⟩ := encR_fields 1 g d a b 4 (by decide) d.isLt a.isLt b.isLt (by decide)
  generalize encR 0x01 g d a b 4 = w at hlt ho hg n0 n1 n2 n3 ⊢
  refine ⟨hlt, ?_⟩
  rw [decodeNat_01 _ ho]
  simp only [decodeInteger, regField, predField, n0, n1, n2, n3, hg, fin_ofNat_val, ofNat_zero32, ofNat_zero8, ofNat_zero2, Nat.one_ne_zero, if_false, Bool.false_eq_true, whenZero, whenLegal, hw, if_true, Nat.add_zero, ne_eq, not_true_eq_false, false_or, or_self, and_self, Nat.zero_ne_one, reduceIte, Fin.val_zero, mul_div_mod]

theorem Laws.RoundTrip.sll (g : Guard) (d a b : Reg) : Statement (.sll g d a b) := by
  intro hw w h
  injection h with h
  subst h
  obtain ⟨hlt, ho, hg, n0, n1, n2, n3⟩ := encR_fields 1 g d a b 5 (by decide) d.isLt a.isLt b.isLt (by decide)
  generalize encR 0x01 g d a b 5 = w at hlt ho hg n0 n1 n2 n3 ⊢
  refine ⟨hlt, ?_⟩
  rw [decodeNat_01 _ ho]
  simp only [decodeInteger, regField, predField, n0, n1, n2, n3, hg, fin_ofNat_val, ofNat_zero32, ofNat_zero8, ofNat_zero2, Nat.one_ne_zero, if_false, Bool.false_eq_true, whenZero, whenLegal, hw, if_true, Nat.add_zero, ne_eq, not_true_eq_false, false_or, or_self, and_self, Nat.zero_ne_one, reduceIte, Fin.val_zero, mul_div_mod]

theorem Laws.RoundTrip.srl (g : Guard) (d a b : Reg) : Statement (.srl g d a b) := by
  intro hw w h
  injection h with h
  subst h
  obtain ⟨hlt, ho, hg, n0, n1, n2, n3⟩ := encR_fields 1 g d a b 6 (by decide) d.isLt a.isLt b.isLt (by decide)
  generalize encR 0x01 g d a b 6 = w at hlt ho hg n0 n1 n2 n3 ⊢
  refine ⟨hlt, ?_⟩
  rw [decodeNat_01 _ ho]
  simp only [decodeInteger, regField, predField, n0, n1, n2, n3, hg, fin_ofNat_val, ofNat_zero32, ofNat_zero8, ofNat_zero2, Nat.one_ne_zero, if_false, Bool.false_eq_true, whenZero, whenLegal, hw, if_true, Nat.add_zero, ne_eq, not_true_eq_false, false_or, or_self, and_self, Nat.zero_ne_one, reduceIte, Fin.val_zero, mul_div_mod]

theorem Laws.RoundTrip.sra (g : Guard) (d a b : Reg) : Statement (.sra g d a b) := by
  intro hw w h
  injection h with h
  subst h
  obtain ⟨hlt, ho, hg, n0, n1, n2, n3⟩ := encR_fields 1 g d a b 7 (by decide) d.isLt a.isLt b.isLt (by decide)
  generalize encR 0x01 g d a b 7 = w at hlt ho hg n0 n1 n2 n3 ⊢
  refine ⟨hlt, ?_⟩
  rw [decodeNat_01 _ ho]
  simp only [decodeInteger, regField, predField, n0, n1, n2, n3, hg, fin_ofNat_val, ofNat_zero32, ofNat_zero8, ofNat_zero2, Nat.one_ne_zero, if_false, Bool.false_eq_true, whenZero, whenLegal, hw, if_true, Nat.add_zero, ne_eq, not_true_eq_false, false_or, or_self, and_self, Nat.zero_ne_one, reduceIte, Fin.val_zero, mul_div_mod]

theorem Laws.RoundTrip.min (g : Guard) (d a b : Reg) : Statement (.min g d a b) := by
  intro hw w h
  injection h with h
  subst h
  obtain ⟨hlt, ho, hg, n0, n1, n2, n3⟩ := encR_fields 1 g d a b 8 (by decide) d.isLt a.isLt b.isLt (by decide)
  generalize encR 0x01 g d a b 8 = w at hlt ho hg n0 n1 n2 n3 ⊢
  refine ⟨hlt, ?_⟩
  rw [decodeNat_01 _ ho]
  simp only [decodeInteger, regField, predField, n0, n1, n2, n3, hg, fin_ofNat_val, ofNat_zero32, ofNat_zero8, ofNat_zero2, Nat.one_ne_zero, if_false, Bool.false_eq_true, whenZero, whenLegal, hw, if_true, Nat.add_zero, ne_eq, not_true_eq_false, false_or, or_self, and_self, Nat.zero_ne_one, reduceIte, Fin.val_zero, mul_div_mod]

theorem Laws.RoundTrip.max (g : Guard) (d a b : Reg) : Statement (.max g d a b) := by
  intro hw w h
  injection h with h
  subst h
  obtain ⟨hlt, ho, hg, n0, n1, n2, n3⟩ := encR_fields 1 g d a b 9 (by decide) d.isLt a.isLt b.isLt (by decide)
  generalize encR 0x01 g d a b 9 = w at hlt ho hg n0 n1 n2 n3 ⊢
  refine ⟨hlt, ?_⟩
  rw [decodeNat_01 _ ho]
  simp only [decodeInteger, regField, predField, n0, n1, n2, n3, hg, fin_ofNat_val, ofNat_zero32, ofNat_zero8, ofNat_zero2, Nat.one_ne_zero, if_false, Bool.false_eq_true, whenZero, whenLegal, hw, if_true, Nat.add_zero, ne_eq, not_true_eq_false, false_or, or_self, and_self, Nat.zero_ne_one, reduceIte, Fin.val_zero, mul_div_mod]

theorem Laws.RoundTrip.minu (g : Guard) (d a b : Reg) : Statement (.minu g d a b) := by
  intro hw w h
  injection h with h
  subst h
  obtain ⟨hlt, ho, hg, n0, n1, n2, n3⟩ := encR_fields 1 g d a b 10 (by decide) d.isLt a.isLt b.isLt (by decide)
  generalize encR 0x01 g d a b 10 = w at hlt ho hg n0 n1 n2 n3 ⊢
  refine ⟨hlt, ?_⟩
  rw [decodeNat_01 _ ho]
  simp only [decodeInteger, regField, predField, n0, n1, n2, n3, hg, fin_ofNat_val, ofNat_zero32, ofNat_zero8, ofNat_zero2, Nat.one_ne_zero, if_false, Bool.false_eq_true, whenZero, whenLegal, hw, if_true, Nat.add_zero, ne_eq, not_true_eq_false, false_or, or_self, and_self, Nat.zero_ne_one, reduceIte, Fin.val_zero, mul_div_mod]

theorem Laws.RoundTrip.maxu (g : Guard) (d a b : Reg) : Statement (.maxu g d a b) := by
  intro hw w h
  injection h with h
  subst h
  obtain ⟨hlt, ho, hg, n0, n1, n2, n3⟩ := encR_fields 1 g d a b 11 (by decide) d.isLt a.isLt b.isLt (by decide)
  generalize encR 0x01 g d a b 11 = w at hlt ho hg n0 n1 n2 n3 ⊢
  refine ⟨hlt, ?_⟩
  rw [decodeNat_01 _ ho]
  simp only [decodeInteger, regField, predField, n0, n1, n2, n3, hg, fin_ofNat_val, ofNat_zero32, ofNat_zero8, ofNat_zero2, Nat.one_ne_zero, if_false, Bool.false_eq_true, whenZero, whenLegal, hw, if_true, Nat.add_zero, ne_eq, not_true_eq_false, false_or, or_self, and_self, Nat.zero_ne_one, reduceIte, Fin.val_zero, mul_div_mod]

theorem Laws.RoundTrip.popc (g : Guard) (d a : Reg) : Statement (.popc g d a) := by
  intro hw w h
  injection h with h
  subst h
  obtain ⟨hlt, ho, hg, n0, n1, n2, n3⟩ := encR_fields 1 g d a 0 12 (by decide) d.isLt a.isLt (by decide) (by decide)
  generalize encR 0x01 g d a 0 12 = w at hlt ho hg n0 n1 n2 n3 ⊢
  refine ⟨hlt, ?_⟩
  rw [decodeNat_01 _ ho]
  simp only [decodeInteger, regField, predField, n0, n1, n2, n3, hg, fin_ofNat_val, ofNat_zero32, ofNat_zero8, ofNat_zero2, Nat.one_ne_zero, if_false, Bool.false_eq_true, whenZero, whenLegal, hw, if_true, Nat.add_zero, ne_eq, not_true_eq_false, false_or, or_self, and_self, Nat.zero_ne_one, reduceIte, Fin.val_zero, mul_div_mod]

theorem Laws.RoundTrip.clz (g : Guard) (d a : Reg) : Statement (.clz g d a) := by
  intro hw w h
  injection h with h
  subst h
  obtain ⟨hlt, ho, hg, n0, n1, n2, n3⟩ := encR_fields 1 g d a 0 13 (by decide) d.isLt a.isLt (by decide) (by decide)
  generalize encR 0x01 g d a 0 13 = w at hlt ho hg n0 n1 n2 n3 ⊢
  refine ⟨hlt, ?_⟩
  rw [decodeNat_01 _ ho]
  simp only [decodeInteger, regField, predField, n0, n1, n2, n3, hg, fin_ofNat_val, ofNat_zero32, ofNat_zero8, ofNat_zero2, Nat.one_ne_zero, if_false, Bool.false_eq_true, whenZero, whenLegal, hw, if_true, Nat.add_zero, ne_eq, not_true_eq_false, false_or, or_self, and_self, Nat.zero_ne_one, reduceIte, Fin.val_zero, mul_div_mod]

theorem Laws.RoundTrip.ctz (g : Guard) (d a : Reg) : Statement (.ctz g d a) := by
  intro hw w h
  injection h with h
  subst h
  obtain ⟨hlt, ho, hg, n0, n1, n2, n3⟩ := encR_fields 1 g d a 0 14 (by decide) d.isLt a.isLt (by decide) (by decide)
  generalize encR 0x01 g d a 0 14 = w at hlt ho hg n0 n1 n2 n3 ⊢
  refine ⟨hlt, ?_⟩
  rw [decodeNat_01 _ ho]
  simp only [decodeInteger, regField, predField, n0, n1, n2, n3, hg, fin_ofNat_val, ofNat_zero32, ofNat_zero8, ofNat_zero2, Nat.one_ne_zero, if_false, Bool.false_eq_true, whenZero, whenLegal, hw, if_true, Nat.add_zero, ne_eq, not_true_eq_false, false_or, or_self, and_self, Nat.zero_ne_one, reduceIte, Fin.val_zero, mul_div_mod]

theorem Laws.RoundTrip.addi (g : Guard) (d a : Reg) (imm : Fin 4096) : Statement (.addi g d a imm) := by
  intro hw w h
  injection h with h
  subst h
  obtain ⟨hlt, ho, hg, n0, n1, n2⟩ := encI_fields 2 g d a imm (by decide) d.isLt a.isLt imm.isLt
  generalize encI 0x02 g d a imm = w at hlt ho hg n0 n1 n2 ⊢
  refine ⟨hlt, ?_⟩
  rw [decodeNat_02 _ ho]
  simp only [regField, predField, n0, n1, n2, hg, fin_ofNat_val, ofNat_zero32, ofNat_zero8, ofNat_zero2, Nat.one_ne_zero, if_false, Bool.false_eq_true, whenZero, whenLegal, hw, if_true, Nat.add_zero, ne_eq, not_true_eq_false, false_or, or_self, and_self, Nat.zero_ne_one, reduceIte, Fin.val_zero, mul_div_mod]

theorem Laws.RoundTrip.andi (g : Guard) (d a : Reg) (imm : Fin 4096) : Statement (.andi g d a imm) := by
  intro hw w h
  injection h with h
  subst h
  obtain ⟨hlt, ho, hg, n0, n1, n2⟩ := encI_fields 3 g d a imm (by decide) d.isLt a.isLt imm.isLt
  generalize encI 0x03 g d a imm = w at hlt ho hg n0 n1 n2 ⊢
  refine ⟨hlt, ?_⟩
  rw [decodeNat_03 _ ho]
  simp only [regField, predField, n0, n1, n2, hg, fin_ofNat_val, ofNat_zero32, ofNat_zero8, ofNat_zero2, Nat.one_ne_zero, if_false, Bool.false_eq_true, whenZero, whenLegal, hw, if_true, Nat.add_zero, ne_eq, not_true_eq_false, false_or, or_self, and_self, Nat.zero_ne_one, reduceIte, Fin.val_zero, mul_div_mod]

theorem Laws.RoundTrip.ori (g : Guard) (d a : Reg) (imm : Fin 4096) : Statement (.ori g d a imm) := by
  intro hw w h
  injection h with h
  subst h
  obtain ⟨hlt, ho, hg, n0, n1, n2⟩ := encI_fields 4 g d a imm (by decide) d.isLt a.isLt imm.isLt
  generalize encI 0x04 g d a imm = w at hlt ho hg n0 n1 n2 ⊢
  refine ⟨hlt, ?_⟩
  rw [decodeNat_04 _ ho]
  simp only [regField, predField, n0, n1, n2, hg, fin_ofNat_val, ofNat_zero32, ofNat_zero8, ofNat_zero2, Nat.one_ne_zero, if_false, Bool.false_eq_true, whenZero, whenLegal, hw, if_true, Nat.add_zero, ne_eq, not_true_eq_false, false_or, or_self, and_self, Nat.zero_ne_one, reduceIte, Fin.val_zero, mul_div_mod]

theorem Laws.RoundTrip.xori (g : Guard) (d a : Reg) (imm : Fin 4096) : Statement (.xori g d a imm) := by
  intro hw w h
  injection h with h
  subst h
  obtain ⟨hlt, ho, hg, n0, n1, n2⟩ := encI_fields 5 g d a imm (by decide) d.isLt a.isLt imm.isLt
  generalize encI 0x05 g d a imm = w at hlt ho hg n0 n1 n2 ⊢
  refine ⟨hlt, ?_⟩
  rw [decodeNat_05 _ ho]
  simp only [regField, predField, n0, n1, n2, hg, fin_ofNat_val, ofNat_zero32, ofNat_zero8, ofNat_zero2, Nat.one_ne_zero, if_false, Bool.false_eq_true, whenZero, whenLegal, hw, if_true, Nat.add_zero, ne_eq, not_true_eq_false, false_or, or_self, and_self, Nat.zero_ne_one, reduceIte, Fin.val_zero, mul_div_mod]

theorem Laws.RoundTrip.slli (g : Guard) (d a : Reg) (amt : Fin 64) : Statement (.slli g d a amt) := by
  intro hw w h
  injection h with h
  subst h
  obtain ⟨hlt, ho, hg, n0, n1, n2⟩ := encI_fields 6 g d a (0 * 2 ^ 10 + amt) (by decide) d.isLt a.isLt (by omega)
  have h1 : wordField (encI 0x06 g d a (0 * 2 ^ 10 + amt)) 0 6 = amt.val := by
    rw [encI_low, wordField_low _ _ _ _ _ (by decide)]; simp only [wordField]; omega
  have h2 : wordField (encI 0x06 g d a (0 * 2 ^ 10 + amt)) 6 4 = 0 := by
    rw [encI_low, wordField_low _ _ _ _ _ (by decide)]; simp only [wordField]; omega
  have h3 : wordField (encI 0x06 g d a (0 * 2 ^ 10 + amt)) 10 2 = 0 := by
    rw [encI_low, wordField_low _ _ _ _ _ (by decide)]; simp only [wordField]; omega
  generalize encI 0x06 g d a (0 * 2 ^ 10 + amt) = w at hlt ho hg n0 n1 n2 h1 h2 h3 ⊢
  refine ⟨hlt, ?_⟩
  rw [decodeNat_06 _ ho]
  simp only [decodeShiftImm, regField, predField, n0, n1, n2, h1, h2, h3, hg, fin_ofNat_val, ofNat_zero32, ofNat_zero8, ofNat_zero2, Nat.one_ne_zero, if_false, Bool.false_eq_true, whenZero, whenLegal, hw, if_true, Nat.add_zero, ne_eq, not_true_eq_false, false_or, or_self, and_self, Nat.zero_ne_one, reduceIte, Fin.val_zero, mul_div_mod]

theorem Laws.RoundTrip.srli (g : Guard) (d a : Reg) (amt : Fin 64) : Statement (.srli g d a amt) := by
  intro hw w h
  injection h with h
  subst h
  obtain ⟨hlt, ho, hg, n0, n1, n2⟩ := encI_fields 6 g d a (1 * 2 ^ 10 + amt) (by decide) d.isLt a.isLt (by omega)
  have h1 : wordField (encI 0x06 g d a (1 * 2 ^ 10 + amt)) 0 6 = amt.val := by
    rw [encI_low, wordField_low _ _ _ _ _ (by decide)]; simp only [wordField]; omega
  have h2 : wordField (encI 0x06 g d a (1 * 2 ^ 10 + amt)) 6 4 = 0 := by
    rw [encI_low, wordField_low _ _ _ _ _ (by decide)]; simp only [wordField]; omega
  have h3 : wordField (encI 0x06 g d a (1 * 2 ^ 10 + amt)) 10 2 = 1 := by
    rw [encI_low, wordField_low _ _ _ _ _ (by decide)]; simp only [wordField]; omega
  generalize encI 0x06 g d a (1 * 2 ^ 10 + amt) = w at hlt ho hg n0 n1 n2 h1 h2 h3 ⊢
  refine ⟨hlt, ?_⟩
  rw [decodeNat_06 _ ho]
  simp only [decodeShiftImm, regField, predField, n0, n1, n2, h1, h2, h3, hg, fin_ofNat_val, ofNat_zero32, ofNat_zero8, ofNat_zero2, Nat.one_ne_zero, if_false, Bool.false_eq_true, whenZero, whenLegal, hw, if_true, Nat.add_zero, ne_eq, not_true_eq_false, false_or, or_self, and_self, Nat.zero_ne_one, reduceIte, Fin.val_zero, mul_div_mod]

theorem Laws.RoundTrip.srai (g : Guard) (d a : Reg) (amt : Fin 64) : Statement (.srai g d a amt) := by
  intro hw w h
  injection h with h
  subst h
  obtain ⟨hlt, ho, hg, n0, n1, n2⟩ := encI_fields 6 g d a (2 * 2 ^ 10 + amt) (by decide) d.isLt a.isLt (by omega)
  have h1 : wordField (encI 0x06 g d a (2 * 2 ^ 10 + amt)) 0 6 = amt.val := by
    rw [encI_low, wordField_low _ _ _ _ _ (by decide)]; simp only [wordField]; omega
  have h2 : wordField (encI 0x06 g d a (2 * 2 ^ 10 + amt)) 6 4 = 0 := by
    rw [encI_low, wordField_low _ _ _ _ _ (by decide)]; simp only [wordField]; omega
  have h3 : wordField (encI 0x06 g d a (2 * 2 ^ 10 + amt)) 10 2 = 2 := by
    rw [encI_low, wordField_low _ _ _ _ _ (by decide)]; simp only [wordField]; omega
  generalize encI 0x06 g d a (2 * 2 ^ 10 + amt) = w at hlt ho hg n0 n1 n2 h1 h2 h3 ⊢
  refine ⟨hlt, ?_⟩
  rw [decodeNat_06 _ ho]
  simp only [decodeShiftImm, regField, predField, n0, n1, n2, h1, h2, h3, hg, fin_ofNat_val, ofNat_zero32, ofNat_zero8, ofNat_zero2, Nat.one_ne_zero, if_false, Bool.false_eq_true, whenZero, whenLegal, hw, if_true, Nat.add_zero, ne_eq, not_true_eq_false, false_or, or_self, and_self, Nat.zero_ne_one, reduceIte, Fin.val_zero, mul_div_mod]

theorem Laws.RoundTrip.mul (g : Guard) (d a b : Reg) : Statement (.mul g d a b) := by
  intro hw w h
  injection h with h
  subst h
  obtain ⟨hlt, ho, hg, n0, n1, n2, n3⟩ := encR_fields 7 g d a b 0 (by decide) d.isLt a.isLt b.isLt (by decide)
  generalize encR 0x07 g d a b 0 = w at hlt ho hg n0 n1 n2 n3 ⊢
  refine ⟨hlt, ?_⟩
  rw [decodeNat_07 _ ho]
  simp only [decodeMulDiv, regField, predField, n0, n1, n2, n3, hg, fin_ofNat_val, ofNat_zero32, ofNat_zero8, ofNat_zero2, Nat.one_ne_zero, if_false, Bool.false_eq_true, whenZero, whenLegal, hw, if_true, Nat.add_zero, ne_eq, not_true_eq_false, false_or, or_self, and_self, Nat.zero_ne_one, reduceIte, Fin.val_zero, mul_div_mod]

theorem Laws.RoundTrip.mulh (g : Guard) (d a b : Reg) : Statement (.mulh g d a b) := by
  intro hw w h
  injection h with h
  subst h
  obtain ⟨hlt, ho, hg, n0, n1, n2, n3⟩ := encR_fields 7 g d a b 1 (by decide) d.isLt a.isLt b.isLt (by decide)
  generalize encR 0x07 g d a b 1 = w at hlt ho hg n0 n1 n2 n3 ⊢
  refine ⟨hlt, ?_⟩
  rw [decodeNat_07 _ ho]
  simp only [decodeMulDiv, regField, predField, n0, n1, n2, n3, hg, fin_ofNat_val, ofNat_zero32, ofNat_zero8, ofNat_zero2, Nat.one_ne_zero, if_false, Bool.false_eq_true, whenZero, whenLegal, hw, if_true, Nat.add_zero, ne_eq, not_true_eq_false, false_or, or_self, and_self, Nat.zero_ne_one, reduceIte, Fin.val_zero, mul_div_mod]

theorem Laws.RoundTrip.mulhu (g : Guard) (d a b : Reg) : Statement (.mulhu g d a b) := by
  intro hw w h
  injection h with h
  subst h
  obtain ⟨hlt, ho, hg, n0, n1, n2, n3⟩ := encR_fields 7 g d a b 2 (by decide) d.isLt a.isLt b.isLt (by decide)
  generalize encR 0x07 g d a b 2 = w at hlt ho hg n0 n1 n2 n3 ⊢
  refine ⟨hlt, ?_⟩
  rw [decodeNat_07 _ ho]
  simp only [decodeMulDiv, regField, predField, n0, n1, n2, n3, hg, fin_ofNat_val, ofNat_zero32, ofNat_zero8, ofNat_zero2, Nat.one_ne_zero, if_false, Bool.false_eq_true, whenZero, whenLegal, hw, if_true, Nat.add_zero, ne_eq, not_true_eq_false, false_or, or_self, and_self, Nat.zero_ne_one, reduceIte, Fin.val_zero, mul_div_mod]

theorem Laws.RoundTrip.div (g : Guard) (d a b : Reg) : Statement (.div g d a b) := by
  intro hw w h
  injection h with h
  subst h
  obtain ⟨hlt, ho, hg, n0, n1, n2, n3⟩ := encR_fields 7 g d a b 4 (by decide) d.isLt a.isLt b.isLt (by decide)
  generalize encR 0x07 g d a b 4 = w at hlt ho hg n0 n1 n2 n3 ⊢
  refine ⟨hlt, ?_⟩
  rw [decodeNat_07 _ ho]
  simp only [decodeMulDiv, regField, predField, n0, n1, n2, n3, hg, fin_ofNat_val, ofNat_zero32, ofNat_zero8, ofNat_zero2, Nat.one_ne_zero, if_false, Bool.false_eq_true, whenZero, whenLegal, hw, if_true, Nat.add_zero, ne_eq, not_true_eq_false, false_or, or_self, and_self, Nat.zero_ne_one, reduceIte, Fin.val_zero, mul_div_mod]

theorem Laws.RoundTrip.divu (g : Guard) (d a b : Reg) : Statement (.divu g d a b) := by
  intro hw w h
  injection h with h
  subst h
  obtain ⟨hlt, ho, hg, n0, n1, n2, n3⟩ := encR_fields 7 g d a b 5 (by decide) d.isLt a.isLt b.isLt (by decide)
  generalize encR 0x07 g d a b 5 = w at hlt ho hg n0 n1 n2 n3 ⊢
  refine ⟨hlt, ?_⟩
  rw [decodeNat_07 _ ho]
  simp only [decodeMulDiv, regField, predField, n0, n1, n2, n3, hg, fin_ofNat_val, ofNat_zero32, ofNat_zero8, ofNat_zero2, Nat.one_ne_zero, if_false, Bool.false_eq_true, whenZero, whenLegal, hw, if_true, Nat.add_zero, ne_eq, not_true_eq_false, false_or, or_self, and_self, Nat.zero_ne_one, reduceIte, Fin.val_zero, mul_div_mod]

theorem Laws.RoundTrip.rem (g : Guard) (d a b : Reg) : Statement (.rem g d a b) := by
  intro hw w h
  injection h with h
  subst h
  obtain ⟨hlt, ho, hg, n0, n1, n2, n3⟩ := encR_fields 7 g d a b 6 (by decide) d.isLt a.isLt b.isLt (by decide)
  generalize encR 0x07 g d a b 6 = w at hlt ho hg n0 n1 n2 n3 ⊢
  refine ⟨hlt, ?_⟩
  rw [decodeNat_07 _ ho]
  simp only [decodeMulDiv, regField, predField, n0, n1, n2, n3, hg, fin_ofNat_val, ofNat_zero32, ofNat_zero8, ofNat_zero2, Nat.one_ne_zero, if_false, Bool.false_eq_true, whenZero, whenLegal, hw, if_true, Nat.add_zero, ne_eq, not_true_eq_false, false_or, or_self, and_self, Nat.zero_ne_one, reduceIte, Fin.val_zero, mul_div_mod]

theorem Laws.RoundTrip.remu (g : Guard) (d a b : Reg) : Statement (.remu g d a b) := by
  intro hw w h
  injection h with h
  subst h
  obtain ⟨hlt, ho, hg, n0, n1, n2, n3⟩ := encR_fields 7 g d a b 7 (by decide) d.isLt a.isLt b.isLt (by decide)
  generalize encR 0x07 g d a b 7 = w at hlt ho hg n0 n1 n2 n3 ⊢
  refine ⟨hlt, ?_⟩
  rw [decodeNat_07 _ ho]
  simp only [decodeMulDiv, regField, predField, n0, n1, n2, n3, hg, fin_ofNat_val, ofNat_zero32, ofNat_zero8, ofNat_zero2, Nat.one_ne_zero, if_false, Bool.false_eq_true, whenZero, whenLegal, hw, if_true, Nat.add_zero, ne_eq, not_true_eq_false, false_or, or_self, and_self, Nat.zero_ne_one, reduceIte, Fin.val_zero, mul_div_mod]

theorem Laws.RoundTrip.lui (g : Guard) (d : Reg) (imm : Fin 131072) : Statement (.lui g d imm) := by
  intro hw w h
  injection h with h
  subst h
  obtain ⟨hlt, ho, hg, n0, n1⟩ := encU_fields 8 g d imm (by decide) d.isLt imm.isLt
  generalize encU 0x08 g d imm = w at hlt ho hg n0 n1 ⊢
  refine ⟨hlt, ?_⟩
  rw [decodeNat_08 _ ho]
  simp only [regField, predField, n0, n1, hg, fin_ofNat_val, ofNat_zero32, ofNat_zero8, ofNat_zero2, Nat.one_ne_zero, if_false, Bool.false_eq_true, whenZero, whenLegal, hw, if_true, Nat.add_zero, ne_eq, not_true_eq_false, false_or, or_self, and_self, Nat.zero_ne_one, reduceIte, Fin.val_zero, mul_div_mod]

theorem Laws.RoundTrip.auipc (g : Guard) (d : Reg) (imm : Fin 131072) : Statement (.auipc g d imm) := by
  intro hw w h
  injection h with h
  subst h
  obtain ⟨hlt, ho, hg, n0, n1⟩ := encU_fields 9 g d imm (by decide) d.isLt imm.isLt
  generalize encU 0x09 g d imm = w at hlt ho hg n0 n1 ⊢
  refine ⟨hlt, ?_⟩
  rw [decodeNat_09 _ ho]
  simp only [regField, predField, n0, n1, hg, fin_ofNat_val, ofNat_zero32, ofNat_zero8, ofNat_zero2, Nat.one_ne_zero, if_false, Bool.false_eq_true, whenZero, whenLegal, hw, if_true, Nat.add_zero, ne_eq, not_true_eq_false, false_or, or_self, and_self, Nat.zero_ne_one, reduceIte, Fin.val_zero, mul_div_mod]

theorem Laws.RoundTrip.ldb (g : Guard) (d a : Reg) (imm : Fin 4096) : Statement (.ldb g d a imm) := by
  intro hw w h
  injection h with h
  subst h
  obtain ⟨hlt, ho, hg, n0, n1, n2⟩ := encI_fields 10 g d a imm (by decide) d.isLt a.isLt imm.isLt
  generalize encI 0x0A g d a imm = w at hlt ho hg n0 n1 n2 ⊢
  refine ⟨hlt, ?_⟩
  rw [decodeNat_0A _ ho]
  simp only [regField, predField, n0, n1, n2, hg, fin_ofNat_val, ofNat_zero32, ofNat_zero8, ofNat_zero2, Nat.one_ne_zero, if_false, Bool.false_eq_true, whenZero, whenLegal, hw, if_true, Nat.add_zero, ne_eq, not_true_eq_false, false_or, or_self, and_self, Nat.zero_ne_one, reduceIte, Fin.val_zero, mul_div_mod]

theorem Laws.RoundTrip.ldbu (g : Guard) (d a : Reg) (imm : Fin 4096) : Statement (.ldbu g d a imm) := by
  intro hw w h
  injection h with h
  subst h
  obtain ⟨hlt, ho, hg, n0, n1, n2⟩ := encI_fields 11 g d a imm (by decide) d.isLt a.isLt imm.isLt
  generalize encI 0x0B g d a imm = w at hlt ho hg n0 n1 n2 ⊢
  refine ⟨hlt, ?_⟩
  rw [decodeNat_0B _ ho]
  simp only [regField, predField, n0, n1, n2, hg, fin_ofNat_val, ofNat_zero32, ofNat_zero8, ofNat_zero2, Nat.one_ne_zero, if_false, Bool.false_eq_true, whenZero, whenLegal, hw, if_true, Nat.add_zero, ne_eq, not_true_eq_false, false_or, or_self, and_self, Nat.zero_ne_one, reduceIte, Fin.val_zero, mul_div_mod]

theorem Laws.RoundTrip.ldh (g : Guard) (d a : Reg) (imm : Fin 4096) : Statement (.ldh g d a imm) := by
  intro hw w h
  injection h with h
  subst h
  obtain ⟨hlt, ho, hg, n0, n1, n2⟩ := encI_fields 12 g d a imm (by decide) d.isLt a.isLt imm.isLt
  generalize encI 0x0C g d a imm = w at hlt ho hg n0 n1 n2 ⊢
  refine ⟨hlt, ?_⟩
  rw [decodeNat_0C _ ho]
  simp only [regField, predField, n0, n1, n2, hg, fin_ofNat_val, ofNat_zero32, ofNat_zero8, ofNat_zero2, Nat.one_ne_zero, if_false, Bool.false_eq_true, whenZero, whenLegal, hw, if_true, Nat.add_zero, ne_eq, not_true_eq_false, false_or, or_self, and_self, Nat.zero_ne_one, reduceIte, Fin.val_zero, mul_div_mod]

theorem Laws.RoundTrip.ldhu (g : Guard) (d a : Reg) (imm : Fin 4096) : Statement (.ldhu g d a imm) := by
  intro hw w h
  injection h with h
  subst h
  obtain ⟨hlt, ho, hg, n0, n1, n2⟩ := encI_fields 13 g d a imm (by decide) d.isLt a.isLt imm.isLt
  generalize encI 0x0D g d a imm = w at hlt ho hg n0 n1 n2 ⊢
  refine ⟨hlt, ?_⟩
  rw [decodeNat_0D _ ho]
  simp only [regField, predField, n0, n1, n2, hg, fin_ofNat_val, ofNat_zero32, ofNat_zero8, ofNat_zero2, Nat.one_ne_zero, if_false, Bool.false_eq_true, whenZero, whenLegal, hw, if_true, Nat.add_zero, ne_eq, not_true_eq_false, false_or, or_self, and_self, Nat.zero_ne_one, reduceIte, Fin.val_zero, mul_div_mod]

theorem Laws.RoundTrip.ldw (g : Guard) (d a : Reg) (imm : Fin 4096) : Statement (.ldw g d a imm) := by
  intro hw w h
  injection h with h
  subst h
  obtain ⟨hlt, ho, hg, n0, n1, n2⟩ := encI_fields 14 g d a imm (by decide) d.isLt a.isLt imm.isLt
  generalize encI 0x0E g d a imm = w at hlt ho hg n0 n1 n2 ⊢
  refine ⟨hlt, ?_⟩
  rw [decodeNat_0E _ ho]
  simp only [regField, predField, n0, n1, n2, hg, fin_ofNat_val, ofNat_zero32, ofNat_zero8, ofNat_zero2, Nat.one_ne_zero, if_false, Bool.false_eq_true, whenZero, whenLegal, hw, if_true, Nat.add_zero, ne_eq, not_true_eq_false, false_or, or_self, and_self, Nat.zero_ne_one, reduceIte, Fin.val_zero, mul_div_mod]

theorem Laws.RoundTrip.ldwu (g : Guard) (d a : Reg) (imm : Fin 4096) : Statement (.ldwu g d a imm) := by
  intro hw w h
  injection h with h
  subst h
  obtain ⟨hlt, ho, hg, n0, n1, n2⟩ := encI_fields 15 g d a imm (by decide) d.isLt a.isLt imm.isLt
  generalize encI 0x0F g d a imm = w at hlt ho hg n0 n1 n2 ⊢
  refine ⟨hlt, ?_⟩
  rw [decodeNat_0F _ ho]
  simp only [regField, predField, n0, n1, n2, hg, fin_ofNat_val, ofNat_zero32, ofNat_zero8, ofNat_zero2, Nat.one_ne_zero, if_false, Bool.false_eq_true, whenZero, whenLegal, hw, if_true, Nat.add_zero, ne_eq, not_true_eq_false, false_or, or_self, and_self, Nat.zero_ne_one, reduceIte, Fin.val_zero, mul_div_mod]

theorem Laws.RoundTrip.ldd (g : Guard) (d a : Reg) (imm : Fin 4096) : Statement (.ldd g d a imm) := by
  intro hw w h
  injection h with h
  subst h
  obtain ⟨hlt, ho, hg, n0, n1, n2⟩ := encI_fields 16 g d a imm (by decide) d.isLt a.isLt imm.isLt
  generalize encI 0x10 g d a imm = w at hlt ho hg n0 n1 n2 ⊢
  refine ⟨hlt, ?_⟩
  rw [decodeNat_10 _ ho]
  simp only [regField, predField, n0, n1, n2, hg, fin_ofNat_val, ofNat_zero32, ofNat_zero8, ofNat_zero2, Nat.one_ne_zero, if_false, Bool.false_eq_true, whenZero, whenLegal, hw, if_true, Nat.add_zero, ne_eq, not_true_eq_false, false_or, or_self, and_self, Nat.zero_ne_one, reduceIte, Fin.val_zero, mul_div_mod]

theorem Laws.RoundTrip.stb (g : Guard) (a b : Reg) (imm : Fin 4096) : Statement (.stb g a b imm) := by
  intro hw w h
  injection h with h
  subst h
  obtain ⟨hlt, ho, hg, n0, n1, n2, n3⟩ := encS_fields 17 g a b imm (by decide) a.isLt b.isLt imm.isLt
  generalize encS 0x11 g a b imm = w at hlt ho hg n0 n1 n2 n3 ⊢
  refine ⟨hlt, ?_⟩
  rw [decodeNat_11 _ ho]
  simp only [regField, predField, n0, n1, n2, n3, hg, fin_ofNat_val, ofNat_zero32, ofNat_zero8, ofNat_zero2, Nat.one_ne_zero, if_false, Bool.false_eq_true, whenZero, whenLegal, hw, if_true, Nat.add_zero, ne_eq, not_true_eq_false, false_or, or_self, and_self, Nat.zero_ne_one, reduceIte, Fin.val_zero, mul_div_mod]

theorem Laws.RoundTrip.sth (g : Guard) (a b : Reg) (imm : Fin 4096) : Statement (.sth g a b imm) := by
  intro hw w h
  injection h with h
  subst h
  obtain ⟨hlt, ho, hg, n0, n1, n2, n3⟩ := encS_fields 18 g a b imm (by decide) a.isLt b.isLt imm.isLt
  generalize encS 0x12 g a b imm = w at hlt ho hg n0 n1 n2 n3 ⊢
  refine ⟨hlt, ?_⟩
  rw [decodeNat_12 _ ho]
  simp only [regField, predField, n0, n1, n2, n3, hg, fin_ofNat_val, ofNat_zero32, ofNat_zero8, ofNat_zero2, Nat.one_ne_zero, if_false, Bool.false_eq_true, whenZero, whenLegal, hw, if_true, Nat.add_zero, ne_eq, not_true_eq_false, false_or, or_self, and_self, Nat.zero_ne_one, reduceIte, Fin.val_zero, mul_div_mod]

theorem Laws.RoundTrip.stw (g : Guard) (a b : Reg) (imm : Fin 4096) : Statement (.stw g a b imm) := by
  intro hw w h
  injection h with h
  subst h
  obtain ⟨hlt, ho, hg, n0, n1, n2, n3⟩ := encS_fields 19 g a b imm (by decide) a.isLt b.isLt imm.isLt
  generalize encS 0x13 g a b imm = w at hlt ho hg n0 n1 n2 n3 ⊢
  refine ⟨hlt, ?_⟩
  rw [decodeNat_13 _ ho]
  simp only [regField, predField, n0, n1, n2, n3, hg, fin_ofNat_val, ofNat_zero32, ofNat_zero8, ofNat_zero2, Nat.one_ne_zero, if_false, Bool.false_eq_true, whenZero, whenLegal, hw, if_true, Nat.add_zero, ne_eq, not_true_eq_false, false_or, or_self, and_self, Nat.zero_ne_one, reduceIte, Fin.val_zero, mul_div_mod]

theorem Laws.RoundTrip.std (g : Guard) (a b : Reg) (imm : Fin 4096) : Statement (.std g a b imm) := by
  intro hw w h
  injection h with h
  subst h
  obtain ⟨hlt, ho, hg, n0, n1, n2, n3⟩ := encS_fields 20 g a b imm (by decide) a.isLt b.isLt imm.isLt
  generalize encS 0x14 g a b imm = w at hlt ho hg n0 n1 n2 n3 ⊢
  refine ⟨hlt, ?_⟩
  rw [decodeNat_14 _ ho]
  simp only [regField, predField, n0, n1, n2, n3, hg, fin_ofNat_val, ofNat_zero32, ofNat_zero8, ofNat_zero2, Nat.one_ne_zero, if_false, Bool.false_eq_true, whenZero, whenLegal, hw, if_true, Nat.add_zero, ne_eq, not_true_eq_false, false_or, or_self, and_self, Nat.zero_ne_one, reduceIte, Fin.val_zero, mul_div_mod]

theorem Laws.RoundTrip.cmp (g : Guard) (pd1 pd2 : Fin 8) (c : Cond) (a b : Reg) (f : Comb) : Statement (.cmp g pd1 pd2 c a b f) := by
  intro hw w h
  injection h with h
  subst h
  have := Cond.code_lt c
  have := Comb.code_lt f
  obtain ⟨hlt, ho, hg, n0, n1, n2, n3, n4⟩ := encP_fields 21 g pd1 pd2 c.code a (b * 2 ^ 2 + f.code) (by decide) pd1.isLt pd2.isLt (by omega) a.isLt (by omega)
  have h1 : wordField (encP 0x15 g pd1 pd2 c.code a (b * 2 ^ 2 + f.code)) 0 2 = f.code := by
    rw [encP_low, wordField_low _ _ _ _ _ (by decide)]; simp only [wordField]; omega
  have h2 : wordField (encP 0x15 g pd1 pd2 c.code a (b * 2 ^ 2 + f.code)) 2 5 = b.val := by
    rw [encP_low, wordField_low _ _ _ _ _ (by decide)]; simp only [wordField]; omega
  generalize encP 0x15 g pd1 pd2 c.code a (b * 2 ^ 2 + f.code) = w at hlt ho hg n0 n1 n2 n3 n4 h1 h2 ⊢
  refine ⟨hlt, ?_⟩
  rw [decodeNat_15 _ ho]
  rw [decodeCmp]
  try dsimp only
  rw [n2, condOfCode_code]
  try dsimp only
  simp only [regField, predField, n0, n1, n2, n3, n4, h1, h2, hg, combOfCode_code, condOfCode_code, fin_ofNat_val, ofNat_zero32, ofNat_zero8, ofNat_zero2, Nat.one_ne_zero, if_false, Bool.false_eq_true, whenZero, whenLegal, hw, if_true, Nat.add_zero, ne_eq, not_true_eq_false, false_or, or_self, and_self, Nat.zero_ne_one, reduceIte, Fin.val_zero, mul_div_mod]

theorem Laws.RoundTrip.cmpi (g : Guard) (pd1 pd2 : Fin 8) (c : Cond) (a : Reg) (imm : Fin 128) : Statement (.cmpi g pd1 pd2 c a imm) := by
  intro hw w h
  injection h with h
  subst h
  have := Cond.code_lt c
  obtain ⟨hlt, ho, hg, n0, n1, n2, n3, n4⟩ := encP_fields 22 g pd1 pd2 c.code a imm (by decide) pd1.isLt pd2.isLt (by omega) a.isLt imm.isLt
  generalize encP 0x16 g pd1 pd2 c.code a imm = w at hlt ho hg n0 n1 n2 n3 n4 ⊢
  refine ⟨hlt, ?_⟩
  rw [decodeNat_16 _ ho]
  rw [decodeCmpi]
  try dsimp only
  rw [n2, condOfCode_code]
  try dsimp only
  simp only [regField, predField, n0, n1, n2, n3, n4, hg, condOfCode_code, fin_ofNat_val, ofNat_zero32, ofNat_zero8, ofNat_zero2, Nat.one_ne_zero, if_false, Bool.false_eq_true, whenZero, whenLegal, hw, if_true, Nat.add_zero, ne_eq, not_true_eq_false, false_or, or_self, and_self, Nat.zero_ne_one, reduceIte, Fin.val_zero, mul_div_mod]

theorem Laws.RoundTrip.pand (g : Guard) (d a b : Fin 8) : Statement (.pand g d a b) := by
  intro hw w h
  injection h with h
  subst h
  obtain ⟨hlt, ho, hg, n0, n1, n2, n3⟩ := encR_fields 23 g d a b 0 (by decide) (by omega) (by omega) (by omega) (by decide)
  have h1 : wordField (encR 0x17 g d a b 0) 7 3 = b.val := by
    rw [encR_low, wordField_low _ _ _ _ _ (by decide)]; simp only [wordField]; omega
  have h2 : wordField (encR 0x17 g d a b 0) 10 2 = 0 := by
    rw [encR_low, wordField_low _ _ _ _ _ (by decide)]; simp only [wordField]; omega
  have h3 : wordField (encR 0x17 g d a b 0) 12 3 = a.val := by
    rw [encR_low, wordField_low _ _ _ _ _ (by decide)]; simp only [wordField]; omega
  have h4 : wordField (encR 0x17 g d a b 0) 15 2 = 0 := by
    rw [encR_low, wordField_low _ _ _ _ _ (by decide)]; simp only [wordField]; omega
  have h5 : wordField (encR 0x17 g d a b 0) 17 3 = d.val := by
    rw [encR_low, wordField_low _ _ _ _ _ (by decide)]; simp only [wordField]; omega
  have h6 : wordField (encR 0x17 g d a b 0) 20 2 = 0 := by
    rw [encR_low, wordField_low _ _ _ _ _ (by decide)]; simp only [wordField]; omega
  generalize encR 0x17 g d a b 0 = w at hlt ho hg n0 n1 n2 n3 h1 h2 h3 h4 h5 h6 ⊢
  refine ⟨hlt, ?_⟩
  rw [decodeNat_17 _ ho]
  simp only [decodePred, regField, predField, n0, n1, n2, n3, h1, h2, h3, h4, h5, h6, hg, fin_ofNat_val, ofNat_zero32, ofNat_zero8, ofNat_zero2, Nat.one_ne_zero, if_false, Bool.false_eq_true, whenZero, whenLegal, hw, if_true, Nat.add_zero, ne_eq, not_true_eq_false, false_or, or_self, and_self, Nat.zero_ne_one, reduceIte, Fin.val_zero, mul_div_mod]

theorem Laws.RoundTrip.por (g : Guard) (d a b : Fin 8) : Statement (.por g d a b) := by
  intro hw w h
  injection h with h
  subst h
  obtain ⟨hlt, ho, hg, n0, n1, n2, n3⟩ := encR_fields 23 g d a b 1 (by decide) (by omega) (by omega) (by omega) (by decide)
  have h1 : wordField (encR 0x17 g d a b 1) 7 3 = b.val := by
    rw [encR_low, wordField_low _ _ _ _ _ (by decide)]; simp only [wordField]; omega
  have h2 : wordField (encR 0x17 g d a b 1) 10 2 = 0 := by
    rw [encR_low, wordField_low _ _ _ _ _ (by decide)]; simp only [wordField]; omega
  have h3 : wordField (encR 0x17 g d a b 1) 12 3 = a.val := by
    rw [encR_low, wordField_low _ _ _ _ _ (by decide)]; simp only [wordField]; omega
  have h4 : wordField (encR 0x17 g d a b 1) 15 2 = 0 := by
    rw [encR_low, wordField_low _ _ _ _ _ (by decide)]; simp only [wordField]; omega
  have h5 : wordField (encR 0x17 g d a b 1) 17 3 = d.val := by
    rw [encR_low, wordField_low _ _ _ _ _ (by decide)]; simp only [wordField]; omega
  have h6 : wordField (encR 0x17 g d a b 1) 20 2 = 0 := by
    rw [encR_low, wordField_low _ _ _ _ _ (by decide)]; simp only [wordField]; omega
  generalize encR 0x17 g d a b 1 = w at hlt ho hg n0 n1 n2 n3 h1 h2 h3 h4 h5 h6 ⊢
  refine ⟨hlt, ?_⟩
  rw [decodeNat_17 _ ho]
  simp only [decodePred, regField, predField, n0, n1, n2, n3, h1, h2, h3, h4, h5, h6, hg, fin_ofNat_val, ofNat_zero32, ofNat_zero8, ofNat_zero2, Nat.one_ne_zero, if_false, Bool.false_eq_true, whenZero, whenLegal, hw, if_true, Nat.add_zero, ne_eq, not_true_eq_false, false_or, or_self, and_self, Nat.zero_ne_one, reduceIte, Fin.val_zero, mul_div_mod]

theorem Laws.RoundTrip.pxor (g : Guard) (d a b : Fin 8) : Statement (.pxor g d a b) := by
  intro hw w h
  injection h with h
  subst h
  obtain ⟨hlt, ho, hg, n0, n1, n2, n3⟩ := encR_fields 23 g d a b 2 (by decide) (by omega) (by omega) (by omega) (by decide)
  have h1 : wordField (encR 0x17 g d a b 2) 7 3 = b.val := by
    rw [encR_low, wordField_low _ _ _ _ _ (by decide)]; simp only [wordField]; omega
  have h2 : wordField (encR 0x17 g d a b 2) 10 2 = 0 := by
    rw [encR_low, wordField_low _ _ _ _ _ (by decide)]; simp only [wordField]; omega
  have h3 : wordField (encR 0x17 g d a b 2) 12 3 = a.val := by
    rw [encR_low, wordField_low _ _ _ _ _ (by decide)]; simp only [wordField]; omega
  have h4 : wordField (encR 0x17 g d a b 2) 15 2 = 0 := by
    rw [encR_low, wordField_low _ _ _ _ _ (by decide)]; simp only [wordField]; omega
  have h5 : wordField (encR 0x17 g d a b 2) 17 3 = d.val := by
    rw [encR_low, wordField_low _ _ _ _ _ (by decide)]; simp only [wordField]; omega
  have h6 : wordField (encR 0x17 g d a b 2) 20 2 = 0 := by
    rw [encR_low, wordField_low _ _ _ _ _ (by decide)]; simp only [wordField]; omega
  generalize encR 0x17 g d a b 2 = w at hlt ho hg n0 n1 n2 n3 h1 h2 h3 h4 h5 h6 ⊢
  refine ⟨hlt, ?_⟩
  rw [decodeNat_17 _ ho]
  simp only [decodePred, regField, predField, n0, n1, n2, n3, h1, h2, h3, h4, h5, h6, hg, fin_ofNat_val, ofNat_zero32, ofNat_zero8, ofNat_zero2, Nat.one_ne_zero, if_false, Bool.false_eq_true, whenZero, whenLegal, hw, if_true, Nat.add_zero, ne_eq, not_true_eq_false, false_or, or_self, and_self, Nat.zero_ne_one, reduceIte, Fin.val_zero, mul_div_mod]

theorem Laws.RoundTrip.pandn (g : Guard) (d a b : Fin 8) : Statement (.pandn g d a b) := by
  intro hw w h
  injection h with h
  subst h
  obtain ⟨hlt, ho, hg, n0, n1, n2, n3⟩ := encR_fields 23 g d a b 3 (by decide) (by omega) (by omega) (by omega) (by decide)
  have h1 : wordField (encR 0x17 g d a b 3) 7 3 = b.val := by
    rw [encR_low, wordField_low _ _ _ _ _ (by decide)]; simp only [wordField]; omega
  have h2 : wordField (encR 0x17 g d a b 3) 10 2 = 0 := by
    rw [encR_low, wordField_low _ _ _ _ _ (by decide)]; simp only [wordField]; omega
  have h3 : wordField (encR 0x17 g d a b 3) 12 3 = a.val := by
    rw [encR_low, wordField_low _ _ _ _ _ (by decide)]; simp only [wordField]; omega
  have h4 : wordField (encR 0x17 g d a b 3) 15 2 = 0 := by
    rw [encR_low, wordField_low _ _ _ _ _ (by decide)]; simp only [wordField]; omega
  have h5 : wordField (encR 0x17 g d a b 3) 17 3 = d.val := by
    rw [encR_low, wordField_low _ _ _ _ _ (by decide)]; simp only [wordField]; omega
  have h6 : wordField (encR 0x17 g d a b 3) 20 2 = 0 := by
    rw [encR_low, wordField_low _ _ _ _ _ (by decide)]; simp only [wordField]; omega
  generalize encR 0x17 g d a b 3 = w at hlt ho hg n0 n1 n2 n3 h1 h2 h3 h4 h5 h6 ⊢
  refine ⟨hlt, ?_⟩
  rw [decodeNat_17 _ ho]
  simp only [decodePred, regField, predField, n0, n1, n2, n3, h1, h2, h3, h4, h5, h6, hg, fin_ofNat_val, ofNat_zero32, ofNat_zero8, ofNat_zero2, Nat.one_ne_zero, if_false, Bool.false_eq_true, whenZero, whenLegal, hw, if_true, Nat.add_zero, ne_eq, not_true_eq_false, false_or, or_self, and_self, Nat.zero_ne_one, reduceIte, Fin.val_zero, mul_div_mod]

theorem Laws.RoundTrip.pgetx (g : Guard) (d : Reg) (a : Fin 8) : Statement (.pgetx g d a) := by
  intro hw w h
  injection h with h
  subst h
  obtain ⟨hlt, ho, hg, n0, n1, n2, n3⟩ := encR_fields 23 g d a 0 4 (by decide) d.isLt (by omega) (by decide) (by decide)
  have h1 : wordField (encR 0x17 g d a 0 4) 12 3 = a.val := by
    rw [encR_low, wordField_low _ _ _ _ _ (by decide)]; simp only [wordField]; omega
  have h2 : wordField (encR 0x17 g d a 0 4) 15 2 = 0 := by
    rw [encR_low, wordField_low _ _ _ _ _ (by decide)]; simp only [wordField]; omega
  generalize encR 0x17 g d a 0 4 = w at hlt ho hg n0 n1 n2 n3 h1 h2 ⊢
  refine ⟨hlt, ?_⟩
  rw [decodeNat_17 _ ho]
  simp only [decodePred, regField, predField, n0, n1, n2, n3, h1, h2, hg, fin_ofNat_val, ofNat_zero32, ofNat_zero8, ofNat_zero2, Nat.one_ne_zero, if_false, Bool.false_eq_true, whenZero, whenLegal, hw, if_true, Nat.add_zero, ne_eq, not_true_eq_false, false_or, or_self, and_self, Nat.zero_ne_one, reduceIte, Fin.val_zero, mul_div_mod]

theorem Laws.RoundTrip.psetx (g : Guard) (d : Fin 8) (a : Reg) : Statement (.psetx g d a) := by
  intro hw w h
  injection h with h
  subst h
  obtain ⟨hlt, ho, hg, n0, n1, n2, n3⟩ := encR_fields 23 g d a 0 5 (by decide) (by omega) a.isLt (by decide) (by decide)
  have h1 : wordField (encR 0x17 g d a 0 5) 17 3 = d.val := by
    rw [encR_low, wordField_low _ _ _ _ _ (by decide)]; simp only [wordField]; omega
  have h2 : wordField (encR 0x17 g d a 0 5) 20 2 = 0 := by
    rw [encR_low, wordField_low _ _ _ _ _ (by decide)]; simp only [wordField]; omega
  generalize encR 0x17 g d a 0 5 = w at hlt ho hg n0 n1 n2 n3 h1 h2 ⊢
  refine ⟨hlt, ?_⟩
  rw [decodeNat_17 _ ho]
  simp only [decodePred, regField, predField, n0, n1, n2, n3, h1, h2, hg, fin_ofNat_val, ofNat_zero32, ofNat_zero8, ofNat_zero2, Nat.one_ne_zero, if_false, Bool.false_eq_true, whenZero, whenLegal, hw, if_true, Nat.add_zero, ne_eq, not_true_eq_false, false_or, or_self, and_self, Nat.zero_ne_one, reduceIte, Fin.val_zero, mul_div_mod]

theorem Laws.RoundTrip.br (g : Guard) (imm : Fin 4194304) : Statement (.br g imm) := by
  intro hw w h
  injection h with h
  subst h
  obtain ⟨hlt, ho, hg, n0⟩ := encJ_fields 24 g imm (by decide) imm.isLt
  generalize encJ 0x18 g imm = w at hlt ho hg n0 ⊢
  refine ⟨hlt, ?_⟩
  rw [decodeNat_18 _ ho]
  simp only [regField, predField, n0, hg, fin_ofNat_val, ofNat_zero32, ofNat_zero8, ofNat_zero2, Nat.one_ne_zero, if_false, Bool.false_eq_true, whenZero, whenLegal, hw, if_true, Nat.add_zero, ne_eq, not_true_eq_false, false_or, or_self, and_self, Nat.zero_ne_one, reduceIte, Fin.val_zero, mul_div_mod]

theorem Laws.RoundTrip.jal (g : Guard) (d : Reg) (imm : Fin 131072) : Statement (.jal g d imm) := by
  intro hw w h
  injection h with h
  subst h
  obtain ⟨hlt, ho, hg, n0, n1⟩ := encU_fields 25 g d imm (by decide) d.isLt imm.isLt
  generalize encU 0x19 g d imm = w at hlt ho hg n0 n1 ⊢
  refine ⟨hlt, ?_⟩
  rw [decodeNat_19 _ ho]
  simp only [regField, predField, n0, n1, hg, fin_ofNat_val, ofNat_zero32, ofNat_zero8, ofNat_zero2, Nat.one_ne_zero, if_false, Bool.false_eq_true, whenZero, whenLegal, hw, if_true, Nat.add_zero, ne_eq, not_true_eq_false, false_or, or_self, and_self, Nat.zero_ne_one, reduceIte, Fin.val_zero, mul_div_mod]

theorem Laws.RoundTrip.jalr (g : Guard) (d a : Reg) (imm : Fin 4096) : Statement (.jalr g d a imm) := by
  intro hw w h
  injection h with h
  subst h
  obtain ⟨hlt, ho, hg, n0, n1, n2⟩ := encI_fields 26 g d a imm (by decide) d.isLt a.isLt imm.isLt
  generalize encI 0x1A g d a imm = w at hlt ho hg n0 n1 n2 ⊢
  refine ⟨hlt, ?_⟩
  rw [decodeNat_1A _ ho]
  simp only [regField, predField, n0, n1, n2, hg, fin_ofNat_val, ofNat_zero32, ofNat_zero8, ofNat_zero2, Nat.one_ne_zero, if_false, Bool.false_eq_true, whenZero, whenLegal, hw, if_true, Nat.add_zero, ne_eq, not_true_eq_false, false_or, or_self, and_self, Nat.zero_ne_one, reduceIte, Fin.val_zero, mul_div_mod]

theorem Laws.RoundTrip.amowSwap (g : Guard) (d a b : Reg) (ord : Order) (sc : Fin 4) : Statement (.amowSwap g d a b ord sc) := by
  intro hw w h
  injection h with h
  subst h
  have := Order.code_lt ord
  obtain ⟨hlt, ho, hg, n0, n1, n2, n3⟩ := encR_fields 27 g d a b (encAtomF 0 ord sc) (by decide) d.isLt a.isLt b.isLt (by simp only [encAtomF]; omega)
  have h1 : wordField (encR 0x1B g d a b (encAtomF 0 ord sc)) 0 2 = sc.val := by
    rw [encR_low, wordField_low _ _ _ _ _ (by decide)]; simp only [wordField, encAtomF]; omega
  have h2 : wordField (encR 0x1B g d a b (encAtomF 0 ord sc)) 2 2 = ord.code := by
    rw [encR_low, wordField_low _ _ _ _ _ (by decide)]; simp only [wordField, encAtomF]; omega
  have h3 : wordField (encR 0x1B g d a b (encAtomF 0 ord sc)) 4 3 = 0 := by
    rw [encR_low, wordField_low _ _ _ _ _ (by decide)]; simp only [wordField, encAtomF]; omega
  generalize encR 0x1B g d a b (encAtomF 0 ord sc) = w at hlt ho hg n0 n1 n2 n3 h1 h2 h3 ⊢
  refine ⟨hlt, ?_⟩
  rw [decodeNat_1B _ ho]
  simp only [decodeAmow, regField, predField, n0, n1, n2, n3, h1, h2, h3, hg, orderOfCode_code, fin_ofNat_val, ofNat_zero32, ofNat_zero8, ofNat_zero2, Nat.one_ne_zero, if_false, Bool.false_eq_true, whenZero, whenLegal, hw, if_true, Nat.add_zero, ne_eq, not_true_eq_false, false_or, or_self, and_self, Nat.zero_ne_one, reduceIte, Fin.val_zero, mul_div_mod]

theorem Laws.RoundTrip.amowAdd (g : Guard) (d a b : Reg) (ord : Order) (sc : Fin 4) : Statement (.amowAdd g d a b ord sc) := by
  intro hw w h
  injection h with h
  subst h
  have := Order.code_lt ord
  obtain ⟨hlt, ho, hg, n0, n1, n2, n3⟩ := encR_fields 27 g d a b (encAtomF 1 ord sc) (by decide) d.isLt a.isLt b.isLt (by simp only [encAtomF]; omega)
  have h1 : wordField (encR 0x1B g d a b (encAtomF 1 ord sc)) 0 2 = sc.val := by
    rw [encR_low, wordField_low _ _ _ _ _ (by decide)]; simp only [wordField, encAtomF]; omega
  have h2 : wordField (encR 0x1B g d a b (encAtomF 1 ord sc)) 2 2 = ord.code := by
    rw [encR_low, wordField_low _ _ _ _ _ (by decide)]; simp only [wordField, encAtomF]; omega
  have h3 : wordField (encR 0x1B g d a b (encAtomF 1 ord sc)) 4 3 = 1 := by
    rw [encR_low, wordField_low _ _ _ _ _ (by decide)]; simp only [wordField, encAtomF]; omega
  generalize encR 0x1B g d a b (encAtomF 1 ord sc) = w at hlt ho hg n0 n1 n2 n3 h1 h2 h3 ⊢
  refine ⟨hlt, ?_⟩
  rw [decodeNat_1B _ ho]
  simp only [decodeAmow, regField, predField, n0, n1, n2, n3, h1, h2, h3, hg, orderOfCode_code, fin_ofNat_val, ofNat_zero32, ofNat_zero8, ofNat_zero2, Nat.one_ne_zero, if_false, Bool.false_eq_true, whenZero, whenLegal, hw, if_true, Nat.add_zero, ne_eq, not_true_eq_false, false_or, or_self, and_self, Nat.zero_ne_one, reduceIte, Fin.val_zero, mul_div_mod]

theorem Laws.RoundTrip.amowAnd (g : Guard) (d a b : Reg) (ord : Order) (sc : Fin 4) : Statement (.amowAnd g d a b ord sc) := by
  intro hw w h
  injection h with h
  subst h
  have := Order.code_lt ord
  obtain ⟨hlt, ho, hg, n0, n1, n2, n3⟩ := encR_fields 27 g d a b (encAtomF 2 ord sc) (by decide) d.isLt a.isLt b.isLt (by simp only [encAtomF]; omega)
  have h1 : wordField (encR 0x1B g d a b (encAtomF 2 ord sc)) 0 2 = sc.val := by
    rw [encR_low, wordField_low _ _ _ _ _ (by decide)]; simp only [wordField, encAtomF]; omega
  have h2 : wordField (encR 0x1B g d a b (encAtomF 2 ord sc)) 2 2 = ord.code := by
    rw [encR_low, wordField_low _ _ _ _ _ (by decide)]; simp only [wordField, encAtomF]; omega
  have h3 : wordField (encR 0x1B g d a b (encAtomF 2 ord sc)) 4 3 = 2 := by
    rw [encR_low, wordField_low _ _ _ _ _ (by decide)]; simp only [wordField, encAtomF]; omega
  generalize encR 0x1B g d a b (encAtomF 2 ord sc) = w at hlt ho hg n0 n1 n2 n3 h1 h2 h3 ⊢
  refine ⟨hlt, ?_⟩
  rw [decodeNat_1B _ ho]
  simp only [decodeAmow, regField, predField, n0, n1, n2, n3, h1, h2, h3, hg, orderOfCode_code, fin_ofNat_val, ofNat_zero32, ofNat_zero8, ofNat_zero2, Nat.one_ne_zero, if_false, Bool.false_eq_true, whenZero, whenLegal, hw, if_true, Nat.add_zero, ne_eq, not_true_eq_false, false_or, or_self, and_self, Nat.zero_ne_one, reduceIte, Fin.val_zero, mul_div_mod]

theorem Laws.RoundTrip.amowOr (g : Guard) (d a b : Reg) (ord : Order) (sc : Fin 4) : Statement (.amowOr g d a b ord sc) := by
  intro hw w h
  injection h with h
  subst h
  have := Order.code_lt ord
  obtain ⟨hlt, ho, hg, n0, n1, n2, n3⟩ := encR_fields 27 g d a b (encAtomF 3 ord sc) (by decide) d.isLt a.isLt b.isLt (by simp only [encAtomF]; omega)
  have h1 : wordField (encR 0x1B g d a b (encAtomF 3 ord sc)) 0 2 = sc.val := by
    rw [encR_low, wordField_low _ _ _ _ _ (by decide)]; simp only [wordField, encAtomF]; omega
  have h2 : wordField (encR 0x1B g d a b (encAtomF 3 ord sc)) 2 2 = ord.code := by
    rw [encR_low, wordField_low _ _ _ _ _ (by decide)]; simp only [wordField, encAtomF]; omega
  have h3 : wordField (encR 0x1B g d a b (encAtomF 3 ord sc)) 4 3 = 3 := by
    rw [encR_low, wordField_low _ _ _ _ _ (by decide)]; simp only [wordField, encAtomF]; omega
  generalize encR 0x1B g d a b (encAtomF 3 ord sc) = w at hlt ho hg n0 n1 n2 n3 h1 h2 h3 ⊢
  refine ⟨hlt, ?_⟩
  rw [decodeNat_1B _ ho]
  simp only [decodeAmow, regField, predField, n0, n1, n2, n3, h1, h2, h3, hg, orderOfCode_code, fin_ofNat_val, ofNat_zero32, ofNat_zero8, ofNat_zero2, Nat.one_ne_zero, if_false, Bool.false_eq_true, whenZero, whenLegal, hw, if_true, Nat.add_zero, ne_eq, not_true_eq_false, false_or, or_self, and_self, Nat.zero_ne_one, reduceIte, Fin.val_zero, mul_div_mod]

theorem Laws.RoundTrip.amowXor (g : Guard) (d a b : Reg) (ord : Order) (sc : Fin 4) : Statement (.amowXor g d a b ord sc) := by
  intro hw w h
  injection h with h
  subst h
  have := Order.code_lt ord
  obtain ⟨hlt, ho, hg, n0, n1, n2, n3⟩ := encR_fields 27 g d a b (encAtomF 4 ord sc) (by decide) d.isLt a.isLt b.isLt (by simp only [encAtomF]; omega)
  have h1 : wordField (encR 0x1B g d a b (encAtomF 4 ord sc)) 0 2 = sc.val := by
    rw [encR_low, wordField_low _ _ _ _ _ (by decide)]; simp only [wordField, encAtomF]; omega
  have h2 : wordField (encR 0x1B g d a b (encAtomF 4 ord sc)) 2 2 = ord.code := by
    rw [encR_low, wordField_low _ _ _ _ _ (by decide)]; simp only [wordField, encAtomF]; omega
  have h3 : wordField (encR 0x1B g d a b (encAtomF 4 ord sc)) 4 3 = 4 := by
    rw [encR_low, wordField_low _ _ _ _ _ (by decide)]; simp only [wordField, encAtomF]; omega
  generalize encR 0x1B g d a b (encAtomF 4 ord sc) = w at hlt ho hg n0 n1 n2 n3 h1 h2 h3 ⊢
  refine ⟨hlt, ?_⟩
  rw [decodeNat_1B _ ho]
  simp only [decodeAmow, regField, predField, n0, n1, n2, n3, h1, h2, h3, hg, orderOfCode_code, fin_ofNat_val, ofNat_zero32, ofNat_zero8, ofNat_zero2, Nat.one_ne_zero, if_false, Bool.false_eq_true, whenZero, whenLegal, hw, if_true, Nat.add_zero, ne_eq, not_true_eq_false, false_or, or_self, and_self, Nat.zero_ne_one, reduceIte, Fin.val_zero, mul_div_mod]

theorem Laws.RoundTrip.amowMin (g : Guard) (d a b : Reg) (ord : Order) (sc : Fin 4) : Statement (.amowMin g d a b ord sc) := by
  intro hw w h
  injection h with h
  subst h
  have := Order.code_lt ord
  obtain ⟨hlt, ho, hg, n0, n1, n2, n3⟩ := encR_fields 27 g d a b (encAtomF 5 ord sc) (by decide) d.isLt a.isLt b.isLt (by simp only [encAtomF]; omega)
  have h1 : wordField (encR 0x1B g d a b (encAtomF 5 ord sc)) 0 2 = sc.val := by
    rw [encR_low, wordField_low _ _ _ _ _ (by decide)]; simp only [wordField, encAtomF]; omega
  have h2 : wordField (encR 0x1B g d a b (encAtomF 5 ord sc)) 2 2 = ord.code := by
    rw [encR_low, wordField_low _ _ _ _ _ (by decide)]; simp only [wordField, encAtomF]; omega
  have h3 : wordField (encR 0x1B g d a b (encAtomF 5 ord sc)) 4 3 = 5 := by
    rw [encR_low, wordField_low _ _ _ _ _ (by decide)]; simp only [wordField, encAtomF]; omega
  generalize encR 0x1B g d a b (encAtomF 5 ord sc) = w at hlt ho hg n0 n1 n2 n3 h1 h2 h3 ⊢
  refine ⟨hlt, ?_⟩
  rw [decodeNat_1B _ ho]
  simp only [decodeAmow, regField, predField, n0, n1, n2, n3, h1, h2, h3, hg, orderOfCode_code, fin_ofNat_val, ofNat_zero32, ofNat_zero8, ofNat_zero2, Nat.one_ne_zero, if_false, Bool.false_eq_true, whenZero, whenLegal, hw, if_true, Nat.add_zero, ne_eq, not_true_eq_false, false_or, or_self, and_self, Nat.zero_ne_one, reduceIte, Fin.val_zero, mul_div_mod]

theorem Laws.RoundTrip.amowMax (g : Guard) (d a b : Reg) (ord : Order) (sc : Fin 4) : Statement (.amowMax g d a b ord sc) := by
  intro hw w h
  injection h with h
  subst h
  have := Order.code_lt ord
  obtain ⟨hlt, ho, hg, n0, n1, n2, n3⟩ := encR_fields 27 g d a b (encAtomF 6 ord sc) (by decide) d.isLt a.isLt b.isLt (by simp only [encAtomF]; omega)
  have h1 : wordField (encR 0x1B g d a b (encAtomF 6 ord sc)) 0 2 = sc.val := by
    rw [encR_low, wordField_low _ _ _ _ _ (by decide)]; simp only [wordField, encAtomF]; omega
  have h2 : wordField (encR 0x1B g d a b (encAtomF 6 ord sc)) 2 2 = ord.code := by
    rw [encR_low, wordField_low _ _ _ _ _ (by decide)]; simp only [wordField, encAtomF]; omega
  have h3 : wordField (encR 0x1B g d a b (encAtomF 6 ord sc)) 4 3 = 6 := by
    rw [encR_low, wordField_low _ _ _ _ _ (by decide)]; simp only [wordField, encAtomF]; omega
  generalize encR 0x1B g d a b (encAtomF 6 ord sc) = w at hlt ho hg n0 n1 n2 n3 h1 h2 h3 ⊢
  refine ⟨hlt, ?_⟩
  rw [decodeNat_1B _ ho]
  simp only [decodeAmow, regField, predField, n0, n1, n2, n3, h1, h2, h3, hg, orderOfCode_code, fin_ofNat_val, ofNat_zero32, ofNat_zero8, ofNat_zero2, Nat.one_ne_zero, if_false, Bool.false_eq_true, whenZero, whenLegal, hw, if_true, Nat.add_zero, ne_eq, not_true_eq_false, false_or, or_self, and_self, Nat.zero_ne_one, reduceIte, Fin.val_zero, mul_div_mod]

theorem Laws.RoundTrip.amowCas (g : Guard) (d a b : Reg) (ord : Order) (sc : Fin 4) : Statement (.amowCas g d a b ord sc) := by
  intro hw w h
  injection h with h
  subst h
  have := Order.code_lt ord
  obtain ⟨hlt, ho, hg, n0, n1, n2, n3⟩ := encR_fields 27 g d a b (encAtomF 7 ord sc) (by decide) d.isLt a.isLt b.isLt (by simp only [encAtomF]; omega)
  have h1 : wordField (encR 0x1B g d a b (encAtomF 7 ord sc)) 0 2 = sc.val := by
    rw [encR_low, wordField_low _ _ _ _ _ (by decide)]; simp only [wordField, encAtomF]; omega
  have h2 : wordField (encR 0x1B g d a b (encAtomF 7 ord sc)) 2 2 = ord.code := by
    rw [encR_low, wordField_low _ _ _ _ _ (by decide)]; simp only [wordField, encAtomF]; omega
  have h3 : wordField (encR 0x1B g d a b (encAtomF 7 ord sc)) 4 3 = 7 := by
    rw [encR_low, wordField_low _ _ _ _ _ (by decide)]; simp only [wordField, encAtomF]; omega
  generalize encR 0x1B g d a b (encAtomF 7 ord sc) = w at hlt ho hg n0 n1 n2 n3 h1 h2 h3 ⊢
  refine ⟨hlt, ?_⟩
  rw [decodeNat_1B _ ho]
  simp only [decodeAmow, regField, predField, n0, n1, n2, n3, h1, h2, h3, hg, orderOfCode_code, fin_ofNat_val, ofNat_zero32, ofNat_zero8, ofNat_zero2, Nat.one_ne_zero, if_false, Bool.false_eq_true, whenZero, whenLegal, hw, if_true, Nat.add_zero, ne_eq, not_true_eq_false, false_or, or_self, and_self, Nat.zero_ne_one, reduceIte, Fin.val_zero, mul_div_mod]

theorem Laws.RoundTrip.amodSwap (g : Guard) (d a b : Reg) (ord : Order) (sc : Fin 4) : Statement (.amodSwap g d a b ord sc) := by
  intro hw w h
  injection h with h
  subst h
  have := Order.code_lt ord
  obtain ⟨hlt, ho, hg, n0, n1, n2, n3⟩ := encR_fields 28 g d a b (encAtomF 0 ord sc) (by decide) d.isLt a.isLt b.isLt (by simp only [encAtomF]; omega)
  have h1 : wordField (encR 0x1C g d a b (encAtomF 0 ord sc)) 0 2 = sc.val := by
    rw [encR_low, wordField_low _ _ _ _ _ (by decide)]; simp only [wordField, encAtomF]; omega
  have h2 : wordField (encR 0x1C g d a b (encAtomF 0 ord sc)) 2 2 = ord.code := by
    rw [encR_low, wordField_low _ _ _ _ _ (by decide)]; simp only [wordField, encAtomF]; omega
  have h3 : wordField (encR 0x1C g d a b (encAtomF 0 ord sc)) 4 3 = 0 := by
    rw [encR_low, wordField_low _ _ _ _ _ (by decide)]; simp only [wordField, encAtomF]; omega
  generalize encR 0x1C g d a b (encAtomF 0 ord sc) = w at hlt ho hg n0 n1 n2 n3 h1 h2 h3 ⊢
  refine ⟨hlt, ?_⟩
  rw [decodeNat_1C _ ho]
  simp only [decodeAmod, regField, predField, n0, n1, n2, n3, h1, h2, h3, hg, orderOfCode_code, fin_ofNat_val, ofNat_zero32, ofNat_zero8, ofNat_zero2, Nat.one_ne_zero, if_false, Bool.false_eq_true, whenZero, whenLegal, hw, if_true, Nat.add_zero, ne_eq, not_true_eq_false, false_or, or_self, and_self, Nat.zero_ne_one, reduceIte, Fin.val_zero, mul_div_mod]

theorem Laws.RoundTrip.amodAdd (g : Guard) (d a b : Reg) (ord : Order) (sc : Fin 4) : Statement (.amodAdd g d a b ord sc) := by
  intro hw w h
  injection h with h
  subst h
  have := Order.code_lt ord
  obtain ⟨hlt, ho, hg, n0, n1, n2, n3⟩ := encR_fields 28 g d a b (encAtomF 1 ord sc) (by decide) d.isLt a.isLt b.isLt (by simp only [encAtomF]; omega)
  have h1 : wordField (encR 0x1C g d a b (encAtomF 1 ord sc)) 0 2 = sc.val := by
    rw [encR_low, wordField_low _ _ _ _ _ (by decide)]; simp only [wordField, encAtomF]; omega
  have h2 : wordField (encR 0x1C g d a b (encAtomF 1 ord sc)) 2 2 = ord.code := by
    rw [encR_low, wordField_low _ _ _ _ _ (by decide)]; simp only [wordField, encAtomF]; omega
  have h3 : wordField (encR 0x1C g d a b (encAtomF 1 ord sc)) 4 3 = 1 := by
    rw [encR_low, wordField_low _ _ _ _ _ (by decide)]; simp only [wordField, encAtomF]; omega
  generalize encR 0x1C g d a b (encAtomF 1 ord sc) = w at hlt ho hg n0 n1 n2 n3 h1 h2 h3 ⊢
  refine ⟨hlt, ?_⟩
  rw [decodeNat_1C _ ho]
  simp only [decodeAmod, regField, predField, n0, n1, n2, n3, h1, h2, h3, hg, orderOfCode_code, fin_ofNat_val, ofNat_zero32, ofNat_zero8, ofNat_zero2, Nat.one_ne_zero, if_false, Bool.false_eq_true, whenZero, whenLegal, hw, if_true, Nat.add_zero, ne_eq, not_true_eq_false, false_or, or_self, and_self, Nat.zero_ne_one, reduceIte, Fin.val_zero, mul_div_mod]

theorem Laws.RoundTrip.amodAnd (g : Guard) (d a b : Reg) (ord : Order) (sc : Fin 4) : Statement (.amodAnd g d a b ord sc) := by
  intro hw w h
  injection h with h
  subst h
  have := Order.code_lt ord
  obtain ⟨hlt, ho, hg, n0, n1, n2, n3⟩ := encR_fields 28 g d a b (encAtomF 2 ord sc) (by decide) d.isLt a.isLt b.isLt (by simp only [encAtomF]; omega)
  have h1 : wordField (encR 0x1C g d a b (encAtomF 2 ord sc)) 0 2 = sc.val := by
    rw [encR_low, wordField_low _ _ _ _ _ (by decide)]; simp only [wordField, encAtomF]; omega
  have h2 : wordField (encR 0x1C g d a b (encAtomF 2 ord sc)) 2 2 = ord.code := by
    rw [encR_low, wordField_low _ _ _ _ _ (by decide)]; simp only [wordField, encAtomF]; omega
  have h3 : wordField (encR 0x1C g d a b (encAtomF 2 ord sc)) 4 3 = 2 := by
    rw [encR_low, wordField_low _ _ _ _ _ (by decide)]; simp only [wordField, encAtomF]; omega
  generalize encR 0x1C g d a b (encAtomF 2 ord sc) = w at hlt ho hg n0 n1 n2 n3 h1 h2 h3 ⊢
  refine ⟨hlt, ?_⟩
  rw [decodeNat_1C _ ho]
  simp only [decodeAmod, regField, predField, n0, n1, n2, n3, h1, h2, h3, hg, orderOfCode_code, fin_ofNat_val, ofNat_zero32, ofNat_zero8, ofNat_zero2, Nat.one_ne_zero, if_false, Bool.false_eq_true, whenZero, whenLegal, hw, if_true, Nat.add_zero, ne_eq, not_true_eq_false, false_or, or_self, and_self, Nat.zero_ne_one, reduceIte, Fin.val_zero, mul_div_mod]

theorem Laws.RoundTrip.amodOr (g : Guard) (d a b : Reg) (ord : Order) (sc : Fin 4) : Statement (.amodOr g d a b ord sc) := by
  intro hw w h
  injection h with h
  subst h
  have := Order.code_lt ord
  obtain ⟨hlt, ho, hg, n0, n1, n2, n3⟩ := encR_fields 28 g d a b (encAtomF 3 ord sc) (by decide) d.isLt a.isLt b.isLt (by simp only [encAtomF]; omega)
  have h1 : wordField (encR 0x1C g d a b (encAtomF 3 ord sc)) 0 2 = sc.val := by
    rw [encR_low, wordField_low _ _ _ _ _ (by decide)]; simp only [wordField, encAtomF]; omega
  have h2 : wordField (encR 0x1C g d a b (encAtomF 3 ord sc)) 2 2 = ord.code := by
    rw [encR_low, wordField_low _ _ _ _ _ (by decide)]; simp only [wordField, encAtomF]; omega
  have h3 : wordField (encR 0x1C g d a b (encAtomF 3 ord sc)) 4 3 = 3 := by
    rw [encR_low, wordField_low _ _ _ _ _ (by decide)]; simp only [wordField, encAtomF]; omega
  generalize encR 0x1C g d a b (encAtomF 3 ord sc) = w at hlt ho hg n0 n1 n2 n3 h1 h2 h3 ⊢
  refine ⟨hlt, ?_⟩
  rw [decodeNat_1C _ ho]
  simp only [decodeAmod, regField, predField, n0, n1, n2, n3, h1, h2, h3, hg, orderOfCode_code, fin_ofNat_val, ofNat_zero32, ofNat_zero8, ofNat_zero2, Nat.one_ne_zero, if_false, Bool.false_eq_true, whenZero, whenLegal, hw, if_true, Nat.add_zero, ne_eq, not_true_eq_false, false_or, or_self, and_self, Nat.zero_ne_one, reduceIte, Fin.val_zero, mul_div_mod]

theorem Laws.RoundTrip.amodXor (g : Guard) (d a b : Reg) (ord : Order) (sc : Fin 4) : Statement (.amodXor g d a b ord sc) := by
  intro hw w h
  injection h with h
  subst h
  have := Order.code_lt ord
  obtain ⟨hlt, ho, hg, n0, n1, n2, n3⟩ := encR_fields 28 g d a b (encAtomF 4 ord sc) (by decide) d.isLt a.isLt b.isLt (by simp only [encAtomF]; omega)
  have h1 : wordField (encR 0x1C g d a b (encAtomF 4 ord sc)) 0 2 = sc.val := by
    rw [encR_low, wordField_low _ _ _ _ _ (by decide)]; simp only [wordField, encAtomF]; omega
  have h2 : wordField (encR 0x1C g d a b (encAtomF 4 ord sc)) 2 2 = ord.code := by
    rw [encR_low, wordField_low _ _ _ _ _ (by decide)]; simp only [wordField, encAtomF]; omega
  have h3 : wordField (encR 0x1C g d a b (encAtomF 4 ord sc)) 4 3 = 4 := by
    rw [encR_low, wordField_low _ _ _ _ _ (by decide)]; simp only [wordField, encAtomF]; omega
  generalize encR 0x1C g d a b (encAtomF 4 ord sc) = w at hlt ho hg n0 n1 n2 n3 h1 h2 h3 ⊢
  refine ⟨hlt, ?_⟩
  rw [decodeNat_1C _ ho]
  simp only [decodeAmod, regField, predField, n0, n1, n2, n3, h1, h2, h3, hg, orderOfCode_code, fin_ofNat_val, ofNat_zero32, ofNat_zero8, ofNat_zero2, Nat.one_ne_zero, if_false, Bool.false_eq_true, whenZero, whenLegal, hw, if_true, Nat.add_zero, ne_eq, not_true_eq_false, false_or, or_self, and_self, Nat.zero_ne_one, reduceIte, Fin.val_zero, mul_div_mod]

theorem Laws.RoundTrip.amodMin (g : Guard) (d a b : Reg) (ord : Order) (sc : Fin 4) : Statement (.amodMin g d a b ord sc) := by
  intro hw w h
  injection h with h
  subst h
  have := Order.code_lt ord
  obtain ⟨hlt, ho, hg, n0, n1, n2, n3⟩ := encR_fields 28 g d a b (encAtomF 5 ord sc) (by decide) d.isLt a.isLt b.isLt (by simp only [encAtomF]; omega)
  have h1 : wordField (encR 0x1C g d a b (encAtomF 5 ord sc)) 0 2 = sc.val := by
    rw [encR_low, wordField_low _ _ _ _ _ (by decide)]; simp only [wordField, encAtomF]; omega
  have h2 : wordField (encR 0x1C g d a b (encAtomF 5 ord sc)) 2 2 = ord.code := by
    rw [encR_low, wordField_low _ _ _ _ _ (by decide)]; simp only [wordField, encAtomF]; omega
  have h3 : wordField (encR 0x1C g d a b (encAtomF 5 ord sc)) 4 3 = 5 := by
    rw [encR_low, wordField_low _ _ _ _ _ (by decide)]; simp only [wordField, encAtomF]; omega
  generalize encR 0x1C g d a b (encAtomF 5 ord sc) = w at hlt ho hg n0 n1 n2 n3 h1 h2 h3 ⊢
  refine ⟨hlt, ?_⟩
  rw [decodeNat_1C _ ho]
  simp only [decodeAmod, regField, predField, n0, n1, n2, n3, h1, h2, h3, hg, orderOfCode_code, fin_ofNat_val, ofNat_zero32, ofNat_zero8, ofNat_zero2, Nat.one_ne_zero, if_false, Bool.false_eq_true, whenZero, whenLegal, hw, if_true, Nat.add_zero, ne_eq, not_true_eq_false, false_or, or_self, and_self, Nat.zero_ne_one, reduceIte, Fin.val_zero, mul_div_mod]

theorem Laws.RoundTrip.amodMax (g : Guard) (d a b : Reg) (ord : Order) (sc : Fin 4) : Statement (.amodMax g d a b ord sc) := by
  intro hw w h
  injection h with h
  subst h
  have := Order.code_lt ord
  obtain ⟨hlt, ho, hg, n0, n1, n2, n3⟩ := encR_fields 28 g d a b (encAtomF 6 ord sc) (by decide) d.isLt a.isLt b.isLt (by simp only [encAtomF]; omega)
  have h1 : wordField (encR 0x1C g d a b (encAtomF 6 ord sc)) 0 2 = sc.val := by
    rw [encR_low, wordField_low _ _ _ _ _ (by decide)]; simp only [wordField, encAtomF]; omega
  have h2 : wordField (encR 0x1C g d a b (encAtomF 6 ord sc)) 2 2 = ord.code := by
    rw [encR_low, wordField_low _ _ _ _ _ (by decide)]; simp only [wordField, encAtomF]; omega
  have h3 : wordField (encR 0x1C g d a b (encAtomF 6 ord sc)) 4 3 = 6 := by
    rw [encR_low, wordField_low _ _ _ _ _ (by decide)]; simp only [wordField, encAtomF]; omega
  generalize encR 0x1C g d a b (encAtomF 6 ord sc) = w at hlt ho hg n0 n1 n2 n3 h1 h2 h3 ⊢
  refine ⟨hlt, ?_⟩
  rw [decodeNat_1C _ ho]
  simp only [decodeAmod, regField, predField, n0, n1, n2, n3, h1, h2, h3, hg, orderOfCode_code, fin_ofNat_val, ofNat_zero32, ofNat_zero8, ofNat_zero2, Nat.one_ne_zero, if_false, Bool.false_eq_true, whenZero, whenLegal, hw, if_true, Nat.add_zero, ne_eq, not_true_eq_false, false_or, or_self, and_self, Nat.zero_ne_one, reduceIte, Fin.val_zero, mul_div_mod]

theorem Laws.RoundTrip.amodCas (g : Guard) (d a b : Reg) (ord : Order) (sc : Fin 4) : Statement (.amodCas g d a b ord sc) := by
  intro hw w h
  injection h with h
  subst h
  have := Order.code_lt ord
  obtain ⟨hlt, ho, hg, n0, n1, n2, n3⟩ := encR_fields 28 g d a b (encAtomF 7 ord sc) (by decide) d.isLt a.isLt b.isLt (by simp only [encAtomF]; omega)
  have h1 : wordField (encR 0x1C g d a b (encAtomF 7 ord sc)) 0 2 = sc.val := by
    rw [encR_low, wordField_low _ _ _ _ _ (by decide)]; simp only [wordField, encAtomF]; omega
  have h2 : wordField (encR 0x1C g d a b (encAtomF 7 ord sc)) 2 2 = ord.code := by
    rw [encR_low, wordField_low _ _ _ _ _ (by decide)]; simp only [wordField, encAtomF]; omega
  have h3 : wordField (encR 0x1C g d a b (encAtomF 7 ord sc)) 4 3 = 7 := by
    rw [encR_low, wordField_low _ _ _ _ _ (by decide)]; simp only [wordField, encAtomF]; omega
  generalize encR 0x1C g d a b (encAtomF 7 ord sc) = w at hlt ho hg n0 n1 n2 n3 h1 h2 h3 ⊢
  refine ⟨hlt, ?_⟩
  rw [decodeNat_1C _ ho]
  simp only [decodeAmod, regField, predField, n0, n1, n2, n3, h1, h2, h3, hg, orderOfCode_code, fin_ofNat_val, ofNat_zero32, ofNat_zero8, ofNat_zero2, Nat.one_ne_zero, if_false, Bool.false_eq_true, whenZero, whenLegal, hw, if_true, Nat.add_zero, ne_eq, not_true_eq_false, false_or, or_self, and_self, Nat.zero_ne_one, reduceIte, Fin.val_zero, mul_div_mod]

theorem Laws.RoundTrip.lda (g : Guard) (d a : Reg) (sc : Scope) : Statement (.lda g d a sc) := by
  intro hw w h
  injection h with h
  subst h
  have := Scope.code_lt sc
  obtain ⟨hlt, ho, hg, n0, n1, n2, n3⟩ := encR_fields 29 g d a 0 sc.code (by decide) d.isLt a.isLt (by decide) (by omega)
  have h1 : wordField (encR 0x1D g d a 0 sc.code) 0 3 = sc.code := by
    rw [encR_low, wordField_low _ _ _ _ _ (by decide)]; simp only [wordField]; omega
  have h2 : wordField (encR 0x1D g d a 0 sc.code) 3 3 = 0 := by
    rw [encR_low, wordField_low _ _ _ _ _ (by decide)]; simp only [wordField]; omega
  have h3 : wordField (encR 0x1D g d a 0 sc.code) 6 1 = 0 := by
    rw [encR_low, wordField_low _ _ _ _ _ (by decide)]; simp only [wordField]; omega
  generalize encR 0x1D g d a 0 sc.code = w at hlt ho hg n0 n1 n2 n3 h1 h2 h3 ⊢
  refine ⟨hlt, ?_⟩
  rw [decodeNat_1D _ ho]
  rw [decodeAcqRel]
  try dsimp only
  rw [h1, scopeOfCode_code]
  try dsimp only
  simp only [regField, predField, n0, n1, n2, n3, h1, h2, h3, hg, scopeOfCode_code, fin_ofNat_val, ofNat_zero32, ofNat_zero8, ofNat_zero2, Nat.one_ne_zero, if_false, Bool.false_eq_true, whenZero, whenLegal, hw, if_true, Nat.add_zero, ne_eq, not_true_eq_false, false_or, or_self, and_self, Nat.zero_ne_one, reduceIte, Fin.val_zero, mul_div_mod]

theorem Laws.RoundTrip.stl (g : Guard) (a b : Reg) (sc : Scope) : Statement (.stl g a b sc) := by
  intro hw w h
  injection h with h
  subst h
  have := Scope.code_lt sc
  obtain ⟨hlt, ho, hg, n0, n1, n2, n3⟩ := encR_fields 29 g 0 a b (64 + sc.code) (by decide) (by decide) a.isLt b.isLt (by omega)
  have h1 : wordField (encR 0x1D g 0 a b (64 + sc.code)) 0 3 = sc.code := by
    rw [encR_low, wordField_low _ _ _ _ _ (by decide)]; simp only [wordField]; omega
  have h2 : wordField (encR 0x1D g 0 a b (64 + sc.code)) 3 3 = 0 := by
    rw [encR_low, wordField_low _ _ _ _ _ (by decide)]; simp only [wordField]; omega
  have h3 : wordField (encR 0x1D g 0 a b (64 + sc.code)) 6 1 = 1 := by
    rw [encR_low, wordField_low _ _ _ _ _ (by decide)]; simp only [wordField]; omega
  generalize encR 0x1D g 0 a b (64 + sc.code) = w at hlt ho hg n0 n1 n2 n3 h1 h2 h3 ⊢
  refine ⟨hlt, ?_⟩
  rw [decodeNat_1D _ ho]
  rw [decodeAcqRel]
  try dsimp only
  rw [h1, scopeOfCode_code]
  try dsimp only
  simp only [regField, predField, n0, n1, n2, n3, h1, h2, h3, hg, scopeOfCode_code, fin_ofNat_val, ofNat_zero32, ofNat_zero8, ofNat_zero2, Nat.one_ne_zero, if_false, Bool.false_eq_true, whenZero, whenLegal, hw, if_true, Nat.add_zero, ne_eq, not_true_eq_false, false_or, or_self, and_self, Nat.zero_ne_one, reduceIte, Fin.val_zero, mul_div_mod]

theorem Laws.RoundTrip.fence (g : Guard) (sc : Scope) : Statement (.fence g sc) := by
  intro hw w h
  injection h with h
  subst h
  have := Scope.code_lt sc
  obtain ⟨hlt, ho, hg, n0, n1, n2, n3⟩ := encR_fields 30 g 0 0 0 (0 * 2 ^ 5 + sc.code) (by decide) (by decide) (by decide) (by decide) (by omega)
  have h1 : wordField (encR 0x1E g 0 0 0 (0 * 2 ^ 5 + sc.code)) 0 3 = sc.code := by
    rw [encR_low, wordField_low _ _ _ _ _ (by decide)]; simp only [wordField]; omega
  have h2 : wordField (encR 0x1E g 0 0 0 (0 * 2 ^ 5 + sc.code)) 3 2 = 0 := by
    rw [encR_low, wordField_low _ _ _ _ _ (by decide)]; simp only [wordField]; omega
  have h3 : wordField (encR 0x1E g 0 0 0 (0 * 2 ^ 5 + sc.code)) 5 2 = 0 := by
    rw [encR_low, wordField_low _ _ _ _ _ (by decide)]; simp only [wordField]; omega
  have h4 : wordField (encR 0x1E g 0 0 0 (0 * 2 ^ 5 + sc.code)) 7 15 = 0 := by
    rw [encR_low, wordField_low _ _ _ _ _ (by decide)]; simp only [wordField]; omega
  generalize encR 0x1E g 0 0 0 (0 * 2 ^ 5 + sc.code) = w at hlt ho hg n0 n1 n2 n3 h1 h2 h3 h4 ⊢
  refine ⟨hlt, ?_⟩
  rw [decodeNat_1E _ ho]
  rw [decodeFence]
  try dsimp only
  rw [h1, scopeOfCode_code]
  try dsimp only
  simp only [regField, predField, n0, n1, n2, n3, h1, h2, h3, h4, hg, scopeOfCode_code, fin_ofNat_val, ofNat_zero32, ofNat_zero8, ofNat_zero2, Nat.one_ne_zero, if_false, Bool.false_eq_true, whenZero, whenLegal, hw, if_true, Nat.add_zero, ne_eq, not_true_eq_false, false_or, or_self, and_self, Nat.zero_ne_one, reduceIte, Fin.val_zero, mul_div_mod]

theorem Laws.RoundTrip.fenceSv (g : Guard) (sc : Scope) : Statement (.fenceSv g sc) := by
  intro hw w h
  injection h with h
  subst h
  have := Scope.code_lt sc
  obtain ⟨hlt, ho, hg, n0, n1, n2, n3⟩ := encR_fields 30 g 0 0 0 (1 * 2 ^ 5 + sc.code) (by decide) (by decide) (by decide) (by decide) (by omega)
  have h1 : wordField (encR 0x1E g 0 0 0 (1 * 2 ^ 5 + sc.code)) 0 3 = sc.code := by
    rw [encR_low, wordField_low _ _ _ _ _ (by decide)]; simp only [wordField]; omega
  have h2 : wordField (encR 0x1E g 0 0 0 (1 * 2 ^ 5 + sc.code)) 3 2 = 0 := by
    rw [encR_low, wordField_low _ _ _ _ _ (by decide)]; simp only [wordField]; omega
  have h3 : wordField (encR 0x1E g 0 0 0 (1 * 2 ^ 5 + sc.code)) 5 2 = 1 := by
    rw [encR_low, wordField_low _ _ _ _ _ (by decide)]; simp only [wordField]; omega
  have h4 : wordField (encR 0x1E g 0 0 0 (1 * 2 ^ 5 + sc.code)) 7 15 = 0 := by
    rw [encR_low, wordField_low _ _ _ _ _ (by decide)]; simp only [wordField]; omega
  generalize encR 0x1E g 0 0 0 (1 * 2 ^ 5 + sc.code) = w at hlt ho hg n0 n1 n2 n3 h1 h2 h3 h4 ⊢
  refine ⟨hlt, ?_⟩
  rw [decodeNat_1E _ ho]
  rw [decodeFence]
  try dsimp only
  rw [h1, scopeOfCode_code]
  try dsimp only
  simp only [regField, predField, n0, n1, n2, n3, h1, h2, h3, h4, hg, scopeOfCode_code, fin_ofNat_val, ofNat_zero32, ofNat_zero8, ofNat_zero2, Nat.one_ne_zero, if_false, Bool.false_eq_true, whenZero, whenLegal, hw, if_true, Nat.add_zero, ne_eq, not_true_eq_false, false_or, or_self, and_self, Nat.zero_ne_one, reduceIte, Fin.val_zero, mul_div_mod]

theorem Laws.RoundTrip.fenceVs (g : Guard) (sc : Scope) : Statement (.fenceVs g sc) := by
  intro hw w h
  injection h with h
  subst h
  have := Scope.code_lt sc
  obtain ⟨hlt, ho, hg, n0, n1, n2, n3⟩ := encR_fields 30 g 0 0 0 (2 * 2 ^ 5 + sc.code) (by decide) (by decide) (by decide) (by decide) (by omega)
  have h1 : wordField (encR 0x1E g 0 0 0 (2 * 2 ^ 5 + sc.code)) 0 3 = sc.code := by
    rw [encR_low, wordField_low _ _ _ _ _ (by decide)]; simp only [wordField]; omega
  have h2 : wordField (encR 0x1E g 0 0 0 (2 * 2 ^ 5 + sc.code)) 3 2 = 0 := by
    rw [encR_low, wordField_low _ _ _ _ _ (by decide)]; simp only [wordField]; omega
  have h3 : wordField (encR 0x1E g 0 0 0 (2 * 2 ^ 5 + sc.code)) 5 2 = 2 := by
    rw [encR_low, wordField_low _ _ _ _ _ (by decide)]; simp only [wordField]; omega
  have h4 : wordField (encR 0x1E g 0 0 0 (2 * 2 ^ 5 + sc.code)) 7 15 = 0 := by
    rw [encR_low, wordField_low _ _ _ _ _ (by decide)]; simp only [wordField]; omega
  generalize encR 0x1E g 0 0 0 (2 * 2 ^ 5 + sc.code) = w at hlt ho hg n0 n1 n2 n3 h1 h2 h3 h4 ⊢
  refine ⟨hlt, ?_⟩
  rw [decodeNat_1E _ ho]
  rw [decodeFence]
  try dsimp only
  rw [h1, scopeOfCode_code]
  try dsimp only
  simp only [regField, predField, n0, n1, n2, n3, h1, h2, h3, h4, hg, scopeOfCode_code, fin_ofNat_val, ofNat_zero32, ofNat_zero8, ofNat_zero2, Nat.one_ne_zero, if_false, Bool.false_eq_true, whenZero, whenLegal, hw, if_true, Nat.add_zero, ne_eq, not_true_eq_false, false_or, or_self, and_self, Nat.zero_ne_one, reduceIte, Fin.val_zero, mul_div_mod]

theorem Laws.RoundTrip.fenceE (g : Guard) (sc : Scope) : Statement (.fenceE g sc) := by
  intro hw w h
  injection h with h
  subst h
  have := Scope.code_lt sc
  obtain ⟨hlt, ho, hg, n0, n1, n2, n3⟩ := encR_fields 30 g 0 0 0 (3 * 2 ^ 5 + sc.code) (by decide) (by decide) (by decide) (by decide) (by omega)
  have h1 : wordField (encR 0x1E g 0 0 0 (3 * 2 ^ 5 + sc.code)) 0 3 = sc.code := by
    rw [encR_low, wordField_low _ _ _ _ _ (by decide)]; simp only [wordField]; omega
  have h2 : wordField (encR 0x1E g 0 0 0 (3 * 2 ^ 5 + sc.code)) 3 2 = 0 := by
    rw [encR_low, wordField_low _ _ _ _ _ (by decide)]; simp only [wordField]; omega
  have h3 : wordField (encR 0x1E g 0 0 0 (3 * 2 ^ 5 + sc.code)) 5 2 = 3 := by
    rw [encR_low, wordField_low _ _ _ _ _ (by decide)]; simp only [wordField]; omega
  have h4 : wordField (encR 0x1E g 0 0 0 (3 * 2 ^ 5 + sc.code)) 7 15 = 0 := by
    rw [encR_low, wordField_low _ _ _ _ _ (by decide)]; simp only [wordField]; omega
  generalize encR 0x1E g 0 0 0 (3 * 2 ^ 5 + sc.code) = w at hlt ho hg n0 n1 n2 n3 h1 h2 h3 h4 ⊢
  refine ⟨hlt, ?_⟩
  rw [decodeNat_1E _ ho]
  rw [decodeFence]
  try dsimp only
  rw [h1, scopeOfCode_code]
  try dsimp only
  simp only [regField, predField, n0, n1, n2, n3, h1, h2, h3, h4, hg, scopeOfCode_code, fin_ofNat_val, ofNat_zero32, ofNat_zero8, ofNat_zero2, Nat.one_ne_zero, if_false, Bool.false_eq_true, whenZero, whenLegal, hw, if_true, Nat.add_zero, ne_eq, not_true_eq_false, false_or, or_self, and_self, Nat.zero_ne_one, reduceIte, Fin.val_zero, mul_div_mod]

theorem Laws.RoundTrip.csrr (g : Guard) (d : Reg) (csr : Fin 1024) : Statement (.csrr g d csr) := by
  intro hw w h
  injection h with h
  subst h
  obtain ⟨hlt, ho, hg, n0, n1, n2⟩ := encI_fields 31 g d 0 csr (by decide) d.isLt (by decide) (by omega)
  have h1 : wordField (encI 0x1F g d 0 csr) 0 10 = csr.val := by
    rw [encI_low, wordField_low _ _ _ _ _ (by decide)]; simp only [wordField]; omega
  have h2 : wordField (encI 0x1F g d 0 csr) 10 2 = 0 := by
    rw [encI_low, wordField_low _ _ _ _ _ (by decide)]; simp only [wordField]; omega
  generalize encI 0x1F g d 0 csr = w at hlt ho hg n0 n1 n2 h1 h2 ⊢
  refine ⟨hlt, ?_⟩
  rw [decodeNat_1F _ ho]
  simp only [decodeCsr, regField, predField, n0, n1, n2, h1, h2, hg, fin_ofNat_val, ofNat_zero32, ofNat_zero8, ofNat_zero2, Nat.one_ne_zero, if_false, Bool.false_eq_true, whenZero, whenLegal, hw, if_true, Nat.add_zero, ne_eq, not_true_eq_false, false_or, or_self, and_self, Nat.zero_ne_one, reduceIte, Fin.val_zero, mul_div_mod]

theorem Laws.RoundTrip.csrw (g : Guard) (d a : Reg) (csr : Fin 1024) : Statement (.csrw g d a csr) := by
  intro hw w h
  injection h with h
  subst h
  obtain ⟨hlt, ho, hg, n0, n1, n2⟩ := encI_fields 31 g d a (1 * 2 ^ 10 + csr) (by decide) d.isLt a.isLt (by omega)
  have h1 : wordField (encI 0x1F g d a (1 * 2 ^ 10 + csr)) 0 10 = csr.val := by
    rw [encI_low, wordField_low _ _ _ _ _ (by decide)]; simp only [wordField]; omega
  have h2 : wordField (encI 0x1F g d a (1 * 2 ^ 10 + csr)) 10 2 = 1 := by
    rw [encI_low, wordField_low _ _ _ _ _ (by decide)]; simp only [wordField]; omega
  generalize encI 0x1F g d a (1 * 2 ^ 10 + csr) = w at hlt ho hg n0 n1 n2 h1 h2 ⊢
  refine ⟨hlt, ?_⟩
  rw [decodeNat_1F _ ho]
  simp only [decodeCsr, regField, predField, n0, n1, n2, h1, h2, hg, fin_ofNat_val, ofNat_zero32, ofNat_zero8, ofNat_zero2, Nat.one_ne_zero, if_false, Bool.false_eq_true, whenZero, whenLegal, hw, if_true, Nat.add_zero, ne_eq, not_true_eq_false, false_or, or_self, and_self, Nat.zero_ne_one, reduceIte, Fin.val_zero, mul_div_mod]

theorem Laws.RoundTrip.csrs (g : Guard) (d a : Reg) (csr : Fin 1024) : Statement (.csrs g d a csr) := by
  intro hw w h
  injection h with h
  subst h
  obtain ⟨hlt, ho, hg, n0, n1, n2⟩ := encI_fields 31 g d a (2 * 2 ^ 10 + csr) (by decide) d.isLt a.isLt (by omega)
  have h1 : wordField (encI 0x1F g d a (2 * 2 ^ 10 + csr)) 0 10 = csr.val := by
    rw [encI_low, wordField_low _ _ _ _ _ (by decide)]; simp only [wordField]; omega
  have h2 : wordField (encI 0x1F g d a (2 * 2 ^ 10 + csr)) 10 2 = 2 := by
    rw [encI_low, wordField_low _ _ _ _ _ (by decide)]; simp only [wordField]; omega
  generalize encI 0x1F g d a (2 * 2 ^ 10 + csr) = w at hlt ho hg n0 n1 n2 h1 h2 ⊢
  refine ⟨hlt, ?_⟩
  rw [decodeNat_1F _ ho]
  simp only [decodeCsr, regField, predField, n0, n1, n2, h1, h2, hg, fin_ofNat_val, ofNat_zero32, ofNat_zero8, ofNat_zero2, Nat.one_ne_zero, if_false, Bool.false_eq_true, whenZero, whenLegal, hw, if_true, Nat.add_zero, ne_eq, not_true_eq_false, false_or, or_self, and_self, Nat.zero_ne_one, reduceIte, Fin.val_zero, mul_div_mod]

theorem Laws.RoundTrip.csrc (g : Guard) (d a : Reg) (csr : Fin 1024) : Statement (.csrc g d a csr) := by
  intro hw w h
  injection h with h
  subst h
  obtain ⟨hlt, ho, hg, n0, n1, n2⟩ := encI_fields 31 g d a (3 * 2 ^ 10 + csr) (by decide) d.isLt a.isLt (by omega)
  have h1 : wordField (encI 0x1F g d a (3 * 2 ^ 10 + csr)) 0 10 = csr.val := by
    rw [encI_low, wordField_low _ _ _ _ _ (by decide)]; simp only [wordField]; omega
  have h2 : wordField (encI 0x1F g d a (3 * 2 ^ 10 + csr)) 10 2 = 3 := by
    rw [encI_low, wordField_low _ _ _ _ _ (by decide)]; simp only [wordField]; omega
  generalize encI 0x1F g d a (3 * 2 ^ 10 + csr) = w at hlt ho hg n0 n1 n2 h1 h2 ⊢
  refine ⟨hlt, ?_⟩
  rw [decodeNat_1F _ ho]
  simp only [decodeCsr, regField, predField, n0, n1, n2, h1, h2, hg, fin_ofNat_val, ofNat_zero32, ofNat_zero8, ofNat_zero2, Nat.one_ne_zero, if_false, Bool.false_eq_true, whenZero, whenLegal, hw, if_true, Nat.add_zero, ne_eq, not_true_eq_false, false_or, or_self, and_self, Nat.zero_ne_one, reduceIte, Fin.val_zero, mul_div_mod]

theorem Laws.RoundTrip.trap (g : Guard) (code : Fin 256) : Statement (.trap g code) := by
  intro hw w h
  injection h with h
  subst h
  obtain ⟨hlt, ho, hg, n0, n1, n2⟩ := encI_fields 32 g 0 0 code (by decide) (by decide) (by decide) (by omega)
  have h1 : wordField (encI 0x20 g 0 0 code) 0 8 = code.val := by
    rw [encI_low, wordField_low _ _ _ _ _ (by decide)]; simp only [wordField]; omega
  have h2 : wordField (encI 0x20 g 0 0 code) 8 4 = 0 := by
    rw [encI_low, wordField_low _ _ _ _ _ (by decide)]; simp only [wordField]; omega
  have h3 : wordField (encI 0x20 g 0 0 code) 12 10 = 0 := by
    rw [encI_low, wordField_low _ _ _ _ _ (by decide)]; simp only [wordField]; omega
  generalize encI 0x20 g 0 0 code = w at hlt ho hg n0 n1 n2 h1 h2 h3 ⊢
  refine ⟨hlt, ?_⟩
  rw [decodeNat_20 _ ho]
  simp only [decodeThread, regField, predField, n0, n1, n2, h1, h2, h3, hg, fin_ofNat_val, ofNat_zero32, ofNat_zero8, ofNat_zero2, Nat.one_ne_zero, if_false, Bool.false_eq_true, whenZero, whenLegal, hw, if_true, Nat.add_zero, ne_eq, not_true_eq_false, false_or, or_self, and_self, Nat.zero_ne_one, reduceIte, Fin.val_zero, mul_div_mod]

theorem Laws.RoundTrip.icinv (g : Guard) (a : Reg) : Statement (.icinv g a) := by
  intro hw w h
  injection h with h
  subst h
  obtain ⟨hlt, ho, hg, n0, n1, n2⟩ := encI_fields 32 g 0 a (1 * 2 ^ 8) (by decide) (by decide) a.isLt (by omega)
  have h1 : wordField (encI 0x20 g 0 a (1 * 2 ^ 8)) 0 8 = 0 := by
    rw [encI_low, wordField_low _ _ _ _ _ (by decide)]; simp only [wordField]; omega
  have h2 : wordField (encI 0x20 g 0 a (1 * 2 ^ 8)) 8 4 = 1 := by
    rw [encI_low, wordField_low _ _ _ _ _ (by decide)]; simp only [wordField]; omega
  generalize encI 0x20 g 0 a (1 * 2 ^ 8) = w at hlt ho hg n0 n1 n2 h1 h2 ⊢
  refine ⟨hlt, ?_⟩
  rw [decodeNat_20 _ ho]
  simp only [decodeThread, regField, predField, n0, n1, n2, h1, h2, hg, fin_ofNat_val, ofNat_zero32, ofNat_zero8, ofNat_zero2, Nat.one_ne_zero, if_false, Bool.false_eq_true, whenZero, whenLegal, hw, if_true, Nat.add_zero, ne_eq, not_true_eq_false, false_or, or_self, and_self, Nat.zero_ne_one, reduceIte, Fin.val_zero, mul_div_mod]

theorem Laws.RoundTrip.park (g : Guard) (a : Reg) : Statement (.park g a) := by
  intro hw w h
  injection h with h
  subst h
  obtain ⟨hlt, ho, hg, n0, n1, n2⟩ := encI_fields 32 g 0 a (2 * 2 ^ 8) (by decide) (by decide) a.isLt (by omega)
  have h1 : wordField (encI 0x20 g 0 a (2 * 2 ^ 8)) 0 8 = 0 := by
    rw [encI_low, wordField_low _ _ _ _ _ (by decide)]; simp only [wordField]; omega
  have h2 : wordField (encI 0x20 g 0 a (2 * 2 ^ 8)) 8 4 = 2 := by
    rw [encI_low, wordField_low _ _ _ _ _ (by decide)]; simp only [wordField]; omega
  generalize encI 0x20 g 0 a (2 * 2 ^ 8) = w at hlt ho hg n0 n1 n2 h1 h2 ⊢
  refine ⟨hlt, ?_⟩
  rw [decodeNat_20 _ ho]
  simp only [decodeThread, regField, predField, n0, n1, n2, h1, h2, hg, fin_ofNat_val, ofNat_zero32, ofNat_zero8, ofNat_zero2, Nat.one_ne_zero, if_false, Bool.false_eq_true, whenZero, whenLegal, hw, if_true, Nat.add_zero, ne_eq, not_true_eq_false, false_or, or_self, and_self, Nat.zero_ne_one, reduceIte, Fin.val_zero, mul_div_mod]

theorem Laws.RoundTrip.yield (g : Guard) : Statement (.yield g) := by
  intro hw w h
  injection h with h
  subst h
  obtain ⟨hlt, ho, hg, n0, n1, n2⟩ := encI_fields 32 g 0 0 (3 * 2 ^ 8) (by decide) (by decide) (by decide) (by omega)
  have h1 : wordField (encI 0x20 g 0 0 (3 * 2 ^ 8)) 0 8 = 0 := by
    rw [encI_low, wordField_low _ _ _ _ _ (by decide)]; simp only [wordField]; omega
  have h2 : wordField (encI 0x20 g 0 0 (3 * 2 ^ 8)) 8 4 = 3 := by
    rw [encI_low, wordField_low _ _ _ _ _ (by decide)]; simp only [wordField]; omega
  have h3 : wordField (encI 0x20 g 0 0 (3 * 2 ^ 8)) 12 10 = 0 := by
    rw [encI_low, wordField_low _ _ _ _ _ (by decide)]; simp only [wordField]; omega
  generalize encI 0x20 g 0 0 (3 * 2 ^ 8) = w at hlt ho hg n0 n1 n2 h1 h2 h3 ⊢
  refine ⟨hlt, ?_⟩
  rw [decodeNat_20 _ ho]
  simp only [decodeThread, regField, predField, n0, n1, n2, h1, h2, h3, hg, fin_ofNat_val, ofNat_zero32, ofNat_zero8, ofNat_zero2, Nat.one_ne_zero, if_false, Bool.false_eq_true, whenZero, whenLegal, hw, if_true, Nat.add_zero, ne_eq, not_true_eq_false, false_or, or_self, and_self, Nat.zero_ne_one, reduceIte, Fin.val_zero, mul_div_mod]

theorem Laws.RoundTrip.exit (g : Guard) : Statement (.exit g) := by
  intro hw w h
  injection h with h
  subst h
  obtain ⟨hlt, ho, hg, n0, n1, n2⟩ := encI_fields 32 g 0 0 (4 * 2 ^ 8) (by decide) (by decide) (by decide) (by omega)
  have h1 : wordField (encI 0x20 g 0 0 (4 * 2 ^ 8)) 0 8 = 0 := by
    rw [encI_low, wordField_low _ _ _ _ _ (by decide)]; simp only [wordField]; omega
  have h2 : wordField (encI 0x20 g 0 0 (4 * 2 ^ 8)) 8 4 = 4 := by
    rw [encI_low, wordField_low _ _ _ _ _ (by decide)]; simp only [wordField]; omega
  have h3 : wordField (encI 0x20 g 0 0 (4 * 2 ^ 8)) 12 10 = 0 := by
    rw [encI_low, wordField_low _ _ _ _ _ (by decide)]; simp only [wordField]; omega
  generalize encI 0x20 g 0 0 (4 * 2 ^ 8) = w at hlt ho hg n0 n1 n2 h1 h2 h3 ⊢
  refine ⟨hlt, ?_⟩
  rw [decodeNat_20 _ ho]
  simp only [decodeThread, regField, predField, n0, n1, n2, h1, h2, h3, hg, fin_ofNat_val, ofNat_zero32, ofNat_zero8, ofNat_zero2, Nat.one_ne_zero, if_false, Bool.false_eq_true, whenZero, whenLegal, hw, if_true, Nat.add_zero, ne_eq, not_true_eq_false, false_or, or_self, and_self, Nat.zero_ne_one, reduceIte, Fin.val_zero, mul_div_mod]

theorem Laws.RoundTrip.spawn (g : Guard) (d a : Reg) : Statement (.spawn g d a) := by
  intro hw w h
  injection h with h
  subst h
  obtain ⟨hlt, ho, hg, n0, n1, n2⟩ := encI_fields 32 g d a (5 * 2 ^ 8) (by decide) d.isLt a.isLt (by omega)
  have h1 : wordField (encI 0x20 g d a (5 * 2 ^ 8)) 0 8 = 0 := by
    rw [encI_low, wordField_low _ _ _ _ _ (by decide)]; simp only [wordField]; omega
  have h2 : wordField (encI 0x20 g d a (5 * 2 ^ 8)) 8 4 = 5 := by
    rw [encI_low, wordField_low _ _ _ _ _ (by decide)]; simp only [wordField]; omega
  generalize encI 0x20 g d a (5 * 2 ^ 8) = w at hlt ho hg n0 n1 n2 h1 h2 ⊢
  refine ⟨hlt, ?_⟩
  rw [decodeNat_20 _ ho]
  simp only [decodeThread, regField, predField, n0, n1, n2, h1, h2, hg, fin_ofNat_val, ofNat_zero32, ofNat_zero8, ofNat_zero2, Nat.one_ne_zero, if_false, Bool.false_eq_true, whenZero, whenLegal, hw, if_true, Nat.add_zero, ne_eq, not_true_eq_false, false_or, or_self, and_self, Nat.zero_ne_one, reduceIte, Fin.val_zero, mul_div_mod]

theorem Laws.RoundTrip.vtctlResume (g : Guard) (d a : Reg) : Statement (.vtctlResume g d a) := by
  intro hw w h
  injection h with h
  subst h
  obtain ⟨hlt, ho, hg, n0, n1, n2⟩ := encI_fields 32 g d a (6 * 2 ^ 8 + 0) (by decide) d.isLt a.isLt (by omega)
  have h1 : wordField (encI 0x20 g d a (6 * 2 ^ 8 + 0)) 0 8 = 0 := by
    rw [encI_low, wordField_low _ _ _ _ _ (by decide)]; simp only [wordField]; omega
  have h2 : wordField (encI 0x20 g d a (6 * 2 ^ 8 + 0)) 8 4 = 6 := by
    rw [encI_low, wordField_low _ _ _ _ _ (by decide)]; simp only [wordField]; omega
  generalize encI 0x20 g d a (6 * 2 ^ 8 + 0) = w at hlt ho hg n0 n1 n2 h1 h2 ⊢
  refine ⟨hlt, ?_⟩
  rw [decodeNat_20 _ ho]
  simp only [decodeThread, regField, predField, n0, n1, n2, h1, h2, hg, fin_ofNat_val, ofNat_zero32, ofNat_zero8, ofNat_zero2, Nat.one_ne_zero, if_false, Bool.false_eq_true, whenZero, whenLegal, hw, if_true, Nat.add_zero, ne_eq, not_true_eq_false, false_or, or_self, and_self, Nat.zero_ne_one, reduceIte, Fin.val_zero, mul_div_mod]

theorem Laws.RoundTrip.vtctlKill (g : Guard) (d a : Reg) : Statement (.vtctlKill g d a) := by
  intro hw w h
  injection h with h
  subst h
  obtain ⟨hlt, ho, hg, n0, n1, n2⟩ := encI_fields 32 g d a (6 * 2 ^ 8 + 1) (by decide) d.isLt a.isLt (by omega)
  have h1 : wordField (encI 0x20 g d a (6 * 2 ^ 8 + 1)) 0 8 = 1 := by
    rw [encI_low, wordField_low _ _ _ _ _ (by decide)]; simp only [wordField]; omega
  have h2 : wordField (encI 0x20 g d a (6 * 2 ^ 8 + 1)) 8 4 = 6 := by
    rw [encI_low, wordField_low _ _ _ _ _ (by decide)]; simp only [wordField]; omega
  generalize encI 0x20 g d a (6 * 2 ^ 8 + 1) = w at hlt ho hg n0 n1 n2 h1 h2 ⊢
  refine ⟨hlt, ?_⟩
  rw [decodeNat_20 _ ho]
  simp only [decodeThread, regField, predField, n0, n1, n2, h1, h2, hg, fin_ofNat_val, ofNat_zero32, ofNat_zero8, ofNat_zero2, Nat.one_ne_zero, if_false, Bool.false_eq_true, whenZero, whenLegal, hw, if_true, Nat.add_zero, ne_eq, not_true_eq_false, false_or, or_self, and_self, Nat.zero_ne_one, reduceIte, Fin.val_zero, mul_div_mod]

theorem Laws.RoundTrip.vtctlWake (g : Guard) (d a : Reg) : Statement (.vtctlWake g d a) := by
  intro hw w h
  injection h with h
  subst h
  obtain ⟨hlt, ho, hg, n0, n1, n2⟩ := encI_fields 32 g d a (6 * 2 ^ 8 + 2) (by decide) d.isLt a.isLt (by omega)
  have h1 : wordField (encI 0x20 g d a (6 * 2 ^ 8 + 2)) 0 8 = 2 := by
    rw [encI_low, wordField_low _ _ _ _ _ (by decide)]; simp only [wordField]; omega
  have h2 : wordField (encI 0x20 g d a (6 * 2 ^ 8 + 2)) 8 4 = 6 := by
    rw [encI_low, wordField_low _ _ _ _ _ (by decide)]; simp only [wordField]; omega
  generalize encI 0x20 g d a (6 * 2 ^ 8 + 2) = w at hlt ho hg n0 n1 n2 h1 h2 ⊢
  refine ⟨hlt, ?_⟩
  rw [decodeNat_20 _ ho]
  simp only [decodeThread, regField, predField, n0, n1, n2, h1, h2, hg, fin_ofNat_val, ofNat_zero32, ofNat_zero8, ofNat_zero2, Nat.one_ne_zero, if_false, Bool.false_eq_true, whenZero, whenLegal, hw, if_true, Nat.add_zero, ne_eq, not_true_eq_false, false_or, or_self, and_self, Nat.zero_ne_one, reduceIte, Fin.val_zero, mul_div_mod]

theorem Laws.RoundTrip.bar (g : Guard) (b : Fin 16) : Statement (.bar g b) := by
  intro hw w h
  injection h with h
  subst h
  obtain ⟨hlt, ho, hg, n0, n1, n2, n3⟩ := encR_fields 33 g 0 0 0 (0 * 2 ^ 4 + b) (by decide) (by decide) (by decide) (by decide) (by omega)
  have h1 : wordField (encR 0x21 g 0 0 0 (0 * 2 ^ 4 + b)) 0 4 = b.val := by
    rw [encR_low, wordField_low _ _ _ _ _ (by decide)]; simp only [wordField]; omega
  have h2 : wordField (encR 0x21 g 0 0 0 (0 * 2 ^ 4 + b)) 4 3 = 0 := by
    rw [encR_low, wordField_low _ _ _ _ _ (by decide)]; simp only [wordField]; omega
  have h3 : wordField (encR 0x21 g 0 0 0 (0 * 2 ^ 4 + b)) 7 15 = 0 := by
    rw [encR_low, wordField_low _ _ _ _ _ (by decide)]; simp only [wordField]; omega
  generalize encR 0x21 g 0 0 0 (0 * 2 ^ 4 + b) = w at hlt ho hg n0 n1 n2 n3 h1 h2 h3 ⊢
  refine ⟨hlt, ?_⟩
  rw [decodeNat_21 _ ho]
  simp only [decodeBarrier, regField, predField, n0, n1, n2, n3, h1, h2, h3, hg, fin_ofNat_val, ofNat_zero32, ofNat_zero8, ofNat_zero2, Nat.one_ne_zero, if_false, Bool.false_eq_true, whenZero, whenLegal, hw, if_true, Nat.add_zero, ne_eq, not_true_eq_false, false_or, or_self, and_self, Nat.zero_ne_one, reduceIte, Fin.val_zero, mul_div_mod]

theorem Laws.RoundTrip.bara (g : Guard) (b : Fin 16) : Statement (.bara g b) := by
  intro hw w h
  injection h with h
  subst h
  obtain ⟨hlt, ho, hg, n0, n1, n2, n3⟩ := encR_fields 33 g 0 0 0 (1 * 2 ^ 4 + b) (by decide) (by decide) (by decide) (by decide) (by omega)
  have h1 : wordField (encR 0x21 g 0 0 0 (1 * 2 ^ 4 + b)) 0 4 = b.val := by
    rw [encR_low, wordField_low _ _ _ _ _ (by decide)]; simp only [wordField]; omega
  have h2 : wordField (encR 0x21 g 0 0 0 (1 * 2 ^ 4 + b)) 4 3 = 1 := by
    rw [encR_low, wordField_low _ _ _ _ _ (by decide)]; simp only [wordField]; omega
  have h3 : wordField (encR 0x21 g 0 0 0 (1 * 2 ^ 4 + b)) 7 15 = 0 := by
    rw [encR_low, wordField_low _ _ _ _ _ (by decide)]; simp only [wordField]; omega
  generalize encR 0x21 g 0 0 0 (1 * 2 ^ 4 + b) = w at hlt ho hg n0 n1 n2 n3 h1 h2 h3 ⊢
  refine ⟨hlt, ?_⟩
  rw [decodeNat_21 _ ho]
  simp only [decodeBarrier, regField, predField, n0, n1, n2, n3, h1, h2, h3, hg, fin_ofNat_val, ofNat_zero32, ofNat_zero8, ofNat_zero2, Nat.one_ne_zero, if_false, Bool.false_eq_true, whenZero, whenLegal, hw, if_true, Nat.add_zero, ne_eq, not_true_eq_false, false_or, or_self, and_self, Nat.zero_ne_one, reduceIte, Fin.val_zero, mul_div_mod]

theorem Laws.RoundTrip.barw (g : Guard) (b : Fin 16) : Statement (.barw g b) := by
  intro hw w h
  injection h with h
  subst h
  obtain ⟨hlt, ho, hg, n0, n1, n2, n3⟩ := encR_fields 33 g 0 0 0 (2 * 2 ^ 4 + b) (by decide) (by decide) (by decide) (by decide) (by omega)
  have h1 : wordField (encR 0x21 g 0 0 0 (2 * 2 ^ 4 + b)) 0 4 = b.val := by
    rw [encR_low, wordField_low _ _ _ _ _ (by decide)]; simp only [wordField]; omega
  have h2 : wordField (encR 0x21 g 0 0 0 (2 * 2 ^ 4 + b)) 4 3 = 2 := by
    rw [encR_low, wordField_low _ _ _ _ _ (by decide)]; simp only [wordField]; omega
  have h3 : wordField (encR 0x21 g 0 0 0 (2 * 2 ^ 4 + b)) 7 15 = 0 := by
    rw [encR_low, wordField_low _ _ _ _ _ (by decide)]; simp only [wordField]; omega
  generalize encR 0x21 g 0 0 0 (2 * 2 ^ 4 + b) = w at hlt ho hg n0 n1 n2 n3 h1 h2 h3 ⊢
  refine ⟨hlt, ?_⟩
  rw [decodeNat_21 _ ho]
  simp only [decodeBarrier, regField, predField, n0, n1, n2, n3, h1, h2, h3, hg, fin_ofNat_val, ofNat_zero32, ofNat_zero8, ofNat_zero2, Nat.one_ne_zero, if_false, Bool.false_eq_true, whenZero, whenLegal, hw, if_true, Nat.add_zero, ne_eq, not_true_eq_false, false_or, or_self, and_self, Nat.zero_ne_one, reduceIte, Fin.val_zero, mul_div_mod]

theorem Laws.RoundTrip.mwait (g : Guard) (d a b : Reg) (word : Bool) (c : MCond) : Statement (.mwait g d a b word c) := by
  intro hw w h
  injection h with h
  subst h
  have := toNat_lt_two word
  have := MCond.code_lt c
  obtain ⟨hlt, ho, hg, n0, n1, n2, n3⟩ := encR_fields 33 g d a b (3 * 2 ^ 4 + word.toNat * 2 ^ 3 + c.code) (by decide) d.isLt a.isLt b.isLt (by omega)
  have h1 : wordField (encR 0x21 g d a b (3 * 2 ^ 4 + word.toNat * 2 ^ 3 + c.code)) 0 3 = c.code := by
    rw [encR_low, wordField_low _ _ _ _ _ (by decide)]; simp only [wordField]; omega
  have h2 : wordField (encR 0x21 g d a b (3 * 2 ^ 4 + word.toNat * 2 ^ 3 + c.code)) 3 1 = word.toNat := by
    rw [encR_low, wordField_low _ _ _ _ _ (by decide)]; simp only [wordField]; omega
  have h3 : wordField (encR 0x21 g d a b (3 * 2 ^ 4 + word.toNat * 2 ^ 3 + c.code)) 4 3 = 3 := by
    rw [encR_low, wordField_low _ _ _ _ _ (by decide)]; simp only [wordField]; omega
  generalize encR 0x21 g d a b (3 * 2 ^ 4 + word.toNat * 2 ^ 3 + c.code) = w at hlt ho hg n0 n1 n2 n3 h1 h2 h3 ⊢
  refine ⟨hlt, ?_⟩
  rw [decodeNat_21 _ ho]
  simp only [decodeBarrier, regField, predField, n0, n1, n2, n3, h1, h2, h3, hg, mcondOfCode_code, toNat_beq_one, fin_ofNat_val, ofNat_zero32, ofNat_zero8, ofNat_zero2, Nat.one_ne_zero, if_false, Bool.false_eq_true, whenZero, whenLegal, hw, if_true, Nat.add_zero, ne_eq, not_true_eq_false, false_or, or_self, and_self, Nat.zero_ne_one, reduceIte, Fin.val_zero, mul_div_mod]

theorem Laws.RoundTrip.waitd (g : Guard) (n : Reg) (dc : Fin 4) : Statement (.waitd g n dc) := by
  intro hw w h
  injection h with h
  subst h
  obtain ⟨hlt, ho, hg, n0, n1, n2, n3⟩ := encR_fields 33 g 0 0 n (4 * 2 ^ 4 + dc) (by decide) (by decide) (by decide) n.isLt (by omega)
  have h1 : wordField (encR 0x21 g 0 0 n (4 * 2 ^ 4 + dc)) 0 2 = dc.val := by
    rw [encR_low, wordField_low _ _ _ _ _ (by decide)]; simp only [wordField]; omega
  have h2 : wordField (encR 0x21 g 0 0 n (4 * 2 ^ 4 + dc)) 2 2 = 0 := by
    rw [encR_low, wordField_low _ _ _ _ _ (by decide)]; simp only [wordField]; omega
  have h3 : wordField (encR 0x21 g 0 0 n (4 * 2 ^ 4 + dc)) 4 3 = 4 := by
    rw [encR_low, wordField_low _ _ _ _ _ (by decide)]; simp only [wordField]; omega
  have h4 : wordField (encR 0x21 g 0 0 n (4 * 2 ^ 4 + dc)) 12 10 = 0 := by
    rw [encR_low, wordField_low _ _ _ _ _ (by decide)]; simp only [wordField]; omega
  generalize encR 0x21 g 0 0 n (4 * 2 ^ 4 + dc) = w at hlt ho hg n0 n1 n2 n3 h1 h2 h3 h4 ⊢
  refine ⟨hlt, ?_⟩
  rw [decodeNat_21 _ ho]
  simp only [decodeBarrier, regField, predField, n0, n1, n2, n3, h1, h2, h3, h4, hg, fin_ofNat_val, ofNat_zero32, ofNat_zero8, ofNat_zero2, Nat.one_ne_zero, if_false, Bool.false_eq_true, whenZero, whenLegal, hw, if_true, Nat.add_zero, ne_eq, not_true_eq_false, false_or, or_self, and_self, Nat.zero_ne_one, reduceIte, Fin.val_zero, mul_div_mod]

theorem Laws.RoundTrip.fnew (g : Guard) (d : Reg) : Statement (.fnew g d) := by
  intro hw w h
  injection h with h
  subst h
  obtain ⟨hlt, ho, hg, n0, n1, n2, n3⟩ := encR_fields 34 g d 0 0 0 (by decide) d.isLt (by decide) (by decide) (by decide)
  have h1 : wordField (encR 0x22 g d 0 0 0) 7 10 = 0 := by
    rw [encR_low, wordField_low _ _ _ _ _ (by decide)]; simp only [wordField]; omega
  generalize encR 0x22 g d 0 0 0 = w at hlt ho hg n0 n1 n2 n3 h1 ⊢
  refine ⟨hlt, ?_⟩
  rw [decodeNat_22 _ ho]
  simp only [decodeFuture, regField, predField, n0, n1, n2, n3, h1, hg, fin_ofNat_val, ofNat_zero32, ofNat_zero8, ofNat_zero2, Nat.one_ne_zero, if_false, Bool.false_eq_true, whenZero, whenLegal, hw, if_true, Nat.add_zero, ne_eq, not_true_eq_false, false_or, or_self, and_self, Nat.zero_ne_one, reduceIte, Fin.val_zero, mul_div_mod]

theorem Laws.RoundTrip.fput (g : Guard) (d a b : Reg) : Statement (.fput g d a b) := by
  intro hw w h
  injection h with h
  subst h
  obtain ⟨hlt, ho, hg, n0, n1, n2, n3⟩ := encR_fields 34 g d a b 1 (by decide) d.isLt a.isLt b.isLt (by decide)
  generalize encR 0x22 g d a b 1 = w at hlt ho hg n0 n1 n2 n3 ⊢
  refine ⟨hlt, ?_⟩
  rw [decodeNat_22 _ ho]
  simp only [decodeFuture, regField, predField, n0, n1, n2, n3, hg, fin_ofNat_val, ofNat_zero32, ofNat_zero8, ofNat_zero2, Nat.one_ne_zero, if_false, Bool.false_eq_true, whenZero, whenLegal, hw, if_true, Nat.add_zero, ne_eq, not_true_eq_false, false_or, or_self, and_self, Nat.zero_ne_one, reduceIte, Fin.val_zero, mul_div_mod]

theorem Laws.RoundTrip.fget (g : Guard) (d a : Reg) : Statement (.fget g d a) := by
  intro hw w h
  injection h with h
  subst h
  obtain ⟨hlt, ho, hg, n0, n1, n2, n3⟩ := encR_fields 34 g d a 0 2 (by decide) d.isLt a.isLt (by decide) (by decide)
  generalize encR 0x22 g d a 0 2 = w at hlt ho hg n0 n1 n2 n3 ⊢
  refine ⟨hlt, ?_⟩
  rw [decodeNat_22 _ ho]
  simp only [decodeFuture, regField, predField, n0, n1, n2, n3, hg, fin_ofNat_val, ofNat_zero32, ofNat_zero8, ofNat_zero2, Nat.one_ne_zero, if_false, Bool.false_eq_true, whenZero, whenLegal, hw, if_true, Nat.add_zero, ne_eq, not_true_eq_false, false_or, or_self, and_self, Nat.zero_ne_one, reduceIte, Fin.val_zero, mul_div_mod]

theorem Laws.RoundTrip.ftake (g : Guard) (d a : Reg) : Statement (.ftake g d a) := by
  intro hw w h
  injection h with h
  subst h
  obtain ⟨hlt, ho, hg, n0, n1, n2, n3⟩ := encR_fields 34 g d a 0 3 (by decide) d.isLt a.isLt (by decide) (by decide)
  generalize encR 0x22 g d a 0 3 = w at hlt ho hg n0 n1 n2 n3 ⊢
  refine ⟨hlt, ?_⟩
  rw [decodeNat_22 _ ho]
  simp only [decodeFuture, regField, predField, n0, n1, n2, n3, hg, fin_ofNat_val, ofNat_zero32, ofNat_zero8, ofNat_zero2, Nat.one_ne_zero, if_false, Bool.false_eq_true, whenZero, whenLegal, hw, if_true, Nat.add_zero, ne_eq, not_true_eq_false, false_or, or_self, and_self, Nat.zero_ne_one, reduceIte, Fin.val_zero, mul_div_mod]

theorem Laws.RoundTrip.ftry (g : Guard) (d a b : Reg) : Statement (.ftry g d a b) := by
  intro hw w h
  injection h with h
  subst h
  obtain ⟨hlt, ho, hg, n0, n1, n2, n3⟩ := encR_fields 34 g d a b 4 (by decide) d.isLt a.isLt b.isLt (by decide)
  generalize encR 0x22 g d a b 4 = w at hlt ho hg n0 n1 n2 n3 ⊢
  refine ⟨hlt, ?_⟩
  rw [decodeNat_22 _ ho]
  simp only [decodeFuture, regField, predField, n0, n1, n2, n3, hg, fin_ofNat_val, ofNat_zero32, ofNat_zero8, ofNat_zero2, Nat.one_ne_zero, if_false, Bool.false_eq_true, whenZero, whenLegal, hw, if_true, Nat.add_zero, ne_eq, not_true_eq_false, false_or, or_self, and_self, Nat.zero_ne_one, reduceIte, Fin.val_zero, mul_div_mod]

theorem Laws.RoundTrip.ffree (g : Guard) (a : Reg) : Statement (.ffree g a) := by
  intro hw w h
  injection h with h
  subst h
  obtain ⟨hlt, ho, hg, n0, n1, n2, n3⟩ := encR_fields 34 g 0 a 0 5 (by decide) (by decide) a.isLt (by decide) (by decide)
  generalize encR 0x22 g 0 a 0 5 = w at hlt ho hg n0 n1 n2 n3 ⊢
  refine ⟨hlt, ?_⟩
  rw [decodeNat_22 _ ho]
  simp only [decodeFuture, regField, predField, n0, n1, n2, n3, hg, fin_ofNat_val, ofNat_zero32, ofNat_zero8, ofNat_zero2, Nat.one_ne_zero, if_false, Bool.false_eq_true, whenZero, whenLegal, hw, if_true, Nat.add_zero, ne_eq, not_true_eq_false, false_or, or_self, and_self, Nat.zero_ne_one, reduceIte, Fin.val_zero, mul_div_mod]

theorem Laws.RoundTrip.enq (g : Guard) (a : Reg) (eng : Fin 8) (dc : Fin 4) : Statement (.enq g a eng dc) := by
  intro hw w h
  injection h with h
  subst h
  obtain ⟨hlt, ho, hg, n0, n1, n2, n3, n4, n5⟩ := encX_fields 35 g 0 a 0 eng dc 0 (by decide) (by decide) a.isLt (by decide) eng.isLt dc.isLt (by decide)
  generalize encX 0x23 g 0 a 0 eng dc 0 = w at hlt ho hg n0 n1 n2 n3 n4 n5 ⊢
  refine ⟨hlt, ?_⟩
  rw [decodeNat_23 _ ho]
  simp only [decodeEnq, regField, predField, n0, n1, n2, n3, n4, n5, hg, fin_ofNat_val, ofNat_zero32, ofNat_zero8, ofNat_zero2, Nat.one_ne_zero, if_false, Bool.false_eq_true, whenZero, whenLegal, hw, if_true, Nat.add_zero, ne_eq, not_true_eq_false, false_or, or_self, and_self, Nat.zero_ne_one, reduceIte, Fin.val_zero, mul_div_mod]

theorem Laws.RoundTrip.enqy (g : Guard) (d a b : Reg) (eng : Fin 8) : Statement (.enqy g d a b eng) := by
  intro hw w h
  injection h with h
  subst h
  obtain ⟨hlt, ho, hg, n0, n1, n2, n3, n4, n5⟩ := encX_fields 35 g d a b eng 0 1 (by decide) d.isLt a.isLt b.isLt eng.isLt (by decide) (by decide)
  generalize encX 0x23 g d a b eng 0 1 = w at hlt ho hg n0 n1 n2 n3 n4 n5 ⊢
  refine ⟨hlt, ?_⟩
  rw [decodeNat_23 _ ho]
  simp only [decodeEnq, regField, predField, n0, n1, n2, n3, n4, n5, hg, fin_ofNat_val, ofNat_zero32, ofNat_zero8, ofNat_zero2, Nat.one_ne_zero, if_false, Bool.false_eq_true, whenZero, whenLegal, hw, if_true, Nat.add_zero, ne_eq, not_true_eq_false, false_or, or_self, and_self, Nat.zero_ne_one, reduceIte, Fin.val_zero, mul_div_mod]

theorem Laws.RoundTrip.deq (g : Guard) (d : Reg) (eng : Fin 8) (dc : Fin 4) : Statement (.deq g d eng dc) := by
  intro hw w h
  injection h with h
  subst h
  obtain ⟨hlt, ho, hg, n0, n1, n2, n3, n4, n5⟩ := encX_fields 36 g d 0 0 eng dc 0 (by decide) d.isLt (by decide) (by decide) eng.isLt dc.isLt (by decide)
  have h1 : wordField (encX 0x24 g d 0 0 eng dc 0) 7 10 = 0 := by
    rw [encX_low, wordField_low _ _ _ _ _ (by decide)]; simp only [wordField]; omega
  generalize encX 0x24 g d 0 0 eng dc 0 = w at hlt ho hg n0 n1 n2 n3 n4 n5 h1 ⊢
  refine ⟨hlt, ?_⟩
  rw [decodeNat_24 _ ho]
  simp only [decodeDeq, regField, predField, n0, n1, n2, n3, n4, n5, h1, hg, fin_ofNat_val, ofNat_zero32, ofNat_zero8, ofNat_zero2, Nat.one_ne_zero, if_false, Bool.false_eq_true, whenZero, whenLegal, hw, if_true, Nat.add_zero, ne_eq, not_true_eq_false, false_or, or_self, and_self, Nat.zero_ne_one, reduceIte, Fin.val_zero, mul_div_mod]

theorem Laws.RoundTrip.deqt (g : Guard) (d : Reg) (eng : Fin 8) (dc : Fin 4) : Statement (.deqt g d eng dc) := by
  intro hw w h
  injection h with h
  subst h
  obtain ⟨hlt, ho, hg, n0, n1, n2, n3, n4, n5⟩ := encX_fields 36 g d 0 0 eng dc 1 (by decide) d.isLt (by decide) (by decide) eng.isLt dc.isLt (by decide)
  have h1 : wordField (encX 0x24 g d 0 0 eng dc 1) 7 10 = 0 := by
    rw [encX_low, wordField_low _ _ _ _ _ (by decide)]; simp only [wordField]; omega
  generalize encX 0x24 g d 0 0 eng dc 1 = w at hlt ho hg n0 n1 n2 n3 n4 n5 h1 ⊢
  refine ⟨hlt, ?_⟩
  rw [decodeNat_24 _ ho]
  simp only [decodeDeq, regField, predField, n0, n1, n2, n3, n4, n5, h1, hg, fin_ofNat_val, ofNat_zero32, ofNat_zero8, ofNat_zero2, Nat.one_ne_zero, if_false, Bool.false_eq_true, whenZero, whenLegal, hw, if_true, Nat.add_zero, ne_eq, not_true_eq_false, false_or, or_self, and_self, Nat.zero_ne_one, reduceIte, Fin.val_zero, mul_div_mod]

theorem Laws.RoundTrip.setvl (g : Guard) (d a b : Reg) : Statement (.setvl g d a b) := by
  intro hw w h
  injection h with h
  subst h
  obtain ⟨hlt, ho, hg, n0, n1, n2, n3⟩ := encR_fields 37 g d a b 0 (by decide) d.isLt a.isLt b.isLt (by decide)
  generalize encR 0x25 g d a b 0 = w at hlt ho hg n0 n1 n2 n3 ⊢
  refine ⟨hlt, ?_⟩
  rw [decodeNat_25 _ ho]
  simp only [decodeVectorControl, regField, predField, n0, n1, n2, n3, hg, fin_ofNat_val, ofNat_zero32, ofNat_zero8, ofNat_zero2, Nat.one_ne_zero, if_false, Bool.false_eq_true, whenZero, whenLegal, hw, if_true, Nat.add_zero, ne_eq, not_true_eq_false, false_or, or_self, and_self, Nat.zero_ne_one, reduceIte, Fin.val_zero, mul_div_mod]

theorem Laws.RoundTrip.setcfg (g : Guard) (d a : Reg) : Statement (.setcfg g d a) := by
  intro hw w h
  injection h with h
  subst h
  obtain ⟨hlt, ho, hg, n0, n1, n2, n3⟩ := encR_fields 37 g d a 0 1 (by decide) d.isLt a.isLt (by decide) (by decide)
  generalize encR 0x25 g d a 0 1 = w at hlt ho hg n0 n1 n2 n3 ⊢
  refine ⟨hlt, ?_⟩
  rw [decodeNat_25 _ ho]
  simp only [decodeVectorControl, regField, predField, n0, n1, n2, n3, hg, fin_ofNat_val, ofNat_zero32, ofNat_zero8, ofNat_zero2, Nat.one_ne_zero, if_false, Bool.false_eq_true, whenZero, whenLegal, hw, if_true, Nat.add_zero, ne_eq, not_true_eq_false, false_or, or_self, and_self, Nat.zero_ne_one, reduceIte, Fin.val_zero, mul_div_mod]

theorem Laws.RoundTrip.setmt (g : Guard) (a : Reg) : Statement (.setmt g a) := by
  intro hw w h
  injection h with h
  subst h
  obtain ⟨hlt, ho, hg, n0, n1, n2, n3⟩ := encR_fields 37 g 0 a 0 2 (by decide) (by decide) a.isLt (by decide) (by decide)
  generalize encR 0x25 g 0 a 0 2 = w at hlt ho hg n0 n1 n2 n3 ⊢
  refine ⟨hlt, ?_⟩
  rw [decodeNat_25 _ ho]
  simp only [decodeVectorControl, regField, predField, n0, n1, n2, n3, hg, fin_ofNat_val, ofNat_zero32, ofNat_zero8, ofNat_zero2, Nat.one_ne_zero, if_false, Bool.false_eq_true, whenZero, whenLegal, hw, if_true, Nat.add_zero, ne_eq, not_true_eq_false, false_or, or_self, and_self, Nat.zero_ne_one, reduceIte, Fin.val_zero, mul_div_mod]

theorem Laws.RoundTrip.setem (g : Guard) (a : Reg) : Statement (.setem g a) := by
  intro hw w h
  injection h with h
  subst h
  obtain ⟨hlt, ho, hg, n0, n1, n2, n3⟩ := encR_fields 37 g 0 a 0 3 (by decide) (by decide) a.isLt (by decide) (by decide)
  generalize encR 0x25 g 0 a 0 3 = w at hlt ho hg n0 n1 n2 n3 ⊢
  refine ⟨hlt, ?_⟩
  rw [decodeNat_25 _ ho]
  simp only [decodeVectorControl, regField, predField, n0, n1, n2, n3, hg, fin_ofNat_val, ofNat_zero32, ofNat_zero8, ofNat_zero2, Nat.one_ne_zero, if_false, Bool.false_eq_true, whenZero, whenLegal, hw, if_true, Nat.add_zero, ne_eq, not_true_eq_false, false_or, or_self, and_self, Nat.zero_ne_one, reduceIte, Fin.val_zero, mul_div_mod]

theorem Laws.RoundTrip.setseg (g : Guard) (seg : Fin 4) (a : Reg) : Statement (.setseg g seg a) := by
  intro hw w h
  injection h with h
  subst h
  obtain ⟨hlt, ho, hg, n0, n1, n2, n3⟩ := encR_fields 37 g seg a 0 4 (by decide) (by omega) a.isLt (by decide) (by decide)
  have h1 : wordField (encR 0x25 g seg a 0 4) 17 2 = seg.val := by
    rw [encR_low, wordField_low _ _ _ _ _ (by decide)]; simp only [wordField]; omega
  have h2 : wordField (encR 0x25 g seg a 0 4) 19 3 = 0 := by
    rw [encR_low, wordField_low _ _ _ _ _ (by decide)]; simp only [wordField]; omega
  generalize encR 0x25 g seg a 0 4 = w at hlt ho hg n0 n1 n2 n3 h1 h2 ⊢
  refine ⟨hlt, ?_⟩
  rw [decodeNat_25 _ ho]
  simp only [decodeVectorControl, regField, predField, n0, n1, n2, n3, h1, h2, hg, fin_ofNat_val, ofNat_zero32, ofNat_zero8, ofNat_zero2, Nat.one_ne_zero, if_false, Bool.false_eq_true, whenZero, whenLegal, hw, if_true, Nat.add_zero, ne_eq, not_true_eq_false, false_or, or_self, and_self, Nat.zero_ne_one, reduceIte, Fin.val_zero, mul_div_mod]

theorem Laws.RoundTrip.vjoin (g : Guard) : Statement (.vjoin g) := by
  intro hw w h
  injection h with h
  subst h
  obtain ⟨hlt, ho, hg, n0, n1, n2, n3⟩ := encR_fields 37 g 0 0 0 5 (by decide) (by decide) (by decide) (by decide) (by decide)
  have h1 : wordField (encR 0x25 g 0 0 0 5) 7 15 = 0 := by
    rw [encR_low, wordField_low _ _ _ _ _ (by decide)]; simp only [wordField]; omega
  generalize encR 0x25 g 0 0 0 5 = w at hlt ho hg n0 n1 n2 n3 h1 ⊢
  refine ⟨hlt, ?_⟩
  rw [decodeNat_25 _ ho]
  simp only [decodeVectorControl, regField, predField, n0, n1, n2, n3, h1, hg, fin_ofNat_val, ofNat_zero32, ofNat_zero8, ofNat_zero2, Nat.one_ne_zero, if_false, Bool.false_eq_true, whenZero, whenLegal, hw, if_true, Nat.add_zero, ne_eq, not_true_eq_false, false_or, or_self, and_self, Nat.zero_ne_one, reduceIte, Fin.val_zero, mul_div_mod]

theorem Laws.RoundTrip.xseed (g : Guard) (a : Reg) : Statement (.xseed g a) := by
  intro hw w h
  injection h with h
  subst h
  obtain ⟨hlt, ho, hg, n0, n1, n2, n3⟩ := encR_fields 37 g 0 a 0 6 (by decide) (by decide) a.isLt (by decide) (by decide)
  generalize encR 0x25 g 0 a 0 6 = w at hlt ho hg n0 n1 n2 n3 ⊢
  refine ⟨hlt, ?_⟩
  rw [decodeNat_25 _ ho]
  simp only [decodeVectorControl, regField, predField, n0, n1, n2, n3, hg, fin_ofNat_val, ofNat_zero32, ofNat_zero8, ofNat_zero2, Nat.one_ne_zero, if_false, Bool.false_eq_true, whenZero, whenLegal, hw, if_true, Nat.add_zero, ne_eq, not_true_eq_false, false_or, or_self, and_self, Nat.zero_ne_one, reduceIte, Fin.val_zero, mul_div_mod]

theorem Laws.RoundTrip.xdrain (g : Guard) (d : Reg) : Statement (.xdrain g d) := by
  intro hw w h
  injection h with h
  subst h
  obtain ⟨hlt, ho, hg, n0, n1, n2, n3⟩ := encR_fields 37 g d 0 0 7 (by decide) d.isLt (by decide) (by decide) (by decide)
  have h1 : wordField (encR 0x25 g d 0 0 7) 7 10 = 0 := by
    rw [encR_low, wordField_low _ _ _ _ _ (by decide)]; simp only [wordField]; omega
  generalize encR 0x25 g d 0 0 7 = w at hlt ho hg n0 n1 n2 n3 h1 ⊢
  refine ⟨hlt, ?_⟩
  rw [decodeNat_25 _ ho]
  simp only [decodeVectorControl, regField, predField, n0, n1, n2, n3, h1, hg, fin_ofNat_val, ofNat_zero32, ofNat_zero8, ofNat_zero2, Nat.one_ne_zero, if_false, Bool.false_eq_true, whenZero, whenLegal, hw, if_true, Nat.add_zero, ne_eq, not_true_eq_false, false_or, or_self, and_self, Nat.zero_ne_one, reduceIte, Fin.val_zero, mul_div_mod]

theorem Laws.RoundTrip.vbcast (g : Guard) (d a : Reg) : Statement (.vbcast g d a) := by
  intro hw w h
  injection h with h
  subst h
  obtain ⟨hlt, ho, hg, n0, n1, n2, n3⟩ := encR_fields 37 g d a 0 8 (by decide) d.isLt a.isLt (by decide) (by decide)
  generalize encR 0x25 g d a 0 8 = w at hlt ho hg n0 n1 n2 n3 ⊢
  refine ⟨hlt, ?_⟩
  rw [decodeNat_25 _ ho]
  simp only [decodeVectorControl, regField, predField, n0, n1, n2, n3, hg, fin_ofNat_val, ofNat_zero32, ofNat_zero8, ofNat_zero2, Nat.one_ne_zero, if_false, Bool.false_eq_true, whenZero, whenLegal, hw, if_true, Nat.add_zero, ne_eq, not_true_eq_false, false_or, or_self, and_self, Nat.zero_ne_one, reduceIte, Fin.val_zero, mul_div_mod]

theorem Laws.RoundTrip.vextract (g : Guard) (d a b : Reg) : Statement (.vextract g d a b) := by
  intro hw w h
  injection h with h
  subst h
  obtain ⟨hlt, ho, hg, n0, n1, n2, n3⟩ := encR_fields 37 g d a b 9 (by decide) d.isLt a.isLt b.isLt (by decide)
  generalize encR 0x25 g d a b 9 = w at hlt ho hg n0 n1 n2 n3 ⊢
  refine ⟨hlt, ?_⟩
  rw [decodeNat_25 _ ho]
  simp only [decodeVectorControl, regField, predField, n0, n1, n2, n3, hg, fin_ofNat_val, ofNat_zero32, ofNat_zero8, ofNat_zero2, Nat.one_ne_zero, if_false, Bool.false_eq_true, whenZero, whenLegal, hw, if_true, Nat.add_zero, ne_eq, not_true_eq_false, false_or, or_self, and_self, Nat.zero_ne_one, reduceIte, Fin.val_zero, mul_div_mod]

theorem Laws.RoundTrip.vf (g : Guard) (imm : Fin 4194304) : Statement (.vf g imm) := by
  intro hw w h
  injection h with h
  subst h
  obtain ⟨hlt, ho, hg, n0⟩ := encJ_fields 38 g imm (by decide) imm.isLt
  generalize encJ 0x26 g imm = w at hlt ho hg n0 ⊢
  refine ⟨hlt, ?_⟩
  rw [decodeNat_26 _ ho]
  simp only [regField, predField, n0, hg, fin_ofNat_val, ofNat_zero32, ofNat_zero8, ofNat_zero2, Nat.one_ne_zero, if_false, Bool.false_eq_true, whenZero, whenLegal, hw, if_true, Nat.add_zero, ne_eq, not_true_eq_false, false_or, or_self, and_self, Nat.zero_ne_one, reduceIte, Fin.val_zero, mul_div_mod]

theorem Laws.RoundTrip.vfr (g : Guard) (a : Reg) (imm : Fin 4096) : Statement (.vfr g a imm) := by
  intro hw w h
  injection h with h
  subst h
  obtain ⟨hlt, ho, hg, n0, n1, n2⟩ := encI_fields 39 g 0 a imm (by decide) (by decide) a.isLt imm.isLt
  generalize encI 0x27 g 0 a imm = w at hlt ho hg n0 n1 n2 ⊢
  refine ⟨hlt, ?_⟩
  rw [decodeNat_27 _ ho]
  simp only [regField, predField, n0, n1, n2, hg, fin_ofNat_val, ofNat_zero32, ofNat_zero8, ofNat_zero2, Nat.one_ne_zero, if_false, Bool.false_eq_true, whenZero, whenLegal, hw, if_true, Nat.add_zero, ne_eq, not_true_eq_false, false_or, or_self, and_self, Nat.zero_ne_one, reduceIte, Fin.val_zero, mul_div_mod]

theorem Laws.RoundTrip.vld (g : Guard) (v a b : Reg) (mode : VMode) (dc : Fin 4) (q : Bool) (hint : Hint) : Statement (.vld g v a b mode dc q hint) := by
  intro hw w h
  injection h with h
  subst h
  have := VMode.code_lt mode
  have := toNat_lt_two q
  have := Hint.code_lt hint
  obtain ⟨hlt, ho, hg, n0, n1, n2, n3, n4, n5, n6⟩ := encV_fields 40 g v a b mode.code dc q.toNat hint.code (by decide) v.isLt a.isLt b.isLt (by omega) dc.isLt (by omega) (by omega)
  generalize encV 0x28 g v a b mode.code dc q.toNat hint.code = w at hlt ho hg n0 n1 n2 n3 n4 n5 n6 ⊢
  refine ⟨hlt, ?_⟩
  rw [decodeNat_28 _ ho]
  rw [decodeVmem]
  try dsimp only
  rw [n6, hintOfCode_code]
  try dsimp only
  simp only [regField, predField, n0, n1, n2, n3, n4, n5, n6, hg, hintOfCode_code, toNat_beq_one, vmodeOfCode_code, fin_ofNat_val, ofNat_zero32, ofNat_zero8, ofNat_zero2, Nat.one_ne_zero, if_false, Bool.false_eq_true, whenZero, whenLegal, hw, if_true, Nat.add_zero, ne_eq, not_true_eq_false, false_or, or_self, and_self, Nat.zero_ne_one, reduceIte, Fin.val_zero, mul_div_mod]

theorem Laws.RoundTrip.vst (g : Guard) (v a b : Reg) (mode : VMode) (dc : Fin 4) (q : Bool) (hint : Hint) : Statement (.vst g v a b mode dc q hint) := by
  intro hw w h
  injection h with h
  subst h
  have := VMode.code_lt mode
  have := toNat_lt_two q
  have := Hint.code_lt hint
  obtain ⟨hlt, ho, hg, n0, n1, n2, n3, n4, n5, n6⟩ := encV_fields 41 g v a b mode.code dc q.toNat hint.code (by decide) v.isLt a.isLt b.isLt (by omega) dc.isLt (by omega) (by omega)
  generalize encV 0x29 g v a b mode.code dc q.toNat hint.code = w at hlt ho hg n0 n1 n2 n3 n4 n5 n6 ⊢
  refine ⟨hlt, ?_⟩
  rw [decodeNat_29 _ ho]
  rw [decodeVmem]
  try dsimp only
  rw [n6, hintOfCode_code]
  try dsimp only
  simp only [regField, predField, n0, n1, n2, n3, n4, n5, n6, hg, hintOfCode_code, toNat_beq_one, vmodeOfCode_code, fin_ofNat_val, ofNat_zero32, ofNat_zero8, ofNat_zero2, Nat.one_ne_zero, if_false, Bool.false_eq_true, whenZero, whenLegal, hw, if_true, Nat.add_zero, ne_eq, not_true_eq_false, false_or, or_self, and_self, Nat.zero_ne_one, reduceIte, Fin.val_zero, mul_div_mod]

theorem Laws.RoundTrip.fadd (g : Guard) (d a b : Reg) : Statement (.fadd g d a b) := by
  intro hw w h
  injection h with h
  subst h
  obtain ⟨hlt, ho, hg, n0, n1, n2, n3⟩ := encR_fields 42 g d a b 0 (by decide) d.isLt a.isLt b.isLt (by decide)
  generalize encR 0x2A g d a b 0 = w at hlt ho hg n0 n1 n2 n3 ⊢
  refine ⟨hlt, ?_⟩
  rw [decodeNat_2A _ ho]
  simp only [decodeFloat, regField, predField, n0, n1, n2, n3, hg, fin_ofNat_val, ofNat_zero32, ofNat_zero8, ofNat_zero2, Nat.one_ne_zero, if_false, Bool.false_eq_true, whenZero, whenLegal, hw, if_true, Nat.add_zero, ne_eq, not_true_eq_false, false_or, or_self, and_self, Nat.zero_ne_one, reduceIte, Fin.val_zero, mul_div_mod]

theorem Laws.RoundTrip.fsub (g : Guard) (d a b : Reg) : Statement (.fsub g d a b) := by
  intro hw w h
  injection h with h
  subst h
  obtain ⟨hlt, ho, hg, n0, n1, n2, n3⟩ := encR_fields 42 g d a b 1 (by decide) d.isLt a.isLt b.isLt (by decide)
  generalize encR 0x2A g d a b 1 = w at hlt ho hg n0 n1 n2 n3 ⊢
  refine ⟨hlt, ?_⟩
  rw [decodeNat_2A _ ho]
  simp only [decodeFloat, regField, predField, n0, n1, n2, n3, hg, fin_ofNat_val, ofNat_zero32, ofNat_zero8, ofNat_zero2, Nat.one_ne_zero, if_false, Bool.false_eq_true, whenZero, whenLegal, hw, if_true, Nat.add_zero, ne_eq, not_true_eq_false, false_or, or_self, and_self, Nat.zero_ne_one, reduceIte, Fin.val_zero, mul_div_mod]

theorem Laws.RoundTrip.fmul (g : Guard) (d a b : Reg) : Statement (.fmul g d a b) := by
  intro hw w h
  injection h with h
  subst h
  obtain ⟨hlt, ho, hg, n0, n1, n2, n3⟩ := encR_fields 42 g d a b 2 (by decide) d.isLt a.isLt b.isLt (by decide)
  generalize encR 0x2A g d a b 2 = w at hlt ho hg n0 n1 n2 n3 ⊢
  refine ⟨hlt, ?_⟩
  rw [decodeNat_2A _ ho]
  simp only [decodeFloat, regField, predField, n0, n1, n2, n3, hg, fin_ofNat_val, ofNat_zero32, ofNat_zero8, ofNat_zero2, Nat.one_ne_zero, if_false, Bool.false_eq_true, whenZero, whenLegal, hw, if_true, Nat.add_zero, ne_eq, not_true_eq_false, false_or, or_self, and_self, Nat.zero_ne_one, reduceIte, Fin.val_zero, mul_div_mod]

theorem Laws.RoundTrip.fmin (g : Guard) (d a b : Reg) : Statement (.fmin g d a b) := by
  intro hw w h
  injection h with h
  subst h
  obtain ⟨hlt, ho, hg, n0, n1, n2, n3⟩ := encR_fields 42 g d a b 3 (by decide) d.isLt a.isLt b.isLt (by decide)
  generalize encR 0x2A g d a b 3 = w at hlt ho hg n0 n1 n2 n3 ⊢
  refine ⟨hlt, ?_⟩
  rw [decodeNat_2A _ ho]
  simp only [decodeFloat, regField, predField, n0, n1, n2, n3, hg, fin_ofNat_val, ofNat_zero32, ofNat_zero8, ofNat_zero2, Nat.one_ne_zero, if_false, Bool.false_eq_true, whenZero, whenLegal, hw, if_true, Nat.add_zero, ne_eq, not_true_eq_false, false_or, or_self, and_self, Nat.zero_ne_one, reduceIte, Fin.val_zero, mul_div_mod]

theorem Laws.RoundTrip.fmax (g : Guard) (d a b : Reg) : Statement (.fmax g d a b) := by
  intro hw w h
  injection h with h
  subst h
  obtain ⟨hlt, ho, hg, n0, n1, n2, n3⟩ := encR_fields 42 g d a b 4 (by decide) d.isLt a.isLt b.isLt (by decide)
  generalize encR 0x2A g d a b 4 = w at hlt ho hg n0 n1 n2 n3 ⊢
  refine ⟨hlt, ?_⟩
  rw [decodeNat_2A _ ho]
  simp only [decodeFloat, regField, predField, n0, n1, n2, n3, hg, fin_ofNat_val, ofNat_zero32, ofNat_zero8, ofNat_zero2, Nat.one_ne_zero, if_false, Bool.false_eq_true, whenZero, whenLegal, hw, if_true, Nat.add_zero, ne_eq, not_true_eq_false, false_or, or_self, and_self, Nat.zero_ne_one, reduceIte, Fin.val_zero, mul_div_mod]

theorem Laws.RoundTrip.fdiv (g : Guard) (d a b : Reg) : Statement (.fdiv g d a b) := by
  intro hw w h
  injection h with h
  subst h
  obtain ⟨hlt, ho, hg, n0, n1, n2, n3⟩ := encR_fields 42 g d a b 5 (by decide) d.isLt a.isLt b.isLt (by decide)
  generalize encR 0x2A g d a b 5 = w at hlt ho hg n0 n1 n2 n3 ⊢
  refine ⟨hlt, ?_⟩
  rw [decodeNat_2A _ ho]
  simp only [decodeFloat, regField, predField, n0, n1, n2, n3, hg, fin_ofNat_val, ofNat_zero32, ofNat_zero8, ofNat_zero2, Nat.one_ne_zero, if_false, Bool.false_eq_true, whenZero, whenLegal, hw, if_true, Nat.add_zero, ne_eq, not_true_eq_false, false_or, or_self, and_self, Nat.zero_ne_one, reduceIte, Fin.val_zero, mul_div_mod]

theorem Laws.RoundTrip.fsqrt (g : Guard) (d a : Reg) : Statement (.fsqrt g d a) := by
  intro hw w h
  injection h with h
  subst h
  obtain ⟨hlt, ho, hg, n0, n1, n2, n3⟩ := encR_fields 42 g d a 0 8 (by decide) d.isLt a.isLt (by decide) (by decide)
  generalize encR 0x2A g d a 0 8 = w at hlt ho hg n0 n1 n2 n3 ⊢
  refine ⟨hlt, ?_⟩
  rw [decodeNat_2A _ ho]
  simp only [decodeFloat, regField, predField, n0, n1, n2, n3, hg, fin_ofNat_val, ofNat_zero32, ofNat_zero8, ofNat_zero2, Nat.one_ne_zero, if_false, Bool.false_eq_true, whenZero, whenLegal, hw, if_true, Nat.add_zero, ne_eq, not_true_eq_false, false_or, or_self, and_self, Nat.zero_ne_one, reduceIte, Fin.val_zero, mul_div_mod]

theorem Laws.RoundTrip.frcp (g : Guard) (d a : Reg) : Statement (.frcp g d a) := by
  intro hw w h
  injection h with h
  subst h
  obtain ⟨hlt, ho, hg, n0, n1, n2, n3⟩ := encR_fields 42 g d a 0 9 (by decide) d.isLt a.isLt (by decide) (by decide)
  generalize encR 0x2A g d a 0 9 = w at hlt ho hg n0 n1 n2 n3 ⊢
  refine ⟨hlt, ?_⟩
  rw [decodeNat_2A _ ho]
  simp only [decodeFloat, regField, predField, n0, n1, n2, n3, hg, fin_ofNat_val, ofNat_zero32, ofNat_zero8, ofNat_zero2, Nat.one_ne_zero, if_false, Bool.false_eq_true, whenZero, whenLegal, hw, if_true, Nat.add_zero, ne_eq, not_true_eq_false, false_or, or_self, and_self, Nat.zero_ne_one, reduceIte, Fin.val_zero, mul_div_mod]

theorem Laws.RoundTrip.frsq (g : Guard) (d a : Reg) : Statement (.frsq g d a) := by
  intro hw w h
  injection h with h
  subst h
  obtain ⟨hlt, ho, hg, n0, n1, n2, n3⟩ := encR_fields 42 g d a 0 10 (by decide) d.isLt a.isLt (by decide) (by decide)
  generalize encR 0x2A g d a 0 10 = w at hlt ho hg n0 n1 n2 n3 ⊢
  refine ⟨hlt, ?_⟩
  rw [decodeNat_2A _ ho]
  simp only [decodeFloat, regField, predField, n0, n1, n2, n3, hg, fin_ofNat_val, ofNat_zero32, ofNat_zero8, ofNat_zero2, Nat.one_ne_zero, if_false, Bool.false_eq_true, whenZero, whenLegal, hw, if_true, Nat.add_zero, ne_eq, not_true_eq_false, false_or, or_self, and_self, Nat.zero_ne_one, reduceIte, Fin.val_zero, mul_div_mod]

theorem Laws.RoundTrip.fexp2 (g : Guard) (d a : Reg) : Statement (.fexp2 g d a) := by
  intro hw w h
  injection h with h
  subst h
  obtain ⟨hlt, ho, hg, n0, n1, n2, n3⟩ := encR_fields 42 g d a 0 11 (by decide) d.isLt a.isLt (by decide) (by decide)
  generalize encR 0x2A g d a 0 11 = w at hlt ho hg n0 n1 n2 n3 ⊢
  refine ⟨hlt, ?_⟩
  rw [decodeNat_2A _ ho]
  simp only [decodeFloat, regField, predField, n0, n1, n2, n3, hg, fin_ofNat_val, ofNat_zero32, ofNat_zero8, ofNat_zero2, Nat.one_ne_zero, if_false, Bool.false_eq_true, whenZero, whenLegal, hw, if_true, Nat.add_zero, ne_eq, not_true_eq_false, false_or, or_self, and_self, Nat.zero_ne_one, reduceIte, Fin.val_zero, mul_div_mod]

theorem Laws.RoundTrip.flog2 (g : Guard) (d a : Reg) : Statement (.flog2 g d a) := by
  intro hw w h
  injection h with h
  subst h
  obtain ⟨hlt, ho, hg, n0, n1, n2, n3⟩ := encR_fields 42 g d a 0 12 (by decide) d.isLt a.isLt (by decide) (by decide)
  generalize encR 0x2A g d a 0 12 = w at hlt ho hg n0 n1 n2 n3 ⊢
  refine ⟨hlt, ?_⟩
  rw [decodeNat_2A _ ho]
  simp only [decodeFloat, regField, predField, n0, n1, n2, n3, hg, fin_ofNat_val, ofNat_zero32, ofNat_zero8, ofNat_zero2, Nat.one_ne_zero, if_false, Bool.false_eq_true, whenZero, whenLegal, hw, if_true, Nat.add_zero, ne_eq, not_true_eq_false, false_or, or_self, and_self, Nat.zero_ne_one, reduceIte, Fin.val_zero, mul_div_mod]

theorem Laws.RoundTrip.fabs (g : Guard) (d a : Reg) : Statement (.fabs g d a) := by
  intro hw w h
  injection h with h
  subst h
  obtain ⟨hlt, ho, hg, n0, n1, n2, n3⟩ := encR_fields 42 g d a 0 16 (by decide) d.isLt a.isLt (by decide) (by decide)
  generalize encR 0x2A g d a 0 16 = w at hlt ho hg n0 n1 n2 n3 ⊢
  refine ⟨hlt, ?_⟩
  rw [decodeNat_2A _ ho]
  simp only [decodeFloat, regField, predField, n0, n1, n2, n3, hg, fin_ofNat_val, ofNat_zero32, ofNat_zero8, ofNat_zero2, Nat.one_ne_zero, if_false, Bool.false_eq_true, whenZero, whenLegal, hw, if_true, Nat.add_zero, ne_eq, not_true_eq_false, false_or, or_self, and_self, Nat.zero_ne_one, reduceIte, Fin.val_zero, mul_div_mod]

theorem Laws.RoundTrip.fneg (g : Guard) (d a : Reg) : Statement (.fneg g d a) := by
  intro hw w h
  injection h with h
  subst h
  obtain ⟨hlt, ho, hg, n0, n1, n2, n3⟩ := encR_fields 42 g d a 0 17 (by decide) d.isLt a.isLt (by decide) (by decide)
  generalize encR 0x2A g d a 0 17 = w at hlt ho hg n0 n1 n2 n3 ⊢
  refine ⟨hlt, ?_⟩
  rw [decodeNat_2A _ ho]
  simp only [decodeFloat, regField, predField, n0, n1, n2, n3, hg, fin_ofNat_val, ofNat_zero32, ofNat_zero8, ofNat_zero2, Nat.one_ne_zero, if_false, Bool.false_eq_true, whenZero, whenLegal, hw, if_true, Nat.add_zero, ne_eq, not_true_eq_false, false_or, or_self, and_self, Nat.zero_ne_one, reduceIte, Fin.val_zero, mul_div_mod]

theorem Laws.RoundTrip.fsgnj (g : Guard) (d a b : Reg) : Statement (.fsgnj g d a b) := by
  intro hw w h
  injection h with h
  subst h
  obtain ⟨hlt, ho, hg, n0, n1, n2, n3⟩ := encR_fields 42 g d a b 18 (by decide) d.isLt a.isLt b.isLt (by decide)
  generalize encR 0x2A g d a b 18 = w at hlt ho hg n0 n1 n2 n3 ⊢
  refine ⟨hlt, ?_⟩
  rw [decodeNat_2A _ ho]
  simp only [decodeFloat, regField, predField, n0, n1, n2, n3, hg, fin_ofNat_val, ofNat_zero32, ofNat_zero8, ofNat_zero2, Nat.one_ne_zero, if_false, Bool.false_eq_true, whenZero, whenLegal, hw, if_true, Nat.add_zero, ne_eq, not_true_eq_false, false_or, or_self, and_self, Nat.zero_ne_one, reduceIte, Fin.val_zero, mul_div_mod]

theorem Laws.RoundTrip.fclass (g : Guard) (d a : Reg) : Statement (.fclass g d a) := by
  intro hw w h
  injection h with h
  subst h
  obtain ⟨hlt, ho, hg, n0, n1, n2, n3⟩ := encR_fields 42 g d a 0 19 (by decide) d.isLt a.isLt (by decide) (by decide)
  generalize encR 0x2A g d a 0 19 = w at hlt ho hg n0 n1 n2 n3 ⊢
  refine ⟨hlt, ?_⟩
  rw [decodeNat_2A _ ho]
  simp only [decodeFloat, regField, predField, n0, n1, n2, n3, hg, fin_ofNat_val, ofNat_zero32, ofNat_zero8, ofNat_zero2, Nat.one_ne_zero, if_false, Bool.false_eq_true, whenZero, whenLegal, hw, if_true, Nat.add_zero, ne_eq, not_true_eq_false, false_or, or_self, and_self, Nat.zero_ne_one, reduceIte, Fin.val_zero, mul_div_mod]

theorem Laws.RoundTrip.fma (g : Guard) (d a b c : Reg) : Statement (.fma g d a b c) := by
  intro hw w h
  injection h with h
  subst h
  obtain ⟨hlt, ho, hg, n0, n1, n2, n3, n4⟩ := encRC_fields g d a b c 0 d.isLt a.isLt b.isLt c.isLt (by decide)
  generalize encRC g d a b c 0 = w at hlt ho hg n0 n1 n2 n3 n4 ⊢
  refine ⟨hlt, ?_⟩
  rw [decodeNat_2B _ ho]
  simp only [decodeFused, regField, predField, n0, n1, n2, n3, n4, hg, fin_ofNat_val, ofNat_zero32, ofNat_zero8, ofNat_zero2, Nat.one_ne_zero, if_false, Bool.false_eq_true, whenZero, whenLegal, hw, if_true, Nat.add_zero, ne_eq, not_true_eq_false, false_or, or_self, and_self, Nat.zero_ne_one, reduceIte, Fin.val_zero, mul_div_mod]

theorem Laws.RoundTrip.fms (g : Guard) (d a b c : Reg) : Statement (.fms g d a b c) := by
  intro hw w h
  injection h with h
  subst h
  obtain ⟨hlt, ho, hg, n0, n1, n2, n3, n4⟩ := encRC_fields g d a b c 1 d.isLt a.isLt b.isLt c.isLt (by decide)
  generalize encRC g d a b c 1 = w at hlt ho hg n0 n1 n2 n3 n4 ⊢
  refine ⟨hlt, ?_⟩
  rw [decodeNat_2B _ ho]
  simp only [decodeFused, regField, predField, n0, n1, n2, n3, n4, hg, fin_ofNat_val, ofNat_zero32, ofNat_zero8, ofNat_zero2, Nat.one_ne_zero, if_false, Bool.false_eq_true, whenZero, whenLegal, hw, if_true, Nat.add_zero, ne_eq, not_true_eq_false, false_or, or_self, and_self, Nat.zero_ne_one, reduceIte, Fin.val_zero, mul_div_mod]

theorem Laws.RoundTrip.fnma (g : Guard) (d a b c : Reg) : Statement (.fnma g d a b c) := by
  intro hw w h
  injection h with h
  subst h
  obtain ⟨hlt, ho, hg, n0, n1, n2, n3, n4⟩ := encRC_fields g d a b c 2 d.isLt a.isLt b.isLt c.isLt (by decide)
  generalize encRC g d a b c 2 = w at hlt ho hg n0 n1 n2 n3 n4 ⊢
  refine ⟨hlt, ?_⟩
  rw [decodeNat_2B _ ho]
  simp only [decodeFused, regField, predField, n0, n1, n2, n3, n4, hg, fin_ofNat_val, ofNat_zero32, ofNat_zero8, ofNat_zero2, Nat.one_ne_zero, if_false, Bool.false_eq_true, whenZero, whenLegal, hw, if_true, Nat.add_zero, ne_eq, not_true_eq_false, false_or, or_self, and_self, Nat.zero_ne_one, reduceIte, Fin.val_zero, mul_div_mod]

theorem Laws.RoundTrip.fnms (g : Guard) (d a b c : Reg) : Statement (.fnms g d a b c) := by
  intro hw w h
  injection h with h
  subst h
  obtain ⟨hlt, ho, hg, n0, n1, n2, n3, n4⟩ := encRC_fields g d a b c 3 d.isLt a.isLt b.isLt c.isLt (by decide)
  generalize encRC g d a b c 3 = w at hlt ho hg n0 n1 n2 n3 n4 ⊢
  refine ⟨hlt, ?_⟩
  rw [decodeNat_2B _ ho]
  simp only [decodeFused, regField, predField, n0, n1, n2, n3, n4, hg, fin_ofNat_val, ofNat_zero32, ofNat_zero8, ofNat_zero2, Nat.one_ne_zero, if_false, Bool.false_eq_true, whenZero, whenLegal, hw, if_true, Nat.add_zero, ne_eq, not_true_eq_false, false_or, or_self, and_self, Nat.zero_ne_one, reduceIte, Fin.val_zero, mul_div_mod]

theorem Laws.RoundTrip.fcmp (g : Guard) (pd1 pd2 : Fin 8) (c : FCond) (a b : Reg) (f : Comb) : Statement (.fcmp g pd1 pd2 c a b f) := by
  intro hw w h
  injection h with h
  subst h
  have := FCond.code_lt c
  have := Comb.code_lt f
  obtain ⟨hlt, ho, hg, n0, n1, n2, n3, n4⟩ := encP_fields 44 g pd1 pd2 c.code a (b * 2 ^ 2 + f.code) (by decide) pd1.isLt pd2.isLt (by omega) a.isLt (by omega)
  have h1 : wordField (encP 0x2C g pd1 pd2 c.code a (b * 2 ^ 2 + f.code)) 0 2 = f.code := by
    rw [encP_low, wordField_low _ _ _ _ _ (by decide)]; simp only [wordField]; omega
  have h2 : wordField (encP 0x2C g pd1 pd2 c.code a (b * 2 ^ 2 + f.code)) 2 5 = b.val := by
    rw [encP_low, wordField_low _ _ _ _ _ (by decide)]; simp only [wordField]; omega
  generalize encP 0x2C g pd1 pd2 c.code a (b * 2 ^ 2 + f.code) = w at hlt ho hg n0 n1 n2 n3 n4 h1 h2 ⊢
  refine ⟨hlt, ?_⟩
  rw [decodeNat_2C _ ho]
  rw [decodeFcmp]
  try dsimp only
  rw [n2, fcondOfCode_code]
  try dsimp only
  simp only [regField, predField, n0, n1, n2, n3, n4, h1, h2, hg, combOfCode_code, fcondOfCode_code, fin_ofNat_val, ofNat_zero32, ofNat_zero8, ofNat_zero2, Nat.one_ne_zero, if_false, Bool.false_eq_true, whenZero, whenLegal, hw, if_true, Nat.add_zero, ne_eq, not_true_eq_false, false_or, or_self, and_self, Nat.zero_ne_one, reduceIte, Fin.val_zero, mul_div_mod]

theorem Laws.RoundTrip.cvt (g : Guard) (d a : Reg) (src dst : Fmt) : Statement (.cvt g d a src dst) := by
  intro hw w h
  injection h with h
  subst h
  have := Fmt.code_lt src
  have := Fmt.code_lt dst
  obtain ⟨hlt, ho, hg, n0, n1, n2, n3⟩ := encR_fields 45 g d a src.code dst.code (by decide) d.isLt a.isLt (by omega) (by omega)
  have h1 : wordField (encR 0x2D g d a src.code dst.code) 0 5 = dst.code := by
    rw [encR_low, wordField_low _ _ _ _ _ (by decide)]; simp only [wordField]; omega
  have h2 : wordField (encR 0x2D g d a src.code dst.code) 5 2 = 0 := by
    rw [encR_low, wordField_low _ _ _ _ _ (by decide)]; simp only [wordField]; omega
  generalize encR 0x2D g d a src.code dst.code = w at hlt ho hg n0 n1 n2 n3 h1 h2 ⊢
  refine ⟨hlt, ?_⟩
  rw [decodeNat_2D _ ho]
  rw [decodeConvert]
  try dsimp only
  rw [n2, fmtOfCode_code, h1, fmtOfCode_code]
  try dsimp only
  simp only [regField, predField, n0, n1, n2, n3, h1, h2, hg, fmtOfCode_code, fin_ofNat_val, ofNat_zero32, ofNat_zero8, ofNat_zero2, Nat.one_ne_zero, if_false, Bool.false_eq_true, whenZero, whenLegal, hw, if_true, Nat.add_zero, ne_eq, not_true_eq_false, false_or, or_self, and_self, Nat.zero_ne_one, reduceIte, Fin.val_zero, mul_div_mod]

theorem Laws.RoundTrip.cvts (g : Guard) (d a : Reg) (src dst : Fmt) : Statement (.cvts g d a src dst) := by
  intro hw w h
  injection h with h
  subst h
  have := Fmt.code_lt src
  have := Fmt.code_lt dst
  obtain ⟨hlt, ho, hg, n0, n1, n2, n3⟩ := encR_fields 45 g d a src.code (1 * 2 ^ 5 + dst.code) (by decide) d.isLt a.isLt (by omega) (by omega)
  have h1 : wordField (encR 0x2D g d a src.code (1 * 2 ^ 5 + dst.code)) 0 5 = dst.code := by
    rw [encR_low, wordField_low _ _ _ _ _ (by decide)]; simp only [wordField]; omega
  have h2 : wordField (encR 0x2D g d a src.code (1 * 2 ^ 5 + dst.code)) 5 2 = 1 := by
    rw [encR_low, wordField_low _ _ _ _ _ (by decide)]; simp only [wordField]; omega
  generalize encR 0x2D g d a src.code (1 * 2 ^ 5 + dst.code) = w at hlt ho hg n0 n1 n2 n3 h1 h2 ⊢
  refine ⟨hlt, ?_⟩
  rw [decodeNat_2D _ ho]
  rw [decodeConvert]
  try dsimp only
  rw [n2, fmtOfCode_code, h1, fmtOfCode_code]
  try dsimp only
  simp only [regField, predField, n0, n1, n2, n3, h1, h2, hg, fmtOfCode_code, fin_ofNat_val, ofNat_zero32, ofNat_zero8, ofNat_zero2, Nat.one_ne_zero, if_false, Bool.false_eq_true, whenZero, whenLegal, hw, if_true, Nat.add_zero, ne_eq, not_true_eq_false, false_or, or_self, and_self, Nat.zero_ne_one, reduceIte, Fin.val_zero, mul_div_mod]

theorem Laws.RoundTrip.adds (g : Guard) (d a b : Reg) : Statement (.adds g d a b) := by
  intro hw w h
  injection h with h
  subst h
  obtain ⟨hlt, ho, hg, n0, n1, n2, n3⟩ := encR_fields 46 g d a b 0 (by decide) d.isLt a.isLt b.isLt (by decide)
  generalize encR 0x2E g d a b 0 = w at hlt ho hg n0 n1 n2 n3 ⊢
  refine ⟨hlt, ?_⟩
  rw [decodeNat_2E _ ho]
  simp only [decodeSaturating, regField, predField, n0, n1, n2, n3, hg, fin_ofNat_val, ofNat_zero32, ofNat_zero8, ofNat_zero2, Nat.one_ne_zero, if_false, Bool.false_eq_true, whenZero, whenLegal, hw, if_true, Nat.add_zero, ne_eq, not_true_eq_false, false_or, or_self, and_self, Nat.zero_ne_one, reduceIte, Fin.val_zero, mul_div_mod]

theorem Laws.RoundTrip.subs (g : Guard) (d a b : Reg) : Statement (.subs g d a b) := by
  intro hw w h
  injection h with h
  subst h
  obtain ⟨hlt, ho, hg, n0, n1, n2, n3⟩ := encR_fields 46 g d a b 1 (by decide) d.isLt a.isLt b.isLt (by decide)
  generalize encR 0x2E g d a b 1 = w at hlt ho hg n0 n1 n2 n3 ⊢
  refine ⟨hlt, ?_⟩
  rw [decodeNat_2E _ ho]
  simp only [decodeSaturating, regField, predField, n0, n1, n2, n3, hg, fin_ofNat_val, ofNat_zero32, ofNat_zero8, ofNat_zero2, Nat.one_ne_zero, if_false, Bool.false_eq_true, whenZero, whenLegal, hw, if_true, Nat.add_zero, ne_eq, not_true_eq_false, false_or, or_self, and_self, Nat.zero_ne_one, reduceIte, Fin.val_zero, mul_div_mod]

theorem Laws.RoundTrip.addsu (g : Guard) (d a b : Reg) : Statement (.addsu g d a b) := by
  intro hw w h
  injection h with h
  subst h
  obtain ⟨hlt, ho, hg, n0, n1, n2, n3⟩ := encR_fields 46 g d a b 2 (by decide) d.isLt a.isLt b.isLt (by decide)
  generalize encR 0x2E g d a b 2 = w at hlt ho hg n0 n1 n2 n3 ⊢
  refine ⟨hlt, ?_⟩
  rw [decodeNat_2E _ ho]
  simp only [decodeSaturating, regField, predField, n0, n1, n2, n3, hg, fin_ofNat_val, ofNat_zero32, ofNat_zero8, ofNat_zero2, Nat.one_ne_zero, if_false, Bool.false_eq_true, whenZero, whenLegal, hw, if_true, Nat.add_zero, ne_eq, not_true_eq_false, false_or, or_self, and_self, Nat.zero_ne_one, reduceIte, Fin.val_zero, mul_div_mod]

theorem Laws.RoundTrip.subsu (g : Guard) (d a b : Reg) : Statement (.subsu g d a b) := by
  intro hw w h
  injection h with h
  subst h
  obtain ⟨hlt, ho, hg, n0, n1, n2, n3⟩ := encR_fields 46 g d a b 3 (by decide) d.isLt a.isLt b.isLt (by decide)
  generalize encR 0x2E g d a b 3 = w at hlt ho hg n0 n1 n2 n3 ⊢
  refine ⟨hlt, ?_⟩
  rw [decodeNat_2E _ ho]
  simp only [decodeSaturating, regField, predField, n0, n1, n2, n3, hg, fin_ofNat_val, ofNat_zero32, ofNat_zero8, ofNat_zero2, Nat.one_ne_zero, if_false, Bool.false_eq_true, whenZero, whenLegal, hw, if_true, Nat.add_zero, ne_eq, not_true_eq_false, false_or, or_self, and_self, Nat.zero_ne_one, reduceIte, Fin.val_zero, mul_div_mod]

theorem Laws.RoundTrip.avg (g : Guard) (d a b : Reg) : Statement (.avg g d a b) := by
  intro hw w h
  injection h with h
  subst h
  obtain ⟨hlt, ho, hg, n0, n1, n2, n3⟩ := encR_fields 46 g d a b 4 (by decide) d.isLt a.isLt b.isLt (by decide)
  generalize encR 0x2E g d a b 4 = w at hlt ho hg n0 n1 n2 n3 ⊢
  refine ⟨hlt, ?_⟩
  rw [decodeNat_2E _ ho]
  simp only [decodeSaturating, regField, predField, n0, n1, n2, n3, hg, fin_ofNat_val, ofNat_zero32, ofNat_zero8, ofNat_zero2, Nat.one_ne_zero, if_false, Bool.false_eq_true, whenZero, whenLegal, hw, if_true, Nat.add_zero, ne_eq, not_true_eq_false, false_or, or_self, and_self, Nat.zero_ne_one, reduceIte, Fin.val_zero, mul_div_mod]

theorem Laws.RoundTrip.avgu (g : Guard) (d a b : Reg) : Statement (.avgu g d a b) := by
  intro hw w h
  injection h with h
  subst h
  obtain ⟨hlt, ho, hg, n0, n1, n2, n3⟩ := encR_fields 46 g d a b 5 (by decide) d.isLt a.isLt b.isLt (by decide)
  generalize encR 0x2E g d a b 5 = w at hlt ho hg n0 n1 n2 n3 ⊢
  refine ⟨hlt, ?_⟩
  rw [decodeNat_2E _ ho]
  simp only [decodeSaturating, regField, predField, n0, n1, n2, n3, hg, fin_ofNat_val, ofNat_zero32, ofNat_zero8, ofNat_zero2, Nat.one_ne_zero, if_false, Bool.false_eq_true, whenZero, whenLegal, hw, if_true, Nat.add_zero, ne_eq, not_true_eq_false, false_or, or_self, and_self, Nat.zero_ne_one, reduceIte, Fin.val_zero, mul_div_mod]

theorem Laws.RoundTrip.abs (g : Guard) (d a : Reg) : Statement (.abs g d a) := by
  intro hw w h
  injection h with h
  subst h
  obtain ⟨hlt, ho, hg, n0, n1, n2, n3⟩ := encR_fields 46 g d a 0 6 (by decide) d.isLt a.isLt (by decide) (by decide)
  generalize encR 0x2E g d a 0 6 = w at hlt ho hg n0 n1 n2 n3 ⊢
  refine ⟨hlt, ?_⟩
  rw [decodeNat_2E _ ho]
  simp only [decodeSaturating, regField, predField, n0, n1, n2, n3, hg, fin_ofNat_val, ofNat_zero32, ofNat_zero8, ofNat_zero2, Nat.one_ne_zero, if_false, Bool.false_eq_true, whenZero, whenLegal, hw, if_true, Nat.add_zero, ne_eq, not_true_eq_false, false_or, or_self, and_self, Nat.zero_ne_one, reduceIte, Fin.val_zero, mul_div_mod]

theorem Laws.RoundTrip.absd (g : Guard) (d a b : Reg) : Statement (.absd g d a b) := by
  intro hw w h
  injection h with h
  subst h
  obtain ⟨hlt, ho, hg, n0, n1, n2, n3⟩ := encR_fields 46 g d a b 7 (by decide) d.isLt a.isLt b.isLt (by decide)
  generalize encR 0x2E g d a b 7 = w at hlt ho hg n0 n1 n2 n3 ⊢
  refine ⟨hlt, ?_⟩
  rw [decodeNat_2E _ ho]
  simp only [decodeSaturating, regField, predField, n0, n1, n2, n3, hg, fin_ofNat_val, ofNat_zero32, ofNat_zero8, ofNat_zero2, Nat.one_ne_zero, if_false, Bool.false_eq_true, whenZero, whenLegal, hw, if_true, Nat.add_zero, ne_eq, not_true_eq_false, false_or, or_self, and_self, Nat.zero_ne_one, reduceIte, Fin.val_zero, mul_div_mod]

theorem Laws.RoundTrip.permb (g : Guard) (d a b : Reg) : Statement (.permb g d a b) := by
  intro hw w h
  injection h with h
  subst h
  obtain ⟨hlt, ho, hg, n0, n1, n2, n3⟩ := encR_fields 47 g d a b 0 (by decide) d.isLt a.isLt b.isLt (by decide)
  generalize encR 0x2F g d a b 0 = w at hlt ho hg n0 n1 n2 n3 ⊢
  refine ⟨hlt, ?_⟩
  rw [decodeNat_2F _ ho]
  simp only [decodePermute, regField, predField, n0, n1, n2, n3, hg, fin_ofNat_val, ofNat_zero32, ofNat_zero8, ofNat_zero2, Nat.one_ne_zero, if_false, Bool.false_eq_true, whenZero, whenLegal, hw, if_true, Nat.add_zero, ne_eq, not_true_eq_false, false_or, or_self, and_self, Nat.zero_ne_one, reduceIte, Fin.val_zero, mul_div_mod]

theorem Laws.RoundTrip.shufb (g : Guard) (d a b : Reg) : Statement (.shufb g d a b) := by
  intro hw w h
  injection h with h
  subst h
  obtain ⟨hlt, ho, hg, n0, n1, n2, n3⟩ := encR_fields 47 g d a b 1 (by decide) d.isLt a.isLt b.isLt (by decide)
  generalize encR 0x2F g d a b 1 = w at hlt ho hg n0 n1 n2 n3 ⊢
  refine ⟨hlt, ?_⟩
  rw [decodeNat_2F _ ho]
  simp only [decodePermute, regField, predField, n0, n1, n2, n3, hg, fin_ofNat_val, ofNat_zero32, ofNat_zero8, ofNat_zero2, Nat.one_ne_zero, if_false, Bool.false_eq_true, whenZero, whenLegal, hw, if_true, Nat.add_zero, ne_eq, not_true_eq_false, false_or, or_self, and_self, Nat.zero_ne_one, reduceIte, Fin.val_zero, mul_div_mod]

theorem Laws.RoundTrip.zipl (g : Guard) (d a b : Reg) : Statement (.zipl g d a b) := by
  intro hw w h
  injection h with h
  subst h
  obtain ⟨hlt, ho, hg, n0, n1, n2, n3⟩ := encR_fields 47 g d a b 2 (by decide) d.isLt a.isLt b.isLt (by decide)
  generalize encR 0x2F g d a b 2 = w at hlt ho hg n0 n1 n2 n3 ⊢
  refine ⟨hlt, ?_⟩
  rw [decodeNat_2F _ ho]
  simp only [decodePermute, regField, predField, n0, n1, n2, n3, hg, fin_ofNat_val, ofNat_zero32, ofNat_zero8, ofNat_zero2, Nat.one_ne_zero, if_false, Bool.false_eq_true, whenZero, whenLegal, hw, if_true, Nat.add_zero, ne_eq, not_true_eq_false, false_or, or_self, and_self, Nat.zero_ne_one, reduceIte, Fin.val_zero, mul_div_mod]

theorem Laws.RoundTrip.ziph (g : Guard) (d a b : Reg) : Statement (.ziph g d a b) := by
  intro hw w h
  injection h with h
  subst h
  obtain ⟨hlt, ho, hg, n0, n1, n2, n3⟩ := encR_fields 47 g d a b 3 (by decide) d.isLt a.isLt b.isLt (by decide)
  generalize encR 0x2F g d a b 3 = w at hlt ho hg n0 n1 n2 n3 ⊢
  refine ⟨hlt, ?_⟩
  rw [decodeNat_2F _ ho]
  simp only [decodePermute, regField, predField, n0, n1, n2, n3, hg, fin_ofNat_val, ofNat_zero32, ofNat_zero8, ofNat_zero2, Nat.one_ne_zero, if_false, Bool.false_eq_true, whenZero, whenLegal, hw, if_true, Nat.add_zero, ne_eq, not_true_eq_false, false_or, or_self, and_self, Nat.zero_ne_one, reduceIte, Fin.val_zero, mul_div_mod]

theorem Laws.RoundTrip.uzpe (g : Guard) (d a b : Reg) : Statement (.uzpe g d a b) := by
  intro hw w h
  injection h with h
  subst h
  obtain ⟨hlt, ho, hg, n0, n1, n2, n3⟩ := encR_fields 47 g d a b 4 (by decide) d.isLt a.isLt b.isLt (by decide)
  generalize encR 0x2F g d a b 4 = w at hlt ho hg n0 n1 n2 n3 ⊢
  refine ⟨hlt, ?_⟩
  rw [decodeNat_2F _ ho]
  simp only [decodePermute, regField, predField, n0, n1, n2, n3, hg, fin_ofNat_val, ofNat_zero32, ofNat_zero8, ofNat_zero2, Nat.one_ne_zero, if_false, Bool.false_eq_true, whenZero, whenLegal, hw, if_true, Nat.add_zero, ne_eq, not_true_eq_false, false_or, or_self, and_self, Nat.zero_ne_one, reduceIte, Fin.val_zero, mul_div_mod]

theorem Laws.RoundTrip.uzpo (g : Guard) (d a b : Reg) : Statement (.uzpo g d a b) := by
  intro hw w h
  injection h with h
  subst h
  obtain ⟨hlt, ho, hg, n0, n1, n2, n3⟩ := encR_fields 47 g d a b 5 (by decide) d.isLt a.isLt b.isLt (by decide)
  generalize encR 0x2F g d a b 5 = w at hlt ho hg n0 n1 n2 n3 ⊢
  refine ⟨hlt, ?_⟩
  rw [decodeNat_2F _ ho]
  simp only [decodePermute, regField, predField, n0, n1, n2, n3, hg, fin_ofNat_val, ofNat_zero32, ofNat_zero8, ofNat_zero2, Nat.one_ne_zero, if_false, Bool.false_eq_true, whenZero, whenLegal, hw, if_true, Nat.add_zero, ne_eq, not_true_eq_false, false_or, or_self, and_self, Nat.zero_ne_one, reduceIte, Fin.val_zero, mul_div_mod]

theorem Laws.RoundTrip.xsend (g : Guard) (a : Reg) : Statement (.xsend g a) := by
  intro hw w h
  injection h with h
  subst h
  obtain ⟨hlt, ho, hg, n0, n1, n2, n3⟩ := encR_fields 48 g 0 a 0 0 (by decide) (by decide) a.isLt (by decide) (by decide)
  generalize encR 0x30 g 0 a 0 0 = w at hlt ho hg n0 n1 n2 n3 ⊢
  refine ⟨hlt, ?_⟩
  rw [decodeNat_30 _ ho]
  simp only [decodeTransfer, regField, predField, n0, n1, n2, n3, hg, fin_ofNat_val, ofNat_zero32, ofNat_zero8, ofNat_zero2, Nat.one_ne_zero, if_false, Bool.false_eq_true, whenZero, whenLegal, hw, if_true, Nat.add_zero, ne_eq, not_true_eq_false, false_or, or_self, and_self, Nat.zero_ne_one, reduceIte, Fin.val_zero, mul_div_mod]

theorem Laws.RoundTrip.xrecv (g : Guard) (d : Reg) : Statement (.xrecv g d) := by
  intro hw w h
  injection h with h
  subst h
  obtain ⟨hlt, ho, hg, n0, n1, n2, n3⟩ := encR_fields 48 g d 0 0 1 (by decide) d.isLt (by decide) (by decide) (by decide)
  generalize encR 0x30 g d 0 0 1 = w at hlt ho hg n0 n1 n2 n3 ⊢
  refine ⟨hlt, ?_⟩
  rw [decodeNat_30 _ ho]
  simp only [decodeTransfer, regField, predField, n0, n1, n2, n3, hg, fin_ofNat_val, ofNat_zero32, ofNat_zero8, ofNat_zero2, Nat.one_ne_zero, if_false, Bool.false_eq_true, whenZero, whenLegal, hw, if_true, Nat.add_zero, ne_eq, not_true_eq_false, false_or, or_self, and_self, Nat.zero_ne_one, reduceIte, Fin.val_zero, mul_div_mod]

theorem Laws.RoundTrip.vany (g : Guard) (d a : Fin 8) : Statement (.vany g d a) := by
  intro hw w h
  injection h with h
  subst h
  obtain ⟨hlt, ho, hg, n0, n1, n2, n3⟩ := encR_fields 49 g d a 0 0 (by decide) (by omega) (by omega) (by decide) (by decide)
  have h1 : wordField (encR 0x31 g d a 0 0) 0 4 = 0 := by
    rw [encR_low, wordField_low _ _ _ _ _ (by decide)]; simp only [wordField]; omega
  have h2 : wordField (encR 0x31 g d a 0 0) 4 3 = 0 := by
    rw [encR_low, wordField_low _ _ _ _ _ (by decide)]; simp only [wordField]; omega
  have h3 : wordField (encR 0x31 g d a 0 0) 12 3 = a.val := by
    rw [encR_low, wordField_low _ _ _ _ _ (by decide)]; simp only [wordField]; omega
  have h4 : wordField (encR 0x31 g d a 0 0) 15 2 = 0 := by
    rw [encR_low, wordField_low _ _ _ _ _ (by decide)]; simp only [wordField]; omega
  have h5 : wordField (encR 0x31 g d a 0 0) 17 3 = d.val := by
    rw [encR_low, wordField_low _ _ _ _ _ (by decide)]; simp only [wordField]; omega
  have h6 : wordField (encR 0x31 g d a 0 0) 20 2 = 0 := by
    rw [encR_low, wordField_low _ _ _ _ _ (by decide)]; simp only [wordField]; omega
  generalize encR 0x31 g d a 0 0 = w at hlt ho hg n0 n1 n2 n3 h1 h2 h3 h4 h5 h6 ⊢
  refine ⟨hlt, ?_⟩
  rw [decodeNat_31 _ ho]
  simp only [decodeWide, regField, predField, n0, n1, n2, n3, h1, h2, h3, h4, h5, h6, hg, fin_ofNat_val, ofNat_zero32, ofNat_zero8, ofNat_zero2, Nat.one_ne_zero, if_false, Bool.false_eq_true, whenZero, whenLegal, hw, if_true, Nat.add_zero, ne_eq, not_true_eq_false, false_or, or_self, and_self, Nat.zero_ne_one, reduceIte, Fin.val_zero, mul_div_mod]

theorem Laws.RoundTrip.vall (g : Guard) (d a : Fin 8) : Statement (.vall g d a) := by
  intro hw w h
  injection h with h
  subst h
  obtain ⟨hlt, ho, hg, n0, n1, n2, n3⟩ := encR_fields 49 g d a 0 1 (by decide) (by omega) (by omega) (by decide) (by decide)
  have h1 : wordField (encR 0x31 g d a 0 1) 0 4 = 1 := by
    rw [encR_low, wordField_low _ _ _ _ _ (by decide)]; simp only [wordField]; omega
  have h2 : wordField (encR 0x31 g d a 0 1) 4 3 = 0 := by
    rw [encR_low, wordField_low _ _ _ _ _ (by decide)]; simp only [wordField]; omega
  have h3 : wordField (encR 0x31 g d a 0 1) 12 3 = a.val := by
    rw [encR_low, wordField_low _ _ _ _ _ (by decide)]; simp only [wordField]; omega
  have h4 : wordField (encR 0x31 g d a 0 1) 15 2 = 0 := by
    rw [encR_low, wordField_low _ _ _ _ _ (by decide)]; simp only [wordField]; omega
  have h5 : wordField (encR 0x31 g d a 0 1) 17 3 = d.val := by
    rw [encR_low, wordField_low _ _ _ _ _ (by decide)]; simp only [wordField]; omega
  have h6 : wordField (encR 0x31 g d a 0 1) 20 2 = 0 := by
    rw [encR_low, wordField_low _ _ _ _ _ (by decide)]; simp only [wordField]; omega
  generalize encR 0x31 g d a 0 1 = w at hlt ho hg n0 n1 n2 n3 h1 h2 h3 h4 h5 h6 ⊢
  refine ⟨hlt, ?_⟩
  rw [decodeNat_31 _ ho]
  simp only [decodeWide, regField, predField, n0, n1, n2, n3, h1, h2, h3, h4, h5, h6, hg, fin_ofNat_val, ofNat_zero32, ofNat_zero8, ofNat_zero2, Nat.one_ne_zero, if_false, Bool.false_eq_true, whenZero, whenLegal, hw, if_true, Nat.add_zero, ne_eq, not_true_eq_false, false_or, or_self, and_self, Nat.zero_ne_one, reduceIte, Fin.val_zero, mul_div_mod]

theorem Laws.RoundTrip.vballot (g : Guard) (d : Reg) (a : Fin 8) : Statement (.vballot g d a) := by
  intro hw w h
  injection h with h
  subst h
  obtain ⟨hlt, ho, hg, n0, n1, n2, n3⟩ := encR_fields 49 g d a 0 2 (by decide) d.isLt (by omega) (by decide) (by decide)
  have h1 : wordField (encR 0x31 g d a 0 2) 0 4 = 2 := by
    rw [encR_low, wordField_low _ _ _ _ _ (by decide)]; simp only [wordField]; omega
  have h2 : wordField (encR 0x31 g d a 0 2) 4 3 = 0 := by
    rw [encR_low, wordField_low _ _ _ _ _ (by decide)]; simp only [wordField]; omega
  have h3 : wordField (encR 0x31 g d a 0 2) 12 3 = a.val := by
    rw [encR_low, wordField_low _ _ _ _ _ (by decide)]; simp only [wordField]; omega
  have h4 : wordField (encR 0x31 g d a 0 2) 15 2 = 0 := by
    rw [encR_low, wordField_low _ _ _ _ _ (by decide)]; simp only [wordField]; omega
  generalize encR 0x31 g d a 0 2 = w at hlt ho hg n0 n1 n2 n3 h1 h2 h3 h4 ⊢
  refine ⟨hlt, ?_⟩
  rw [decodeNat_31 _ ho]
  simp only [decodeWide, regField, predField, n0, n1, n2, n3, h1, h2, h3, h4, hg, fin_ofNat_val, ofNat_zero32, ofNat_zero8, ofNat_zero2, Nat.one_ne_zero, if_false, Bool.false_eq_true, whenZero, whenLegal, hw, if_true, Nat.add_zero, ne_eq, not_true_eq_false, false_or, or_self, and_self, Nat.zero_ne_one, reduceIte, Fin.val_zero, mul_div_mod]

theorem Laws.RoundTrip.vmatch (g : Guard) (d a : Reg) : Statement (.vmatch g d a) := by
  intro hw w h
  injection h with h
  subst h
  obtain ⟨hlt, ho, hg, n0, n1, n2, n3⟩ := encR_fields 49 g d a 0 3 (by decide) d.isLt a.isLt (by decide) (by decide)
  have h1 : wordField (encR 0x31 g d a 0 3) 0 4 = 3 := by
    rw [encR_low, wordField_low _ _ _ _ _ (by decide)]; simp only [wordField]; omega
  have h2 : wordField (encR 0x31 g d a 0 3) 4 3 = 0 := by
    rw [encR_low, wordField_low _ _ _ _ _ (by decide)]; simp only [wordField]; omega
  generalize encR 0x31 g d a 0 3 = w at hlt ho hg n0 n1 n2 n3 h1 h2 ⊢
  refine ⟨hlt, ?_⟩
  rw [decodeNat_31 _ ho]
  simp only [decodeWide, regField, predField, n0, n1, n2, n3, h1, h2, hg, fin_ofNat_val, ofNat_zero32, ofNat_zero8, ofNat_zero2, Nat.one_ne_zero, if_false, Bool.false_eq_true, whenZero, whenLegal, hw, if_true, Nat.add_zero, ne_eq, not_true_eq_false, false_or, or_self, and_self, Nat.zero_ne_one, reduceIte, Fin.val_zero, mul_div_mod]

theorem Laws.RoundTrip.vshfl (g : Guard) (d a b : Reg) : Statement (.vshfl g d a b) := by
  intro hw w h
  injection h with h
  subst h
  obtain ⟨hlt, ho, hg, n0, n1, n2, n3⟩ := encR_fields 49 g d a b 4 (by decide) d.isLt a.isLt b.isLt (by decide)
  have h1 : wordField (encR 0x31 g d a b 4) 0 4 = 4 := by
    rw [encR_low, wordField_low _ _ _ _ _ (by decide)]; simp only [wordField]; omega
  have h2 : wordField (encR 0x31 g d a b 4) 4 3 = 0 := by
    rw [encR_low, wordField_low _ _ _ _ _ (by decide)]; simp only [wordField]; omega
  generalize encR 0x31 g d a b 4 = w at hlt ho hg n0 n1 n2 n3 h1 h2 ⊢
  refine ⟨hlt, ?_⟩
  rw [decodeNat_31 _ ho]
  simp only [decodeWide, regField, predField, n0, n1, n2, n3, h1, h2, hg, fin_ofNat_val, ofNat_zero32, ofNat_zero8, ofNat_zero2, Nat.one_ne_zero, if_false, Bool.false_eq_true, whenZero, whenLegal, hw, if_true, Nat.add_zero, ne_eq, not_true_eq_false, false_or, or_self, and_self, Nat.zero_ne_one, reduceIte, Fin.val_zero, mul_div_mod]

theorem Laws.RoundTrip.vredAdd (g : Guard) (d a : Reg) (float : Bool) : Statement (.vredAdd g d a float) := by
  intro hw w h
  injection h with h
  subst h
  have := toNat_lt_two float
  obtain ⟨hlt, ho, hg, n0, n1, n2, n3⟩ := encR_fields 49 g d a 0 (float.toNat * 2 ^ 6 + 5) (by decide) d.isLt a.isLt (by decide) (by omega)
  have h1 : wordField (encR 0x31 g d a 0 (float.toNat * 2 ^ 6 + 5)) 0 4 = 5 := by
    rw [encR_low, wordField_low _ _ _ _ _ (by decide)]; simp only [wordField]; omega
  have h2 : wordField (encR 0x31 g d a 0 (float.toNat * 2 ^ 6 + 5)) 4 2 = 0 := by
    rw [encR_low, wordField_low _ _ _ _ _ (by decide)]; simp only [wordField]; omega
  have h3 : wordField (encR 0x31 g d a 0 (float.toNat * 2 ^ 6 + 5)) 6 1 = float.toNat := by
    rw [encR_low, wordField_low _ _ _ _ _ (by decide)]; simp only [wordField]; omega
  generalize encR 0x31 g d a 0 (float.toNat * 2 ^ 6 + 5) = w at hlt ho hg n0 n1 n2 n3 h1 h2 h3 ⊢
  refine ⟨hlt, ?_⟩
  rw [decodeNat_31 _ ho]
  simp only [decodeWide, regField, predField, n0, n1, n2, n3, h1, h2, h3, hg, toNat_beq_one, fin_ofNat_val, ofNat_zero32, ofNat_zero8, ofNat_zero2, Nat.one_ne_zero, if_false, Bool.false_eq_true, whenZero, whenLegal, hw, if_true, Nat.add_zero, ne_eq, not_true_eq_false, false_or, or_self, and_self, Nat.zero_ne_one, reduceIte, Fin.val_zero, mul_div_mod]

theorem Laws.RoundTrip.vredMin (g : Guard) (d a : Reg) (float : Bool) : Statement (.vredMin g d a float) := by
  intro hw w h
  injection h with h
  subst h
  have := toNat_lt_two float
  obtain ⟨hlt, ho, hg, n0, n1, n2, n3⟩ := encR_fields 49 g d a 0 (float.toNat * 2 ^ 6 + 6) (by decide) d.isLt a.isLt (by decide) (by omega)
  have h1 : wordField (encR 0x31 g d a 0 (float.toNat * 2 ^ 6 + 6)) 0 4 = 6 := by
    rw [encR_low, wordField_low _ _ _ _ _ (by decide)]; simp only [wordField]; omega
  have h2 : wordField (encR 0x31 g d a 0 (float.toNat * 2 ^ 6 + 6)) 4 2 = 0 := by
    rw [encR_low, wordField_low _ _ _ _ _ (by decide)]; simp only [wordField]; omega
  have h3 : wordField (encR 0x31 g d a 0 (float.toNat * 2 ^ 6 + 6)) 6 1 = float.toNat := by
    rw [encR_low, wordField_low _ _ _ _ _ (by decide)]; simp only [wordField]; omega
  generalize encR 0x31 g d a 0 (float.toNat * 2 ^ 6 + 6) = w at hlt ho hg n0 n1 n2 n3 h1 h2 h3 ⊢
  refine ⟨hlt, ?_⟩
  rw [decodeNat_31 _ ho]
  simp only [decodeWide, regField, predField, n0, n1, n2, n3, h1, h2, h3, hg, toNat_beq_one, fin_ofNat_val, ofNat_zero32, ofNat_zero8, ofNat_zero2, Nat.one_ne_zero, if_false, Bool.false_eq_true, whenZero, whenLegal, hw, if_true, Nat.add_zero, ne_eq, not_true_eq_false, false_or, or_self, and_self, Nat.zero_ne_one, reduceIte, Fin.val_zero, mul_div_mod]

theorem Laws.RoundTrip.vredMax (g : Guard) (d a : Reg) (float : Bool) : Statement (.vredMax g d a float) := by
  intro hw w h
  injection h with h
  subst h
  have := toNat_lt_two float
  obtain ⟨hlt, ho, hg, n0, n1, n2, n3⟩ := encR_fields 49 g d a 0 (float.toNat * 2 ^ 6 + 7) (by decide) d.isLt a.isLt (by decide) (by omega)
  have h1 : wordField (encR 0x31 g d a 0 (float.toNat * 2 ^ 6 + 7)) 0 4 = 7 := by
    rw [encR_low, wordField_low _ _ _ _ _ (by decide)]; simp only [wordField]; omega
  have h2 : wordField (encR 0x31 g d a 0 (float.toNat * 2 ^ 6 + 7)) 4 2 = 0 := by
    rw [encR_low, wordField_low _ _ _ _ _ (by decide)]; simp only [wordField]; omega
  have h3 : wordField (encR 0x31 g d a 0 (float.toNat * 2 ^ 6 + 7)) 6 1 = float.toNat := by
    rw [encR_low, wordField_low _ _ _ _ _ (by decide)]; simp only [wordField]; omega
  generalize encR 0x31 g d a 0 (float.toNat * 2 ^ 6 + 7) = w at hlt ho hg n0 n1 n2 n3 h1 h2 h3 ⊢
  refine ⟨hlt, ?_⟩
  rw [decodeNat_31 _ ho]
  simp only [decodeWide, regField, predField, n0, n1, n2, n3, h1, h2, h3, hg, toNat_beq_one, fin_ofNat_val, ofNat_zero32, ofNat_zero8, ofNat_zero2, Nat.one_ne_zero, if_false, Bool.false_eq_true, whenZero, whenLegal, hw, if_true, Nat.add_zero, ne_eq, not_true_eq_false, false_or, or_self, and_self, Nat.zero_ne_one, reduceIte, Fin.val_zero, mul_div_mod]

theorem Laws.RoundTrip.vscanAdd (g : Guard) (d a : Reg) (float : Bool) : Statement (.vscanAdd g d a float) := by
  intro hw w h
  injection h with h
  subst h
  have := toNat_lt_two float
  obtain ⟨hlt, ho, hg, n0, n1, n2, n3⟩ := encR_fields 49 g d a 0 (float.toNat * 2 ^ 6 + 8) (by decide) d.isLt a.isLt (by decide) (by omega)
  have h1 : wordField (encR 0x31 g d a 0 (float.toNat * 2 ^ 6 + 8)) 0 4 = 8 := by
    rw [encR_low, wordField_low _ _ _ _ _ (by decide)]; simp only [wordField]; omega
  have h2 : wordField (encR 0x31 g d a 0 (float.toNat * 2 ^ 6 + 8)) 4 2 = 0 := by
    rw [encR_low, wordField_low _ _ _ _ _ (by decide)]; simp only [wordField]; omega
  have h3 : wordField (encR 0x31 g d a 0 (float.toNat * 2 ^ 6 + 8)) 6 1 = float.toNat := by
    rw [encR_low, wordField_low _ _ _ _ _ (by decide)]; simp only [wordField]; omega
  generalize encR 0x31 g d a 0 (float.toNat * 2 ^ 6 + 8) = w at hlt ho hg n0 n1 n2 n3 h1 h2 h3 ⊢
  refine ⟨hlt, ?_⟩
  rw [decodeNat_31 _ ho]
  simp only [decodeWide, regField, predField, n0, n1, n2, n3, h1, h2, h3, hg, toNat_beq_one, fin_ofNat_val, ofNat_zero32, ofNat_zero8, ofNat_zero2, Nat.one_ne_zero, if_false, Bool.false_eq_true, whenZero, whenLegal, hw, if_true, Nat.add_zero, ne_eq, not_true_eq_false, false_or, or_self, and_self, Nat.zero_ne_one, reduceIte, Fin.val_zero, mul_div_mod]

theorem Laws.RoundTrip.ldv (g : Guard) (d a : Reg) (seg : Fin 4) (sz : Fin 8) (imm : Fin 128) : Statement (.ldv g d a seg sz imm) := by
  intro hw w h
  injection h with h
  subst h
  obtain ⟨hlt, ho, hg, n0, n1, n2, n3, n4⟩ := encL_fields 50 g d a seg sz imm (by decide) d.isLt a.isLt seg.isLt sz.isLt imm.isLt
  generalize encL 0x32 g d a seg sz imm = w at hlt ho hg n0 n1 n2 n3 n4 ⊢
  refine ⟨hlt, ?_⟩
  rw [decodeNat_32 _ ho]
  simp only [decodeLdv, regField, predField, n0, n1, n2, n3, n4, hg, fin_ofNat_val, ofNat_zero32, ofNat_zero8, ofNat_zero2, Nat.one_ne_zero, if_false, Bool.false_eq_true, whenZero, whenLegal, hw, if_true, Nat.add_zero, ne_eq, not_true_eq_false, false_or, or_self, and_self, Nat.zero_ne_one, reduceIte, Fin.val_zero, mul_div_mod]

theorem Laws.RoundTrip.stv (g : Guard) (d a : Reg) (seg : Fin 4) (sz : Fin 8) (imm : Fin 128) : Statement (.stv g d a seg sz imm) := by
  intro hw w h
  injection h with h
  subst h
  obtain ⟨hlt, ho, hg, n0, n1, n2, n3, n4⟩ := encL_fields 51 g d a seg sz imm (by decide) d.isLt a.isLt seg.isLt sz.isLt imm.isLt
  generalize encL 0x33 g d a seg sz imm = w at hlt ho hg n0 n1 n2 n3 n4 ⊢
  refine ⟨hlt, ?_⟩
  rw [decodeNat_33 _ ho]
  simp only [decodeStv, regField, predField, n0, n1, n2, n3, n4, hg, fin_ofNat_val, ofNat_zero32, ofNat_zero8, ofNat_zero2, Nat.one_ne_zero, if_false, Bool.false_eq_true, whenZero, whenLegal, hw, if_true, Nat.add_zero, ne_eq, not_true_eq_false, false_or, or_self, and_self, Nat.zero_ne_one, reduceIte, Fin.val_zero, mul_div_mod]

theorem Laws.RoundTrip.fetch (g : Guard) (imm : Fin 131072) : Statement (.fetch g imm) := by
  intro hw w h
  injection h with h
  subst h
  obtain ⟨hlt, ho, hg, n0, n1⟩ := encC_fields g 0 imm (by decide) imm.isLt
  generalize encC g 0 imm = w at hlt ho hg n0 n1 ⊢
  refine ⟨hlt, ?_⟩
  rw [decodeNat_34 _ ho]
  simp only [decodeMove, regField, predField, n0, n1, hg, fin_ofNat_val, ofNat_zero32, ofNat_zero8, ofNat_zero2, Nat.one_ne_zero, if_false, Bool.false_eq_true, whenZero, whenLegal, hw, if_true, Nat.add_zero, ne_eq, not_true_eq_false, false_or, or_self, and_self, Nat.zero_ne_one, reduceIte, Fin.val_zero, mul_div_mod]

theorem Laws.RoundTrip.fetchr (g : Guard) (a : Reg) : Statement (.fetchr g a) := by
  intro hw w h
  injection h with h
  subst h
  obtain ⟨hlt, ho, hg, n0, n1⟩ := encC_fields g 1 (a * 2 ^ 12) (by decide) (by omega)
  have h1 : wordField (encC g 1 (a * 2 ^ 12)) 0 12 = 0 := by
    rw [encC_low, wordField_low _ _ _ _ _ (by decide)]; simp only [wordField]; omega
  have h2 : wordField (encC g 1 (a * 2 ^ 12)) 12 5 = a.val := by
    rw [encC_low, wordField_low _ _ _ _ _ (by decide)]; simp only [wordField]; omega
  generalize encC g 1 (a * 2 ^ 12) = w at hlt ho hg n0 n1 h1 h2 ⊢
  refine ⟨hlt, ?_⟩
  rw [decodeNat_34 _ ho]
  simp only [decodeMove, regField, predField, n0, n1, h1, h2, hg, fin_ofNat_val, ofNat_zero32, ofNat_zero8, ofNat_zero2, Nat.one_ne_zero, if_false, Bool.false_eq_true, whenZero, whenLegal, hw, if_true, Nat.add_zero, ne_eq, not_true_eq_false, false_or, or_self, and_self, Nat.zero_ne_one, reduceIte, Fin.val_zero, mul_div_mod]

theorem Laws.RoundTrip.vpid (g : Guard) (d : Reg) : Statement (.vpid g d) := by
  intro hw w h
  injection h with h
  subst h
  obtain ⟨hlt, ho, hg, n0, n1⟩ := encC_fields g 2 (d * 2 ^ 12) (by decide) (by omega)
  have h1 : wordField (encC g 2 (d * 2 ^ 12)) 0 2 = 0 := by
    rw [encC_low, wordField_low _ _ _ _ _ (by decide)]; simp only [wordField]; omega
  have h2 : wordField (encC g 2 (d * 2 ^ 12)) 2 5 = 0 := by
    rw [encC_low, wordField_low _ _ _ _ _ (by decide)]; simp only [wordField]; omega
  have h3 : wordField (encC g 2 (d * 2 ^ 12)) 7 5 = 0 := by
    rw [encC_low, wordField_low _ _ _ _ _ (by decide)]; simp only [wordField]; omega
  have h4 : wordField (encC g 2 (d * 2 ^ 12)) 12 5 = d.val := by
    rw [encC_low, wordField_low _ _ _ _ _ (by decide)]; simp only [wordField]; omega
  generalize encC g 2 (d * 2 ^ 12) = w at hlt ho hg n0 n1 h1 h2 h3 h4 ⊢
  refine ⟨hlt, ?_⟩
  rw [decodeNat_34 _ ho]
  simp only [decodeMove, regField, predField, n0, n1, h1, h2, h3, h4, hg, fin_ofNat_val, ofNat_zero32, ofNat_zero8, ofNat_zero2, Nat.one_ne_zero, if_false, Bool.false_eq_true, whenZero, whenLegal, hw, if_true, Nat.add_zero, ne_eq, not_true_eq_false, false_or, or_self, and_self, Nat.zero_ne_one, reduceIte, Fin.val_zero, mul_div_mod]

theorem Laws.RoundTrip.ltmask (g : Guard) (d : Reg) : Statement (.ltmask g d) := by
  intro hw w h
  injection h with h
  subst h
  obtain ⟨hlt, ho, hg, n0, n1⟩ := encC_fields g 3 (d * 2 ^ 12) (by decide) (by omega)
  have h1 : wordField (encC g 3 (d * 2 ^ 12)) 0 2 = 0 := by
    rw [encC_low, wordField_low _ _ _ _ _ (by decide)]; simp only [wordField]; omega
  have h2 : wordField (encC g 3 (d * 2 ^ 12)) 2 5 = 0 := by
    rw [encC_low, wordField_low _ _ _ _ _ (by decide)]; simp only [wordField]; omega
  have h3 : wordField (encC g 3 (d * 2 ^ 12)) 7 5 = 0 := by
    rw [encC_low, wordField_low _ _ _ _ _ (by decide)]; simp only [wordField]; omega
  have h4 : wordField (encC g 3 (d * 2 ^ 12)) 12 5 = d.val := by
    rw [encC_low, wordField_low _ _ _ _ _ (by decide)]; simp only [wordField]; omega
  generalize encC g 3 (d * 2 ^ 12) = w at hlt ho hg n0 n1 h1 h2 h3 h4 ⊢
  refine ⟨hlt, ?_⟩
  rw [decodeNat_34 _ ho]
  simp only [decodeMove, regField, predField, n0, n1, h1, h2, h3, h4, hg, fin_ofNat_val, ofNat_zero32, ofNat_zero8, ofNat_zero2, Nat.one_ne_zero, if_false, Bool.false_eq_true, whenZero, whenLegal, hw, if_true, Nat.add_zero, ne_eq, not_true_eq_false, false_or, or_self, and_self, Nat.zero_ne_one, reduceIte, Fin.val_zero, mul_div_mod]

theorem Laws.RoundTrip.mov (g : Guard) (d a : Reg) : Statement (.mov g d a) := by
  intro hw w h
  injection h with h
  subst h
  obtain ⟨hlt, ho, hg, n0, n1⟩ := encC_fields g 4 (d * 2 ^ 12 + a * 2 ^ 7) (by decide) (by omega)
  have h1 : wordField (encC g 4 (d * 2 ^ 12 + a * 2 ^ 7)) 0 2 = 0 := by
    rw [encC_low, wordField_low _ _ _ _ _ (by decide)]; simp only [wordField]; omega
  have h2 : wordField (encC g 4 (d * 2 ^ 12 + a * 2 ^ 7)) 2 5 = 0 := by
    rw [encC_low, wordField_low _ _ _ _ _ (by decide)]; simp only [wordField]; omega
  have h3 : wordField (encC g 4 (d * 2 ^ 12 + a * 2 ^ 7)) 7 5 = a.val := by
    rw [encC_low, wordField_low _ _ _ _ _ (by decide)]; simp only [wordField]; omega
  have h4 : wordField (encC g 4 (d * 2 ^ 12 + a * 2 ^ 7)) 12 5 = d.val := by
    rw [encC_low, wordField_low _ _ _ _ _ (by decide)]; simp only [wordField]; omega
  generalize encC g 4 (d * 2 ^ 12 + a * 2 ^ 7) = w at hlt ho hg n0 n1 h1 h2 h3 h4 ⊢
  refine ⟨hlt, ?_⟩
  rw [decodeNat_34 _ ho]
  simp only [decodeMove, regField, predField, n0, n1, h1, h2, h3, h4, hg, fin_ofNat_val, ofNat_zero32, ofNat_zero8, ofNat_zero2, Nat.one_ne_zero, if_false, Bool.false_eq_true, whenZero, whenLegal, hw, if_true, Nat.add_zero, ne_eq, not_true_eq_false, false_or, or_self, and_self, Nat.zero_ne_one, reduceIte, Fin.val_zero, mul_div_mod]

theorem Laws.RoundTrip.sel (g : Guard) (d a b : Reg) : Statement (.sel g d a b) := by
  intro hw w h
  injection h with h
  subst h
  obtain ⟨hlt, ho, hg, n0, n1⟩ := encC_fields g 5 (d * 2 ^ 12 + a * 2 ^ 7 + b * 2 ^ 2) (by decide) (by omega)
  have h1 : wordField (encC g 5 (d * 2 ^ 12 + a * 2 ^ 7 + b * 2 ^ 2)) 0 2 = 0 := by
    rw [encC_low, wordField_low _ _ _ _ _ (by decide)]; simp only [wordField]; omega
  have h2 : wordField (encC g 5 (d * 2 ^ 12 + a * 2 ^ 7 + b * 2 ^ 2)) 2 5 = b.val := by
    rw [encC_low, wordField_low _ _ _ _ _ (by decide)]; simp only [wordField]; omega
  have h3 : wordField (encC g 5 (d * 2 ^ 12 + a * 2 ^ 7 + b * 2 ^ 2)) 7 5 = a.val := by
    rw [encC_low, wordField_low _ _ _ _ _ (by decide)]; simp only [wordField]; omega
  have h4 : wordField (encC g 5 (d * 2 ^ 12 + a * 2 ^ 7 + b * 2 ^ 2)) 12 5 = d.val := by
    rw [encC_low, wordField_low _ _ _ _ _ (by decide)]; simp only [wordField]; omega
  generalize encC g 5 (d * 2 ^ 12 + a * 2 ^ 7 + b * 2 ^ 2) = w at hlt ho hg n0 n1 h1 h2 h3 h4 ⊢
  refine ⟨hlt, ?_⟩
  rw [decodeNat_34 _ ho]
  simp only [decodeMove, regField, predField, n0, n1, h1, h2, h3, h4, hg, fin_ofNat_val, ofNat_zero32, ofNat_zero8, ofNat_zero2, Nat.one_ne_zero, if_false, Bool.false_eq_true, whenZero, whenLegal, hw, if_true, Nat.add_zero, ne_eq, not_true_eq_false, false_or, or_self, and_self, Nat.zero_ne_one, reduceIte, Fin.val_zero, mul_div_mod]

theorem Laws.RoundTrip.mxon (g : Guard) (va : Reg) : Statement (.mxon g va) := by
  intro hw w h
  injection h with h
  subst h
  obtain ⟨hlt, ho, hg, n0, n1, n2, n3, n4⟩ := encM_fields g 0 va 0 0 0 (by decide) va.isLt (by decide) (by decide) (by decide)
  generalize encM g 0 va 0 0 0 = w at hlt ho hg n0 n1 n2 n3 n4 ⊢
  refine ⟨hlt, ?_⟩
  rw [decodeNat_35 _ ho]
  simp only [decodeMatrix, regField, predField, n0, n1, n2, n3, n4, hg, fin_ofNat_val, ofNat_zero32, ofNat_zero8, ofNat_zero2, Nat.one_ne_zero, if_false, Bool.false_eq_true, whenZero, whenLegal, hw, if_true, Nat.add_zero, ne_eq, not_true_eq_false, false_or, or_self, and_self, Nat.zero_ne_one, reduceIte, Fin.val_zero, mul_div_mod]

theorem Laws.RoundTrip.mxoff (g : Guard) : Statement (.mxoff g) := by
  intro hw w h
  injection h with h
  subst h
  obtain ⟨hlt, ho, hg, n0, n1, n2, n3, n4⟩ := encM_fields g 0 0 0 0 1 (by decide) (by decide) (by decide) (by decide) (by decide)
  generalize encM g 0 0 0 0 1 = w at hlt ho hg n0 n1 n2 n3 n4 ⊢
  refine ⟨hlt, ?_⟩
  rw [decodeNat_35 _ ho]
  simp only [decodeMatrix, regField, predField, n0, n1, n2, n3, n4, hg, fin_ofNat_val, ofNat_zero32, ofNat_zero8, ofNat_zero2, Nat.one_ne_zero, if_false, Bool.false_eq_true, whenZero, whenLegal, hw, if_true, Nat.add_zero, ne_eq, not_true_eq_false, false_or, or_self, and_self, Nat.zero_ne_one, reduceIte, Fin.val_zero, mul_div_mod]

theorem Laws.RoundTrip.mopO (g : Guard) (acc : Fin 2) (va vb : Reg) : Statement (.mopO g acc va vb) := by
  intro hw w h
  injection h with h
  subst h
  obtain ⟨hlt, ho, hg, n0, n1, n2, n3, n4⟩ := encM_fields g acc va vb 0 2 acc.isLt va.isLt vb.isLt (by decide) (by decide)
  generalize encM g acc va vb 0 2 = w at hlt ho hg n0 n1 n2 n3 n4 ⊢
  refine ⟨hlt, ?_⟩
  rw [decodeNat_35 _ ho]
  simp only [decodeMatrix, regField, predField, n0, n1, n2, n3, n4, hg, fin_ofNat_val, ofNat_zero32, ofNat_zero8, ofNat_zero2, Nat.one_ne_zero, if_false, Bool.false_eq_true, whenZero, whenLegal, hw, if_true, Nat.add_zero, ne_eq, not_true_eq_false, false_or, or_self, and_self, Nat.zero_ne_one, reduceIte, Fin.val_zero, mul_div_mod]

theorem Laws.RoundTrip.mopR (g : Guard) (acc : Fin 2) (va vb : Reg) : Statement (.mopR g acc va vb) := by
  intro hw w h
  injection h with h
  subst h
  obtain ⟨hlt, ho, hg, n0, n1, n2, n3, n4⟩ := encM_fields g acc va vb 0 3 acc.isLt va.isLt vb.isLt (by decide) (by decide)
  generalize encM g acc va vb 0 3 = w at hlt ho hg n0 n1 n2 n3 n4 ⊢
  refine ⟨hlt, ?_⟩
  rw [decodeNat_35 _ ho]
  simp only [decodeMatrix, regField, predField, n0, n1, n2, n3, n4, hg, fin_ofNat_val, ofNat_zero32, ofNat_zero8, ofNat_zero2, Nat.one_ne_zero, if_false, Bool.false_eq_true, whenZero, whenLegal, hw, if_true, Nat.add_zero, ne_eq, not_true_eq_false, false_or, or_self, and_self, Nat.zero_ne_one, reduceIte, Fin.val_zero, mul_div_mod]

theorem Laws.RoundTrip.mopsO (g : Guard) (acc : Fin 2) (va vb vs : Reg) : Statement (.mopsO g acc va vb vs) := by
  intro hw w h
  injection h with h
  subst h
  obtain ⟨hlt, ho, hg, n0, n1, n2, n3, n4⟩ := encM_fields g acc va vb vs 4 acc.isLt va.isLt vb.isLt vs.isLt (by decide)
  generalize encM g acc va vb vs 4 = w at hlt ho hg n0 n1 n2 n3 n4 ⊢
  refine ⟨hlt, ?_⟩
  rw [decodeNat_35 _ ho]
  simp only [decodeMatrix, regField, predField, n0, n1, n2, n3, n4, hg, fin_ofNat_val, ofNat_zero32, ofNat_zero8, ofNat_zero2, Nat.one_ne_zero, if_false, Bool.false_eq_true, whenZero, whenLegal, hw, if_true, Nat.add_zero, ne_eq, not_true_eq_false, false_or, or_self, and_self, Nat.zero_ne_one, reduceIte, Fin.val_zero, mul_div_mod]

theorem Laws.RoundTrip.mopsR (g : Guard) (acc : Fin 2) (va vb vs : Reg) : Statement (.mopsR g acc va vb vs) := by
  intro hw w h
  injection h with h
  subst h
  obtain ⟨hlt, ho, hg, n0, n1, n2, n3, n4⟩ := encM_fields g acc va vb vs 5 acc.isLt va.isLt vb.isLt vs.isLt (by decide)
  generalize encM g acc va vb vs 5 = w at hlt ho hg n0 n1 n2 n3 n4 ⊢
  refine ⟨hlt, ?_⟩
  rw [decodeNat_35 _ ho]
  simp only [decodeMatrix, regField, predField, n0, n1, n2, n3, n4, hg, fin_ofNat_val, ofNat_zero32, ofNat_zero8, ofNat_zero2, Nat.one_ne_zero, if_false, Bool.false_eq_true, whenZero, whenLegal, hw, if_true, Nat.add_zero, ne_eq, not_true_eq_false, false_or, or_self, and_self, Nat.zero_ne_one, reduceIte, Fin.val_zero, mul_div_mod]

theorem Laws.RoundTrip.mopz (g : Guard) (acc : Fin 2) : Statement (.mopz g acc) := by
  intro hw w h
  injection h with h
  subst h
  obtain ⟨hlt, ho, hg, n0, n1, n2, n3, n4⟩ := encM_fields g acc 0 0 0 6 acc.isLt (by decide) (by decide) (by decide) (by decide)
  generalize encM g acc 0 0 0 6 = w at hlt ho hg n0 n1 n2 n3 n4 ⊢
  refine ⟨hlt, ?_⟩
  rw [decodeNat_35 _ ho]
  simp only [decodeMatrix, regField, predField, n0, n1, n2, n3, n4, hg, fin_ofNat_val, ofNat_zero32, ofNat_zero8, ofNat_zero2, Nat.one_ne_zero, if_false, Bool.false_eq_true, whenZero, whenLegal, hw, if_true, Nat.add_zero, ne_eq, not_true_eq_false, false_or, or_self, and_self, Nat.zero_ne_one, reduceIte, Fin.val_zero, mul_div_mod]

theorem Laws.RoundTrip.mova (g : Guard) (acc : Fin 2) (va blk : Reg) : Statement (.mova g acc va blk) := by
  intro hw w h
  injection h with h
  subst h
  obtain ⟨hlt, ho, hg, n0, n1, n2, n3, n4⟩ := encM_fields g acc va 0 blk 7 acc.isLt va.isLt (by decide) blk.isLt (by decide)
  generalize encM g acc va 0 blk 7 = w at hlt ho hg n0 n1 n2 n3 n4 ⊢
  refine ⟨hlt, ?_⟩
  rw [decodeNat_35 _ ho]
  simp only [decodeMatrix, regField, predField, n0, n1, n2, n3, n4, hg, fin_ofNat_val, ofNat_zero32, ofNat_zero8, ofNat_zero2, Nat.one_ne_zero, if_false, Bool.false_eq_true, whenZero, whenLegal, hw, if_true, Nat.add_zero, ne_eq, not_true_eq_false, false_or, or_self, and_self, Nat.zero_ne_one, reduceIte, Fin.val_zero, mul_div_mod]

theorem Laws.RoundTrip.movta (g : Guard) (acc : Fin 2) (va blk : Reg) : Statement (.movta g acc va blk) := by
  intro hw w h
  injection h with h
  subst h
  obtain ⟨hlt, ho, hg, n0, n1, n2, n3, n4⟩ := encM_fields g acc va 0 blk 8 acc.isLt va.isLt (by decide) blk.isLt (by decide)
  generalize encM g acc va 0 blk 8 = w at hlt ho hg n0 n1 n2 n3 n4 ⊢
  refine ⟨hlt, ?_⟩
  rw [decodeNat_35 _ ho]
  simp only [decodeMatrix, regField, predField, n0, n1, n2, n3, n4, hg, fin_ofNat_val, ofNat_zero32, ofNat_zero8, ofNat_zero2, Nat.one_ne_zero, if_false, Bool.false_eq_true, whenZero, whenLegal, hw, if_true, Nat.add_zero, ne_eq, not_true_eq_false, false_or, or_self, and_self, Nat.zero_ne_one, reduceIte, Fin.val_zero, mul_div_mod]

theorem Laws.RoundTrip.blockStart (vt : Nat) (vp : Fin 32) : Statement (.blockStart vt vp) := by
  intro _ w h
  cases h

theorem Laws.RoundTrip.threadFetch (vt : Nat) (vp : Fin 32) : Statement (.threadFetch vt vp) := by
  intro _ w h
  cases h

theorem Laws.RoundTrip.vectorMemoryPerformed (vt : Nat) (entry : Fin 8) : Statement (.vectorMemoryPerformed vt entry) := by
  intro _ w h
  cases h

theorem Laws.RoundTrip.retry (request : Nat) : Statement (.retry request) := by
  intro _ w h
  cases h

theorem Laws.RoundTrip.monitorWake (vt : Nat) : Statement (.monitorWake vt) := by
  intro _ w h
  cases h

theorem Laws.RoundTrip.parkTimeout (vt : Nat) : Statement (.parkTimeout vt) := by
  intro _ w h
  cases h

theorem Laws.RoundTrip.issueAgeing (vt : Nat) : Statement (.issueAgeing vt) := by
  intro _ w h
  cases h

theorem Laws.RoundTrip.copy1d (cmd : Nat) : Statement (.copy1d cmd) := by
  intro _ w h
  cases h

theorem Laws.RoundTrip.copy2d (cmd : Nat) : Statement (.copy2d cmd) := by
  intro _ w h
  cases h

theorem Laws.RoundTrip.fill (cmd : Nat) : Statement (.fill cmd) := by
  intro _ w h
  cases h

theorem Laws.RoundTrip.put (cmd : Nat) : Statement (.put cmd) := by
  intro _ w h
  cases h

theorem Laws.RoundTrip.get (cmd : Nat) : Statement (.get cmd) := by
  intro _ w h
  cases h

theorem Laws.RoundTrip.putadd (cmd : Nat) : Statement (.putadd cmd) := by
  intro _ w h
  cases h

theorem Laws.RoundTrip.signal (cmd : Nat) : Statement (.signal cmd) := by
  intro _ w h
  cases h

theorem Laws.RoundTrip.completionRecord (cmd : Nat) : Statement (.completionRecord cmd) := by
  intro _ w h
  cases h

theorem Laws.RoundTrip.scan (domain queue : Nat) : Statement (.scan domain queue) := by
  intro _ w h
  cases h

theorem Laws.RoundTrip.launch (n : SlotRef) : Statement (.launch n) := by
  intro _ w h
  cases h

theorem Laws.RoundTrip.copy (n : SlotRef) : Statement (.copy n) := by
  intro _ w h
  cases h

theorem Laws.RoundTrip.prefetch (n : SlotRef) : Statement (.prefetch n) := by
  intro _ w h
  cases h

theorem Laws.RoundTrip.unpin (n : SlotRef) : Statement (.unpin n) := by
  intro _ w h
  cases h

theorem Laws.RoundTrip.discard (n : SlotRef) : Statement (.discard n) := by
  intro _ w h
  cases h

theorem Laws.RoundTrip.signalNode (n : SlotRef) : Statement (.signalNode n) := by
  intro _ w h
  cases h

theorem Laws.RoundTrip.waitfut (n : SlotRef) : Statement (.waitfut n) := by
  intro _ w h
  cases h

theorem Laws.RoundTrip.nop (n : SlotRef) : Statement (.nop n) := by
  intro _ w h
  cases h

theorem Laws.RoundTrip.nodeCompletion (n : SlotRef) : Statement (.nodeCompletion n) := by
  intro _ w h
  cases h

theorem Laws.RoundTrip.placement (cluster : Nat) : Statement (.placement cluster) := by
  intro _ w h
  cases h

theorem Laws.RoundTrip.gangPreemption (gang : Nat) : Statement (.gangPreemption gang) := by
  intro _ w h
  cases h

theorem Laws.RoundTrip.gangRestore (gang : Nat) : Statement (.gangRestore gang) := by
  intro _ w h
  cases h

theorem Laws.RoundTrip.swapIn (vt : Nat) : Statement (.swapIn vt) := by
  intro _ w h
  cases h

theorem Laws.RoundTrip.swapOut (vt : Nat) : Statement (.swapOut vt) := by
  intro _ w h
  cases h

theorem Laws.RoundTrip.move (vt core : Nat) : Statement (.move vt core) := by
  intro _ w h
  cases h

theorem Laws.RoundTrip.lprWrite (core : Nat) (value : Word32) : Statement (.lprWrite core value) := by
  intro _ w h
  cases h

theorem Laws.RoundTrip.faultStop (vt : Nat) : Statement (.faultStop vt) := by
  intro _ w h
  cases h

theorem Laws.RoundTrip.freeze (m : Master) (addr : Word64) : Statement (.freeze m addr) := by
  intro _ w h
  cases h

theorem Laws.RoundTrip.fatalDump (reason : Nat) : Statement (.fatalDump reason) := by
  intro _ w h
  cases h

theorem Laws.RoundTrip.queueDestroyed (domain queue : Nat) : Statement (.queueDestroyed domain queue) := by
  intro _ w h
  cases h

theorem Laws.RoundTrip.write (p : Packet) : Statement (.write p) := by
  intro _ w h
  cases h

theorem Laws.RoundTrip.read (p : Packet) : Statement (.read p) := by
  intro _ w h
  cases h

theorem Laws.RoundTrip.send (p : Packet) : Statement (.send p) := by
  intro _ w h
  cases h

theorem Laws.RoundTrip.doorbell (p : Packet) : Statement (.doorbell p) := by
  intro _ w h
  cases h

theorem Laws.RoundTrip.submit (p : Packet) : Statement (.submit p) := by
  intro _ w h
  cases h

theorem Laws.RoundTrip.addw (p : Packet) : Statement (.addw p) := by
  intro _ w h
  cases h

theorem Laws.RoundTrip.signalMessage (p : Packet) : Statement (.signalMessage p) := by
  intro _ w h
  cases h

theorem Laws.RoundTrip.readresp (p : Packet) : Statement (.readresp p) := by
  intro _ w h
  cases h

theorem Laws.RoundTrip.ack (p : Packet) : Statement (.ack p) := by
  intro _ w h
  cases h

theorem Laws.RoundTrip.nak (p : Packet) : Statement (.nak p) := by
  intro _ w h
  cases h

theorem Laws.RoundTrip.status (p : Packet) : Statement (.status p) := by
  intro _ w h
  cases h

theorem Laws.RoundTrip.cnp (p : Packet) : Statement (.cnp p) := by
  intro _ w h
  cases h

theorem Laws.RoundTrip.retransmitTimeout (conn : ConnKey) : Statement (.retransmitTimeout conn) := by
  intro _ w h
  cases h

theorem Laws.RoundTrip.rateIncrease (conn : ConnKey) : Statement (.rateIncrease conn) := by
  intro _ w h
  cases h

theorem Laws.RoundTrip.createq (r : Request) (queue : Nat) (ring : Word64) (log2n prio : Nat) (bitmap doorbell : Word64) : Statement (.createq r queue ring log2n prio bitmap doorbell) := by
  intro _ w h
  cases h

theorem Laws.RoundTrip.destroyq (r : Request) (queue : Nat) (drain : Bool) : Statement (.destroyq r queue drain) := by
  intro _ w h
  cases h

theorem Laws.RoundTrip.openhost (r : Request) (addrHi addrLo : Word64) : Statement (.openhost r addrHi addrLo) := by
  intro _ w h
  cases h

theorem Laws.RoundTrip.openpeer (r : Request) (port : Nat) (addrHi addrLo : Word64) (remote : Nat) : Statement (.openpeer r port addrHi addrLo remote) := by
  intro _ w h
  cases h

theorem Laws.RoundTrip.close (r : Request) (conn : ConnKey) : Statement (.close r conn) := by
  intro _ w h
  cases h

theorem Laws.RoundTrip.mapleaf (r : Request) (va : Word64) (level : Nat) (entry : Word64) : Statement (.mapleaf r va level entry) := by
  intro _ w h
  cases h

theorem Laws.RoundTrip.stage (r : Request) (kind offset : Nat) (bytes : List Byte) : Statement (.stage r kind offset bytes) := by
  intro _ w h
  cases h

theorem Laws.RoundTrip.stageend (r : Request) (kind length : Nat) : Statement (.stageend r kind length) := by
  intro _ w h
  cases h

theorem Laws.RoundTrip.raisesvn (r : Request) (kind svn : Nat) : Statement (.raisesvn r kind svn) := by
  intro _ w h
  cases h

theorem Laws.RoundTrip.readreg (r : Request) (reg index : Nat) : Statement (.readreg r reg index) := by
  intro _ w h
  cases h

theorem Laws.RoundTrip.readdump (r : Request) (offset length : Nat) : Statement (.readdump r offset length) := by
  intro _ w h
  cases h

theorem Laws.RoundTrip.releasedump (r : Request) : Statement (.releasedump r) := by
  intro _ w h
  cases h

theorem Laws.RoundTrip.readctx (r : Request) (vt offset length : Nat) : Statement (.readctx r vt offset length) := by
  intro _ w h
  cases h

theorem Laws.RoundTrip.getVersion (conn : Nat) (msg : List Byte) : Statement (.getVersion conn msg) := by
  intro _ w h
  cases h

theorem Laws.RoundTrip.getCapabilities (conn : Nat) (msg : List Byte) : Statement (.getCapabilities conn msg) := by
  intro _ w h
  cases h

theorem Laws.RoundTrip.negotiateAlgorithms (conn : Nat) (msg : List Byte) : Statement (.negotiateAlgorithms conn msg) := by
  intro _ w h
  cases h

theorem Laws.RoundTrip.getDigests (conn : Nat) (msg : List Byte) : Statement (.getDigests conn msg) := by
  intro _ w h
  cases h

theorem Laws.RoundTrip.getCertificate (conn : Nat) (msg : List Byte) : Statement (.getCertificate conn msg) := by
  intro _ w h
  cases h

theorem Laws.RoundTrip.challenge (conn : Nat) (msg : List Byte) : Statement (.challenge conn msg) := by
  intro _ w h
  cases h

theorem Laws.RoundTrip.getMeasurements (conn : Nat) (msg : List Byte) : Statement (.getMeasurements conn msg) := by
  intro _ w h
  cases h

theorem Laws.RoundTrip.deviceReset : Statement (.deviceReset) := by
  intro _ w h
  cases h

theorem Laws.RoundTrip.handOver (kind inst : Nat) (record : List Byte) : Statement (.handOver kind inst record) := by
  intro _ w h
  cases h

theorem Laws.RoundTrip.newInstanceStart (kind inst : Nat) : Statement (.newInstanceStart kind inst) := by
  intro _ w h
  cases h

theorem Laws.RoundTrip.livenessBeat (kind inst : Nat) (region : List Byte) : Statement (.livenessBeat kind inst region) := by
  intro _ w h
  cases h

theorem Laws.RoundTrip.slackWaterCommit : Statement (.slackWaterCommit) := by
  intro _ w h
  cases h

theorem Laws.RoundTrip.fallBack (inst reason : Nat) : Statement (.fallBack inst reason) := by
  intro _ w h
  cases h

theorem Laws.RoundTrip.clockStep (die : Nat) (up : Bool) (power inlet : Nat) : Statement (.clockStep die up power inlet) := by
  intro _ w h
  cases h

theorem Laws.RoundTrip.heartbeatSend (tile : TileId) : Statement (.heartbeatSend tile) := by
  intro _ w h
  cases h

theorem Laws.RoundTrip.heartbeat (witness subject : TileId) (flit : Word64) : Statement (.heartbeat witness subject flit) := by
  intro _ w h
  cases h

theorem Laws.RoundTrip.heartbeatMiss (witness subject : TileId) : Statement (.heartbeatMiss witness subject) := by
  intro _ w h
  cases h

theorem Laws.RoundTrip.accuse (receiver : TileId) (flit : Word64) : Statement (.accuse receiver flit) := by
  intro _ w h
  cases h

theorem Laws.RoundTrip.accuseRepeat (witness subject : TileId) : Statement (.accuseRepeat witness subject) := by
  intro _ w h
  cases h

theorem Laws.RoundTrip.withdraw (receiver : TileId) (flit : Word64) : Statement (.withdraw receiver flit) := by
  intro _ w h
  cases h

theorem Laws.RoundTrip.accusationExpiry (witness subject sender : TileId) : Statement (.accusationExpiry witness subject sender) := by
  intro _ w h
  cases h

theorem Laws.RoundTrip.cordoned (receiver : TileId) (flit : Word64) : Statement (.cordoned receiver flit) := by
  intro _ w h
  cases h

theorem Laws.RoundTrip.portClosure (neighbour subject : TileId) : Statement (.portClosure neighbour subject) := by
  intro _ w h
  cases h

theorem Laws.RoundTrip.cordonHandling (tile : TileId) : Statement (.cordonHandling tile) := by
  intro _ w h
  cases h

theorem Laws.RoundTrip.selftest (tile : TileId) (pass : Bool) : Statement (.selftest tile pass) := by
  intro _ w h
  cases h

theorem Laws.RoundTrip.appeal (receiver : TileId) (flit : Word64) : Statement (.appeal receiver flit) := by
  intro _ w h
  cases h

theorem Laws.RoundTrip.consent (receiver : TileId) (flit : Word64) : Statement (.consent receiver flit) := by
  intro _ w h
  cases h

theorem Laws.RoundTrip.refuse (receiver : TileId) (flit : Word64) : Statement (.refuse receiver flit) := by
  intro _ w h
  cases h

theorem Laws.RoundTrip.readmit (receiver : TileId) (flit : Word64) : Statement (.readmit receiver flit) := by
  intro _ w h
  cases h

theorem Laws.RoundTrip.retire (receiver : TileId) (flit : Word64) : Statement (.retire receiver flit) := by
  intro _ w h
  cases h

theorem Laws.RoundTrip.cxlLinkLoss (link : Fin 4) : Statement (.cxlLinkLoss link) := by
  intro _ w h
  cases h

theorem Laws.RoundTrip.softError (u : SoftUnit) : Statement (.softError u) := by
  intro _ w h
  cases h

theorem Laws.RoundTrip.mopBlockCompletion (vt : Nat) : Statement (.mopBlockCompletion vt) := by
  intro _ w h
  cases h

theorem Laws.RoundTrip.cxlLinkDown (link : Fin 4) : Statement (.cxlLinkDown link) := by
  intro _ w h
  cases h

theorem Laws.RoundTrip.cxlLinkRetrained (link : Fin 4) (width rate : Nat) : Statement (.cxlLinkRetrained link width rate) := by
  intro _ w h
  cases h

theorem Laws.RoundTrip.injectionAllowance (witness subject : TileId) : Statement (.injectionAllowance witness subject) := by
  intro _ w h
  cases h

end Sys2Proof
end

