-- ==== Sys2Proof/Laws/State.lean ====
section
/-! SUPPORT. What each update of the state and of a VT leaves as it was, one field at a time, and what reading a part back
gives. -/

namespace Sys2Proof.Machine

open Sys2Proof

/-! ### Parts of the state -/

@[simp] theorem State.setVt_who (s : State) (id : Nat) (v : VT) : (s.setVt id v).who = s.who := rfl
@[simp] theorem State.setVt_schedule (s : State) (id : Nat) (v : VT) : (s.setVt id v).schedule = s.schedule := rfl
@[simp] theorem State.setVt_picks (s : State) (id : Nat) (v : VT) : (s.setVt id v).picks = s.picks := rfl
@[simp] theorem State.setVt_fatal (s : State) (id : Nat) (v : VT) : (s.setVt id v).fatal = s.fatal := rfl
@[simp] theorem State.setVt_dump (s : State) (id : Nat) (v : VT) : (s.setVt id v).dump = s.dump := rfl
@[simp] theorem State.setVt_gangs (s : State) (id : Nat) (v : VT) : (s.setVt id v).gangs = s.gangs := rfl
@[simp] theorem State.setVt_launches (s : State) (id : Nat) (v : VT) : (s.setVt id v).launches = s.launches := rfl
@[simp] theorem State.setVt_cores (s : State) (id : Nat) (v : VT) : (s.setVt id v).cores = s.cores := rfl
@[simp] theorem State.setVt_clusters (s : State) (id : Nat) (v : VT) : (s.setVt id v).clusters = s.clusters := rfl
@[simp] theorem State.setVt_mem (s : State) (id : Nat) (v : VT) : (s.setVt id v).mem = s.mem := rfl
@[simp] theorem State.setVt_l2 (s : State) (id : Nat) (v : VT) : (s.setVt id v).l2 = s.l2 := rfl
@[simp] theorem State.setVt_poison (s : State) (id : Nat) (v : VT) : (s.setVt id v).poison = s.poison := rfl
@[simp] theorem State.setVt_slices (s : State) (id : Nat) (v : VT) : (s.setVt id v).slices = s.slices := rfl
@[simp] theorem State.setVt_rejected (s : State) (id : Nat) (v : VT) : (s.setVt id v).rejected = s.rejected := rfl
@[simp] theorem State.setVt_tables (s : State) (id : Nat) (v : VT) : (s.setVt id v).tables = s.tables := rfl
@[simp] theorem State.setVt_tablePages (s : State) (id : Nat) (v : VT) : (s.setVt id v).tablePages = s.tablePages := rfl
@[simp] theorem State.setVt_reserved (s : State) (id : Nat) (v : VT) : (s.setVt id v).reserved = s.reserved := rfl
@[simp] theorem State.setVt_futures (s : State) (id : Nat) (v : VT) : (s.setVt id v).futures = s.futures := rfl
@[simp] theorem State.setVt_commands (s : State) (id : Nat) (v : VT) : (s.setVt id v).commands = s.commands := rfl
@[simp] theorem State.setVt_nextCmd (s : State) (id : Nat) (v : VT) : (s.setVt id v).nextCmd = s.nextCmd := rfl
@[simp] theorem State.setVt_fifoWait (s : State) (id : Nat) (v : VT) : (s.setVt id v).fifoWait = s.fifoWait := rfl
@[simp] theorem State.setVt_domains (s : State) (id : Nat) (v : VT) : (s.setVt id v).domains = s.domains := rfl
@[simp] theorem State.setVt_mseq (s : State) (id : Nat) (v : VT) : (s.setVt id v).mseq = s.mseq := rfl
@[simp] theorem State.setVt_cordons (s : State) (id : Nat) (v : VT) : (s.setVt id v).cordons = s.cordons := rfl
@[simp] theorem State.setVt_queues (s : State) (id : Nat) (v : VT) : (s.setVt id v).queues = s.queues := rfl
@[simp] theorem State.setVt_nextOrder (s : State) (id : Nat) (v : VT) : (s.setVt id v).nextOrder = s.nextOrder := rfl
@[simp] theorem State.setVt_conns (s : State) (id : Nat) (v : VT) : (s.setVt id v).conns = s.conns := rfl
@[simp] theorem State.setVt_outbox (s : State) (id : Nat) (v : VT) : (s.setVt id v).outbox = s.outbox := rfl
@[simp] theorem State.setVt_heldMgmt (s : State) (id : Nat) (v : VT) : (s.setVt id v).heldMgmt = s.heldMgmt := rfl
@[simp] theorem State.setVt_drops (s : State) (id : Nat) (v : VT) : (s.setVt id v).drops = s.drops := rfl
@[simp] theorem State.setVt_ports (s : State) (id : Nat) (v : VT) : (s.setVt id v).ports = s.ports := rfl
@[simp] theorem State.setVt_fw (s : State) (id : Nat) (v : VT) : (s.setVt id v).fw = s.fw := rfl
@[simp] theorem State.setVt_tiles (s : State) (id : Nat) (v : VT) : (s.setVt id v).tiles = s.tiles := rfl
@[simp] theorem State.setVt_views (s : State) (id : Nat) (v : VT) : (s.setVt id v).views = s.views := rfl
@[simp] theorem State.setVt_allowance (s : State) (id : Nat) (v : VT) : (s.setVt id v).allowance = s.allowance := rfl
@[simp] theorem State.setVt_sideband (s : State) (id : Nat) (v : VT) : (s.setVt id v).sideband = s.sideband := rfl
@[simp] theorem State.setVt_dies (s : State) (id : Nat) (v : VT) : (s.setVt id v).dies = s.dies := rfl
@[simp] theorem State.setVt_links (s : State) (id : Nat) (v : VT) : (s.setVt id v).links = s.links := rfl
@[simp] theorem State.setVt_tileClock (s : State) (id : Nat) (v : VT) : (s.setVt id v).tileClock = s.tileClock := rfl
@[simp] theorem State.setVt_fwClock (s : State) (id : Nat) (v : VT) : (s.setVt id v).fwClock = s.fwClock := rfl
@[simp] theorem State.setVt_records (s : State) (id : Nat) (v : VT) : (s.setVt id v).records = s.records := rfl
@[simp] theorem State.setVt_duePosts (s : State) (id : Nat) (v : VT) : (s.setVt id v).duePosts = s.duePosts := rfl
@[simp] theorem State.setVt_wants (s : State) (id : Nat) (v : VT) : (s.setVt id v).wants = s.wants := rfl
@[simp] theorem State.setVt_stalled (s : State) (id : Nat) (v : VT) : (s.setVt id v).stalled = s.stalled := rfl

@[simp] theorem State.setCore_who (s : State) (c : Nat) (v : Core) : (s.setCore c v).who = s.who := rfl
@[simp] theorem State.setCore_schedule (s : State) (c : Nat) (v : Core) : (s.setCore c v).schedule = s.schedule := rfl
@[simp] theorem State.setCore_picks (s : State) (c : Nat) (v : Core) : (s.setCore c v).picks = s.picks := rfl
@[simp] theorem State.setCore_fatal (s : State) (c : Nat) (v : Core) : (s.setCore c v).fatal = s.fatal := rfl
@[simp] theorem State.setCore_dump (s : State) (c : Nat) (v : Core) : (s.setCore c v).dump = s.dump := rfl
@[simp] theorem State.setCore_vts (s : State) (c : Nat) (v : Core) : (s.setCore c v).vts = s.vts := rfl
@[simp] theorem State.setCore_gangs (s : State) (c : Nat) (v : Core) : (s.setCore c v).gangs = s.gangs := rfl
@[simp] theorem State.setCore_launches (s : State) (c : Nat) (v : Core) : (s.setCore c v).launches = s.launches := rfl
@[simp] theorem State.setCore_clusters (s : State) (c : Nat) (v : Core) : (s.setCore c v).clusters = s.clusters := rfl
@[simp] theorem State.setCore_mem (s : State) (c : Nat) (v : Core) : (s.setCore c v).mem = s.mem := rfl
@[simp] theorem State.setCore_l2 (s : State) (c : Nat) (v : Core) : (s.setCore c v).l2 = s.l2 := rfl
@[simp] theorem State.setCore_poison (s : State) (c : Nat) (v : Core) : (s.setCore c v).poison = s.poison := rfl
@[simp] theorem State.setCore_slices (s : State) (c : Nat) (v : Core) : (s.setCore c v).slices = s.slices := rfl
@[simp] theorem State.setCore_rejected (s : State) (c : Nat) (v : Core) : (s.setCore c v).rejected = s.rejected := rfl
@[simp] theorem State.setCore_tables (s : State) (c : Nat) (v : Core) : (s.setCore c v).tables = s.tables := rfl
@[simp] theorem State.setCore_tablePages (s : State) (c : Nat) (v : Core) : (s.setCore c v).tablePages = s.tablePages := rfl
@[simp] theorem State.setCore_reserved (s : State) (c : Nat) (v : Core) : (s.setCore c v).reserved = s.reserved := rfl
@[simp] theorem State.setCore_futures (s : State) (c : Nat) (v : Core) : (s.setCore c v).futures = s.futures := rfl
@[simp] theorem State.setCore_commands (s : State) (c : Nat) (v : Core) : (s.setCore c v).commands = s.commands := rfl
@[simp] theorem State.setCore_nextCmd (s : State) (c : Nat) (v : Core) : (s.setCore c v).nextCmd = s.nextCmd := rfl
@[simp] theorem State.setCore_fifoWait (s : State) (c : Nat) (v : Core) : (s.setCore c v).fifoWait = s.fifoWait := rfl
@[simp] theorem State.setCore_domains (s : State) (c : Nat) (v : Core) : (s.setCore c v).domains = s.domains := rfl
@[simp] theorem State.setCore_mseq (s : State) (c : Nat) (v : Core) : (s.setCore c v).mseq = s.mseq := rfl
@[simp] theorem State.setCore_cordons (s : State) (c : Nat) (v : Core) : (s.setCore c v).cordons = s.cordons := rfl
@[simp] theorem State.setCore_queues (s : State) (c : Nat) (v : Core) : (s.setCore c v).queues = s.queues := rfl
@[simp] theorem State.setCore_nextOrder (s : State) (c : Nat) (v : Core) : (s.setCore c v).nextOrder = s.nextOrder := rfl
@[simp] theorem State.setCore_conns (s : State) (c : Nat) (v : Core) : (s.setCore c v).conns = s.conns := rfl
@[simp] theorem State.setCore_outbox (s : State) (c : Nat) (v : Core) : (s.setCore c v).outbox = s.outbox := rfl
@[simp] theorem State.setCore_heldMgmt (s : State) (c : Nat) (v : Core) : (s.setCore c v).heldMgmt = s.heldMgmt := rfl
@[simp] theorem State.setCore_drops (s : State) (c : Nat) (v : Core) : (s.setCore c v).drops = s.drops := rfl
@[simp] theorem State.setCore_ports (s : State) (c : Nat) (v : Core) : (s.setCore c v).ports = s.ports := rfl
@[simp] theorem State.setCore_fw (s : State) (c : Nat) (v : Core) : (s.setCore c v).fw = s.fw := rfl
@[simp] theorem State.setCore_tiles (s : State) (c : Nat) (v : Core) : (s.setCore c v).tiles = s.tiles := rfl
@[simp] theorem State.setCore_views (s : State) (c : Nat) (v : Core) : (s.setCore c v).views = s.views := rfl
@[simp] theorem State.setCore_allowance (s : State) (c : Nat) (v : Core) : (s.setCore c v).allowance = s.allowance := rfl
@[simp] theorem State.setCore_sideband (s : State) (c : Nat) (v : Core) : (s.setCore c v).sideband = s.sideband := rfl
@[simp] theorem State.setCore_dies (s : State) (c : Nat) (v : Core) : (s.setCore c v).dies = s.dies := rfl
@[simp] theorem State.setCore_links (s : State) (c : Nat) (v : Core) : (s.setCore c v).links = s.links := rfl
@[simp] theorem State.setCore_tileClock (s : State) (c : Nat) (v : Core) : (s.setCore c v).tileClock = s.tileClock := rfl
@[simp] theorem State.setCore_fwClock (s : State) (c : Nat) (v : Core) : (s.setCore c v).fwClock = s.fwClock := rfl
@[simp] theorem State.setCore_records (s : State) (c : Nat) (v : Core) : (s.setCore c v).records = s.records := rfl
@[simp] theorem State.setCore_duePosts (s : State) (c : Nat) (v : Core) : (s.setCore c v).duePosts = s.duePosts := rfl
@[simp] theorem State.setCore_wants (s : State) (c : Nat) (v : Core) : (s.setCore c v).wants = s.wants := rfl
@[simp] theorem State.setCore_stalled (s : State) (c : Nat) (v : Core) : (s.setCore c v).stalled = s.stalled := rfl

@[simp] theorem State.setCluster_who (s : State) (g : Nat) (v : Cluster) : (s.setCluster g v).who = s.who := rfl
@[simp] theorem State.setCluster_schedule (s : State) (g : Nat) (v : Cluster) : (s.setCluster g v).schedule = s.schedule := rfl
@[simp] theorem State.setCluster_picks (s : State) (g : Nat) (v : Cluster) : (s.setCluster g v).picks = s.picks := rfl
@[simp] theorem State.setCluster_fatal (s : State) (g : Nat) (v : Cluster) : (s.setCluster g v).fatal = s.fatal := rfl
@[simp] theorem State.setCluster_dump (s : State) (g : Nat) (v : Cluster) : (s.setCluster g v).dump = s.dump := rfl
@[simp] theorem State.setCluster_vts (s : State) (g : Nat) (v : Cluster) : (s.setCluster g v).vts = s.vts := rfl
@[simp] theorem State.setCluster_gangs (s : State) (g : Nat) (v : Cluster) : (s.setCluster g v).gangs = s.gangs := rfl
@[simp] theorem State.setCluster_launches (s : State) (g : Nat) (v : Cluster) : (s.setCluster g v).launches = s.launches := rfl
@[simp] theorem State.setCluster_cores (s : State) (g : Nat) (v : Cluster) : (s.setCluster g v).cores = s.cores := rfl
@[simp] theorem State.setCluster_mem (s : State) (g : Nat) (v : Cluster) : (s.setCluster g v).mem = s.mem := rfl
@[simp] theorem State.setCluster_l2 (s : State) (g : Nat) (v : Cluster) : (s.setCluster g v).l2 = s.l2 := rfl
@[simp] theorem State.setCluster_poison (s : State) (g : Nat) (v : Cluster) : (s.setCluster g v).poison = s.poison := rfl
@[simp] theorem State.setCluster_slices (s : State) (g : Nat) (v : Cluster) : (s.setCluster g v).slices = s.slices := rfl
@[simp] theorem State.setCluster_rejected (s : State) (g : Nat) (v : Cluster) : (s.setCluster g v).rejected = s.rejected := rfl
@[simp] theorem State.setCluster_tables (s : State) (g : Nat) (v : Cluster) : (s.setCluster g v).tables = s.tables := rfl
@[simp] theorem State.setCluster_tablePages (s : State) (g : Nat) (v : Cluster) : (s.setCluster g v).tablePages = s.tablePages := rfl
@[simp] theorem State.setCluster_reserved (s : State) (g : Nat) (v : Cluster) : (s.setCluster g v).reserved = s.reserved := rfl
@[simp] theorem State.setCluster_futures (s : State) (g : Nat) (v : Cluster) : (s.setCluster g v).futures = s.futures := rfl
@[simp] theorem State.setCluster_commands (s : State) (g : Nat) (v : Cluster) : (s.setCluster g v).commands = s.commands := rfl
@[simp] theorem State.setCluster_nextCmd (s : State) (g : Nat) (v : Cluster) : (s.setCluster g v).nextCmd = s.nextCmd := rfl
@[simp] theorem State.setCluster_fifoWait (s : State) (g : Nat) (v : Cluster) : (s.setCluster g v).fifoWait = s.fifoWait := rfl
@[simp] theorem State.setCluster_domains (s : State) (g : Nat) (v : Cluster) : (s.setCluster g v).domains = s.domains := rfl
@[simp] theorem State.setCluster_mseq (s : State) (g : Nat) (v : Cluster) : (s.setCluster g v).mseq = s.mseq := rfl
@[simp] theorem State.setCluster_cordons (s : State) (g : Nat) (v : Cluster) : (s.setCluster g v).cordons = s.cordons := rfl
@[simp] theorem State.setCluster_queues (s : State) (g : Nat) (v : Cluster) : (s.setCluster g v).queues = s.queues := rfl
@[simp] theorem State.setCluster_nextOrder (s : State) (g : Nat) (v : Cluster) : (s.setCluster g v).nextOrder = s.nextOrder := rfl
@[simp] theorem State.setCluster_conns (s : State) (g : Nat) (v : Cluster) : (s.setCluster g v).conns = s.conns := rfl
@[simp] theorem State.setCluster_outbox (s : State) (g : Nat) (v : Cluster) : (s.setCluster g v).outbox = s.outbox := rfl
@[simp] theorem State.setCluster_heldMgmt (s : State) (g : Nat) (v : Cluster) : (s.setCluster g v).heldMgmt = s.heldMgmt := rfl
@[simp] theorem State.setCluster_drops (s : State) (g : Nat) (v : Cluster) : (s.setCluster g v).drops = s.drops := rfl
@[simp] theorem State.setCluster_ports (s : State) (g : Nat) (v : Cluster) : (s.setCluster g v).ports = s.ports := rfl
@[simp] theorem State.setCluster_fw (s : State) (g : Nat) (v : Cluster) : (s.setCluster g v).fw = s.fw := rfl
@[simp] theorem State.setCluster_tiles (s : State) (g : Nat) (v : Cluster) : (s.setCluster g v).tiles = s.tiles := rfl
@[simp] theorem State.setCluster_views (s : State) (g : Nat) (v : Cluster) : (s.setCluster g v).views = s.views := rfl
@[simp] theorem State.setCluster_allowance (s : State) (g : Nat) (v : Cluster) : (s.setCluster g v).allowance = s.allowance := rfl
@[simp] theorem State.setCluster_sideband (s : State) (g : Nat) (v : Cluster) : (s.setCluster g v).sideband = s.sideband := rfl
@[simp] theorem State.setCluster_dies (s : State) (g : Nat) (v : Cluster) : (s.setCluster g v).dies = s.dies := rfl
@[simp] theorem State.setCluster_links (s : State) (g : Nat) (v : Cluster) : (s.setCluster g v).links = s.links := rfl
@[simp] theorem State.setCluster_tileClock (s : State) (g : Nat) (v : Cluster) : (s.setCluster g v).tileClock = s.tileClock := rfl
@[simp] theorem State.setCluster_fwClock (s : State) (g : Nat) (v : Cluster) : (s.setCluster g v).fwClock = s.fwClock := rfl
@[simp] theorem State.setCluster_records (s : State) (g : Nat) (v : Cluster) : (s.setCluster g v).records = s.records := rfl
@[simp] theorem State.setCluster_duePosts (s : State) (g : Nat) (v : Cluster) : (s.setCluster g v).duePosts = s.duePosts := rfl
@[simp] theorem State.setCluster_wants (s : State) (g : Nat) (v : Cluster) : (s.setCluster g v).wants = s.wants := rfl
@[simp] theorem State.setCluster_stalled (s : State) (g : Nat) (v : Cluster) : (s.setCluster g v).stalled = s.stalled := rfl

@[simp] theorem State.setTile_who (s : State) (t : TileId) (v : Tile) : (s.setTile t v).who = s.who := rfl
@[simp] theorem State.setTile_schedule (s : State) (t : TileId) (v : Tile) : (s.setTile t v).schedule = s.schedule := rfl
@[simp] theorem State.setTile_picks (s : State) (t : TileId) (v : Tile) : (s.setTile t v).picks = s.picks := rfl
@[simp] theorem State.setTile_fatal (s : State) (t : TileId) (v : Tile) : (s.setTile t v).fatal = s.fatal := rfl
@[simp] theorem State.setTile_dump (s : State) (t : TileId) (v : Tile) : (s.setTile t v).dump = s.dump := rfl
@[simp] theorem State.setTile_vts (s : State) (t : TileId) (v : Tile) : (s.setTile t v).vts = s.vts := rfl
@[simp] theorem State.setTile_gangs (s : State) (t : TileId) (v : Tile) : (s.setTile t v).gangs = s.gangs := rfl
@[simp] theorem State.setTile_launches (s : State) (t : TileId) (v : Tile) : (s.setTile t v).launches = s.launches := rfl
@[simp] theorem State.setTile_cores (s : State) (t : TileId) (v : Tile) : (s.setTile t v).cores = s.cores := rfl
@[simp] theorem State.setTile_clusters (s : State) (t : TileId) (v : Tile) : (s.setTile t v).clusters = s.clusters := rfl
@[simp] theorem State.setTile_mem (s : State) (t : TileId) (v : Tile) : (s.setTile t v).mem = s.mem := rfl
@[simp] theorem State.setTile_l2 (s : State) (t : TileId) (v : Tile) : (s.setTile t v).l2 = s.l2 := rfl
@[simp] theorem State.setTile_poison (s : State) (t : TileId) (v : Tile) : (s.setTile t v).poison = s.poison := rfl
@[simp] theorem State.setTile_slices (s : State) (t : TileId) (v : Tile) : (s.setTile t v).slices = s.slices := rfl
@[simp] theorem State.setTile_rejected (s : State) (t : TileId) (v : Tile) : (s.setTile t v).rejected = s.rejected := rfl
@[simp] theorem State.setTile_tables (s : State) (t : TileId) (v : Tile) : (s.setTile t v).tables = s.tables := rfl
@[simp] theorem State.setTile_tablePages (s : State) (t : TileId) (v : Tile) : (s.setTile t v).tablePages = s.tablePages := rfl
@[simp] theorem State.setTile_reserved (s : State) (t : TileId) (v : Tile) : (s.setTile t v).reserved = s.reserved := rfl
@[simp] theorem State.setTile_futures (s : State) (t : TileId) (v : Tile) : (s.setTile t v).futures = s.futures := rfl
@[simp] theorem State.setTile_commands (s : State) (t : TileId) (v : Tile) : (s.setTile t v).commands = s.commands := rfl
@[simp] theorem State.setTile_nextCmd (s : State) (t : TileId) (v : Tile) : (s.setTile t v).nextCmd = s.nextCmd := rfl
@[simp] theorem State.setTile_fifoWait (s : State) (t : TileId) (v : Tile) : (s.setTile t v).fifoWait = s.fifoWait := rfl
@[simp] theorem State.setTile_domains (s : State) (t : TileId) (v : Tile) : (s.setTile t v).domains = s.domains := rfl
@[simp] theorem State.setTile_mseq (s : State) (t : TileId) (v : Tile) : (s.setTile t v).mseq = s.mseq := rfl
@[simp] theorem State.setTile_cordons (s : State) (t : TileId) (v : Tile) : (s.setTile t v).cordons = s.cordons := rfl
@[simp] theorem State.setTile_queues (s : State) (t : TileId) (v : Tile) : (s.setTile t v).queues = s.queues := rfl
@[simp] theorem State.setTile_nextOrder (s : State) (t : TileId) (v : Tile) : (s.setTile t v).nextOrder = s.nextOrder := rfl
@[simp] theorem State.setTile_conns (s : State) (t : TileId) (v : Tile) : (s.setTile t v).conns = s.conns := rfl
@[simp] theorem State.setTile_outbox (s : State) (t : TileId) (v : Tile) : (s.setTile t v).outbox = s.outbox := rfl
@[simp] theorem State.setTile_heldMgmt (s : State) (t : TileId) (v : Tile) : (s.setTile t v).heldMgmt = s.heldMgmt := rfl
@[simp] theorem State.setTile_drops (s : State) (t : TileId) (v : Tile) : (s.setTile t v).drops = s.drops := rfl
@[simp] theorem State.setTile_ports (s : State) (t : TileId) (v : Tile) : (s.setTile t v).ports = s.ports := rfl
@[simp] theorem State.setTile_fw (s : State) (t : TileId) (v : Tile) : (s.setTile t v).fw = s.fw := rfl
@[simp] theorem State.setTile_views (s : State) (t : TileId) (v : Tile) : (s.setTile t v).views = s.views := rfl
@[simp] theorem State.setTile_allowance (s : State) (t : TileId) (v : Tile) : (s.setTile t v).allowance = s.allowance := rfl
@[simp] theorem State.setTile_sideband (s : State) (t : TileId) (v : Tile) : (s.setTile t v).sideband = s.sideband := rfl
@[simp] theorem State.setTile_dies (s : State) (t : TileId) (v : Tile) : (s.setTile t v).dies = s.dies := rfl
@[simp] theorem State.setTile_links (s : State) (t : TileId) (v : Tile) : (s.setTile t v).links = s.links := rfl
@[simp] theorem State.setTile_tileClock (s : State) (t : TileId) (v : Tile) : (s.setTile t v).tileClock = s.tileClock := rfl
@[simp] theorem State.setTile_fwClock (s : State) (t : TileId) (v : Tile) : (s.setTile t v).fwClock = s.fwClock := rfl
@[simp] theorem State.setTile_records (s : State) (t : TileId) (v : Tile) : (s.setTile t v).records = s.records := rfl
@[simp] theorem State.setTile_duePosts (s : State) (t : TileId) (v : Tile) : (s.setTile t v).duePosts = s.duePosts := rfl
@[simp] theorem State.setTile_wants (s : State) (t : TileId) (v : Tile) : (s.setTile t v).wants = s.wants := rfl
@[simp] theorem State.setTile_stalled (s : State) (t : TileId) (v : Tile) : (s.setTile t v).stalled = s.stalled := rfl

@[simp] theorem State.setDie_who (s : State) (d : Nat) (v : Die) : (s.setDie d v).who = s.who := rfl
@[simp] theorem State.setDie_schedule (s : State) (d : Nat) (v : Die) : (s.setDie d v).schedule = s.schedule := rfl
@[simp] theorem State.setDie_picks (s : State) (d : Nat) (v : Die) : (s.setDie d v).picks = s.picks := rfl
@[simp] theorem State.setDie_fatal (s : State) (d : Nat) (v : Die) : (s.setDie d v).fatal = s.fatal := rfl
@[simp] theorem State.setDie_dump (s : State) (d : Nat) (v : Die) : (s.setDie d v).dump = s.dump := rfl
@[simp] theorem State.setDie_vts (s : State) (d : Nat) (v : Die) : (s.setDie d v).vts = s.vts := rfl
@[simp] theorem State.setDie_gangs (s : State) (d : Nat) (v : Die) : (s.setDie d v).gangs = s.gangs := rfl
@[simp] theorem State.setDie_launches (s : State) (d : Nat) (v : Die) : (s.setDie d v).launches = s.launches := rfl
@[simp] theorem State.setDie_cores (s : State) (d : Nat) (v : Die) : (s.setDie d v).cores = s.cores := rfl
@[simp] theorem State.setDie_clusters (s : State) (d : Nat) (v : Die) : (s.setDie d v).clusters = s.clusters := rfl
@[simp] theorem State.setDie_mem (s : State) (d : Nat) (v : Die) : (s.setDie d v).mem = s.mem := rfl
@[simp] theorem State.setDie_l2 (s : State) (d : Nat) (v : Die) : (s.setDie d v).l2 = s.l2 := rfl
@[simp] theorem State.setDie_poison (s : State) (d : Nat) (v : Die) : (s.setDie d v).poison = s.poison := rfl
@[simp] theorem State.setDie_slices (s : State) (d : Nat) (v : Die) : (s.setDie d v).slices = s.slices := rfl
@[simp] theorem State.setDie_rejected (s : State) (d : Nat) (v : Die) : (s.setDie d v).rejected = s.rejected := rfl
@[simp] theorem State.setDie_tables (s : State) (d : Nat) (v : Die) : (s.setDie d v).tables = s.tables := rfl
@[simp] theorem State.setDie_tablePages (s : State) (d : Nat) (v : Die) : (s.setDie d v).tablePages = s.tablePages := rfl
@[simp] theorem State.setDie_reserved (s : State) (d : Nat) (v : Die) : (s.setDie d v).reserved = s.reserved := rfl
@[simp] theorem State.setDie_futures (s : State) (d : Nat) (v : Die) : (s.setDie d v).futures = s.futures := rfl
@[simp] theorem State.setDie_commands (s : State) (d : Nat) (v : Die) : (s.setDie d v).commands = s.commands := rfl
@[simp] theorem State.setDie_nextCmd (s : State) (d : Nat) (v : Die) : (s.setDie d v).nextCmd = s.nextCmd := rfl
@[simp] theorem State.setDie_fifoWait (s : State) (d : Nat) (v : Die) : (s.setDie d v).fifoWait = s.fifoWait := rfl
@[simp] theorem State.setDie_domains (s : State) (d : Nat) (v : Die) : (s.setDie d v).domains = s.domains := rfl
@[simp] theorem State.setDie_mseq (s : State) (d : Nat) (v : Die) : (s.setDie d v).mseq = s.mseq := rfl
@[simp] theorem State.setDie_cordons (s : State) (d : Nat) (v : Die) : (s.setDie d v).cordons = s.cordons := rfl
@[simp] theorem State.setDie_queues (s : State) (d : Nat) (v : Die) : (s.setDie d v).queues = s.queues := rfl
@[simp] theorem State.setDie_nextOrder (s : State) (d : Nat) (v : Die) : (s.setDie d v).nextOrder = s.nextOrder := rfl
@[simp] theorem State.setDie_conns (s : State) (d : Nat) (v : Die) : (s.setDie d v).conns = s.conns := rfl
@[simp] theorem State.setDie_outbox (s : State) (d : Nat) (v : Die) : (s.setDie d v).outbox = s.outbox := rfl
@[simp] theorem State.setDie_heldMgmt (s : State) (d : Nat) (v : Die) : (s.setDie d v).heldMgmt = s.heldMgmt := rfl
@[simp] theorem State.setDie_drops (s : State) (d : Nat) (v : Die) : (s.setDie d v).drops = s.drops := rfl
@[simp] theorem State.setDie_ports (s : State) (d : Nat) (v : Die) : (s.setDie d v).ports = s.ports := rfl
@[simp] theorem State.setDie_fw (s : State) (d : Nat) (v : Die) : (s.setDie d v).fw = s.fw := rfl
@[simp] theorem State.setDie_tiles (s : State) (d : Nat) (v : Die) : (s.setDie d v).tiles = s.tiles := rfl
@[simp] theorem State.setDie_views (s : State) (d : Nat) (v : Die) : (s.setDie d v).views = s.views := rfl
@[simp] theorem State.setDie_allowance (s : State) (d : Nat) (v : Die) : (s.setDie d v).allowance = s.allowance := rfl
@[simp] theorem State.setDie_sideband (s : State) (d : Nat) (v : Die) : (s.setDie d v).sideband = s.sideband := rfl
@[simp] theorem State.setDie_links (s : State) (d : Nat) (v : Die) : (s.setDie d v).links = s.links := rfl
@[simp] theorem State.setDie_tileClock (s : State) (d : Nat) (v : Die) : (s.setDie d v).tileClock = s.tileClock := rfl
@[simp] theorem State.setDie_fwClock (s : State) (d : Nat) (v : Die) : (s.setDie d v).fwClock = s.fwClock := rfl
@[simp] theorem State.setDie_records (s : State) (d : Nat) (v : Die) : (s.setDie d v).records = s.records := rfl
@[simp] theorem State.setDie_duePosts (s : State) (d : Nat) (v : Die) : (s.setDie d v).duePosts = s.duePosts := rfl
@[simp] theorem State.setDie_wants (s : State) (d : Nat) (v : Die) : (s.setDie d v).wants = s.wants := rfl
@[simp] theorem State.setDie_stalled (s : State) (d : Nat) (v : Die) : (s.setDie d v).stalled = s.stalled := rfl

@[simp] theorem State.setSlice_who (s : State) (k : Nat) (v : Slice) : (s.setSlice k v).who = s.who := rfl
@[simp] theorem State.setSlice_schedule (s : State) (k : Nat) (v : Slice) : (s.setSlice k v).schedule = s.schedule := rfl
@[simp] theorem State.setSlice_picks (s : State) (k : Nat) (v : Slice) : (s.setSlice k v).picks = s.picks := rfl
@[simp] theorem State.setSlice_fatal (s : State) (k : Nat) (v : Slice) : (s.setSlice k v).fatal = s.fatal := rfl
@[simp] theorem State.setSlice_dump (s : State) (k : Nat) (v : Slice) : (s.setSlice k v).dump = s.dump := rfl
@[simp] theorem State.setSlice_vts (s : State) (k : Nat) (v : Slice) : (s.setSlice k v).vts = s.vts := rfl
@[simp] theorem State.setSlice_gangs (s : State) (k : Nat) (v : Slice) : (s.setSlice k v).gangs = s.gangs := rfl
@[simp] theorem State.setSlice_launches (s : State) (k : Nat) (v : Slice) : (s.setSlice k v).launches = s.launches := rfl
@[simp] theorem State.setSlice_cores (s : State) (k : Nat) (v : Slice) : (s.setSlice k v).cores = s.cores := rfl
@[simp] theorem State.setSlice_clusters (s : State) (k : Nat) (v : Slice) : (s.setSlice k v).clusters = s.clusters := rfl
@[simp] theorem State.setSlice_mem (s : State) (k : Nat) (v : Slice) : (s.setSlice k v).mem = s.mem := rfl
@[simp] theorem State.setSlice_l2 (s : State) (k : Nat) (v : Slice) : (s.setSlice k v).l2 = s.l2 := rfl
@[simp] theorem State.setSlice_poison (s : State) (k : Nat) (v : Slice) : (s.setSlice k v).poison = s.poison := rfl
@[simp] theorem State.setSlice_rejected (s : State) (k : Nat) (v : Slice) : (s.setSlice k v).rejected = s.rejected := rfl
@[simp] theorem State.setSlice_tables (s : State) (k : Nat) (v : Slice) : (s.setSlice k v).tables = s.tables := rfl
@[simp] theorem State.setSlice_tablePages (s : State) (k : Nat) (v : Slice) : (s.setSlice k v).tablePages = s.tablePages := rfl
@[simp] theorem State.setSlice_reserved (s : State) (k : Nat) (v : Slice) : (s.setSlice k v).reserved = s.reserved := rfl
@[simp] theorem State.setSlice_futures (s : State) (k : Nat) (v : Slice) : (s.setSlice k v).futures = s.futures := rfl
@[simp] theorem State.setSlice_commands (s : State) (k : Nat) (v : Slice) : (s.setSlice k v).commands = s.commands := rfl
@[simp] theorem State.setSlice_nextCmd (s : State) (k : Nat) (v : Slice) : (s.setSlice k v).nextCmd = s.nextCmd := rfl
@[simp] theorem State.setSlice_fifoWait (s : State) (k : Nat) (v : Slice) : (s.setSlice k v).fifoWait = s.fifoWait := rfl
@[simp] theorem State.setSlice_domains (s : State) (k : Nat) (v : Slice) : (s.setSlice k v).domains = s.domains := rfl
@[simp] theorem State.setSlice_mseq (s : State) (k : Nat) (v : Slice) : (s.setSlice k v).mseq = s.mseq := rfl
@[simp] theorem State.setSlice_cordons (s : State) (k : Nat) (v : Slice) : (s.setSlice k v).cordons = s.cordons := rfl
@[simp] theorem State.setSlice_queues (s : State) (k : Nat) (v : Slice) : (s.setSlice k v).queues = s.queues := rfl
@[simp] theorem State.setSlice_nextOrder (s : State) (k : Nat) (v : Slice) : (s.setSlice k v).nextOrder = s.nextOrder := rfl
@[simp] theorem State.setSlice_conns (s : State) (k : Nat) (v : Slice) : (s.setSlice k v).conns = s.conns := rfl
@[simp] theorem State.setSlice_outbox (s : State) (k : Nat) (v : Slice) : (s.setSlice k v).outbox = s.outbox := rfl
@[simp] theorem State.setSlice_heldMgmt (s : State) (k : Nat) (v : Slice) : (s.setSlice k v).heldMgmt = s.heldMgmt := rfl
@[simp] theorem State.setSlice_drops (s : State) (k : Nat) (v : Slice) : (s.setSlice k v).drops = s.drops := rfl
@[simp] theorem State.setSlice_ports (s : State) (k : Nat) (v : Slice) : (s.setSlice k v).ports = s.ports := rfl
@[simp] theorem State.setSlice_fw (s : State) (k : Nat) (v : Slice) : (s.setSlice k v).fw = s.fw := rfl
@[simp] theorem State.setSlice_tiles (s : State) (k : Nat) (v : Slice) : (s.setSlice k v).tiles = s.tiles := rfl
@[simp] theorem State.setSlice_views (s : State) (k : Nat) (v : Slice) : (s.setSlice k v).views = s.views := rfl
@[simp] theorem State.setSlice_allowance (s : State) (k : Nat) (v : Slice) : (s.setSlice k v).allowance = s.allowance := rfl
@[simp] theorem State.setSlice_sideband (s : State) (k : Nat) (v : Slice) : (s.setSlice k v).sideband = s.sideband := rfl
@[simp] theorem State.setSlice_dies (s : State) (k : Nat) (v : Slice) : (s.setSlice k v).dies = s.dies := rfl
@[simp] theorem State.setSlice_links (s : State) (k : Nat) (v : Slice) : (s.setSlice k v).links = s.links := rfl
@[simp] theorem State.setSlice_tileClock (s : State) (k : Nat) (v : Slice) : (s.setSlice k v).tileClock = s.tileClock := rfl
@[simp] theorem State.setSlice_fwClock (s : State) (k : Nat) (v : Slice) : (s.setSlice k v).fwClock = s.fwClock := rfl
@[simp] theorem State.setSlice_records (s : State) (k : Nat) (v : Slice) : (s.setSlice k v).records = s.records := rfl
@[simp] theorem State.setSlice_duePosts (s : State) (k : Nat) (v : Slice) : (s.setSlice k v).duePosts = s.duePosts := rfl
@[simp] theorem State.setSlice_wants (s : State) (k : Nat) (v : Slice) : (s.setSlice k v).wants = s.wants := rfl
@[simp] theorem State.setSlice_stalled (s : State) (k : Nat) (v : Slice) : (s.setSlice k v).stalled = s.stalled := rfl

@[simp] theorem State.setDomain_who (s : State) (d : Nat) (v : Domain) : (s.setDomain d v).who = s.who := rfl
@[simp] theorem State.setDomain_schedule (s : State) (d : Nat) (v : Domain) : (s.setDomain d v).schedule = s.schedule := rfl
@[simp] theorem State.setDomain_picks (s : State) (d : Nat) (v : Domain) : (s.setDomain d v).picks = s.picks := rfl
@[simp] theorem State.setDomain_fatal (s : State) (d : Nat) (v : Domain) : (s.setDomain d v).fatal = s.fatal := rfl
@[simp] theorem State.setDomain_dump (s : State) (d : Nat) (v : Domain) : (s.setDomain d v).dump = s.dump := rfl
@[simp] theorem State.setDomain_vts (s : State) (d : Nat) (v : Domain) : (s.setDomain d v).vts = s.vts := rfl
@[simp] theorem State.setDomain_gangs (s : State) (d : Nat) (v : Domain) : (s.setDomain d v).gangs = s.gangs := rfl
@[simp] theorem State.setDomain_launches (s : State) (d : Nat) (v : Domain) : (s.setDomain d v).launches = s.launches := rfl
@[simp] theorem State.setDomain_cores (s : State) (d : Nat) (v : Domain) : (s.setDomain d v).cores = s.cores := rfl
@[simp] theorem State.setDomain_clusters (s : State) (d : Nat) (v : Domain) : (s.setDomain d v).clusters = s.clusters := rfl
@[simp] theorem State.setDomain_mem (s : State) (d : Nat) (v : Domain) : (s.setDomain d v).mem = s.mem := rfl
@[simp] theorem State.setDomain_l2 (s : State) (d : Nat) (v : Domain) : (s.setDomain d v).l2 = s.l2 := rfl
@[simp] theorem State.setDomain_poison (s : State) (d : Nat) (v : Domain) : (s.setDomain d v).poison = s.poison := rfl
@[simp] theorem State.setDomain_slices (s : State) (d : Nat) (v : Domain) : (s.setDomain d v).slices = s.slices := rfl
@[simp] theorem State.setDomain_rejected (s : State) (d : Nat) (v : Domain) : (s.setDomain d v).rejected = s.rejected := rfl
@[simp] theorem State.setDomain_tables (s : State) (d : Nat) (v : Domain) : (s.setDomain d v).tables = s.tables := rfl
@[simp] theorem State.setDomain_tablePages (s : State) (d : Nat) (v : Domain) : (s.setDomain d v).tablePages = s.tablePages := rfl
@[simp] theorem State.setDomain_reserved (s : State) (d : Nat) (v : Domain) : (s.setDomain d v).reserved = s.reserved := rfl
@[simp] theorem State.setDomain_futures (s : State) (d : Nat) (v : Domain) : (s.setDomain d v).futures = s.futures := rfl
@[simp] theorem State.setDomain_commands (s : State) (d : Nat) (v : Domain) : (s.setDomain d v).commands = s.commands := rfl
@[simp] theorem State.setDomain_nextCmd (s : State) (d : Nat) (v : Domain) : (s.setDomain d v).nextCmd = s.nextCmd := rfl
@[simp] theorem State.setDomain_fifoWait (s : State) (d : Nat) (v : Domain) : (s.setDomain d v).fifoWait = s.fifoWait := rfl
@[simp] theorem State.setDomain_mseq (s : State) (d : Nat) (v : Domain) : (s.setDomain d v).mseq = s.mseq := rfl
@[simp] theorem State.setDomain_cordons (s : State) (d : Nat) (v : Domain) : (s.setDomain d v).cordons = s.cordons := rfl
@[simp] theorem State.setDomain_queues (s : State) (d : Nat) (v : Domain) : (s.setDomain d v).queues = s.queues := rfl
@[simp] theorem State.setDomain_nextOrder (s : State) (d : Nat) (v : Domain) : (s.setDomain d v).nextOrder = s.nextOrder := rfl
@[simp] theorem State.setDomain_conns (s : State) (d : Nat) (v : Domain) : (s.setDomain d v).conns = s.conns := rfl
@[simp] theorem State.setDomain_outbox (s : State) (d : Nat) (v : Domain) : (s.setDomain d v).outbox = s.outbox := rfl
@[simp] theorem State.setDomain_heldMgmt (s : State) (d : Nat) (v : Domain) : (s.setDomain d v).heldMgmt = s.heldMgmt := rfl
@[simp] theorem State.setDomain_drops (s : State) (d : Nat) (v : Domain) : (s.setDomain d v).drops = s.drops := rfl
@[simp] theorem State.setDomain_ports (s : State) (d : Nat) (v : Domain) : (s.setDomain d v).ports = s.ports := rfl
@[simp] theorem State.setDomain_fw (s : State) (d : Nat) (v : Domain) : (s.setDomain d v).fw = s.fw := rfl
@[simp] theorem State.setDomain_tiles (s : State) (d : Nat) (v : Domain) : (s.setDomain d v).tiles = s.tiles := rfl
@[simp] theorem State.setDomain_views (s : State) (d : Nat) (v : Domain) : (s.setDomain d v).views = s.views := rfl
@[simp] theorem State.setDomain_allowance (s : State) (d : Nat) (v : Domain) : (s.setDomain d v).allowance = s.allowance := rfl
@[simp] theorem State.setDomain_sideband (s : State) (d : Nat) (v : Domain) : (s.setDomain d v).sideband = s.sideband := rfl
@[simp] theorem State.setDomain_dies (s : State) (d : Nat) (v : Domain) : (s.setDomain d v).dies = s.dies := rfl
@[simp] theorem State.setDomain_links (s : State) (d : Nat) (v : Domain) : (s.setDomain d v).links = s.links := rfl
@[simp] theorem State.setDomain_tileClock (s : State) (d : Nat) (v : Domain) : (s.setDomain d v).tileClock = s.tileClock := rfl
@[simp] theorem State.setDomain_fwClock (s : State) (d : Nat) (v : Domain) : (s.setDomain d v).fwClock = s.fwClock := rfl
@[simp] theorem State.setDomain_records (s : State) (d : Nat) (v : Domain) : (s.setDomain d v).records = s.records := rfl
@[simp] theorem State.setDomain_duePosts (s : State) (d : Nat) (v : Domain) : (s.setDomain d v).duePosts = s.duePosts := rfl
@[simp] theorem State.setDomain_wants (s : State) (d : Nat) (v : Domain) : (s.setDomain d v).wants = s.wants := rfl
@[simp] theorem State.setDomain_stalled (s : State) (d : Nat) (v : Domain) : (s.setDomain d v).stalled = s.stalled := rfl

@[simp] theorem State.setConn_who (s : State) (key : ConnKey) (c : Conn) : (s.setConn key c).who = s.who := rfl
@[simp] theorem State.setConn_schedule (s : State) (key : ConnKey) (c : Conn) : (s.setConn key c).schedule = s.schedule := rfl
@[simp] theorem State.setConn_picks (s : State) (key : ConnKey) (c : Conn) : (s.setConn key c).picks = s.picks := rfl
@[simp] theorem State.setConn_fatal (s : State) (key : ConnKey) (c : Conn) : (s.setConn key c).fatal = s.fatal := rfl
@[simp] theorem State.setConn_dump (s : State) (key : ConnKey) (c : Conn) : (s.setConn key c).dump = s.dump := rfl
@[simp] theorem State.setConn_vts (s : State) (key : ConnKey) (c : Conn) : (s.setConn key c).vts = s.vts := rfl
@[simp] theorem State.setConn_gangs (s : State) (key : ConnKey) (c : Conn) : (s.setConn key c).gangs = s.gangs := rfl
@[simp] theorem State.setConn_launches (s : State) (key : ConnKey) (c : Conn) : (s.setConn key c).launches = s.launches := rfl
@[simp] theorem State.setConn_cores (s : State) (key : ConnKey) (c : Conn) : (s.setConn key c).cores = s.cores := rfl
@[simp] theorem State.setConn_clusters (s : State) (key : ConnKey) (c : Conn) : (s.setConn key c).clusters = s.clusters := rfl
@[simp] theorem State.setConn_mem (s : State) (key : ConnKey) (c : Conn) : (s.setConn key c).mem = s.mem := rfl
@[simp] theorem State.setConn_l2 (s : State) (key : ConnKey) (c : Conn) : (s.setConn key c).l2 = s.l2 := rfl
@[simp] theorem State.setConn_poison (s : State) (key : ConnKey) (c : Conn) : (s.setConn key c).poison = s.poison := rfl
@[simp] theorem State.setConn_slices (s : State) (key : ConnKey) (c : Conn) : (s.setConn key c).slices = s.slices := rfl
@[simp] theorem State.setConn_rejected (s : State) (key : ConnKey) (c : Conn) : (s.setConn key c).rejected = s.rejected := rfl
@[simp] theorem State.setConn_tables (s : State) (key : ConnKey) (c : Conn) : (s.setConn key c).tables = s.tables := rfl
@[simp] theorem State.setConn_tablePages (s : State) (key : ConnKey) (c : Conn) : (s.setConn key c).tablePages = s.tablePages := rfl
@[simp] theorem State.setConn_reserved (s : State) (key : ConnKey) (c : Conn) : (s.setConn key c).reserved = s.reserved := rfl
@[simp] theorem State.setConn_futures (s : State) (key : ConnKey) (c : Conn) : (s.setConn key c).futures = s.futures := rfl
@[simp] theorem State.setConn_commands (s : State) (key : ConnKey) (c : Conn) : (s.setConn key c).commands = s.commands := rfl
@[simp] theorem State.setConn_nextCmd (s : State) (key : ConnKey) (c : Conn) : (s.setConn key c).nextCmd = s.nextCmd := rfl
@[simp] theorem State.setConn_fifoWait (s : State) (key : ConnKey) (c : Conn) : (s.setConn key c).fifoWait = s.fifoWait := rfl
@[simp] theorem State.setConn_domains (s : State) (key : ConnKey) (c : Conn) : (s.setConn key c).domains = s.domains := rfl
@[simp] theorem State.setConn_mseq (s : State) (key : ConnKey) (c : Conn) : (s.setConn key c).mseq = s.mseq := rfl
@[simp] theorem State.setConn_cordons (s : State) (key : ConnKey) (c : Conn) : (s.setConn key c).cordons = s.cordons := rfl
@[simp] theorem State.setConn_queues (s : State) (key : ConnKey) (c : Conn) : (s.setConn key c).queues = s.queues := rfl
@[simp] theorem State.setConn_nextOrder (s : State) (key : ConnKey) (c : Conn) : (s.setConn key c).nextOrder = s.nextOrder := rfl
@[simp] theorem State.setConn_outbox (s : State) (key : ConnKey) (c : Conn) : (s.setConn key c).outbox = s.outbox := rfl
@[simp] theorem State.setConn_heldMgmt (s : State) (key : ConnKey) (c : Conn) : (s.setConn key c).heldMgmt = s.heldMgmt := rfl
@[simp] theorem State.setConn_drops (s : State) (key : ConnKey) (c : Conn) : (s.setConn key c).drops = s.drops := rfl
@[simp] theorem State.setConn_ports (s : State) (key : ConnKey) (c : Conn) : (s.setConn key c).ports = s.ports := rfl
@[simp] theorem State.setConn_fw (s : State) (key : ConnKey) (c : Conn) : (s.setConn key c).fw = s.fw := rfl
@[simp] theorem State.setConn_tiles (s : State) (key : ConnKey) (c : Conn) : (s.setConn key c).tiles = s.tiles := rfl
@[simp] theorem State.setConn_views (s : State) (key : ConnKey) (c : Conn) : (s.setConn key c).views = s.views := rfl
@[simp] theorem State.setConn_allowance (s : State) (key : ConnKey) (c : Conn) : (s.setConn key c).allowance = s.allowance := rfl
@[simp] theorem State.setConn_sideband (s : State) (key : ConnKey) (c : Conn) : (s.setConn key c).sideband = s.sideband := rfl
@[simp] theorem State.setConn_dies (s : State) (key : ConnKey) (c : Conn) : (s.setConn key c).dies = s.dies := rfl
@[simp] theorem State.setConn_links (s : State) (key : ConnKey) (c : Conn) : (s.setConn key c).links = s.links := rfl
@[simp] theorem State.setConn_tileClock (s : State) (key : ConnKey) (c : Conn) : (s.setConn key c).tileClock = s.tileClock := rfl
@[simp] theorem State.setConn_fwClock (s : State) (key : ConnKey) (c : Conn) : (s.setConn key c).fwClock = s.fwClock := rfl
@[simp] theorem State.setConn_records (s : State) (key : ConnKey) (c : Conn) : (s.setConn key c).records = s.records := rfl
@[simp] theorem State.setConn_duePosts (s : State) (key : ConnKey) (c : Conn) : (s.setConn key c).duePosts = s.duePosts := rfl
@[simp] theorem State.setConn_wants (s : State) (key : ConnKey) (c : Conn) : (s.setConn key c).wants = s.wants := rfl
@[simp] theorem State.setConn_stalled (s : State) (key : ConnKey) (c : Conn) : (s.setConn key c).stalled = s.stalled := rfl

@[simp] theorem State.setFuture_who (s : State) (key : Nat) (f : Future) : (s.setFuture key f).who = s.who := rfl
@[simp] theorem State.setFuture_schedule (s : State) (key : Nat) (f : Future) : (s.setFuture key f).schedule = s.schedule := rfl
@[simp] theorem State.setFuture_picks (s : State) (key : Nat) (f : Future) : (s.setFuture key f).picks = s.picks := rfl
@[simp] theorem State.setFuture_fatal (s : State) (key : Nat) (f : Future) : (s.setFuture key f).fatal = s.fatal := rfl
@[simp] theorem State.setFuture_dump (s : State) (key : Nat) (f : Future) : (s.setFuture key f).dump = s.dump := rfl
@[simp] theorem State.setFuture_vts (s : State) (key : Nat) (f : Future) : (s.setFuture key f).vts = s.vts := rfl
@[simp] theorem State.setFuture_gangs (s : State) (key : Nat) (f : Future) : (s.setFuture key f).gangs = s.gangs := rfl
@[simp] theorem State.setFuture_launches (s : State) (key : Nat) (f : Future) : (s.setFuture key f).launches = s.launches := rfl
@[simp] theorem State.setFuture_cores (s : State) (key : Nat) (f : Future) : (s.setFuture key f).cores = s.cores := rfl
@[simp] theorem State.setFuture_clusters (s : State) (key : Nat) (f : Future) : (s.setFuture key f).clusters = s.clusters := rfl
@[simp] theorem State.setFuture_mem (s : State) (key : Nat) (f : Future) : (s.setFuture key f).mem = s.mem := rfl
@[simp] theorem State.setFuture_l2 (s : State) (key : Nat) (f : Future) : (s.setFuture key f).l2 = s.l2 := rfl
@[simp] theorem State.setFuture_poison (s : State) (key : Nat) (f : Future) : (s.setFuture key f).poison = s.poison := rfl
@[simp] theorem State.setFuture_slices (s : State) (key : Nat) (f : Future) : (s.setFuture key f).slices = s.slices := rfl
@[simp] theorem State.setFuture_rejected (s : State) (key : Nat) (f : Future) : (s.setFuture key f).rejected = s.rejected := rfl
@[simp] theorem State.setFuture_tables (s : State) (key : Nat) (f : Future) : (s.setFuture key f).tables = s.tables := rfl
@[simp] theorem State.setFuture_tablePages (s : State) (key : Nat) (f : Future) : (s.setFuture key f).tablePages = s.tablePages := rfl
@[simp] theorem State.setFuture_reserved (s : State) (key : Nat) (f : Future) : (s.setFuture key f).reserved = s.reserved := rfl
@[simp] theorem State.setFuture_commands (s : State) (key : Nat) (f : Future) : (s.setFuture key f).commands = s.commands := rfl
@[simp] theorem State.setFuture_nextCmd (s : State) (key : Nat) (f : Future) : (s.setFuture key f).nextCmd = s.nextCmd := rfl
@[simp] theorem State.setFuture_fifoWait (s : State) (key : Nat) (f : Future) : (s.setFuture key f).fifoWait = s.fifoWait := rfl
@[simp] theorem State.setFuture_domains (s : State) (key : Nat) (f : Future) : (s.setFuture key f).domains = s.domains := rfl
@[simp] theorem State.setFuture_mseq (s : State) (key : Nat) (f : Future) : (s.setFuture key f).mseq = s.mseq := rfl
@[simp] theorem State.setFuture_cordons (s : State) (key : Nat) (f : Future) : (s.setFuture key f).cordons = s.cordons := rfl
@[simp] theorem State.setFuture_queues (s : State) (key : Nat) (f : Future) : (s.setFuture key f).queues = s.queues := rfl
@[simp] theorem State.setFuture_nextOrder (s : State) (key : Nat) (f : Future) : (s.setFuture key f).nextOrder = s.nextOrder := rfl
@[simp] theorem State.setFuture_conns (s : State) (key : Nat) (f : Future) : (s.setFuture key f).conns = s.conns := rfl
@[simp] theorem State.setFuture_outbox (s : State) (key : Nat) (f : Future) : (s.setFuture key f).outbox = s.outbox := rfl
@[simp] theorem State.setFuture_heldMgmt (s : State) (key : Nat) (f : Future) : (s.setFuture key f).heldMgmt = s.heldMgmt := rfl
@[simp] theorem State.setFuture_drops (s : State) (key : Nat) (f : Future) : (s.setFuture key f).drops = s.drops := rfl
@[simp] theorem State.setFuture_ports (s : State) (key : Nat) (f : Future) : (s.setFuture key f).ports = s.ports := rfl
@[simp] theorem State.setFuture_fw (s : State) (key : Nat) (f : Future) : (s.setFuture key f).fw = s.fw := rfl
@[simp] theorem State.setFuture_tiles (s : State) (key : Nat) (f : Future) : (s.setFuture key f).tiles = s.tiles := rfl
@[simp] theorem State.setFuture_views (s : State) (key : Nat) (f : Future) : (s.setFuture key f).views = s.views := rfl
@[simp] theorem State.setFuture_allowance (s : State) (key : Nat) (f : Future) : (s.setFuture key f).allowance = s.allowance := rfl
@[simp] theorem State.setFuture_sideband (s : State) (key : Nat) (f : Future) : (s.setFuture key f).sideband = s.sideband := rfl
@[simp] theorem State.setFuture_dies (s : State) (key : Nat) (f : Future) : (s.setFuture key f).dies = s.dies := rfl
@[simp] theorem State.setFuture_links (s : State) (key : Nat) (f : Future) : (s.setFuture key f).links = s.links := rfl
@[simp] theorem State.setFuture_tileClock (s : State) (key : Nat) (f : Future) : (s.setFuture key f).tileClock = s.tileClock := rfl
@[simp] theorem State.setFuture_fwClock (s : State) (key : Nat) (f : Future) : (s.setFuture key f).fwClock = s.fwClock := rfl
@[simp] theorem State.setFuture_records (s : State) (key : Nat) (f : Future) : (s.setFuture key f).records = s.records := rfl
@[simp] theorem State.setFuture_duePosts (s : State) (key : Nat) (f : Future) : (s.setFuture key f).duePosts = s.duePosts := rfl
@[simp] theorem State.setFuture_wants (s : State) (key : Nat) (f : Future) : (s.setFuture key f).wants = s.wants := rfl
@[simp] theorem State.setFuture_stalled (s : State) (key : Nat) (f : Future) : (s.setFuture key f).stalled = s.stalled := rfl

@[simp] theorem State.setView_who (s : State) (w t : TileId) (v : View) : (s.setView w t v).who = s.who := rfl
@[simp] theorem State.setView_schedule (s : State) (w t : TileId) (v : View) : (s.setView w t v).schedule = s.schedule := rfl
@[simp] theorem State.setView_picks (s : State) (w t : TileId) (v : View) : (s.setView w t v).picks = s.picks := rfl
@[simp] theorem State.setView_fatal (s : State) (w t : TileId) (v : View) : (s.setView w t v).fatal = s.fatal := rfl
@[simp] theorem State.setView_dump (s : State) (w t : TileId) (v : View) : (s.setView w t v).dump = s.dump := rfl
@[simp] theorem State.setView_vts (s : State) (w t : TileId) (v : View) : (s.setView w t v).vts = s.vts := rfl
@[simp] theorem State.setView_gangs (s : State) (w t : TileId) (v : View) : (s.setView w t v).gangs = s.gangs := rfl
@[simp] theorem State.setView_launches (s : State) (w t : TileId) (v : View) : (s.setView w t v).launches = s.launches := rfl
@[simp] theorem State.setView_cores (s : State) (w t : TileId) (v : View) : (s.setView w t v).cores = s.cores := rfl
@[simp] theorem State.setView_clusters (s : State) (w t : TileId) (v : View) : (s.setView w t v).clusters = s.clusters := rfl
@[simp] theorem State.setView_mem (s : State) (w t : TileId) (v : View) : (s.setView w t v).mem = s.mem := rfl
@[simp] theorem State.setView_l2 (s : State) (w t : TileId) (v : View) : (s.setView w t v).l2 = s.l2 := rfl
@[simp] theorem State.setView_poison (s : State) (w t : TileId) (v : View) : (s.setView w t v).poison = s.poison := rfl
@[simp] theorem State.setView_slices (s : State) (w t : TileId) (v : View) : (s.setView w t v).slices = s.slices := rfl
@[simp] theorem State.setView_rejected (s : State) (w t : TileId) (v : View) : (s.setView w t v).rejected = s.rejected := rfl
@[simp] theorem State.setView_tables (s : State) (w t : TileId) (v : View) : (s.setView w t v).tables = s.tables := rfl
@[simp] theorem State.setView_tablePages (s : State) (w t : TileId) (v : View) : (s.setView w t v).tablePages = s.tablePages := rfl
@[simp] theorem State.setView_reserved (s : State) (w t : TileId) (v : View) : (s.setView w t v).reserved = s.reserved := rfl
@[simp] theorem State.setView_futures (s : State) (w t : TileId) (v : View) : (s.setView w t v).futures = s.futures := rfl
@[simp] theorem State.setView_commands (s : State) (w t : TileId) (v : View) : (s.setView w t v).commands = s.commands := rfl
@[simp] theorem State.setView_nextCmd (s : State) (w t : TileId) (v : View) : (s.setView w t v).nextCmd = s.nextCmd := rfl
@[simp] theorem State.setView_fifoWait (s : State) (w t : TileId) (v : View) : (s.setView w t v).fifoWait = s.fifoWait := rfl
@[simp] theorem State.setView_domains (s : State) (w t : TileId) (v : View) : (s.setView w t v).domains = s.domains := rfl
@[simp] theorem State.setView_mseq (s : State) (w t : TileId) (v : View) : (s.setView w t v).mseq = s.mseq := rfl
@[simp] theorem State.setView_cordons (s : State) (w t : TileId) (v : View) : (s.setView w t v).cordons = s.cordons := rfl
@[simp] theorem State.setView_queues (s : State) (w t : TileId) (v : View) : (s.setView w t v).queues = s.queues := rfl
@[simp] theorem State.setView_nextOrder (s : State) (w t : TileId) (v : View) : (s.setView w t v).nextOrder = s.nextOrder := rfl
@[simp] theorem State.setView_conns (s : State) (w t : TileId) (v : View) : (s.setView w t v).conns = s.conns := rfl
@[simp] theorem State.setView_outbox (s : State) (w t : TileId) (v : View) : (s.setView w t v).outbox = s.outbox := rfl
@[simp] theorem State.setView_heldMgmt (s : State) (w t : TileId) (v : View) : (s.setView w t v).heldMgmt = s.heldMgmt := rfl
@[simp] theorem State.setView_drops (s : State) (w t : TileId) (v : View) : (s.setView w t v).drops = s.drops := rfl
@[simp] theorem State.setView_ports (s : State) (w t : TileId) (v : View) : (s.setView w t v).ports = s.ports := rfl
@[simp] theorem State.setView_fw (s : State) (w t : TileId) (v : View) : (s.setView w t v).fw = s.fw := rfl
@[simp] theorem State.setView_tiles (s : State) (w t : TileId) (v : View) : (s.setView w t v).tiles = s.tiles := rfl
@[simp] theorem State.setView_allowance (s : State) (w t : TileId) (v : View) : (s.setView w t v).allowance = s.allowance := rfl
@[simp] theorem State.setView_sideband (s : State) (w t : TileId) (v : View) : (s.setView w t v).sideband = s.sideband := rfl
@[simp] theorem State.setView_dies (s : State) (w t : TileId) (v : View) : (s.setView w t v).dies = s.dies := rfl
@[simp] theorem State.setView_links (s : State) (w t : TileId) (v : View) : (s.setView w t v).links = s.links := rfl
@[simp] theorem State.setView_tileClock (s : State) (w t : TileId) (v : View) : (s.setView w t v).tileClock = s.tileClock := rfl
@[simp] theorem State.setView_fwClock (s : State) (w t : TileId) (v : View) : (s.setView w t v).fwClock = s.fwClock := rfl
@[simp] theorem State.setView_records (s : State) (w t : TileId) (v : View) : (s.setView w t v).records = s.records := rfl
@[simp] theorem State.setView_duePosts (s : State) (w t : TileId) (v : View) : (s.setView w t v).duePosts = s.duePosts := rfl
@[simp] theorem State.setView_wants (s : State) (w t : TileId) (v : View) : (s.setView w t v).wants = s.wants := rfl
@[simp] theorem State.setView_stalled (s : State) (w t : TileId) (v : View) : (s.setView w t v).stalled = s.stalled := rfl

@[simp] theorem State.setQueue_who (s : State) (d q : Nat) (v : Queue) : (s.setQueue d q v).who = s.who := rfl
@[simp] theorem State.setQueue_schedule (s : State) (d q : Nat) (v : Queue) : (s.setQueue d q v).schedule = s.schedule := rfl
@[simp] theorem State.setQueue_picks (s : State) (d q : Nat) (v : Queue) : (s.setQueue d q v).picks = s.picks := rfl
@[simp] theorem State.setQueue_fatal (s : State) (d q : Nat) (v : Queue) : (s.setQueue d q v).fatal = s.fatal := rfl
@[simp] theorem State.setQueue_dump (s : State) (d q : Nat) (v : Queue) : (s.setQueue d q v).dump = s.dump := rfl
@[simp] theorem State.setQueue_vts (s : State) (d q : Nat) (v : Queue) : (s.setQueue d q v).vts = s.vts := rfl
@[simp] theorem State.setQueue_gangs (s : State) (d q : Nat) (v : Queue) : (s.setQueue d q v).gangs = s.gangs := rfl
@[simp] theorem State.setQueue_launches (s : State) (d q : Nat) (v : Queue) : (s.setQueue d q v).launches = s.launches := rfl
@[simp] theorem State.setQueue_cores (s : State) (d q : Nat) (v : Queue) : (s.setQueue d q v).cores = s.cores := rfl
@[simp] theorem State.setQueue_clusters (s : State) (d q : Nat) (v : Queue) : (s.setQueue d q v).clusters = s.clusters := rfl
@[simp] theorem State.setQueue_mem (s : State) (d q : Nat) (v : Queue) : (s.setQueue d q v).mem = s.mem := rfl
@[simp] theorem State.setQueue_l2 (s : State) (d q : Nat) (v : Queue) : (s.setQueue d q v).l2 = s.l2 := rfl
@[simp] theorem State.setQueue_poison (s : State) (d q : Nat) (v : Queue) : (s.setQueue d q v).poison = s.poison := rfl
@[simp] theorem State.setQueue_slices (s : State) (d q : Nat) (v : Queue) : (s.setQueue d q v).slices = s.slices := rfl
@[simp] theorem State.setQueue_rejected (s : State) (d q : Nat) (v : Queue) : (s.setQueue d q v).rejected = s.rejected := rfl
@[simp] theorem State.setQueue_tables (s : State) (d q : Nat) (v : Queue) : (s.setQueue d q v).tables = s.tables := rfl
@[simp] theorem State.setQueue_tablePages (s : State) (d q : Nat) (v : Queue) : (s.setQueue d q v).tablePages = s.tablePages := rfl
@[simp] theorem State.setQueue_reserved (s : State) (d q : Nat) (v : Queue) : (s.setQueue d q v).reserved = s.reserved := rfl
@[simp] theorem State.setQueue_futures (s : State) (d q : Nat) (v : Queue) : (s.setQueue d q v).futures = s.futures := rfl
@[simp] theorem State.setQueue_commands (s : State) (d q : Nat) (v : Queue) : (s.setQueue d q v).commands = s.commands := rfl
@[simp] theorem State.setQueue_nextCmd (s : State) (d q : Nat) (v : Queue) : (s.setQueue d q v).nextCmd = s.nextCmd := rfl
@[simp] theorem State.setQueue_fifoWait (s : State) (d q : Nat) (v : Queue) : (s.setQueue d q v).fifoWait = s.fifoWait := rfl
@[simp] theorem State.setQueue_domains (s : State) (d q : Nat) (v : Queue) : (s.setQueue d q v).domains = s.domains := rfl
@[simp] theorem State.setQueue_mseq (s : State) (d q : Nat) (v : Queue) : (s.setQueue d q v).mseq = s.mseq := rfl
@[simp] theorem State.setQueue_cordons (s : State) (d q : Nat) (v : Queue) : (s.setQueue d q v).cordons = s.cordons := rfl
@[simp] theorem State.setQueue_nextOrder (s : State) (d q : Nat) (v : Queue) : (s.setQueue d q v).nextOrder = s.nextOrder := rfl
@[simp] theorem State.setQueue_conns (s : State) (d q : Nat) (v : Queue) : (s.setQueue d q v).conns = s.conns := rfl
@[simp] theorem State.setQueue_outbox (s : State) (d q : Nat) (v : Queue) : (s.setQueue d q v).outbox = s.outbox := rfl
@[simp] theorem State.setQueue_heldMgmt (s : State) (d q : Nat) (v : Queue) : (s.setQueue d q v).heldMgmt = s.heldMgmt := rfl
@[simp] theorem State.setQueue_drops (s : State) (d q : Nat) (v : Queue) : (s.setQueue d q v).drops = s.drops := rfl
@[simp] theorem State.setQueue_ports (s : State) (d q : Nat) (v : Queue) : (s.setQueue d q v).ports = s.ports := rfl
@[simp] theorem State.setQueue_fw (s : State) (d q : Nat) (v : Queue) : (s.setQueue d q v).fw = s.fw := rfl
@[simp] theorem State.setQueue_tiles (s : State) (d q : Nat) (v : Queue) : (s.setQueue d q v).tiles = s.tiles := rfl
@[simp] theorem State.setQueue_views (s : State) (d q : Nat) (v : Queue) : (s.setQueue d q v).views = s.views := rfl
@[simp] theorem State.setQueue_allowance (s : State) (d q : Nat) (v : Queue) : (s.setQueue d q v).allowance = s.allowance := rfl
@[simp] theorem State.setQueue_sideband (s : State) (d q : Nat) (v : Queue) : (s.setQueue d q v).sideband = s.sideband := rfl
@[simp] theorem State.setQueue_dies (s : State) (d q : Nat) (v : Queue) : (s.setQueue d q v).dies = s.dies := rfl
@[simp] theorem State.setQueue_links (s : State) (d q : Nat) (v : Queue) : (s.setQueue d q v).links = s.links := rfl
@[simp] theorem State.setQueue_tileClock (s : State) (d q : Nat) (v : Queue) : (s.setQueue d q v).tileClock = s.tileClock := rfl
@[simp] theorem State.setQueue_fwClock (s : State) (d q : Nat) (v : Queue) : (s.setQueue d q v).fwClock = s.fwClock := rfl
@[simp] theorem State.setQueue_records (s : State) (d q : Nat) (v : Queue) : (s.setQueue d q v).records = s.records := rfl
@[simp] theorem State.setQueue_duePosts (s : State) (d q : Nat) (v : Queue) : (s.setQueue d q v).duePosts = s.duePosts := rfl
@[simp] theorem State.setQueue_wants (s : State) (d q : Nat) (v : Queue) : (s.setQueue d q v).wants = s.wants := rfl
@[simp] theorem State.setQueue_stalled (s : State) (d q : Nat) (v : Queue) : (s.setQueue d q v).stalled = s.stalled := rfl

@[simp] theorem State.setKind_who (s : State) (k : Fin 3) (x : FwKind) : (s.setKind k x).who = s.who := rfl
@[simp] theorem State.setKind_schedule (s : State) (k : Fin 3) (x : FwKind) : (s.setKind k x).schedule = s.schedule := rfl
@[simp] theorem State.setKind_picks (s : State) (k : Fin 3) (x : FwKind) : (s.setKind k x).picks = s.picks := rfl
@[simp] theorem State.setKind_fatal (s : State) (k : Fin 3) (x : FwKind) : (s.setKind k x).fatal = s.fatal := rfl
@[simp] theorem State.setKind_dump (s : State) (k : Fin 3) (x : FwKind) : (s.setKind k x).dump = s.dump := rfl
@[simp] theorem State.setKind_vts (s : State) (k : Fin 3) (x : FwKind) : (s.setKind k x).vts = s.vts := rfl
@[simp] theorem State.setKind_gangs (s : State) (k : Fin 3) (x : FwKind) : (s.setKind k x).gangs = s.gangs := rfl
@[simp] theorem State.setKind_launches (s : State) (k : Fin 3) (x : FwKind) : (s.setKind k x).launches = s.launches := rfl
@[simp] theorem State.setKind_cores (s : State) (k : Fin 3) (x : FwKind) : (s.setKind k x).cores = s.cores := rfl
@[simp] theorem State.setKind_clusters (s : State) (k : Fin 3) (x : FwKind) : (s.setKind k x).clusters = s.clusters := rfl
@[simp] theorem State.setKind_mem (s : State) (k : Fin 3) (x : FwKind) : (s.setKind k x).mem = s.mem := rfl
@[simp] theorem State.setKind_l2 (s : State) (k : Fin 3) (x : FwKind) : (s.setKind k x).l2 = s.l2 := rfl
@[simp] theorem State.setKind_poison (s : State) (k : Fin 3) (x : FwKind) : (s.setKind k x).poison = s.poison := rfl
@[simp] theorem State.setKind_slices (s : State) (k : Fin 3) (x : FwKind) : (s.setKind k x).slices = s.slices := rfl
@[simp] theorem State.setKind_rejected (s : State) (k : Fin 3) (x : FwKind) : (s.setKind k x).rejected = s.rejected := rfl
@[simp] theorem State.setKind_tables (s : State) (k : Fin 3) (x : FwKind) : (s.setKind k x).tables = s.tables := rfl
@[simp] theorem State.setKind_tablePages (s : State) (k : Fin 3) (x : FwKind) : (s.setKind k x).tablePages = s.tablePages := rfl
@[simp] theorem State.setKind_reserved (s : State) (k : Fin 3) (x : FwKind) : (s.setKind k x).reserved = s.reserved := rfl
@[simp] theorem State.setKind_futures (s : State) (k : Fin 3) (x : FwKind) : (s.setKind k x).futures = s.futures := rfl
@[simp] theorem State.setKind_commands (s : State) (k : Fin 3) (x : FwKind) : (s.setKind k x).commands = s.commands := rfl
@[simp] theorem State.setKind_nextCmd (s : State) (k : Fin 3) (x : FwKind) : (s.setKind k x).nextCmd = s.nextCmd := rfl
@[simp] theorem State.setKind_fifoWait (s : State) (k : Fin 3) (x : FwKind) : (s.setKind k x).fifoWait = s.fifoWait := rfl
@[simp] theorem State.setKind_domains (s : State) (k : Fin 3) (x : FwKind) : (s.setKind k x).domains = s.domains := rfl
@[simp] theorem State.setKind_mseq (s : State) (k : Fin 3) (x : FwKind) : (s.setKind k x).mseq = s.mseq := rfl
@[simp] theorem State.setKind_cordons (s : State) (k : Fin 3) (x : FwKind) : (s.setKind k x).cordons = s.cordons := rfl
@[simp] theorem State.setKind_queues (s : State) (k : Fin 3) (x : FwKind) : (s.setKind k x).queues = s.queues := rfl
@[simp] theorem State.setKind_nextOrder (s : State) (k : Fin 3) (x : FwKind) : (s.setKind k x).nextOrder = s.nextOrder := rfl
@[simp] theorem State.setKind_conns (s : State) (k : Fin 3) (x : FwKind) : (s.setKind k x).conns = s.conns := rfl
@[simp] theorem State.setKind_outbox (s : State) (k : Fin 3) (x : FwKind) : (s.setKind k x).outbox = s.outbox := rfl
@[simp] theorem State.setKind_heldMgmt (s : State) (k : Fin 3) (x : FwKind) : (s.setKind k x).heldMgmt = s.heldMgmt := rfl
@[simp] theorem State.setKind_drops (s : State) (k : Fin 3) (x : FwKind) : (s.setKind k x).drops = s.drops := rfl
@[simp] theorem State.setKind_ports (s : State) (k : Fin 3) (x : FwKind) : (s.setKind k x).ports = s.ports := rfl
@[simp] theorem State.setKind_tiles (s : State) (k : Fin 3) (x : FwKind) : (s.setKind k x).tiles = s.tiles := rfl
@[simp] theorem State.setKind_views (s : State) (k : Fin 3) (x : FwKind) : (s.setKind k x).views = s.views := rfl
@[simp] theorem State.setKind_allowance (s : State) (k : Fin 3) (x : FwKind) : (s.setKind k x).allowance = s.allowance := rfl
@[simp] theorem State.setKind_sideband (s : State) (k : Fin 3) (x : FwKind) : (s.setKind k x).sideband = s.sideband := rfl
@[simp] theorem State.setKind_dies (s : State) (k : Fin 3) (x : FwKind) : (s.setKind k x).dies = s.dies := rfl
@[simp] theorem State.setKind_links (s : State) (k : Fin 3) (x : FwKind) : (s.setKind k x).links = s.links := rfl
@[simp] theorem State.setKind_tileClock (s : State) (k : Fin 3) (x : FwKind) : (s.setKind k x).tileClock = s.tileClock := rfl
@[simp] theorem State.setKind_fwClock (s : State) (k : Fin 3) (x : FwKind) : (s.setKind k x).fwClock = s.fwClock := rfl
@[simp] theorem State.setKind_records (s : State) (k : Fin 3) (x : FwKind) : (s.setKind k x).records = s.records := rfl
@[simp] theorem State.setKind_duePosts (s : State) (k : Fin 3) (x : FwKind) : (s.setKind k x).duePosts = s.duePosts := rfl
@[simp] theorem State.setKind_wants (s : State) (k : Fin 3) (x : FwKind) : (s.setKind k x).wants = s.wants := rfl
@[simp] theorem State.setKind_stalled (s : State) (k : Fin 3) (x : FwKind) : (s.setKind k x).stalled = s.stalled := rfl

@[simp] theorem State.setCommand_who (s : State) (c : Command) : (s.setCommand c).who = s.who := rfl
@[simp] theorem State.setCommand_schedule (s : State) (c : Command) : (s.setCommand c).schedule = s.schedule := rfl
@[simp] theorem State.setCommand_picks (s : State) (c : Command) : (s.setCommand c).picks = s.picks := rfl
@[simp] theorem State.setCommand_fatal (s : State) (c : Command) : (s.setCommand c).fatal = s.fatal := rfl
@[simp] theorem State.setCommand_dump (s : State) (c : Command) : (s.setCommand c).dump = s.dump := rfl
@[simp] theorem State.setCommand_vts (s : State) (c : Command) : (s.setCommand c).vts = s.vts := rfl
@[simp] theorem State.setCommand_gangs (s : State) (c : Command) : (s.setCommand c).gangs = s.gangs := rfl
@[simp] theorem State.setCommand_launches (s : State) (c : Command) : (s.setCommand c).launches = s.launches := rfl
@[simp] theorem State.setCommand_cores (s : State) (c : Command) : (s.setCommand c).cores = s.cores := rfl
@[simp] theorem State.setCommand_clusters (s : State) (c : Command) : (s.setCommand c).clusters = s.clusters := rfl
@[simp] theorem State.setCommand_mem (s : State) (c : Command) : (s.setCommand c).mem = s.mem := rfl
@[simp] theorem State.setCommand_l2 (s : State) (c : Command) : (s.setCommand c).l2 = s.l2 := rfl
@[simp] theorem State.setCommand_poison (s : State) (c : Command) : (s.setCommand c).poison = s.poison := rfl
@[simp] theorem State.setCommand_slices (s : State) (c : Command) : (s.setCommand c).slices = s.slices := rfl
@[simp] theorem State.setCommand_rejected (s : State) (c : Command) : (s.setCommand c).rejected = s.rejected := rfl
@[simp] theorem State.setCommand_tables (s : State) (c : Command) : (s.setCommand c).tables = s.tables := rfl
@[simp] theorem State.setCommand_tablePages (s : State) (c : Command) : (s.setCommand c).tablePages = s.tablePages := rfl
@[simp] theorem State.setCommand_reserved (s : State) (c : Command) : (s.setCommand c).reserved = s.reserved := rfl
@[simp] theorem State.setCommand_futures (s : State) (c : Command) : (s.setCommand c).futures = s.futures := rfl
@[simp] theorem State.setCommand_nextCmd (s : State) (c : Command) : (s.setCommand c).nextCmd = s.nextCmd := rfl
@[simp] theorem State.setCommand_fifoWait (s : State) (c : Command) : (s.setCommand c).fifoWait = s.fifoWait := rfl
@[simp] theorem State.setCommand_domains (s : State) (c : Command) : (s.setCommand c).domains = s.domains := rfl
@[simp] theorem State.setCommand_mseq (s : State) (c : Command) : (s.setCommand c).mseq = s.mseq := rfl
@[simp] theorem State.setCommand_cordons (s : State) (c : Command) : (s.setCommand c).cordons = s.cordons := rfl
@[simp] theorem State.setCommand_queues (s : State) (c : Command) : (s.setCommand c).queues = s.queues := rfl
@[simp] theorem State.setCommand_nextOrder (s : State) (c : Command) : (s.setCommand c).nextOrder = s.nextOrder := rfl
@[simp] theorem State.setCommand_conns (s : State) (c : Command) : (s.setCommand c).conns = s.conns := rfl
@[simp] theorem State.setCommand_outbox (s : State) (c : Command) : (s.setCommand c).outbox = s.outbox := rfl
@[simp] theorem State.setCommand_heldMgmt (s : State) (c : Command) : (s.setCommand c).heldMgmt = s.heldMgmt := rfl
@[simp] theorem State.setCommand_drops (s : State) (c : Command) : (s.setCommand c).drops = s.drops := rfl
@[simp] theorem State.setCommand_ports (s : State) (c : Command) : (s.setCommand c).ports = s.ports := rfl
@[simp] theorem State.setCommand_fw (s : State) (c : Command) : (s.setCommand c).fw = s.fw := rfl
@[simp] theorem State.setCommand_tiles (s : State) (c : Command) : (s.setCommand c).tiles = s.tiles := rfl
@[simp] theorem State.setCommand_views (s : State) (c : Command) : (s.setCommand c).views = s.views := rfl
@[simp] theorem State.setCommand_allowance (s : State) (c : Command) : (s.setCommand c).allowance = s.allowance := rfl
@[simp] theorem State.setCommand_sideband (s : State) (c : Command) : (s.setCommand c).sideband = s.sideband := rfl
@[simp] theorem State.setCommand_dies (s : State) (c : Command) : (s.setCommand c).dies = s.dies := rfl
@[simp] theorem State.setCommand_links (s : State) (c : Command) : (s.setCommand c).links = s.links := rfl
@[simp] theorem State.setCommand_tileClock (s : State) (c : Command) : (s.setCommand c).tileClock = s.tileClock := rfl
@[simp] theorem State.setCommand_fwClock (s : State) (c : Command) : (s.setCommand c).fwClock = s.fwClock := rfl
@[simp] theorem State.setCommand_records (s : State) (c : Command) : (s.setCommand c).records = s.records := rfl
@[simp] theorem State.setCommand_duePosts (s : State) (c : Command) : (s.setCommand c).duePosts = s.duePosts := rfl
@[simp] theorem State.setCommand_wants (s : State) (c : Command) : (s.setCommand c).wants = s.wants := rfl
@[simp] theorem State.setCommand_stalled (s : State) (c : Command) : (s.setCommand c).stalled = s.stalled := rfl

theorem State.vt?_setVt_self (s : State) (id : Nat) (v : VT) : (s.setVt id v).vt? id = some v := SMap.get?_set_self _ _ _
theorem State.vt?_setVt_ne (s : State) {id n : Nat} (v : VT) (h : n ≠ id) : (s.setVt id v).vt? n = s.vt? n :=
  SMap.get?_set_ne _ _ h
theorem State.setVt_setVt (s : State) (id : Nat) (v w : VT) : (s.setVt id v).setVt id w = s.setVt id w := by
  simp [State.setVt]
theorem State.core_setCore_self (s : State) (c : Nat) (v : Core) : (s.setCore c v).core c = v := SMap.getD_set_self _ _ _ _
theorem State.core_setCore_ne (s : State) {c n : Nat} (v : Core) (h : n ≠ c) : (s.setCore c v).core n = s.core n :=
  SMap.getD_set_ne _ _ _ h
theorem State.cluster_setCluster_self (s : State) (g : Nat) (v : Cluster) : (s.setCluster g v).cluster g = v :=
  SMap.getD_set_self _ _ _ _
theorem State.tile_setTile_self (s : State) (t : TileId) (v : Tile) : (s.setTile t v).tile t = v := SMap.getD_set_self _ _ _ _
theorem State.tile_setTile_ne (s : State) {t n : TileId} (v : Tile) (h : n ≠ t) : (s.setTile t v).tile n = s.tile n :=
  SMap.getD_set_ne _ _ _ h
theorem State.domain_setDomain_self (s : State) (d : Nat) (v : Domain) : (s.setDomain d v).domain d = v :=
  SMap.getD_set_self _ _ _ _
theorem State.domain_setDomain_ne (s : State) {d n : Nat} (v : Domain) (h : n ≠ d) : (s.setDomain d v).domain n = s.domain n :=
  SMap.getD_set_ne _ _ _ h
theorem State.conn?_setConn_self (s : State) (key : ConnKey) (c : Conn) : (s.setConn key c).conn? key = some c :=
  SMap.get?_set_self _ _ _
theorem State.view_setView_self (s : State) (w t : TileId) (v : View) : (s.setView w t v).view w t = v :=
  SMap.getD_set_self _ _ _ _
theorem State.queue?_setQueue_self (s : State) (d q : Nat) (v : Queue) : (s.setQueue d q v).queue? d q = some v :=
  SMap.get?_set_self _ _ _
theorem State.slot?_setSlot_self (s : State) (n : SlotRef) {q : Queue} {x : Slot} (y : Slot) (h : s.slot? n = some (q, x)) :
    (s.setSlot n y).slot? n = some ({ q with slots := q.slots.set n.slot y }, y) := by
  simp only [State.slot?, Option.map_eq_some_iff, Prod.mk.injEq] at h
  obtain ⟨a, ha, rfl, rfl⟩ := h
  simp [State.setSlot, State.slot?, ha, State.queue?_setQueue_self, SMap.getD]

/-- A VT that exists is what `modVt` makes of it. -/
theorem State.modVt_eq {s : State} {id : Nat} {v : VT} (h : s.vt? id = some v) (f : VT → VT) : s.modVt id f = s.setVt id (f v) := by
  simp [State.modVt, h]

/-! ### A VT -/

@[simp] theorem VT.retire_domain (v : VT) : v.retire.domain = v.domain := rfl
@[simp] theorem VT.retire_gang (v : VT) : v.retire.gang = v.gang := rfl
@[simp] theorem VT.retire_gangId (v : VT) : v.retire.gangId = v.gangId := rfl
@[simp] theorem VT.retire_rank (v : VT) : v.retire.rank = v.rank := rfl
@[simp] theorem VT.retire_launch (v : VT) : v.retire.launch = v.launch := rfl
@[simp] theorem VT.retire_launchNo (v : VT) : v.retire.launchNo = v.launchNo := rfl
@[simp] theorem VT.retire_launchIndex (v : VT) : v.retire.launchIndex = v.launchIndex := rfl
@[simp] theorem VT.retire_prio (v : VT) : v.retire.prio = v.prio := rfl
@[simp] theorem VT.retire_wsel (v : VT) : v.retire.wsel = v.wsel := rfl
@[simp] theorem VT.retire_codebase (v : VT) : v.retire.codebase = v.codebase := rfl
@[simp] theorem VT.retire_tcmwin (v : VT) : v.retire.tcmwin = v.tcmwin := rfl
@[simp] theorem VT.retire_interval (v : VT) : v.retire.interval = v.interval := rfl
@[simp] theorem VT.retire_persistent (v : VT) : v.retire.persistent = v.persistent := rfl
@[simp] theorem VT.retire_spillbase (v : VT) : v.retire.spillbase = v.spillbase := rfl
@[simp] theorem VT.retire_spillx (v : VT) : v.retire.spillx = v.spillx := rfl
@[simp] theorem VT.retire_spillv (v : VT) : v.retire.spillv = v.spillv := rfl
@[simp] theorem VT.retire_st (v : VT) : v.retire.st = v.st := rfl
@[simp] theorem VT.retire_resident (v : VT) : v.retire.resident = v.resident := rfl
@[simp] theorem VT.retire_reserved (v : VT) : v.retire.reserved = v.reserved := rfl
@[simp] theorem VT.retire_core (v : VT) : v.retire.core = v.core := rfl
@[simp] theorem VT.retire_slot (v : VT) : v.retire.slot = v.slot := rfl
@[simp] theorem VT.retire_span (v : VT) : v.retire.span = v.span := rfl
@[simp] theorem VT.retire_quad0 (v : VT) : v.retire.quad0 = v.quad0 := rfl
@[simp] theorem VT.retire_admitted (v : VT) : v.retire.admitted = v.admitted := rfl
@[simp] theorem VT.retire_rebind (v : VT) : v.retire.rebind = v.rebind := rfl
@[simp] theorem VT.retire_wantSpan (v : VT) : v.retire.wantSpan = v.wantSpan := rfl
@[simp] theorem VT.retire_mopSince (v : VT) : v.retire.mopSince = v.mopSince := rfl
@[simp] theorem VT.retire_claimWait (v : VT) : v.retire.claimWait = v.claimWait := rfl
@[simp] theorem VT.retire_skew (v : VT) : v.retire.skew = v.skew := rfl
@[simp] theorem VT.retire_lastIssue (v : VT) : v.retire.lastIssue = v.lastIssue := rfl
@[simp] theorem VT.retire_readyAt (v : VT) : v.retire.readyAt = v.readyAt := rfl
@[simp] theorem VT.retire_aged (v : VT) : v.retire.aged = v.aged := rfl
@[simp] theorem VT.retire_swappedInAt (v : VT) : v.retire.swappedInAt = v.swappedInAt := rfl
@[simp] theorem VT.retire_parkedAt (v : VT) : v.retire.parkedAt = v.parkedAt := rfl
@[simp] theorem VT.retire_x (v : VT) : v.retire.x = v.x := rfl
@[simp] theorem VT.retire_p (v : VT) : v.retire.p = v.p := rfl
@[simp] theorem VT.retire_d (v : VT) : v.retire.d = v.d := rfl
@[simp] theorem VT.retire_seg (v : VT) : v.retire.seg = v.seg := rfl
@[simp] theorem VT.retire_vl (v : VT) : v.retire.vl = v.vl := rfl
@[simp] theorem VT.retire_vcfg (v : VT) : v.retire.vcfg = v.vcfg := rfl
@[simp] theorem VT.retire_vmt (v : VT) : v.retire.vmt = v.vmt := rfl
@[simp] theorem VT.retire_em (v : VT) : v.retire.em = v.em := rfl
@[simp] theorem VT.retire_fflags (v : VT) : v.retire.fflags = v.fflags := rfl
@[simp] theorem VT.retire_vps (v : VT) : v.retire.vps = v.vps := rfl
@[simp] theorem VT.retire_drain (v : VT) : v.retire.drain = v.drain := rfl
@[simp] theorem VT.retire_waiting (v : VT) : v.retire.waiting = v.waiting := rfl
@[simp] theorem VT.retire_inflight (v : VT) : v.retire.inflight = v.inflight := rfl
@[simp] theorem VT.retire_strip (v : VT) : v.retire.strip = v.strip := rfl
@[simp] theorem VT.retire_claim (v : VT) : v.retire.claim = v.claim := rfl
@[simp] theorem VT.retire_mop (v : VT) : v.retire.mop = v.mop := rfl
@[simp] theorem VT.retire_faultrec (v : VT) : v.retire.faultrec = v.faultrec := rfl
@[simp] theorem VT.retire_preempts (v : VT) : v.retire.preempts = v.preempts := rfl
@[simp] theorem VT.retire_park (v : VT) : v.retire.park = v.park := rfl
@[simp] theorem VT.retire_detected (v : VT) : v.retire.detected = v.detected := rfl
@[simp] theorem VT.retire_violation (v : VT) : v.retire.violation = v.violation := rfl
@[simp] theorem VT.retire_stopping (v : VT) : v.retire.stopping = v.stopping := rfl
@[simp] theorem VT.retire_killed (v : VT) : v.retire.killed = v.killed := rfl
@[simp] theorem VT.retire_waitStatus (v : VT) : v.retire.waitStatus = v.waitStatus := rfl
@[simp] theorem VT.retire_tcm (v : VT) : v.retire.tcm = v.tcm := rfl
@[simp] theorem VT.retire_delays (v : VT) : v.retire.delays = v.delays := rfl
@[simp] theorem VT.retire_awaited (v : VT) : v.retire.awaited = v.awaited := rfl
@[simp] theorem VT.retire_ctx (v : VT) : v.retire.ctx = v.ctx := rfl
@[simp] theorem VT.retire_channels (v : VT) : v.retire.channels = v.channels := rfl
@[simp] theorem VT.retire_poison (v : VT) : v.retire.poison = v.poison := rfl
@[simp] theorem VT.retire_tcmPoison (v : VT) : v.retire.tcmPoison = v.tcmPoison := rfl

@[simp] theorem VT.jump_domain (v : VT) (a : Word64) : (v.jump a).domain = v.domain := rfl
@[simp] theorem VT.jump_gang (v : VT) (a : Word64) : (v.jump a).gang = v.gang := rfl
@[simp] theorem VT.jump_gangId (v : VT) (a : Word64) : (v.jump a).gangId = v.gangId := rfl
@[simp] theorem VT.jump_rank (v : VT) (a : Word64) : (v.jump a).rank = v.rank := rfl
@[simp] theorem VT.jump_launch (v : VT) (a : Word64) : (v.jump a).launch = v.launch := rfl
@[simp] theorem VT.jump_launchNo (v : VT) (a : Word64) : (v.jump a).launchNo = v.launchNo := rfl
@[simp] theorem VT.jump_launchIndex (v : VT) (a : Word64) : (v.jump a).launchIndex = v.launchIndex := rfl
@[simp] theorem VT.jump_prio (v : VT) (a : Word64) : (v.jump a).prio = v.prio := rfl
@[simp] theorem VT.jump_wsel (v : VT) (a : Word64) : (v.jump a).wsel = v.wsel := rfl
@[simp] theorem VT.jump_codebase (v : VT) (a : Word64) : (v.jump a).codebase = v.codebase := rfl
@[simp] theorem VT.jump_tcmwin (v : VT) (a : Word64) : (v.jump a).tcmwin = v.tcmwin := rfl
@[simp] theorem VT.jump_interval (v : VT) (a : Word64) : (v.jump a).interval = v.interval := rfl
@[simp] theorem VT.jump_persistent (v : VT) (a : Word64) : (v.jump a).persistent = v.persistent := rfl
@[simp] theorem VT.jump_spillbase (v : VT) (a : Word64) : (v.jump a).spillbase = v.spillbase := rfl
@[simp] theorem VT.jump_spillx (v : VT) (a : Word64) : (v.jump a).spillx = v.spillx := rfl
@[simp] theorem VT.jump_spillv (v : VT) (a : Word64) : (v.jump a).spillv = v.spillv := rfl
@[simp] theorem VT.jump_st (v : VT) (a : Word64) : (v.jump a).st = v.st := rfl
@[simp] theorem VT.jump_resident (v : VT) (a : Word64) : (v.jump a).resident = v.resident := rfl
@[simp] theorem VT.jump_reserved (v : VT) (a : Word64) : (v.jump a).reserved = v.reserved := rfl
@[simp] theorem VT.jump_core (v : VT) (a : Word64) : (v.jump a).core = v.core := rfl
@[simp] theorem VT.jump_slot (v : VT) (a : Word64) : (v.jump a).slot = v.slot := rfl
@[simp] theorem VT.jump_span (v : VT) (a : Word64) : (v.jump a).span = v.span := rfl
@[simp] theorem VT.jump_quad0 (v : VT) (a : Word64) : (v.jump a).quad0 = v.quad0 := rfl
@[simp] theorem VT.jump_admitted (v : VT) (a : Word64) : (v.jump a).admitted = v.admitted := rfl
@[simp] theorem VT.jump_rebind (v : VT) (a : Word64) : (v.jump a).rebind = v.rebind := rfl
@[simp] theorem VT.jump_wantSpan (v : VT) (a : Word64) : (v.jump a).wantSpan = v.wantSpan := rfl
@[simp] theorem VT.jump_mopSince (v : VT) (a : Word64) : (v.jump a).mopSince = v.mopSince := rfl
@[simp] theorem VT.jump_claimWait (v : VT) (a : Word64) : (v.jump a).claimWait = v.claimWait := rfl
@[simp] theorem VT.jump_skew (v : VT) (a : Word64) : (v.jump a).skew = v.skew := rfl
@[simp] theorem VT.jump_lastIssue (v : VT) (a : Word64) : (v.jump a).lastIssue = v.lastIssue := rfl
@[simp] theorem VT.jump_readyAt (v : VT) (a : Word64) : (v.jump a).readyAt = v.readyAt := rfl
@[simp] theorem VT.jump_aged (v : VT) (a : Word64) : (v.jump a).aged = v.aged := rfl
@[simp] theorem VT.jump_swappedInAt (v : VT) (a : Word64) : (v.jump a).swappedInAt = v.swappedInAt := rfl
@[simp] theorem VT.jump_parkedAt (v : VT) (a : Word64) : (v.jump a).parkedAt = v.parkedAt := rfl
@[simp] theorem VT.jump_x (v : VT) (a : Word64) : (v.jump a).x = v.x := rfl
@[simp] theorem VT.jump_p (v : VT) (a : Word64) : (v.jump a).p = v.p := rfl
@[simp] theorem VT.jump_d (v : VT) (a : Word64) : (v.jump a).d = v.d := rfl
@[simp] theorem VT.jump_seg (v : VT) (a : Word64) : (v.jump a).seg = v.seg := rfl
@[simp] theorem VT.jump_vl (v : VT) (a : Word64) : (v.jump a).vl = v.vl := rfl
@[simp] theorem VT.jump_vcfg (v : VT) (a : Word64) : (v.jump a).vcfg = v.vcfg := rfl
@[simp] theorem VT.jump_vmt (v : VT) (a : Word64) : (v.jump a).vmt = v.vmt := rfl
@[simp] theorem VT.jump_em (v : VT) (a : Word64) : (v.jump a).em = v.em := rfl
@[simp] theorem VT.jump_fflags (v : VT) (a : Word64) : (v.jump a).fflags = v.fflags := rfl
@[simp] theorem VT.jump_vps (v : VT) (a : Word64) : (v.jump a).vps = v.vps := rfl
@[simp] theorem VT.jump_drain (v : VT) (a : Word64) : (v.jump a).drain = v.drain := rfl
@[simp] theorem VT.jump_waiting (v : VT) (a : Word64) : (v.jump a).waiting = v.waiting := rfl
@[simp] theorem VT.jump_inflight (v : VT) (a : Word64) : (v.jump a).inflight = v.inflight := rfl
@[simp] theorem VT.jump_strip (v : VT) (a : Word64) : (v.jump a).strip = v.strip := rfl
@[simp] theorem VT.jump_claim (v : VT) (a : Word64) : (v.jump a).claim = v.claim := rfl
@[simp] theorem VT.jump_mop (v : VT) (a : Word64) : (v.jump a).mop = v.mop := rfl
@[simp] theorem VT.jump_faultrec (v : VT) (a : Word64) : (v.jump a).faultrec = v.faultrec := rfl
@[simp] theorem VT.jump_preempts (v : VT) (a : Word64) : (v.jump a).preempts = v.preempts := rfl
@[simp] theorem VT.jump_park (v : VT) (a : Word64) : (v.jump a).park = v.park := rfl
@[simp] theorem VT.jump_detected (v : VT) (a : Word64) : (v.jump a).detected = v.detected := rfl
@[simp] theorem VT.jump_violation (v : VT) (a : Word64) : (v.jump a).violation = v.violation := rfl
@[simp] theorem VT.jump_stopping (v : VT) (a : Word64) : (v.jump a).stopping = v.stopping := rfl
@[simp] theorem VT.jump_killed (v : VT) (a : Word64) : (v.jump a).killed = v.killed := rfl
@[simp] theorem VT.jump_waitStatus (v : VT) (a : Word64) : (v.jump a).waitStatus = v.waitStatus := rfl
@[simp] theorem VT.jump_tcm (v : VT) (a : Word64) : (v.jump a).tcm = v.tcm := rfl
@[simp] theorem VT.jump_delays (v : VT) (a : Word64) : (v.jump a).delays = v.delays := rfl
@[simp] theorem VT.jump_awaited (v : VT) (a : Word64) : (v.jump a).awaited = v.awaited := rfl
@[simp] theorem VT.jump_ctx (v : VT) (a : Word64) : (v.jump a).ctx = v.ctx := rfl
@[simp] theorem VT.jump_channels (v : VT) (a : Word64) : (v.jump a).channels = v.channels := rfl
@[simp] theorem VT.jump_poison (v : VT) (a : Word64) : (v.jump a).poison = v.poison := rfl
@[simp] theorem VT.jump_tcmPoison (v : VT) (a : Word64) : (v.jump a).tcmPoison = v.tcmPoison := rfl

@[simp] theorem VT.evict_domain (v : VT) : v.evict.domain = v.domain := rfl
@[simp] theorem VT.evict_gang (v : VT) : v.evict.gang = v.gang := rfl
@[simp] theorem VT.evict_gangId (v : VT) : v.evict.gangId = v.gangId := rfl
@[simp] theorem VT.evict_rank (v : VT) : v.evict.rank = v.rank := rfl
@[simp] theorem VT.evict_launch (v : VT) : v.evict.launch = v.launch := rfl
@[simp] theorem VT.evict_launchNo (v : VT) : v.evict.launchNo = v.launchNo := rfl
@[simp] theorem VT.evict_launchIndex (v : VT) : v.evict.launchIndex = v.launchIndex := rfl
@[simp] theorem VT.evict_prio (v : VT) : v.evict.prio = v.prio := rfl
@[simp] theorem VT.evict_wsel (v : VT) : v.evict.wsel = v.wsel := rfl
@[simp] theorem VT.evict_codebase (v : VT) : v.evict.codebase = v.codebase := rfl
@[simp] theorem VT.evict_tcmwin (v : VT) : v.evict.tcmwin = v.tcmwin := rfl
@[simp] theorem VT.evict_interval (v : VT) : v.evict.interval = v.interval := rfl
@[simp] theorem VT.evict_persistent (v : VT) : v.evict.persistent = v.persistent := rfl
@[simp] theorem VT.evict_spillbase (v : VT) : v.evict.spillbase = v.spillbase := rfl
@[simp] theorem VT.evict_spillx (v : VT) : v.evict.spillx = v.spillx := rfl
@[simp] theorem VT.evict_spillv (v : VT) : v.evict.spillv = v.spillv := rfl
@[simp] theorem VT.evict_st (v : VT) : v.evict.st = v.st := rfl
@[simp] theorem VT.evict_core (v : VT) : v.evict.core = v.core := rfl
@[simp] theorem VT.evict_slot (v : VT) : v.evict.slot = v.slot := rfl
@[simp] theorem VT.evict_span (v : VT) : v.evict.span = v.span := rfl
@[simp] theorem VT.evict_quad0 (v : VT) : v.evict.quad0 = v.quad0 := rfl
@[simp] theorem VT.evict_admitted (v : VT) : v.evict.admitted = v.admitted := rfl
@[simp] theorem VT.evict_rebind (v : VT) : v.evict.rebind = v.rebind := rfl
@[simp] theorem VT.evict_wantSpan (v : VT) : v.evict.wantSpan = v.wantSpan := rfl
@[simp] theorem VT.evict_skew (v : VT) : v.evict.skew = v.skew := rfl
@[simp] theorem VT.evict_lastIssue (v : VT) : v.evict.lastIssue = v.lastIssue := rfl
@[simp] theorem VT.evict_readyAt (v : VT) : v.evict.readyAt = v.readyAt := rfl
@[simp] theorem VT.evict_aged (v : VT) : v.evict.aged = v.aged := rfl
@[simp] theorem VT.evict_swappedInAt (v : VT) : v.evict.swappedInAt = v.swappedInAt := rfl
@[simp] theorem VT.evict_parkedAt (v : VT) : v.evict.parkedAt = v.parkedAt := rfl
@[simp] theorem VT.evict_pc (v : VT) : v.evict.pc = v.pc := rfl
@[simp] theorem VT.evict_x (v : VT) : v.evict.x = v.x := rfl
@[simp] theorem VT.evict_p (v : VT) : v.evict.p = v.p := rfl
@[simp] theorem VT.evict_d (v : VT) : v.evict.d = v.d := rfl
@[simp] theorem VT.evict_seg (v : VT) : v.evict.seg = v.seg := rfl
@[simp] theorem VT.evict_vl (v : VT) : v.evict.vl = v.vl := rfl
@[simp] theorem VT.evict_vcfg (v : VT) : v.evict.vcfg = v.vcfg := rfl
@[simp] theorem VT.evict_vmt (v : VT) : v.evict.vmt = v.vmt := rfl
@[simp] theorem VT.evict_em (v : VT) : v.evict.em = v.em := rfl
@[simp] theorem VT.evict_fflags (v : VT) : v.evict.fflags = v.fflags := rfl
@[simp] theorem VT.evict_vps (v : VT) : v.evict.vps = v.vps := rfl
@[simp] theorem VT.evict_drain (v : VT) : v.evict.drain = v.drain := rfl
@[simp] theorem VT.evict_waiting (v : VT) : v.evict.waiting = v.waiting := rfl
@[simp] theorem VT.evict_strip (v : VT) : v.evict.strip = v.strip := rfl
@[simp] theorem VT.evict_claim (v : VT) : v.evict.claim = v.claim := rfl
@[simp] theorem VT.evict_mop (v : VT) : v.evict.mop = v.mop := rfl
@[simp] theorem VT.evict_faultrec (v : VT) : v.evict.faultrec = v.faultrec := rfl
@[simp] theorem VT.evict_issued (v : VT) : v.evict.issued = v.issued := rfl
@[simp] theorem VT.evict_preempts (v : VT) : v.evict.preempts = v.preempts := rfl
@[simp] theorem VT.evict_park (v : VT) : v.evict.park = v.park := rfl
@[simp] theorem VT.evict_detected (v : VT) : v.evict.detected = v.detected := rfl
@[simp] theorem VT.evict_violation (v : VT) : v.evict.violation = v.violation := rfl
@[simp] theorem VT.evict_stopping (v : VT) : v.evict.stopping = v.stopping := rfl
@[simp] theorem VT.evict_killed (v : VT) : v.evict.killed = v.killed := rfl
@[simp] theorem VT.evict_waitStatus (v : VT) : v.evict.waitStatus = v.waitStatus := rfl
@[simp] theorem VT.evict_tcm (v : VT) : v.evict.tcm = v.tcm := rfl
@[simp] theorem VT.evict_delays (v : VT) : v.evict.delays = v.delays := rfl
@[simp] theorem VT.evict_ctx (v : VT) : v.evict.ctx = v.ctx := rfl
@[simp] theorem VT.evict_channels (v : VT) : v.evict.channels = v.channels := rfl
@[simp] theorem VT.evict_poison (v : VT) : v.evict.poison = v.poison := rfl
@[simp] theorem VT.evict_tcmPoison (v : VT) : v.evict.tcmPoison = v.tcmPoison := rfl

@[simp] theorem VT.writeX_domain (v : VT) (r : Reg) (w : Word64) : (v.writeX r w).domain = v.domain := by unfold VT.writeX; split <;> rfl
@[simp] theorem VT.writeX_gang (v : VT) (r : Reg) (w : Word64) : (v.writeX r w).gang = v.gang := by unfold VT.writeX; split <;> rfl
@[simp] theorem VT.writeX_gangId (v : VT) (r : Reg) (w : Word64) : (v.writeX r w).gangId = v.gangId := by unfold VT.writeX; split <;> rfl
@[simp] theorem VT.writeX_rank (v : VT) (r : Reg) (w : Word64) : (v.writeX r w).rank = v.rank := by unfold VT.writeX; split <;> rfl
@[simp] theorem VT.writeX_launch (v : VT) (r : Reg) (w : Word64) : (v.writeX r w).launch = v.launch := by unfold VT.writeX; split <;> rfl
@[simp] theorem VT.writeX_launchNo (v : VT) (r : Reg) (w : Word64) : (v.writeX r w).launchNo = v.launchNo := by unfold VT.writeX; split <;> rfl
@[simp] theorem VT.writeX_launchIndex (v : VT) (r : Reg) (w : Word64) : (v.writeX r w).launchIndex = v.launchIndex := by unfold VT.writeX; split <;> rfl
@[simp] theorem VT.writeX_prio (v : VT) (r : Reg) (w : Word64) : (v.writeX r w).prio = v.prio := by unfold VT.writeX; split <;> rfl
@[simp] theorem VT.writeX_wsel (v : VT) (r : Reg) (w : Word64) : (v.writeX r w).wsel = v.wsel := by unfold VT.writeX; split <;> rfl
@[simp] theorem VT.writeX_codebase (v : VT) (r : Reg) (w : Word64) : (v.writeX r w).codebase = v.codebase := by unfold VT.writeX; split <;> rfl
@[simp] theorem VT.writeX_tcmwin (v : VT) (r : Reg) (w : Word64) : (v.writeX r w).tcmwin = v.tcmwin := by unfold VT.writeX; split <;> rfl
@[simp] theorem VT.writeX_interval (v : VT) (r : Reg) (w : Word64) : (v.writeX r w).interval = v.interval := by unfold VT.writeX; split <;> rfl
@[simp] theorem VT.writeX_persistent (v : VT) (r : Reg) (w : Word64) : (v.writeX r w).persistent = v.persistent := by unfold VT.writeX; split <;> rfl
@[simp] theorem VT.writeX_spillbase (v : VT) (r : Reg) (w : Word64) : (v.writeX r w).spillbase = v.spillbase := by unfold VT.writeX; split <;> rfl
@[simp] theorem VT.writeX_spillx (v : VT) (r : Reg) (w : Word64) : (v.writeX r w).spillx = v.spillx := by unfold VT.writeX; split <;> rfl
@[simp] theorem VT.writeX_spillv (v : VT) (r : Reg) (w : Word64) : (v.writeX r w).spillv = v.spillv := by unfold VT.writeX; split <;> rfl
@[simp] theorem VT.writeX_st (v : VT) (r : Reg) (w : Word64) : (v.writeX r w).st = v.st := by unfold VT.writeX; split <;> rfl
@[simp] theorem VT.writeX_resident (v : VT) (r : Reg) (w : Word64) : (v.writeX r w).resident = v.resident := by unfold VT.writeX; split <;> rfl
@[simp] theorem VT.writeX_reserved (v : VT) (r : Reg) (w : Word64) : (v.writeX r w).reserved = v.reserved := by unfold VT.writeX; split <;> rfl
@[simp] theorem VT.writeX_core (v : VT) (r : Reg) (w : Word64) : (v.writeX r w).core = v.core := by unfold VT.writeX; split <;> rfl
@[simp] theorem VT.writeX_slot (v : VT) (r : Reg) (w : Word64) : (v.writeX r w).slot = v.slot := by unfold VT.writeX; split <;> rfl
@[simp] theorem VT.writeX_span (v : VT) (r : Reg) (w : Word64) : (v.writeX r w).span = v.span := by unfold VT.writeX; split <;> rfl
@[simp] theorem VT.writeX_quad0 (v : VT) (r : Reg) (w : Word64) : (v.writeX r w).quad0 = v.quad0 := by unfold VT.writeX; split <;> rfl
@[simp] theorem VT.writeX_admitted (v : VT) (r : Reg) (w : Word64) : (v.writeX r w).admitted = v.admitted := by unfold VT.writeX; split <;> rfl
@[simp] theorem VT.writeX_rebind (v : VT) (r : Reg) (w : Word64) : (v.writeX r w).rebind = v.rebind := by unfold VT.writeX; split <;> rfl
@[simp] theorem VT.writeX_wantSpan (v : VT) (r : Reg) (w : Word64) : (v.writeX r w).wantSpan = v.wantSpan := by unfold VT.writeX; split <;> rfl
@[simp] theorem VT.writeX_mopSince (v : VT) (r : Reg) (w : Word64) : (v.writeX r w).mopSince = v.mopSince := by unfold VT.writeX; split <;> rfl
@[simp] theorem VT.writeX_claimWait (v : VT) (r : Reg) (w : Word64) : (v.writeX r w).claimWait = v.claimWait := by unfold VT.writeX; split <;> rfl
@[simp] theorem VT.writeX_skew (v : VT) (r : Reg) (w : Word64) : (v.writeX r w).skew = v.skew := by unfold VT.writeX; split <;> rfl
@[simp] theorem VT.writeX_lastIssue (v : VT) (r : Reg) (w : Word64) : (v.writeX r w).lastIssue = v.lastIssue := by unfold VT.writeX; split <;> rfl
@[simp] theorem VT.writeX_readyAt (v : VT) (r : Reg) (w : Word64) : (v.writeX r w).readyAt = v.readyAt := by unfold VT.writeX; split <;> rfl
@[simp] theorem VT.writeX_aged (v : VT) (r : Reg) (w : Word64) : (v.writeX r w).aged = v.aged := by unfold VT.writeX; split <;> rfl
@[simp] theorem VT.writeX_swappedInAt (v : VT) (r : Reg) (w : Word64) : (v.writeX r w).swappedInAt = v.swappedInAt := by unfold VT.writeX; split <;> rfl
@[simp] theorem VT.writeX_parkedAt (v : VT) (r : Reg) (w : Word64) : (v.writeX r w).parkedAt = v.parkedAt := by unfold VT.writeX; split <;> rfl
@[simp] theorem VT.writeX_pc (v : VT) (r : Reg) (w : Word64) : (v.writeX r w).pc = v.pc := by unfold VT.writeX; split <;> rfl
@[simp] theorem VT.writeX_p (v : VT) (r : Reg) (w : Word64) : (v.writeX r w).p = v.p := by unfold VT.writeX; split <;> rfl
@[simp] theorem VT.writeX_d (v : VT) (r : Reg) (w : Word64) : (v.writeX r w).d = v.d := by unfold VT.writeX; split <;> rfl
@[simp] theorem VT.writeX_seg (v : VT) (r : Reg) (w : Word64) : (v.writeX r w).seg = v.seg := by unfold VT.writeX; split <;> rfl
@[simp] theorem VT.writeX_vl (v : VT) (r : Reg) (w : Word64) : (v.writeX r w).vl = v.vl := by unfold VT.writeX; split <;> rfl
@[simp] theorem VT.writeX_vcfg (v : VT) (r : Reg) (w : Word64) : (v.writeX r w).vcfg = v.vcfg := by unfold VT.writeX; split <;> rfl
@[simp] theorem VT.writeX_vmt (v : VT) (r : Reg) (w : Word64) : (v.writeX r w).vmt = v.vmt := by unfold VT.writeX; split <;> rfl
@[simp] theorem VT.writeX_em (v : VT) (r : Reg) (w : Word64) : (v.writeX r w).em = v.em := by unfold VT.writeX; split <;> rfl
@[simp] theorem VT.writeX_fflags (v : VT) (r : Reg) (w : Word64) : (v.writeX r w).fflags = v.fflags := by unfold VT.writeX; split <;> rfl
@[simp] theorem VT.writeX_vps (v : VT) (r : Reg) (w : Word64) : (v.writeX r w).vps = v.vps := by unfold VT.writeX; split <;> rfl
@[simp] theorem VT.writeX_drain (v : VT) (r : Reg) (w : Word64) : (v.writeX r w).drain = v.drain := by unfold VT.writeX; split <;> rfl
@[simp] theorem VT.writeX_waiting (v : VT) (r : Reg) (w : Word64) : (v.writeX r w).waiting = v.waiting := by unfold VT.writeX; split <;> rfl
@[simp] theorem VT.writeX_inflight (v : VT) (r : Reg) (w : Word64) : (v.writeX r w).inflight = v.inflight := by unfold VT.writeX; split <;> rfl
@[simp] theorem VT.writeX_strip (v : VT) (r : Reg) (w : Word64) : (v.writeX r w).strip = v.strip := by unfold VT.writeX; split <;> rfl
@[simp] theorem VT.writeX_claim (v : VT) (r : Reg) (w : Word64) : (v.writeX r w).claim = v.claim := by unfold VT.writeX; split <;> rfl
@[simp] theorem VT.writeX_mop (v : VT) (r : Reg) (w : Word64) : (v.writeX r w).mop = v.mop := by unfold VT.writeX; split <;> rfl
@[simp] theorem VT.writeX_faultrec (v : VT) (r : Reg) (w : Word64) : (v.writeX r w).faultrec = v.faultrec := by unfold VT.writeX; split <;> rfl
@[simp] theorem VT.writeX_issued (v : VT) (r : Reg) (w : Word64) : (v.writeX r w).issued = v.issued := by unfold VT.writeX; split <;> rfl
@[simp] theorem VT.writeX_preempts (v : VT) (r : Reg) (w : Word64) : (v.writeX r w).preempts = v.preempts := by unfold VT.writeX; split <;> rfl
@[simp] theorem VT.writeX_park (v : VT) (r : Reg) (w : Word64) : (v.writeX r w).park = v.park := by unfold VT.writeX; split <;> rfl
@[simp] theorem VT.writeX_detected (v : VT) (r : Reg) (w : Word64) : (v.writeX r w).detected = v.detected := by unfold VT.writeX; split <;> rfl
@[simp] theorem VT.writeX_violation (v : VT) (r : Reg) (w : Word64) : (v.writeX r w).violation = v.violation := by unfold VT.writeX; split <;> rfl
@[simp] theorem VT.writeX_stopping (v : VT) (r : Reg) (w : Word64) : (v.writeX r w).stopping = v.stopping := by unfold VT.writeX; split <;> rfl
@[simp] theorem VT.writeX_killed (v : VT) (r : Reg) (w : Word64) : (v.writeX r w).killed = v.killed := by unfold VT.writeX; split <;> rfl
@[simp] theorem VT.writeX_tcm (v : VT) (r : Reg) (w : Word64) : (v.writeX r w).tcm = v.tcm := by unfold VT.writeX; split <;> rfl
@[simp] theorem VT.writeX_delays (v : VT) (r : Reg) (w : Word64) : (v.writeX r w).delays = v.delays := by unfold VT.writeX; split <;> rfl
@[simp] theorem VT.writeX_awaited (v : VT) (r : Reg) (w : Word64) : (v.writeX r w).awaited = v.awaited := by unfold VT.writeX; split <;> rfl
@[simp] theorem VT.writeX_ctx (v : VT) (r : Reg) (w : Word64) : (v.writeX r w).ctx = v.ctx := by unfold VT.writeX; split <;> rfl
@[simp] theorem VT.writeX_channels (v : VT) (r : Reg) (w : Word64) : (v.writeX r w).channels = v.channels := by unfold VT.writeX; split <;> rfl
@[simp] theorem VT.writeX_poison (v : VT) (r : Reg) (w : Word64) : (v.writeX r w).poison = v.poison := by unfold VT.writeX; split <;> rfl
@[simp] theorem VT.writeX_tcmPoison (v : VT) (r : Reg) (w : Word64) : (v.writeX r w).tcmPoison = v.tcmPoison := by unfold VT.writeX; split <;> rfl

@[simp] theorem VT.writeP_domain (v : VT) (r : Fin 8) (b : Bool) : (v.writeP r b).domain = v.domain := by unfold VT.writeP; split <;> rfl
@[simp] theorem VT.writeP_gang (v : VT) (r : Fin 8) (b : Bool) : (v.writeP r b).gang = v.gang := by unfold VT.writeP; split <;> rfl
@[simp] theorem VT.writeP_gangId (v : VT) (r : Fin 8) (b : Bool) : (v.writeP r b).gangId = v.gangId := by unfold VT.writeP; split <;> rfl
@[simp] theorem VT.writeP_rank (v : VT) (r : Fin 8) (b : Bool) : (v.writeP r b).rank = v.rank := by unfold VT.writeP; split <;> rfl
@[simp] theorem VT.writeP_launch (v : VT) (r : Fin 8) (b : Bool) : (v.writeP r b).launch = v.launch := by unfold VT.writeP; split <;> rfl
@[simp] theorem VT.writeP_launchNo (v : VT) (r : Fin 8) (b : Bool) : (v.writeP r b).launchNo = v.launchNo := by unfold VT.writeP; split <;> rfl
@[simp] theorem VT.writeP_launchIndex (v : VT) (r : Fin 8) (b : Bool) : (v.writeP r b).launchIndex = v.launchIndex := by unfold VT.writeP; split <;> rfl
@[simp] theorem VT.writeP_prio (v : VT) (r : Fin 8) (b : Bool) : (v.writeP r b).prio = v.prio := by unfold VT.writeP; split <;> rfl
@[simp] theorem VT.writeP_wsel (v : VT) (r : Fin 8) (b : Bool) : (v.writeP r b).wsel = v.wsel := by unfold VT.writeP; split <;> rfl
@[simp] theorem VT.writeP_codebase (v : VT) (r : Fin 8) (b : Bool) : (v.writeP r b).codebase = v.codebase := by unfold VT.writeP; split <;> rfl
@[simp] theorem VT.writeP_tcmwin (v : VT) (r : Fin 8) (b : Bool) : (v.writeP r b).tcmwin = v.tcmwin := by unfold VT.writeP; split <;> rfl
@[simp] theorem VT.writeP_interval (v : VT) (r : Fin 8) (b : Bool) : (v.writeP r b).interval = v.interval := by unfold VT.writeP; split <;> rfl
@[simp] theorem VT.writeP_persistent (v : VT) (r : Fin 8) (b : Bool) : (v.writeP r b).persistent = v.persistent := by unfold VT.writeP; split <;> rfl
@[simp] theorem VT.writeP_spillbase (v : VT) (r : Fin 8) (b : Bool) : (v.writeP r b).spillbase = v.spillbase := by unfold VT.writeP; split <;> rfl
@[simp] theorem VT.writeP_spillx (v : VT) (r : Fin 8) (b : Bool) : (v.writeP r b).spillx = v.spillx := by unfold VT.writeP; split <;> rfl
@[simp] theorem VT.writeP_spillv (v : VT) (r : Fin 8) (b : Bool) : (v.writeP r b).spillv = v.spillv := by unfold VT.writeP; split <;> rfl
@[simp] theorem VT.writeP_st (v : VT) (r : Fin 8) (b : Bool) : (v.writeP r b).st = v.st := by unfold VT.writeP; split <;> rfl
@[simp] theorem VT.writeP_resident (v : VT) (r : Fin 8) (b : Bool) : (v.writeP r b).resident = v.resident := by unfold VT.writeP; split <;> rfl
@[simp] theorem VT.writeP_reserved (v : VT) (r : Fin 8) (b : Bool) : (v.writeP r b).reserved = v.reserved := by unfold VT.writeP; split <;> rfl
@[simp] theorem VT.writeP_core (v : VT) (r : Fin 8) (b : Bool) : (v.writeP r b).core = v.core := by unfold VT.writeP; split <;> rfl
@[simp] theorem VT.writeP_slot (v : VT) (r : Fin 8) (b : Bool) : (v.writeP r b).slot = v.slot := by unfold VT.writeP; split <;> rfl
@[simp] theorem VT.writeP_span (v : VT) (r : Fin 8) (b : Bool) : (v.writeP r b).span = v.span := by unfold VT.writeP; split <;> rfl
@[simp] theorem VT.writeP_quad0 (v : VT) (r : Fin 8) (b : Bool) : (v.writeP r b).quad0 = v.quad0 := by unfold VT.writeP; split <;> rfl
@[simp] theorem VT.writeP_admitted (v : VT) (r : Fin 8) (b : Bool) : (v.writeP r b).admitted = v.admitted := by unfold VT.writeP; split <;> rfl
@[simp] theorem VT.writeP_rebind (v : VT) (r : Fin 8) (b : Bool) : (v.writeP r b).rebind = v.rebind := by unfold VT.writeP; split <;> rfl
@[simp] theorem VT.writeP_wantSpan (v : VT) (r : Fin 8) (b : Bool) : (v.writeP r b).wantSpan = v.wantSpan := by unfold VT.writeP; split <;> rfl
@[simp] theorem VT.writeP_mopSince (v : VT) (r : Fin 8) (b : Bool) : (v.writeP r b).mopSince = v.mopSince := by unfold VT.writeP; split <;> rfl
@[simp] theorem VT.writeP_claimWait (v : VT) (r : Fin 8) (b : Bool) : (v.writeP r b).claimWait = v.claimWait := by unfold VT.writeP; split <;> rfl
@[simp] theorem VT.writeP_skew (v : VT) (r : Fin 8) (b : Bool) : (v.writeP r b).skew = v.skew := by unfold VT.writeP; split <;> rfl
@[simp] theorem VT.writeP_lastIssue (v : VT) (r : Fin 8) (b : Bool) : (v.writeP r b).lastIssue = v.lastIssue := by unfold VT.writeP; split <;> rfl
@[simp] theorem VT.writeP_readyAt (v : VT) (r : Fin 8) (b : Bool) : (v.writeP r b).readyAt = v.readyAt := by unfold VT.writeP; split <;> rfl
@[simp] theorem VT.writeP_aged (v : VT) (r : Fin 8) (b : Bool) : (v.writeP r b).aged = v.aged := by unfold VT.writeP; split <;> rfl
@[simp] theorem VT.writeP_swappedInAt (v : VT) (r : Fin 8) (b : Bool) : (v.writeP r b).swappedInAt = v.swappedInAt := by unfold VT.writeP; split <;> rfl
@[simp] theorem VT.writeP_parkedAt (v : VT) (r : Fin 8) (b : Bool) : (v.writeP r b).parkedAt = v.parkedAt := by unfold VT.writeP; split <;> rfl
@[simp] theorem VT.writeP_pc (v : VT) (r : Fin 8) (b : Bool) : (v.writeP r b).pc = v.pc := by unfold VT.writeP; split <;> rfl
@[simp] theorem VT.writeP_x (v : VT) (r : Fin 8) (b : Bool) : (v.writeP r b).x = v.x := by unfold VT.writeP; split <;> rfl
@[simp] theorem VT.writeP_d (v : VT) (r : Fin 8) (b : Bool) : (v.writeP r b).d = v.d := by unfold VT.writeP; split <;> rfl
@[simp] theorem VT.writeP_seg (v : VT) (r : Fin 8) (b : Bool) : (v.writeP r b).seg = v.seg := by unfold VT.writeP; split <;> rfl
@[simp] theorem VT.writeP_vl (v : VT) (r : Fin 8) (b : Bool) : (v.writeP r b).vl = v.vl := by unfold VT.writeP; split <;> rfl
@[simp] theorem VT.writeP_vcfg (v : VT) (r : Fin 8) (b : Bool) : (v.writeP r b).vcfg = v.vcfg := by unfold VT.writeP; split <;> rfl
@[simp] theorem VT.writeP_vmt (v : VT) (r : Fin 8) (b : Bool) : (v.writeP r b).vmt = v.vmt := by unfold VT.writeP; split <;> rfl
@[simp] theorem VT.writeP_em (v : VT) (r : Fin 8) (b : Bool) : (v.writeP r b).em = v.em := by unfold VT.writeP; split <;> rfl
@[simp] theorem VT.writeP_fflags (v : VT) (r : Fin 8) (b : Bool) : (v.writeP r b).fflags = v.fflags := by unfold VT.writeP; split <;> rfl
@[simp] theorem VT.writeP_vps (v : VT) (r : Fin 8) (b : Bool) : (v.writeP r b).vps = v.vps := by unfold VT.writeP; split <;> rfl
@[simp] theorem VT.writeP_drain (v : VT) (r : Fin 8) (b : Bool) : (v.writeP r b).drain = v.drain := by unfold VT.writeP; split <;> rfl
@[simp] theorem VT.writeP_waiting (v : VT) (r : Fin 8) (b : Bool) : (v.writeP r b).waiting = v.waiting := by unfold VT.writeP; split <;> rfl
@[simp] theorem VT.writeP_inflight (v : VT) (r : Fin 8) (b : Bool) : (v.writeP r b).inflight = v.inflight := by unfold VT.writeP; split <;> rfl
@[simp] theorem VT.writeP_strip (v : VT) (r : Fin 8) (b : Bool) : (v.writeP r b).strip = v.strip := by unfold VT.writeP; split <;> rfl
@[simp] theorem VT.writeP_claim (v : VT) (r : Fin 8) (b : Bool) : (v.writeP r b).claim = v.claim := by unfold VT.writeP; split <;> rfl
@[simp] theorem VT.writeP_mop (v : VT) (r : Fin 8) (b : Bool) : (v.writeP r b).mop = v.mop := by unfold VT.writeP; split <;> rfl
@[simp] theorem VT.writeP_faultrec (v : VT) (r : Fin 8) (b : Bool) : (v.writeP r b).faultrec = v.faultrec := by unfold VT.writeP; split <;> rfl
@[simp] theorem VT.writeP_issued (v : VT) (r : Fin 8) (b : Bool) : (v.writeP r b).issued = v.issued := by unfold VT.writeP; split <;> rfl
@[simp] theorem VT.writeP_preempts (v : VT) (r : Fin 8) (b : Bool) : (v.writeP r b).preempts = v.preempts := by unfold VT.writeP; split <;> rfl
@[simp] theorem VT.writeP_park (v : VT) (r : Fin 8) (b : Bool) : (v.writeP r b).park = v.park := by unfold VT.writeP; split <;> rfl
@[simp] theorem VT.writeP_detected (v : VT) (r : Fin 8) (b : Bool) : (v.writeP r b).detected = v.detected := by unfold VT.writeP; split <;> rfl
@[simp] theorem VT.writeP_violation (v : VT) (r : Fin 8) (b : Bool) : (v.writeP r b).violation = v.violation := by unfold VT.writeP; split <;> rfl
@[simp] theorem VT.writeP_stopping (v : VT) (r : Fin 8) (b : Bool) : (v.writeP r b).stopping = v.stopping := by unfold VT.writeP; split <;> rfl
@[simp] theorem VT.writeP_killed (v : VT) (r : Fin 8) (b : Bool) : (v.writeP r b).killed = v.killed := by unfold VT.writeP; split <;> rfl
@[simp] theorem VT.writeP_waitStatus (v : VT) (r : Fin 8) (b : Bool) : (v.writeP r b).waitStatus = v.waitStatus := by unfold VT.writeP; split <;> rfl
@[simp] theorem VT.writeP_tcm (v : VT) (r : Fin 8) (b : Bool) : (v.writeP r b).tcm = v.tcm := by unfold VT.writeP; split <;> rfl
@[simp] theorem VT.writeP_delays (v : VT) (r : Fin 8) (b : Bool) : (v.writeP r b).delays = v.delays := by unfold VT.writeP; split <;> rfl
@[simp] theorem VT.writeP_awaited (v : VT) (r : Fin 8) (b : Bool) : (v.writeP r b).awaited = v.awaited := by unfold VT.writeP; split <;> rfl
@[simp] theorem VT.writeP_ctx (v : VT) (r : Fin 8) (b : Bool) : (v.writeP r b).ctx = v.ctx := by unfold VT.writeP; split <;> rfl
@[simp] theorem VT.writeP_channels (v : VT) (r : Fin 8) (b : Bool) : (v.writeP r b).channels = v.channels := by unfold VT.writeP; split <;> rfl
@[simp] theorem VT.writeP_poison (v : VT) (r : Fin 8) (b : Bool) : (v.writeP r b).poison = v.poison := by unfold VT.writeP; split <;> rfl
@[simp] theorem VT.writeP_tcmPoison (v : VT) (r : Fin 8) (b : Bool) : (v.writeP r b).tcmPoison = v.tcmPoison := by unfold VT.writeP; split <;> rfl

theorem VT.retire_pc (v : VT) : v.retire.pc = v.pc + 4 := rfl
theorem VT.retire_issued (v : VT) : v.retire.issued = v.issued + 1 := rfl

end Sys2Proof.Machine
end

