-- ==== Sys2Proof/Tests/Slice0.lean ====
section
/-! SUPPORT. The model's own tests: words of the spec's examples decode as they stand there, ill-formed terms are refused,
for each statement a state and operands that meet its hypotheses, and worked examples of the spec. -/

set_option Elab.async false

namespace Sys2Proof.Tests

open Sys2Proof Sys2Proof.Machine

/-! ### Decoding: words of the spec's encoding examples -/

/-- No guard: p7, not negated. -/
def always : Guard := { p := 7, neg := false }
def guard (p : Fin 8) (neg : Bool) : Guard := { p, neg }

/-- "Encoding", first example, and "Example: a 29-bit constant". -/
theorem test_decode_integer :
    decode 0x09CA6FF0 = .ok (.addi (guard 3 true) 5 6 0xFF0) ∧ decode 0x238A1235 = .ok (.lui always 5 0x1235)
      ∧ decode 0x0B8A5ABC = .ok (.addi always 5 5 0xABC) ∧ decode 0x07BFF100 = .ok (.add always 31 31 2)
      ∧ decode 0x0FA107FF = .ok (.andi always 16 16 0x7FF) ∧ decode 0x1B821021 = .ok (.slli always 1 1 33) :=
  ⟨rfl, rfl, rfl, rfl, rfl, rfl⟩

theorem test_decode_scalar_memory :
    decode 0x53804090 = .ok (.std always 4 1 0x10) ∧ decode 0x43A8A018 = .ok (.ldd always 20 10 0x18)
      ∧ decode 0x7780B0C3 = .ok (.stl always 11 1 .dev) ∧ decode 0x7B800020 = .ok (.fenceSv always .core)
      ∧ decode 0x738AB092 = .ok (.amodAdd always 5 11 1 .rlx 2) ∧ decode 0x7380E09A = .ok (.amodAdd always 0 14 1 .rel 2)
      ∧ decode 0x6C989391 = .ok (.amowAdd (guard 1 false) 12 9 7 .rlx 1) :=
  ⟨rfl, rfl, rfl, rfl, rfl, rfl, rfl⟩

theorem test_decode_compares_and_jumps :
    decode 0x578A2191 = .ok (.cmp always 1 2 .lt 3 4 .nar) ∧ decode 0x579F1902 = .ok (.cmp always 3 7 .ne 18 0 .wid)
      ∧ decode 0x5B8F1680 = .ok (.cmpi always 1 7 .ne 13 0) ∧ decode 0x613FFFFD = .ok (.br (guard 2 false) 0x3FFFFD) :=
  ⟨rfl, rfl, rfl, rfl⟩

theorem test_decode_thread_control :
    decode 0x7F805403 = .ok (.csrw always 0 5 3) ∧ decode 0x7F9200C2 = .ok (.csrr always 9 0xC2)
      ∧ decode 0x83800011 = .ok (.trap always 17) ∧ decode 0x83847601 = .ok (.vtctlKill always 2 7)
      ∧ decode 0x83887600 = .ok (.vtctlResume always 4 7) :=
  ⟨rfl, rfl, rfl, rfl, rfl⟩

theorem test_decode_synchronisation :
    decode 0x87800003 = .ok (.bar always 3) ∧ decode 0x87800013 = .ok (.bara always 3)
      ∧ decode 0x87800023 = .ok (.barw always 3) ∧ decode 0x878441B8 = .ok (.mwait always 2 4 3 true .eq)
      ∧ decode 0x87800141 = .ok (.waitd always 2 1) ∧ decode 0x8B8E0000 = .ok (.fnew always 7)
      ∧ decode 0x8B844281 = .ok (.fput always 2 4 5) ∧ decode 0x8B8C7003 = .ok (.ftake always 6 7)
      ∧ decode 0x8B844184 = .ok (.ftry always 2 4 3) :=
  ⟨rfl, rfl, rfl, rfl, rfl, rfl, rfl, rfl, rfl⟩

theorem test_decode_engines :
    decode 0x8F808004 = .ok (.enq always 8 0 1) ∧ decode 0x8F988681 = .ok (.enqy always 12 8 13 0)
      ∧ decode 0x8F928511 = .ok (.enqy always 9 8 10 1) ∧ decode 0x93840004 = .ok (.deq always 2 0 1) :=
  ⟨rfl, rfl, rfl, rfl⟩

theorem test_decode_vector_control :
    decode 0x97846008 = .ok (.vbcast always 2 6) ∧ decode 0x97865000 = .ok (.setvl always 3 5 0)
      ∧ decode 0xA3BE4004 = .ok (.vld always 31 4 0 .u 0 true .normal)
      ∧ decode 0xA78346C8 = .ok (.vst always 1 20 13 .x 1 false .normal)
      ∧ decode 0x97800006 = .ok (.xseed always 0) ∧ decode 0x97800002 = .ok (.setmt always 0) :=
  ⟨rfl, rfl, rfl, rfl, rfl, rfl⟩

theorem test_decode_floating_point :
    decode 0xAF88110C = .ok (.fma always 4 1 2 3) ∧ decode 0xAB8A1102 = .ok (.fmul always 5 1 2)
      ∧ decode 0xAB8A5180 = .ok (.fadd always 5 5 3) ∧ decode 0xB3977084 = .ok (.fcmp always 2 7 .unord 1 1 .plain)
      ∧ decode 0xB3A33195 = .ok (.fcmp always 4 3 .le 3 5 .nar) ∧ decode 0xB7841003 = .ok (.cvt always 2 1 .fp32 .e4m3)
      ∧ decode 0xB7881027 = .ok (.cvts always 4 1 .fp32 .e2m1) :=
  ⟨rfl, rfl, rfl, rfl, rfl, rfl, rfl⟩

theorem test_decode_moves_and_wide :
    decode 0xBF864280 = .ok (.permb always 3 4 5) ∧ decode 0xC3820001 = .ok (.xrecv always 1)
      ∧ decode 0xC3802000 = .ok (.xsend always 2) ∧ decode 0xC7841045 = .ok (.vredAdd always 2 1 true)
      ∧ decode 0xC79AC504 = .ok (.vshfl always 13 12 10) ∧ decode 0xD08A3214 = .ok (.sel (guard 1 false) 3 4 5)
      ∧ decode 0xD2886580 = .ok (.mov (guard 5 false) 6 11) ∧ decode 0xD3863000 = .ok (.ltmask always 3) :=
  ⟨rfl, rfl, rfl, rfl, rfl, rfl, rfl, rfl⟩

theorem test_decode_vp_memory :
    decode 0xCB843602 = .ok (.ldv always 2 3 1 4 2) ∧ decode 0xCF843380 = .ok (.stv always 2 3 0 7 0)
      ∧ decode 0xD3800003 = .ok (.fetch always 3) ∧ decode 0xD3830000 = .ok (.fetchr always 16) :=
  ⟨rfl, rfl, rfl, rfl⟩

theorem test_decode_matrix :
    decode 0xD7850000 = .ok (.mxon always 5) ∧ decode 0xD7800001 = .ok (.mxoff always)
      ∧ decode 0xD7844002 = .ok (.mopO always 0 4 8) ∧ decode 0xD7A02705 = .ok (.mopsR always 1 0 4 28)
      ∧ decode 0xD7A00006 = .ok (.mopz always 1) ∧ decode 0xD79A0007 = .ok (.mova always 0 26 0)
      ∧ decode 0xD7810008 = .ok (.movta always 0 1 0) :=
  ⟨rfl, rfl, rfl, rfl, rfl, rfl, rfl⟩

/-- Headers of the spec's listings. -/
theorem test_decode_headers :
    decodeHeader 0xD8710240 = .ok { len := 3, wide := true, lqn := 1, sqn := 0, xqs := 1, xqr := 1 }
      ∧ decodeHeader 0xDA900240 = .ok { len := 20, wide := true, lqn := 0, sqn := 0, xqs := 1, xqr := 1 }
      ∧ decodeHeader 0xD8211000 = .ok { len := 1, wide := false, lqn := 1, sqn := 1, xqs := 0, xqr := 0 } :=
  ⟨rfl, rfl, rfl⟩

/-- Words that are no instruction: the padding word, a header, a reserved F of OP 0x2F, an unassigned CSR (R151). -/
theorem test_decode_refuses :
    decode 0x00000000 = .error .reservedOpcode ∧ decode 0xD8200000 = .error .header
      ∧ (decode 0xBF864286).isOk = false ∧ (decode 0x7F8000FF).isOk = false :=
  ⟨rfl, rfl, rfl, rfl⟩

/-! ### Ill-formed terms, one for each check of `wellFormed` -/

theorem test_wellFormed_refuses_formats :
    (Instr.cvt always 1 2 .fp32 .fp32).wellFormed = false ∧ (Instr.cvt always 1 2 .fp32 .e8m0).wellFormed = false
      ∧ (Instr.cvts always 1 2 .i8 .e4m3).wellFormed = false ∧ (Instr.cvts always 30 2 .fp32 .e4m3).wellFormed = false := by
  decide

theorem test_wellFormed_refuses_numbers :
    (Instr.csrr always 1 0x3FF).wellFormed = false ∧ (Instr.csrw always 1 2 5).wellFormed = false
      ∧ (Instr.csrs always 1 2 0x83).wellFormed = false ∧ (Instr.csrc always 1 2 0xC3).wellFormed = false
      ∧ (Instr.waitd always 9 0).wellFormed = false ∧ (Instr.setvl always 1 2 3).wellFormed = false
      ∧ (Instr.stv always 1 2 0 5 0).wellFormed = false := by decide

theorem test_wellFormed_refuses_engines :
    (Instr.enq always 29 0 0).wellFormed = false ∧ (Instr.enq always 0 0 0).wellFormed = false
      ∧ (Instr.enqy always 1 8 2 2).wellFormed = false ∧ (Instr.deq always 1 2 0).wellFormed = false
      ∧ (Instr.deqt always 1 7 0).wellFormed = false := by decide

theorem test_wellFormed_refuses_registers :
    (Instr.vbcast always 31 1).wellFormed = false ∧ (Instr.vextract always 1 2 31).wellFormed = false
      ∧ (Instr.vld always 31 1 0 .u 0 false .normal).wellFormed = false
      ∧ (Instr.vst always 3 1 0 .u 0 true .normal).wellFormed = false
      ∧ (Instr.vld always 3 1 2 .u 0 false .normal).wellFormed = false
      ∧ (Instr.vst always 3 1 31 .x 0 false .normal).wellFormed = false := by decide

theorem test_wellFormed_refuses_matrix :
    (Instr.mopO always 0 28 0).wellFormed = false ∧ (Instr.mopR always 0 0 28).wellFormed = false
      ∧ (Instr.mopsO always 0 0 0 30).wellFormed = false ∧ (Instr.mopsR always 0 28 0 0).wellFormed = false
      ∧ (Instr.mova always 0 31 0).wellFormed = false ∧ (Instr.movta always 0 31 0).wellFormed = false := by decide
/-! ### States for the witnesses: VT 0, of W = 16, on core 0, with a page of memory at address 0 -/

/-- x[k] holds 256 k. -/
def vt : VT := { fetchVt with x := Vector.ofFn fun i => BitVec.ofNat 64 (256 * i.val), tcmwin := 1 }

def base : State := { State.reset.withFetchWord 32 0x0B800000 with schedule := [] }

/-- The access succeeds, with an answer and a state that `p` accepts. -/
def okBy {α : Type} (a : Access α) (p : α → State → Bool) : Bool :=
  match a with
  | .ok x s => p x s
  | _ => false

theorem okBy_spec {α : Type} {a : Access α} {p : α → State → Bool} (h : okBy a p = true) :
    ∃ x s, a = .ok x s ∧ p x s = true := by
  cases a <;> simp_all [okBy]

/-- An entry of the in-flight table: a load of v1 at address 0, still to be performed. -/
def entry : InFlight :=
  { idx := 0, instr := .vld always 1 0 0 .u 0 false .normal, pc := 0, isStore := false, queueForm := false, v := 1, b := 0
    mode := .u, dc := 0, hint := .normal, space := 0, base := 0, stride := 0, it := 6, active := 1, start := 0, strip := 0
    done := false, held := [] }

/-- Its CT executes. -/
def ct (v : VT) : State := { base with who := .ct 0, vts := [(0, v)] }

/-- The VT with VP 0 at the first word of a block of one word. -/
def running (v : VT) (p : VP) : VT := { v with vps := v.vps.set 0 { p with run := some (fetchRun 0x0B800000) } }

/-- VP 0 executes. -/
def onVp (v : VT) : State := { base with who := .vp 0 0, vts := [(0, v)] }

theorem ct_runs (v : VT) (xs : List Reg) (ps : List (Fin 8)) (h : v.poison = []) (h' : v.waitStatus = []) :
    CtRuns (ct v) 0 v always xs ps :=
  ⟨rfl, rfl, by simp [VT.guardHolds, VT.readP, always], by simp [VT.awaitsStatus, h'],
    by simp [VT.ctPoisoned, VT.isPoisoned, h]⟩

theorem vp_runs (v : VT) (p : VP) (vs : List (Reg × Nat)) (ps : List (Fin 8)) (h : v.poison = []) (h' : v.inflight = []) :
    VpRuns (onVp (running v p)) 0 (running v p) 0 (fetchRun 0x0B800000) always vs ps :=
  ⟨rfl, rfl, by simp [VT.runOf, running, fetchRun], by simp [VT.interlocked, VT.pendingLoads, running, h'],
    by simp [VT.vpPoisoned, VT.regPoisoned, VT.predPoisoned, VT.queuePoisoned, VT.isPoisoned, running, h, always]⟩

theorem test_witness_ct : CtRuns (ct vt) 0 vt always [1, 2] [3] := ct_runs vt _ _ rfl rfl

theorem test_witness_vp : VpRuns (onVp (running vt {})) 0 (running vt {}) 0 (fetchRun 0x0B800000) always (wholeRegs [1, 31]) [6] :=
  vp_runs vt {} _ _ rfl rfl

/-! ### Witnesses: registers, guards, operands -/

theorem test_witness_hardWiredRegisters : (31 : Reg) ≠ 0 ∧ (1 : Reg) ≠ 31 ∧ (6 : Fin 8) ≠ 7 ∧ (0 : Fin 8) ≠ 6 := by decide +kernel

theorem test_witness_falseGuard :
    (Instr.mova (guard 6 false) 0 1 7).wellFormed = true ∧ encodeNat (.mova (guard 6 false) 0 1 7) = some 0xD70101C7
      ∧ (Instr.mova (guard 6 false) 0 1 7).context ≠ .vpOnly ∧ 7 < 128 / vt.w ∧ (ct vt).vt? 0 = some vt
      ∧ vt.guardHolds (guardField 0xD70101C7) = false ∧ vt.ctPoisoned (guardField 0xD70101C7) [] [] = false := by decide +kernel

theorem test_witness_vpOnly : (Instr.fadd always 1 2 3).context = .vpOnly ∧ (Instr.sel always 1 2 3).context = .vpOnly := by
  decide +kernel

/-- Registers, and the queue port with room and with an entry. -/
theorem test_witness_elementFrame :
    (({} : VP).writeFrame 16 16 8 (fun k => k == 7) 30 fun _ => 5).isSome = true
      ∧ (({ storeQ := List.replicate 7 ⟨0, 0⟩ } : VP).writeFrame 128 64 16 (fun _ => true) 31 fun _ => 5).isSome = true
      ∧ (({} : VP).writeFrame 4 8 4 (fun _ => false) 0 fun _ => 5).isSome = true := by decide +kernel

theorem test_witness_queuePort :
    (30 : Reg) ≠ 31 ∧ ({ loadQ := [.filled 5, .filled 6] } : VP).loadQ = .filled 5 :: [.filled 6]
      ∧ ({ loadQ := [.pending 0 5] } : VP).source 31 = none ∧ ({ storeQ := List.replicate 7 ⟨0, 0⟩ } : VP).storeQ.length < 8
      ∧ 8 ≤ ({ storeQ := List.replicate 8 ⟨0, 0⟩ } : VP).storeQ.length
      ∧ ∃ vp1 vp2, ({ loadQ := [.filled 5, .filled 6] } : VP).source 31 = some (5, vp1) ∧ vp1.source 31 = some (6, vp2) :=
  ⟨by decide, rfl, rfl, by decide, by decide, _, _, rfl, rfl⟩

/-- A VP has its sources: registers, or filled entries of the load queue. -/
theorem test_witness_sources :
    (∃ vp1 vp2, ({} : VP).source 0 = some (0, vp1) ∧ vp1.source 30 = some (0, vp2))
      ∧ ∃ vp1, ({ loadQ := [.filled 5] } : VP).source 31 = some (5, vp1) := ⟨⟨_, _, rfl, rfl⟩, _, rfl⟩

/-- An operation of a VP finds its operands and can write its result, or must wait. -/
theorem test_witness_vpInteger :
    (({} : VP).binary 16 32 4 (fun _ => true) 1 2 3 (· + ·)).isSome = true
      ∧ (({} : VP).binary 16 32 4 (fun _ => true) 1 31 3 (· + ·)).isSome = false
      ∧ (({} : VP).unary 16 32 4 (fun _ => true) 31 2 (fun x => x)).isSome = true
      ∧ (({} : VP).writeFrame 16 32 4 (fun _ => true) 1 fun _ => BitVec.ofInt 32 (-4096)).isSome = true := by decide +kernel

theorem test_witness_pgetx : (30 : Reg) ≠ 31 ∧ ({ storeQ := List.replicate 7 ⟨0, 0⟩ } : VP).storeQ.length < 8 := by decide +kernel

/-! ### Witnesses: scalar memory -/

/-- What `Passes` asks of an access by VT 0, after its translation. -/
def passes (s : State) (va n : Nat) (k : AccessKind) : Bool :=
  okBy (s.access 0 0 va k) fun t u =>
    (match s.gated 0 0 va n k .normal with
      | .ok g => g == s
      | .error _ => false)
      && !((linesOf t.loc n).any fun l => u.unreachable (l * 64)) && !(u.linkWaits (cachingOf t.leaf t.loc .normal) k t.loc n)
      && (match u.gate (.agent u.who) (u.slicesOf (cachingOf t.leaf t.loc .normal) k t.loc n) with
        | .ok g => g == u
        | .error _ => false)

/-- A store of 8 bytes that core 0 holds back. -/
def pended : PendStore := { loc := fetchLoc + 0x40, leaf := 0x8000001D, data := List.replicate 8 (7, true), shown := true }
def holding (v : VT) : State := (ct v).setCore 0 { (ct v).core 0 with pend := [pended] }

/-- A load, a store and an atomic of 8 bytes at the end of the page; the same of a VT whose stores are held back, with a store
elsewhere held already. -/
theorem test_witness_scalarAccess :
    (∀ k ∈ [AccessKind.load, .store, .atomic], passes (ct vt) 0xFF8 8 k = true)
      ∧ passes (ct { vt with delays := true }) 0xFF8 8 .store = true
      ∧ passes (holding { vt with delays := true }) 0xFF8 8 .store = true
      ∧ pended.meets (fetchLoc + 0xFF8) 8 = false ∧ ((holding vt).core 0).pend = [pended] ∧ ((ct vt).core 0).pend = []
      ∧ okBy ((ct vt).access 0 0 0xFF8 .store) (fun t _ => !(entryDevice t.leaf) && t.loc == fetchLoc + 0xFF8) = true := by
  decide +kernel

theorem test_witness_synced : (ct vt).synced ∧ ((ct vt).core 0).l1 = [] ∧ (onVp (running vt {})).synced := by
  unfold State.synced
  decide +kernel

/-- The address of a scalar load or store, of an atomic, an `lda`, an `mwait`; memory is in canonical form. -/
theorem test_witness_scalarAddress :
    (vt.readX 15 + (BitVec.ofNat 12 0xF8).signExtend 64).toNat = 0xFF8 ∧ 0xFF8 % 8 = 0
      ∧ (vt.readX 1 + (BitVec.ofNat 12 0xFFF).signExtend 64).toNat % 2 ≠ 0 ∧ (vt.readX 1).toNat % 8 = 0
      ∧ (ct vt).poison = [] ∧ (ct vt).wf = true := by decide +kernel

/-- Addresses that are not aligned, one for each instruction that checks. -/
theorem test_witness_misaligned :
    (∀ n ∈ [2, 4, 8], (vt.readX 1 + (BitVec.ofNat 12 1).signExtend 64).toNat % n ≠ 0)
      ∧ (vt.readX 1 + (BitVec.ofNat 12 2).signExtend 64).toNat % 4 ≠ 0
      ∧ (({ vt with x := vt.x.set 1 4 } : VT).readX 1).toNat % 8 ≠ 0
      ∧ (({ vt with x := vt.x.set 1 2 } : VT).readX 1).toNat % 4 ≠ 0
      ∧ (({ vt with x := vt.x.set 1 32 } : VT).readX 1).toNat % 64 ≠ 0
      ∧ bits64 (({ vt with x := vt.x.set 1 2 } : VT).readX 1) 0 2 ≠ 0 := by decide +kernel

/-- An atomic of VP 0 on its TCM window, with its guard 1 and 0, and its sources and destination. -/
theorem test_witness_vpAtomic :
    let v := running { vt with seg := vt.seg.set 1 0x8000000000000000 } {}
    let r : Run := { fetchRun 0 with cap := v.capture }
    8 ≤ v.w ∧ (v.vps[0].amoSources .cas 1 2 3).isSome = true ∧ (v.vps[0].amoSources .add 1 2 3).isSome = true
      ∧ v.bits 0 always 0 = true ∧ v.bits 0 (guard 7 true) 0 = false ∧ (v.vps[0].amoDest 16 8 true 1 5).isSome = true
      ∧ (v.vps[0].amoDest 16 8 false 31 0).isSome = true ∧ v.pendingLoads 0 = [] ∧ (r.segAddr 1 0 0).2 % 8 = 0
      ∧ r.segAddr 1 0 0 = (2, 0) := by decide +kernel

theorem test_witness_vpAtomicAnswers :
    okBy ((onVp (running vt {})).atomicSpace 0 (running vt {}) 2 0 8 fun o => some (o + 1)) (fun x _ => x == 0) = true
      ∧ passes (onVp (running vt {})) 0 8 .atomic = true ∧ passes (onVp (running vt {})) 0 8 .load = true
      ∧ passes (onVp (running vt {})) 0 16 .store = true ∧ passes (onVp (running vt {})) 0 16 .load = true := by decide +kernel

/-! ### Witnesses: control -/

theorem test_witness_control :
    vt.csrHeld 0x004 = false ∧ (vt.readX 1 + (BitVec.ofNat 12 4).signExtend 64).toNat % 4 = 0
      ∧ vt.accessesDone = true ∧ vt.matrixBusy = false ∧ vt.st ≠ .ended ∧ (vt.readX 1).toNat < 2 ^ 48 := by decide +kernel

/-- An unperformed store holds fences, `exit` and `fput`. -/
theorem test_witness_accessesNotDone :
    ({ vt with inflight := [entry] } : VT).accessesDone = false := by decide +kernel

/-- No slice turns the walk away: nothing of it needs an entry. -/
def gatedBy (s : State) (q : List Nat) : Bool :=
  match s.gate (.agent s.who) q with
  | .ok t => t == s
  | .error _ => false

theorem test_witness_icinv :
    okBy ((ct vt).translateAt 0 0 (vt.readX 1).toNat) (fun t _ => t.loc == fetchLoc + 0x100) = true
      ∧ gatedBy (ct vt) ((ct vt).missSlices 0 0 (vt.readX 1).toNat) = true := by decide +kernel

/-- `exit` without a spill list, and with one of x1 at address 0x800. -/
theorem test_witness_exit : ∀ v ∈ [vt, { vt with spillx := 2, spillbase := 0x800 }],
    let parts := if v.spillx = 0 ∧ v.spillv = 0 then [] else v.spillParts
    (match (ct v).gateSpill v parts with
      | .ok t => t == ct v
      | .error _ => false) = true
      ∧ (match (ct v).spill v parts with
        | .ok s => s.vt? 0 == some v && (s.core 0).pend == [] && s.byteAt (fetchLoc + 0x809) == if v.spillx = 2 then 1 else 0
        | .error _ => false) = true ∧ v.accessesDone = true ∧ v.matrixBusy = false := by decide +kernel

/-- A descriptor of 64 zero bytes, which is legal, and one whose WSEL is 6. -/
theorem test_witness_spawn :
    (spawnDesc (List.replicate 64 0)).isSome = true ∧ (spawnDesc ((List.replicate 64 0).set 16 6)).isSome = false
      ∧ (vt.readX 1).toNat % 64 = 0 ∧ ({ vt with inflight := [entry] } : VT).accessesDone = false
      ∧ (match (ct vt).gated 0 0 (vt.readX 1).toNat 64 .load .normal with
        | .ok t => t == ct vt
        | .error _ => false) = true
      ∧ okBy ((ct vt).gatedAccess 0 0 (vt.readX 1).toNat .load) (fun _ _ => true) = true
      ∧ okBy ((ct vt).loadGlobal 0 0 (vt.readX 1).toNat 64 .normal) (fun bs s => bs == List.replicate 64 0
          && s.vt? 0 == some vt && s.vts.length + 1 < 2 ^ 32) = true := by decide +kernel

/-- A second VT, of VTID 256, which x1 names; x0 names VT 0 itself. -/
def other : VT := { vt with st := .faulted, resident := false, gang := 1 }
def two (w : VT) : State := { ct vt with vts := [(0, vt), (256, w)], gangs := base.gangs.set 1 { fetchGang with id := 1, members := [256] } }

theorem test_witness_threadControl :
    (ct vt).vtTarget vt 1 = none ∧ (two other).vtTarget vt 1 = some (256, other) ∧ other.st = .faulted
      ∧ (let w : VT := { other with resident := true, st := .ready, vps := vt.vps.set 0 { run := some (fetchRun 0) } }
         (two w).vtTarget vt 1 = some (256, w) ∧ w.resident = true ∧ w.atPoint = false ∧ w.st ≠ .faulted
          ∧ w.st ≠ .parked)
      ∧ (∀ w ∈ [{ other with resident := true, st := .ready }, { other with st := .parked, park := some (.park 0 5, 0) }],
          (two w).vtTarget vt 1 = some (256, w) ∧ (w.resident = false ∨ w.atPoint = true) ∧ vt.park = none)
      ∧ (∀ r ∈ [true, false], let w : VT := { other with st := .parked, resident := r, park := some (.park 0 5, 0) }
         (two w).vtTarget vt 1 = some (256, w) ∧ w.park = some (.park 0 5, 0) ∧ w.resident = r ∧ w.detected = []
          ∧ w.violation = none)
      ∧ (two other).vtTarget vt 0 = some (0, vt) ∧ vt.resident = true ∧ vt.atPoint = true
      ∧ (let v : VT := { vt with mop := some ⟨0, false, false, 0, 0, 0, 1, 1, true, [0], [0], [], [], [], []⟩ }
         (ct v).vtTarget v 0 = some (0, v) ∧ v.accessesDone = true ∧ v.atPoint = false) := by decide +kernel

/-! ### Witnesses: synchronisation -/

/-- VT 0 of a gang of `n` members, whose barrier 0 is `b`. -/
def atBarrier (n : Nat) (b : Barrier) : State :=
  { ct vt with gangs := base.gangs.set 0 { fetchGang with
      size := n, mem := lowOnes 1024 n, members := List.range n, barriers := fetchGang.barriers.set 0 b } }

/-- The four places of an arrival or a wait: an arrival that does not complete the phase, a wait without an arrival, in the
phase of the arrival, and after it. -/
theorem test_witness_barrier :
    vt.rank < 1024 ∧ vt.accessesDone = true ∧ vt.park = none
      ∧ (∀ b ∈ [({} : Barrier), { pend := 1, arr := 1, count := 1 }, { pend := 1, phase := true }],
          ((atBarrier 2 b).gangs.get? vt.gang).any (fun g => g.hasBarriers && !g.barriers[0].poisoned) = true)
      ∧ (3 : BitVec 1024) &&& (0 ||| BitVec.twoPow 1024 0) ≠ 3 ∧ (0 : BitVec 1024).getLsbD 0 = false
      ∧ (1 : BitVec 1024).getLsbD 0 = true := by decide +kernel

/-- A gang of one: its arrival completes the phase; and a gang of two whose other member waits. -/
theorem test_witness_phaseCompletes :
    lowOnes 1024 1 &&& (0 ||| BitVec.twoPow 1024 0) = lowOnes 1024 1 ∧ lowOnes 1024 1 ≠ 0
      ∧ (3 : BitVec 1024) &&& (2 ||| BitVec.twoPow 1024 0) = 3 ∧ (2 : BitVec 1024).getLsbD 0 = false
      ∧ ({ vt with st := .parked, park := some (.barw 0, 8) } : VT).park = some (.barw 0, 8)
      ∧ ({ vt with st := .parked, park := some (.barw 0, 8) } : VT).violation = none := by decide +kernel

/-- The word of an `mwait` at address 0x100 is at hand; it holds 0. -/
theorem test_witness_mwait :
    (vt.readX 1).toNat % 8 = 0 ∧ (ct vt).poison = [] ∧ (ct vt).rejected = []
      ∧ okBy ((ct vt).homeAccess 0 0 (vt.readX 1).toNat 8) (fun t s => s.bytesAt t 8 == List.replicate 8 0) = true := by
  decide +kernel

/-- `waitd` below and above its counter. -/
theorem test_witness_waitd : vt.d[(0 : Fin 4)] ≤ 0 ∧ 0 < ({ vt with d := vt.d.set 0 1 } : VT).d[(0 : Fin 4)] := by decide +kernel

/-- x1 is the handle of entry 0 of die 0 under GEN 256, with entries of each kind. -/
def withFuture (f : Future) : State := { ct vt with futures := [(0, f)] }

theorem test_witness_futures :
    (vt.readX 1).toNat % 2 ^ 32 = 256
      ∧ (∀ f ∈ [({ st := .free, gen := 256 } : Future), { st := .full, gen := 256, domain := 1 }, { st := .full, gen := 2 }],
          (withFuture f).tableLost 0 = false
            ∧ (let e := (withFuture f).futures.getD 0 {}; e.st = .free ∨ e.domain ≠ vt.domain ∨ e.gen ≠ 256))
      ∧ (∀ f ∈ [({ st := .empty, gen := 256 } : Future), { st := .full, gen := 256, value := 5 }],
          (withFuture f).futureOf vt.domain 256 = .entry 0 f)
      ∧ (∀ f ∈ [({ st := .cordon, gen := 256 } : Future), { st := .full, gen := 256, lostOwner := true }],
          (withFuture f).futureOf vt.domain 256 = .entry 0 f)
      ∧ (match ({ ct vt with dies := base.dies.set 0 { base.die 0 with futuresLost := true } } : State).futureOf 0 256 with
        | .lost => true
        | _ => false) = true
      ∧ (withFuture {}).tableLost 0 = false ∧ (withFuture {}).rolesDie (dieOfCore vt.core) < 8
      ∧ ((withFuture {}).futures.getD (0 * 65536 + 1) {}).st = .free := by decide +kernel

theorem test_witness_waiters :
    (let s : State := { withFuture { st := .empty, gen := 256, waiters := [(0, false)] } with
        vts := [(0, { vt with st := .parked, park := some (.fut 0 256 false 5, 0) })] }
     s.wakeVoid 0 = false ∧ (s.vt? 0).any (fun v => v.park == some (.fut 0 256 false 5, 0) && v.violation == none) = true)
      ∧ (let s : State := { ct vt with vts := [(0, { vt with st := .ended })] }; s.wakeVoid 0 = true) := by decide +kernel

/-- x8 to x11 hold a FILL of 8 bytes at the start of the TCM window; x12 to x15 a PUT. -/
def asking : VT := { vt with x := ((((((((vt.x.set 8 0x0001000000000003).set 9 0x8000000000000000).set 10 0x55).set 11 8).set 12
  0x10).set 13 0x1000).set 14 0x2000).set 15 8) }

theorem test_witness_engines :
    (let ws : Vector Word64 4 := #v[asking.readX 8, asking.readX 9, asking.readX 10, asking.readX 11]
     cmdMalformed 0 ws = false ∧ (ct asking).cmdBounds asking ws = none)
      ∧ (let ws : Vector Word64 4 := #v[asking.readX 12, asking.readX 13, asking.readX 14, asking.readX 15]
         cmdMalformed 1 ws = false)
      ∧ asking.accessesDone = true ∧ (∀ e, e < 2 → (ct asking).fifoFull e ((ct asking).engineUnit asking e) = false)
      ∧ (ct asking).fifoWait = [] ∧ (ct asking).engineUnit asking 0 = 0
      ∧ ({ ct asking with fifoWait := [(0, 0, 256)] } : State).fifoWait.find? (fun w => w.1 == 0 && w.2.1 == 0) = some (0, 0, 256)
      ∧ asking.channels[(0 : Fin 8)].frozen = false ∧ asking.channels[(0 : Fin 8)].reserved < 16
      ∧ bits64 (asking.readX 1) 0 2 = 0
      ∧ (let v : VT := { vt with channels := vt.channels.set 0 { reserved := 1, records := [(5, [])] } }
         v.channels[(0 : Fin 8)].records = [(5, [])] ∧ v.channels[(0 : Fin 8)].frozen = false)
      ∧ vt.channels[(0 : Fin 8)].records = [] := by decide +kernel

/-! ### Witnesses: vector control -/

theorem test_witness_configuration :
    vcfgIll vt.vcfg = false ∧ vt.interval = 0 ∧ vt.admitted = false ∧ vt.matrixBusy = false
      ∧ (let set : VT := { (vt.writeX 2 4).retire with vl := 4, strip := vt.strip + 1 }
         let u := (ct vt).setVt 0 set
         (u.leastBound 0 (u.slotsOf 0 4)).isSome = true
          ∧ u.leastBound 0 ((u.slotsOf 0 4).filter fun j => !vt.admitted || u.admits 0 j 0 vt.interval) ≠ none
          ∧ u.leastBound 0 ((u.slotsOf 0 3).filter fun j => !vt.admitted || u.admits 0 j 0 vt.interval) = none)
      ∧ (let x : Word64 := 0x02
         x &&& 0x1C0 ≤ 0x080 ∧ 2 ^ ((x.toNat / 8 % 8) / 2) ≤ vt.w ∧ x.toNat % 8 = vt.wsel.val)
      ∧ (let x : Word64 := 0x33; ¬ (x.toNat % 8 = vt.wsel.val))
      ∧ vcfgIll ({ vt with vcfg := 0x8000000000000000 } : VT).vcfg = true := by decide +kernel

theorem test_witness_singleValues :
    vt.reconverged = true ∧ (running vt {}).reconverged = false ∧ maskIndices vt.active = 0 :: maskIndices 0xFFFFFFFE
      ∧ maskIndices ({ vt with vl := 0 } : VT).active = [] ∧ vt.vps[(0 : Fin 32)].inbound.length < 4
      ∧ ({ vt with drain := [7] } : VT).drain = [7] ∧ vt.sequenceWritten 0 = true ∧ vt.regPoisoned 0 1 0 (min vt.w 8) = false := by
  decide +kernel

theorem test_witness_broadcast :
    vt.waiting = [] ∧ vt.inflight = [] ∧ (∀ i : Fin 32, vt.vps[i].run = none ∧ vt.vps[i].thread = false)
      ∧ itBits (vcfgIt vt.vcfg) * (8 * vt.w / itBits (vcfgIt vt.vcfg)) = 8 * vt.w := by decide +kernel

/-- The blocks at 0x80 and 0x100, of one instruction: the second takes a load-queue entry that is not there. -/
def coded : State :=
  let m := Memory.writeBytes base.mem (fetchLoc + 0x80) (leBytes 8 0x0B800000D8200000)
  { ct vt with mem := Memory.writeBytes m (fetchLoc + 0x100) (leBytes 8 0x0B800000D8210000) }

theorem test_witness_blockIssue :
    (vt.pc + 4 * (BitVec.ofNat 22 1).signExtend 64).toNat % 128 ≠ 0
      ∧ (vt.pc + 4 * (BitVec.ofNat 22 32).signExtend 64) = 0x80
      ∧ okBy (coded.fetchLine 0 0 0x80 (headerSpan (vt.active != 0))) (fun l _ => (match decodeHeader (l.extractLsb' 0 32) with
          | .ok h => vt.blockCountsOk h.lqn h.sqn && !h.wide && (wordsCheck vt.w (vcfgIt vt.vcfg) h (blockWords h l).tail).isNone
          | _ => false)) = true
      ∧ okBy (coded.fetchLine 0 0 0x100 (headerSpan (vt.active != 0))) (fun l _ => (match decodeHeader (l.extractLsb' 0 32) with
          | .ok h => !(vt.blockCountsOk h.lqn h.sqn) && !h.wide
          | _ => false)) = true
      ∧ vt.active ≠ 0 ∧ vt.seqFull vt.active = false ∧ vt.captureFull = false := by decide +kernel

/-- A block at 0x80 waits for VP 0, and VP 0 in THREAD mode has named it. -/
theorem test_witness_blockStarts :
    (let op : WaitOp := { op := .block 0x80 0 vt.capture false 1 vt.lane, mask := 1, instr := .vf always 32 }
     let v : VT := { vt with waiting := [op] }
     v.running = true ∧ v.vps[(0 : Fin 32)].run = none ∧ v.seqHead 0 = some op)
      ∧ (let v : VT := { vt with killed := true, vps := vt.vps.set 0 { run := some { fetchRun 0 with addr := 0x80, pc := 0, wide := true } } }
         v.running = false ∧ v.wideBegun 0x80 0 = true)
      ∧ okBy (coded.fetchLaneLine 0 0 0 0x80 (fun _ => (0, 4))) (fun l s => (decodeHeader (l.extractLsb' 0 32)).isOk
          && okBy (coded.fetchLaneLine 0 0 0 0x80 blockSpan) (fun m t => m == l && t.vt? 0 == some vt && s.vt? 0 == some vt)) = true
      ∧ okBy (coded.fetchLaneLine 0 0 0 0x80 blockSpan) (fun l _ => (match decodeHeader (l.extractLsb' 0 32) with
          | .ok h => decide (h.len < 32) && h.lqn == 0 && h.sqn == 0 && !h.wide
              && (wordsCheck vt.w (vcfgIt vt.capture.vcfg) h (((List.range (h.len + 1)).map fun k =>
                l.extractLsb' (32 * k) 32).tail)).isNone
          | _ => false)) = true := by decide +kernel

theorem test_witness_successor :
    (running vt {}).bits 0 (guard 7 true) 0 = false ∧ (running vt {}).bits 0 always 0 = true
      ∧ inCodeReach vt.codebase ((fetchRun 0).addr + 128 * (BitVec.ofNat 17 1).signExtend 64) = true
      ∧ okBy ((onVp (running vt {})).gatedAccess 0 0 0x80 .fetch) (fun _ s => s.vt? 0 == some (running vt {})) = true
      ∧ (vt.codebase + (elem 32 (({ v := Vector.replicate 32 0x80 } : VP).v[(1 : Reg)]) 0).zeroExtend 64).toNat % 128 = 0 := by
  decide +kernel

theorem test_witness_vectorMemoryIssue :
    vt.loadQueueFull = false ∧ vt.queueRefuses false = false ∧ vt.queueRefuses true = true ∧ vt.inflight.length < 8 ∧ vt.seqFull vt.active = false
      ∧ vt.active ≠ 0 ∧ (∀ e ∈ vt.inflight, e.done = false) := by decide +kernel

/-- A load of one active VP, aligned and misaligned. -/
def loading (e : InFlight) : VT := { vt with inflight := [e], d := vt.d.set 0 1 }

theorem test_witness_vectorMemory :
    (loading entry).mayAttempt entry 0 = true ∧ (loading entry).faultedAt entry = none ∧ (loading entry).poison = []
      ∧ (ct (loading entry)).behindStrip (loading entry) entry 0 16 = false ∧ (ct (loading entry)).behindDevice (loading entry) entry 0 0 = false
      ∧ entry.prog[(0 : Fin 32)] = 0 ∧ (loading entry).inTurn entry 0 = true ∧ entry.ahead = [] ∧ (ct (loading entry)).elementSlices (loading entry) { entry with space := 2 } 0 = []
      ∧ (let s : State := { ct (loading entry) with l2 := [{ line := fetchLoc / 64, dirty := false, old := none, pinned := false, first := false }] }
         s.elementSlices (loading entry) entry 0 = [] ∧ s.entrySlices (loading entry) entry = [])
      ∧ entry.addr 16 vt.vps[(0 : Fin 32)] 0 0 % entry.elemBytes 16 = 0
      ∧ ({ entry with base := 8 } : InFlight).addr 16 vt.vps[(0 : Fin 32)] 0 0 % entry.elemBytes 16 ≠ 0
      ∧ okBy ((ct (loading entry)).loadSpace (loading entry) 0 (entry.addr 16 vt.vps[(0 : Fin 32)] 0 0) 16 .normal)
          (fun bs s => bs.length == 16 && s.vt? 0 == some (loading entry)) = true
      ∧ 1 ≤ (loading entry).d[(0 : Fin 4)] ∧ entry.held = [] ∧ entry.active = 1 := by decide +kernel

theorem test_witness_retry :
    let r : Rejected := { id := 3, slice := 0, count := 3, sentAt := 0, who := .vector 0 0 }
    let s : State := { ct vt with rejected := [r] }
    let t := s.elapse (.tile (clusterTile (clusterOfCore vt.core))) 32
    s.rejected.find? (fun r => r.id == 3 && !r.granted) = some r ∧ s.requesterTile r.who = clusterTile 0
      ∧ s.tileCycle (s.requesterTile r.who) < r.sentAt + 32 ∧ r.sentAt + 32 ≤ t.tileCycle (t.requesterTile r.who)
      ∧ (t.slice 0).used + t.heldAt 0 < 240 ∧ 256 ≤ ((t.setSlice 0 { used := 256 }).slice 0).used
      ∧ (∀ n ∈ [240, 255], let u := t.setSlice 0 { used := n, aged := [5] }
          (u.slice 0).used + u.heldAt 0 = n ∧ ((u.slice 0).aged ++ [3]).head? ≠ some 3)
      ∧ (∀ n ∈ [240, 255], ((t.setSlice 0 { used := n, aged := [3] }).slice 0).aged.head? = some 3)
      ∧ (loading entry).entry 0 = some entry ∧ ({ r with who := .agent (.ct 0) } : Rejected).who ≠ .vector 0 0 := by
  decide +kernel

theorem test_witness_wakes :
    let m : VT := { vt with st := .parked, park := some (.mwait 0 fetchLoc false false .ne 0 5 (some 9), 0) }
    let p : VT := { vt with st := .parked, park := some (.park 0 5, 0) }
    (ct m).vtCut m = false
      ∧ (ct { m with resident := false, ctx := some (0x100000000, 0x1000) }).vtCut { m with resident := false } = false
      ∧ (ct p).vtNow p = (ct p).coreCycle 0 ∧ 0 + 5 ≤ ((ct p).elapse (.core 0) 5).coreCycle 0 ∧ (ct p).coreCycle 0 < 0 + 5
      ∧ max vt.lastIssue vt.readyAt + 4096 ≤ ((ct vt).elapse (.core 0) 4096).coreCycle 0 := by decide +kernel

/-! ### Witnesses: floating point, moves, wide operations, memory of virtual processors -/

/-- A VP can write a result to a register and, with room, to the queue port. -/
theorem test_witness_results :
    (({} : VP).writeFrame 16 32 4 (fun k => k == 1) 3 fun _ => 7).isSome = true
      ∧ (({} : VP).writeFrame 16 32 4 (fun _ => true) 31 fun _ => 7).isSome = true
      ∧ (({} : VP).writeFrame 16 8 1 (fun _ => true) 4 fun _ => 7).isSome = true := by decide +kernel

theorem test_witness_representable :
    0x3F800000 < 2 ^ fp32Format.bits ∧ fp32Format.decode 0x3F800000 = .fin false (2 ^ 23) (-23)
      ∧ e2m1Format.decode 0xF = .fin true 3 1 := by decide +kernel

theorem test_witness_floatSpecial :
    (FValue.nan true).isNan = true ∧ (1 : Nat) ≠ 0 ∧ exactSum false 1 0 true 1 0 = (0, min 0 0) := by decide +kernel

/-- A block conversion writes its elements and then its scales; a NaN in a block leaves it without a scale. -/
theorem test_witness_blockConversion :
    ((({} : VP).writeFrame 16 8 4 (fun _ => true) 3 fun _ => 7).bind fun vp =>
        vp.writeFrame 16 8 1 (fun b => b == 0) 4 fun _ => 7).isSome = true
      ∧ blockScale .e4m3 [fmtValue .fp32 0x7FC00000] = none ∧ blockScale .e4m3 [fmtValue .fp32 0x3F800000] ≠ none := by
  decide +kernel

/-- Finite values of each clause of a conversion, to a wide format and to a narrow one: of the format, between two neighbours,
beyond the largest; and elements of each kind. -/
theorem test_witness_conversion :
    (∀ p ∈ [(Fmt.fp16, fp16Format, (-24 : Int)), (.e4m3, e4m3Format, -9)], fmtFloat p.1 = some p.2.1 ∧ p.2.2 ≤ p.2.1.minQuantum
        ∧ (let mag := p.2.1.magnitudeAt p.2.2
           1 + 1 ≤ p.2.1.maxEnc ∧ mag 1 = magnitudeAt p.2.2 (mag 1) p.2.2
            ∧ (let q := p.2.2 - 1
               p.2.1.magnitudeAt q 1 < magnitudeAt q 3 q ∧ magnitudeAt q 3 q < p.2.1.magnitudeAt q 2)
            ∧ mag p.2.1.maxEnc < magnitudeAt p.2.2 1 20))
      ∧ sourceValue .fp32 0x3F800000 = .fin false (2 ^ 23) (-23) ∧ sourceValue .fp32 0x7F800001 = .nan true
      ∧ sourceValue .fp32 0xFF800000 = .inf true ∧ sourceValue .i8 0x80 = .fin true 128 0
      ∧ (-23 : Int) ≤ -23 ∧ Fmt.fp32.isInt = false ∧ Fmt.i8.isInt = true ∧ Fmt.i32.isInt = true := by decide +kernel

theorem test_witness_crossVp :
    (5 : BitVec 32).getLsbD 2 = true ∧ (0 : Fin 32) < 2
      ∧ (∀ k : Fin 32, (0 : Fin 32) < k → k < 2 → (5 : BitVec 32).getLsbD k.val = false)
      ∧ (∀ k : Fin 32, (2 : Fin 32) < k → (5 : BitVec 32).getLsbD k.val = false)
      ∧ ({ inbound := [1, 2, 3] } : VP).inbound.length < 4 ∧ 4 ≤ ({ inbound := [1, 2, 3, 4] } : VP).inbound.length
      ∧ ({ inbound := [1] } : VP).inbound = [1] ∧ vt.queuePoisoned 0 .inbound 1 = false ∧ vt.drain.length < 4 := by decide +kernel

/-- A wide block on VPs 0 and 1, at which VP 1 has arrived or not; what each participant then writes. -/
theorem test_witness_wide :
    let r : Run := { fetchRun 0x0B800000 with parts := 3, wide := true }
    let v : VT := { vt with vps := (vt.vps.set 0 { run := some r }).set 1 { run := some r } }
    (allSome (v.wideRead r always [1, 2] [3]) (maskIndices r.parts)).isSome = true
      ∧ (allSome ((running vt {}).wideRead r always [1] []) (maskIndices r.parts)).isNone = true
      ∧ ((allSome (v.wideRead r always [1] []) (maskIndices r.parts)).map fun ins => ins.all fun w =>
          (w.vp.writeFrame v.w 32 4 (predBit (w.vp.guardOf always)) 3 fun _ => 7).isSome) = some true := by decide +kernel

theorem test_witness_reduction : ([1, 5, 2 ^ 32 - 1] : List Nat) ≠ [] ∧ ∀ x ∈ [1, 5, 2 ^ 32 - 1], x < 2 ^ 32 := by decide +kernel

theorem test_witness_windows :
    (ct vt).vt? 0 = some vt ∧ ((ct vt).gangs.get? vt.gang).any (fun x => x.cspPoison == [] && x.cspwin == 0) = true
      ∧ vt.tcmPoison = [] ∧ vt.tcmwin * 4096 = 4096 ∧ Memory.wf vt.tcm = true := by decide +kernel

/-- A sized `ldv` and `stv` of the TCM window, under a guard of 1 and of 0, and whole registers. -/
theorem test_witness_vpMemory :
    let v := running vt {}
    let s := onVp v
    v.bits 0 always 0 = true ∧ v.bits 0 (guard 7 true) 0 = false ∧ v.pendingLoads 0 = []
      ∧ okBy (s.loadSpace v 2 8 8 .normal) (fun bs _ => bs.length == 8) = true
      ∧ (v.vps[(0 : Fin 32)].writeWhole 16 true 3 5).isSome = true
      ∧ okBy (s.storeSpace 0 v 2 8 ((leBytes 8 5).map fun b => (b, true)) .normal) (fun _ _ => true) = true
      ∧ okBy (s.loadElems v 2 16 4 [0, 1, 2, 3] []).1 (fun m _ =>
          (v.vps[(0 : Fin 32)].writeLoaded (v.env (fetchRun 0) 0) always 3 m).isSome) = true
      ∧ okBy (s.storeElems 0 v 2 16 4 5 [0, 1, 2, 3]).2.1 (fun _ _ => true) = true := by decide +kernel

/-! ### Witnesses: matrix engine and engines -/

def aClaim : Claim := { mcfg := 0, mstat := 1, acc0 := Vector.replicate 1024 0, acc1 := Vector.replicate 1024 0 }
def aMop : Mop :=
  { acc := 0, scaled := false, reassoc := false, va := 1, vb := 2, vs := 3, t := 0, nb := 1, running := true
    aOps := List.replicate 32 0, bOps := List.replicate 32 0, aScales := [], bScales := [], pool := [], clears := [] }

theorem test_witness_matrix :
    let v : VT := { vt with claim := some aClaim }
    vt.matrixBusy = false ∧ v.matrixBusy = false ∧ matrixSupported 0 = true ∧ matrixSupported 0x1F = false
      ∧ (ct vt).claimsOn vt.core < 64 ∧ v.mop = none ∧ v.reconverged = true
      ∧ v.sequencesWritten (max aClaim.rows aClaim.cols) = true ∧ v.memoryAhead aClaim.rows = false ∧ (7 : Nat) < 128 / v.w
      ∧ 64 ≤ ({ ct vt with vts := (List.range 65).map fun k => (k, if k = 0 then vt else v) } : State).claimsOn vt.core := by
  decide +kernel

/-- The engines of a slot are free for a `mop`, or run one of another VT; a `mop` with a block to come and one without. -/
theorem test_witness_engineTurns :
    let v : VT := { vt with claim := some aClaim }
    let w : VT := { v with mop := some aMop }
    (ct v).enginesFree 0 v = true ∧ (ct v).enginesFree 0 { v with mop := some { aMop with running := false, nb := 2 } } = true
      ∧ ({ ct v with vts := [(0, v), (256, w)] } : State).enginesFree 0 v = false ∧ w.matrixBusy = true
      ∧ ({ aMop with nb := 2 } : Mop).t + 1 < ({ aMop with nb := 2 } : Mop).nb := by decide +kernel

theorem test_witness_matrixBlocks :
    ({ aClaim with mcfg := 0x00000 } : Claim).blocks 16 = 1 ∧ ({ aClaim with mcfg := 0x80000 } : Claim).mcfg.getLsbD 19 = true
      ∧ aMop.nb ≤ aMop.t + 1 ∧ aMop.running = true ∧ aMop.reassoc = false ∧ aMop.pool = [] ∧ aMop.clears = []
      ∧ (let m : Mop := { aMop with nb := 2, t := 1, reassoc := true, pool := [(0, [5, 7])] }
         m.nb ≤ m.t + 1 ∧ (m.pool.map Prod.fst).Nodup ∧ (∀ e ∈ m.pool, e.1 < 1024 ∧ e.2 ≠ [])
          ∧ aClaim.mcfg.getLsbD 8 = false) := by decide +kernel

/-- A command of VT 0 with the words `ws`. -/
def command (eng : Fin 2) (ws : Vector Word64 4) : Command :=
  { id := 0, domain := 0, vt := 0, eng, unit := 0, chan := 0, dest := .channel 0, words := ws }
def commanding (c : Command) (v : VT) : State := { ct v with commands := [c], nextCmd := 1 }

/-- COPY1D of 8 bytes and COPY2D of two rows from the CSP window, and FILL of a row, into the TCM window. -/
theorem test_witness_copies :
    (∀ p ∈ [((#v[1, 0x8000000000000000, 0x4000000000000010, 8] : Vector Word64 4), 1, 1, 8),
            (#v[0x402, 0x8000000000000000, 0x4000000000000010, 0x0000040002000004], 2, 2, 4)],
        cmdMalformed 0 p.1 = false ∧ addrSpace p.1[1] = 2 ∧ addrSpace p.1[2] = 1 ∧ cmdKind p.1 = p.2.1
          ∧ (cmdRows p.1).1 = p.2.2.1 ∧ ((cmdRows p.1).1 = 1 ∨ ((cmdRows p.1).2.1 : Int) ≤ (cmdRows p.1).2.2.1))
      ∧ (let ws : Vector Word64 4 := #v[3, 0x8000000000000000, 0x55, 8]
         cmdMalformed 0 ws = false ∧ addrSpace ws[1] = 2 ∧ cmdKind ws = 3)
      ∧ (let c := command 0 #v[3, 0x8000000000000000, 0x55, 8]
         (commanding c vt).command? 0 = some c ∧ (commanding c vt).mayRun c = true ∧ (commanding c vt).rejected = [])
      ∧ (commanding (command 1 #v[0x10, 0x1000, 0x20, 8]) vt).mayRun (command 1 #v[0x10, 0x1000, 0x20, 8]) = true
      ∧ (let s := commanding (command 1 #v[0x10, 0x1000, 0x20, 8]) vt
         (s.linkSlices (command 1 #v[0x10, 0x1000, 0x20, 8])).all (fun q => !(s.sliceFull q false)) = true) := by decide +kernel

theorem test_witness_records :
    let c : Command := { command 0 #v[3, 0x8000000000000000, 0x55, 8] with phase := .ended 0 8 }
    let d : VT := { vt with st := .parked, park := some (.deq 0 5, 0) }
    (commanding c vt).command? 0 = some c ∧ c.orphan = false ∧ c.dest = .channel 0 ∧ vt.park = none ∧ vt.killed = false
      ∧ d.park = some (.deq 0 5, 0) ∧ d.channels[(0 : Fin 8)].frozen = false
      ∧ ({ c with dest := .enqy } : Command).dest = .enqy ∧ ({ c with orphan := true } : Command).orphan = true := by
  decide +kernel

/-- A PUT, a PUTADD, a GET and a SIGNAL to peer connection 0, which is open, is not, or is another domain's. -/
def linked (c : Conn) : State := { commanding (command 1 #v[0x10, 0x1000, 0x20, 8]) vt with conns := [(0x10000, c)] }

theorem test_witness_link :
    (∀ p ∈ [((0x10 : Word64), 0x10), (0x11, 0x11), (0x12, 0x12), (0x13, 0x13)],
        let ws : Vector Word64 4 := #v[p.1, 0x1000, 0x20, if p.1 = 0x13 then 0 else 8]
        cmdKind ws = p.2 ∧ cmdPeer ws = 0 ∧ cmdMalformed 1 ws = false ∧ cmdLen ws ≤ 8192)
      ∧ (linked {}).conn? 0x10000 = some {} ∧ (ct vt).conn? 0x10000 = none ∧ ({ domain := 1 } : Conn).domain ≠ 0
      ∧ (let k := command 1 #v[0x10, 0x1000, 0x20, 8]
         (((linked {}).setCommand { k with phase := .running }).copyReads k.window k.domain 0 0x20 8).2.1 = none) := by
  decide +kernel

/-! ### Witnesses: queues, placement, faults -/

/-- A queue of 16 slots whose ring is at 0x100, with its bitmap at 0xC00 and its doorbell at 0xD00. -/
def aQueue : Queue := { ring := 0x100, log2n := 4, prio := 0, bitmap := 0xC00, doorbell := 0xD00 }
def slotOf : SlotRef := { domain := 0, queue := 1, slot := 0 }

/-- Every instance of firmware runs. -/
def served (s : State) : State := { s with fw := { s.fw with
  mgmtUp := true, kinds := s.fw.kinds.map fun k => { k with insts := k.insts.map fun i => { i with running := true } } } }
def queued (q : Queue) : State := served { ct vt with queues := [(1, q)] }

/-- A node of an action, with its fields in place: action at byte 0, operands from byte 0x28 on. -/
def nodeBody (action : Nat) (at28 at30 at38 : Nat) : List Byte :=
  leBytes 1 action ++ List.replicate 0x27 0 ++ leBytes 8 at28 ++ leBytes 8 at30 ++ leBytes 8 at38 ++ List.replicate 64 0

def held (x : Slot) : Queue := { aQueue with slots := [(0, x)] }

theorem test_witness_scan :
    (queued aQueue).queue? 0 1 = some aQueue ∧ aQueue.st = .active ∧ (queued aQueue).schedPaused 0 = false
      ∧ (match (queued aQueue).schedRead 0 .atomic 0xD00 8 with
          | (.ok b, s) => b.length == 8 && (match s.schedRead 0 .atomic 0xC00 2 with
              | (.ok bm, t) => (List.range 16).all (fun j => !((bm[j / 8]?).getD 0).getLsbD (j % 8))
                  && (t.queue? 0 1 == some aQueue)
              | _ => false)
          | _ => false) = true
      ∧ (queued (held {})).slot? slotOf = some (held {}, {}) := by decide +kernel

/-- Queue 1 with the node `body` in its slot 0. -/
def written (body : List Byte) : State :=
  let s := queued (held {})
  { s with mem := Memory.writeBytes s.mem (fetchLoc + 0x100) body }

/-- A slot taken: a legal node, one whose action is none, one that is not IDLE. -/
theorem test_witness_takenSlot :
    ∀ p ∈ [(nodeBody 8 0 0 0, true, true), (nodeBody 0x20 0 0 0, true, false), ((nodeBody 8 0 0 0).set 1 1, false, true)],
      (match (written p.1).schedRead 0 .atomic 0x100 128 with
        | (.ok body, s1) => body == p.1 && (leNat ((body.drop 1).take 1) == 0) == p.2.1
            && ((s1.checkNode 0 { body }).1.isOk) == p.2.2
        | _ => false) = true := by decide +kernel

/-- A LAUNCH whose image can be read at its release, and one whose cannot. -/
theorem test_witness_imageRead :
    let x : Slot := { body := nodeBody 1 0 0 0x200 }
    x.kind = 1 ∧ x.field 0x38 8 = 0x200
      ∧ (match (queued aQueue).schedRead 0 .load 0x200 0x180 with
          | (.ok h, s1) => h.length == 0x180 && (s1.schedRead 0 .load 0x380 0).1.isOk
          | _ => false) = true
      ∧ (match (queued aQueue).schedRead 0 .load 0x2000 0x180 with
          | (.error (some c), _) => c == .xlate
          | _ => false) = true := by decide +kernel

theorem test_witness_nodeStates :
    (let x : Slot := { st := .released, outcome := some (false, 0) }
     (queued (held x)).slot? slotOf = some (held x, x) ∧ (held x).st = .active ∧ x.overCredit = false ∧ (held x).offending = none)
      ∧ (let y : Slot := { st := .pending, body := nodeBody 0 0 0 0 }
         (queued (held y)).slot? { domain := 0, queue := 65536 / 2 ^ 16 % 4096, slot := 65536 % 2 ^ 16 } = some (held y, y)
          ∧ y.cred + 1 ≠ y.preds)
      ∧ ({ st := .idle } : Slot).st ≠ .released := by decide +kernel

/-- Each action has a node that is next to be handed on. -/
theorem test_witness_due : ∀ a ∈ List.range 8, let k := a + 1
    ((queued (held { st := .released, order := 1, body := nodeBody k 0 64 0 })).dueNode slotOf k).isSome = true := by
  decide +kernel

theorem test_witness_lineNodes :
    (let x : Slot := { st := .released, order := 1, body := nodeBody 3 0x40 64 1 }
     0 < x.field 0x30 8 ∧ x.field 0x28 8 % 64 + x.field 0x30 8 ≤ 64)
      ∧ okBy ((queued aQueue).accessWalk 0 0x40 .load) (fun t s =>
          !(entryDevice t.leaf) && entryPolicy t.leaf != 2 && !(isSram t.loc) && (s.l2Find (t.loc / 64)).isNone
            && !(s.linkDown t.loc) && (s.homeSlice (t.loc / 64 * 64)).isSome && (s.ways (t.loc / 64)).length < 16
            && match s.schedWrite 0 (0x100 + 0x48) (leBytes 8 0) with
              | (none, _) => true
              | _ => false) = true
      ∧ okBy ((queued aQueue).translate 0 0x40) (fun t s =>
          !(s.isReserved t.loc) && entryW t.leaf && t.loc == fetchLoc + 0x40 && !(s.unreachable t.loc)) = true := by decide +kernel

/-- The set of the line at 0x40 is full, of lines that are pinned or are not; the line itself is present. -/
theorem test_witness_fullSet : ∀ pinned ∈ [true, false],
    let line := (fetchLoc + 0x40) / 64
    let s : State := { queued aQueue with l2 := (List.range 16).map fun k =>
      { line := line + 49152 * (k + 1), dirty := false, old := none, pinned, first := false } }
    (s.ways line).length = 16 ∧ (s.victim line).isNone = pinned ∧ s.l2Find line = none
      ∧ (let l : L2Line := { line, dirty := false, old := none, pinned, first := true }
         ({ s with l2 := [l] } : State).l2Find line = some l) := by decide +kernel

/-- A launch of one gang of one VT at codebase 0, W = 4, on every cluster. -/
def aLaunch : Launch :=
  { slot := slotOf, no := 7, codebase := 0, entry := 0, spillbase := 0, spillx := 0, spillv := 0, interval := 0, wsel := 0
    tcmwin := 0, gang := 0, gangs := 1, cspwin := 0, clusters := 0xFFFFFFFF, persist := false, restart := false, prio := 0
    x := Vector.replicate 32 0, vl := 32, vcfgReq := 0, em := 0xFFFFFFFF, vmt := 0, seg := Vector.replicate 4 0, v := [] }

theorem test_witness_launch :
    aLaunch.unplaceable = false ∧ ((queued aQueue).pickCluster aLaunch.clusters).isSome = true ∧ aLaunch.gangs = 1
      ∧ (let x : Slot := { body := nodeBody 1 0 0 0 }
         (launchImage slotOf 7 x 0 (List.replicate 0x180 0) []).any (fun l => !l.unplaceable) = true
          ∧ launchImage slotOf 7 x 0 ((List.replicate 0x180 0).set 0 1) [] = none) := by decide +kernel

/-- A gang that waits alone for cluster 0. -/
def aGang : Gang := { domain := 0, id := 5, size := 1, frames := 1, launch := some slotOf, launchNo := 7, clusters := 0xFFFFFFFF }
def placing (x : Gang) : State :=
  served { State.reset with gangs := [(5, x)], launches := [aLaunch], clusters := [(0, { queue := [5] })] }

theorem test_witness_placement :
    (placing aGang).inService 0 = true ∧ ((placing aGang).cluster 0).queue = [5] ∧ ((placing aGang).fit 0 aGang).isSome = true
      ∧ ((placing { aGang with cspwin := 5000 }).fit 0 { aGang with cspwin := 5000 }).isNone = true
      ∧ aGang.st = .waiting ∧ aGang.members = [] ∧ aLaunch.no = aGang.launchNo := by decide +kernel

theorem test_witness_swapIn :
    let o : VT := { vt with st := .readyOut, resident := false, reserved := true }
    let p : VT := { o with reserved := false }
    let s (v : VT) : State := ct v
    (s o).gangPlaced o = true ∧ (s o).inService (clusterOfCore o.core) = true ∧ ((s o).swapCore o).isSome = true
      ∧ (s p).canHold p.core p = true ∧ o.claim = none
      ∧ (s o).swapCore o = some 0 ∧ (s o).nextSwapIn 0 = some 0 ∧ (s o).recordServes o = true ∧ (s o).ctxOwn o.ctx 4 o.domain = true
      ∧ (let r : VT := { o with ctx := some (0x100000000, 0x1000), domain := 3 }
         (s r).recordServes r = true ∧ (s r).ctxOwn r.ctx 4 r.domain = false)
      ∧ ({ ct o with vts := [(0, o), (256, { o with readyAt := 5 })] } : State).nextSwapIn 0 ≠ some 256
      ∧ (let big : VT := { p with tcmwin := 1000, admitted := true }
         (s big).canHold big.core big = false ∧ (s big).swapCore big = none) := by decide +kernel

/-- A VT that is out waits for room on core 0, where VT 0 is parked. -/
theorem test_witness_swapOut :
    (let v : VT := { vt with st := .parked, park := some (.park 0 0, 0) }
     let s : State := { ct v with vts := [(0, v), (256, { vt with st := .readyOut, resident := false, tcmwin := 1000 })] }
     s.mayLeave 0 v = true ∧ s.victimForRoom v.core = some 0) ∧ (ct vt).mayLeave 0 vt = true ∧ (ct vt).canHold 1 vt = true ∧ (ct vt).nextSwapIn 1 = none ∧ clusterOfCore 1 = clusterOfCore vt.core
      ∧ (ct ({ vt with killed := true, resident := false } : VT)).mayLeave 0 { vt with killed := true, resident := false } = false := by
  decide +kernel

/-- An AGED gang presses on the gang of VT 0, which is ready to leave; that gang stored. -/
theorem test_witness_gangPreemption :
    let a : Gang := { aGang with st := .aged, size := 48, tcmwin := 64 }
    let s : State := { ct vt with gangs := [(0, fetchGang), (5, a)], clusters := [(0, { queue := [5] })] }
    let s := served (s.elapse (.core 0) 1048576)
    s.pressing 0 = some a ∧ s.nextPreempted a = some 0 ∧ s.cspBusy 0 = false ∧ s.schedPaused 0 = false ∧ s.mayLeave 0 vt = true
      ∧ (let t := fetchGang.members.foldl State.storeMember s
         (t.vt? 0).any (fun w => w.ctx.isSome) = true ∧ (t.ctxRoom 0 fetchGang.recordSize (t.ctxInUse none (some 0))).isSome = true)
      ∧ (ct vt).pressing 0 = none
      ∧ (let x : Gang := { fetchGang with st := .stored }
         (placing x).schedPaused 0 = false ∧ (placing x).ctxReady x.ctx = true ∧ (placing x).ctxWhole x.ctx 5 = true ∧ (placing x).ctxOwn x.ctx 4 0 = true
          ∧ ((placing x).pickCluster x.clusters).isSome = true
          ∧ (placing x).ctxOwn (some (0x100000000, 0x1000)) 4 1 = false) := by decide +kernel

theorem test_witness_partition :
    let quads (x : Word32) (slot : Nat) : List Nat := (List.range 4).filter fun q => x.toNat / 4 ^ q % 4 == slot
    (∀ k, k < 4 → quads 0x50 k ∈ [[], [0], [1], [2], [3], [0, 1], [2, 3], [0, 1, 2, 3]])
      ∧ ¬ (∀ k, k < 4 → quads 0x44 k ∈ [[], [0], [1], [2], [3], [0, 1], [2, 3], [0, 1, 2, 3]]) := by decide +kernel

theorem test_witness_fault :
    let f : FaultInfo := { cause := .illop, place := 0, vp := 0, elem := 0, infl := 0, code := 0, pc := 0, iaddr := 0, daddr := 0 }
    let v : VT := { vt with stopping := true, detected := [f] }
    v.atPoint = true ∧ chooseFault v v.detected = some f ∧ v.st = .ready ∧ v.resident = true ∧ (ct v).tcmBusy 0 = false
      ∧ (ct v).canStore 0 v = true
      ∧ ({ vt with violation := some { f with cause := .domain } } : VT).atPoint = true := by decide +kernel

/-- Event records of domain 0 go to a ring at page 0. -/
def ringed : State := (ct vt).setDomain 0 { (ct vt).domain 0 with evring := 0x1000 }

theorem test_witness_record :
    ((ct vt).setDomain 0 { evring := 0x0001000000000000, seq := 0 }).domain 0 ≠ {}
      ∧ (ct vt).duePosts = [] ∧ okBy ((ct vt).postSlot 0 0) (fun _ _ => true) = true
      ∧ ({ ct vt with duePosts := [{ domain := 0, va := 0, record := [], seq := 1 }] } : State).duePosts ≠ []
      ∧ (match (ct vt).postSlot 0 0x2000 with
          | .fault c _ => c == .xlate
          | _ => false) = true := by decide +kernel

theorem test_witness_freeze :
    let c : Command := { command 0 #v[3, 0x8000000000000000, 0x55, 8] with phase := .frozen 0x40 }
    (commanding c vt).commands = [c] ∧ c.dest = .channel (Fin.ofNat 8 (0 * 4 + 0))
      ∧ (linked { violated := some 5 }).conn? 0x10000 = some { violated := some 5 } := by decide +kernel

theorem test_witness_queueDestroyed :
    (queued { aQueue with st := .destroying }).queue? 0 1 = some { aQueue with st := .destroying }
      ∧ (∀ l ∈ (queued { aQueue with st := .destroying }).launchesOf 0 1, (queued aQueue).liveVts l.no = [])
      ∧ aQueue.st ≠ .destroying ∧ aQueue.stopDue = false
      ∧ (queued { aQueue with stopDue := true }).queue? 0 1 = some { aQueue with stopDue := true } := by decide +kernel

/-- A fatal error whose reason holds at once; another does not. -/
theorem test_witness_fatal : (ct vt).wf = true ∧ (ct vt).fatal = none ∧ (ct vt).records = [] ∧ (ct vt).fatalDue 7 = true
    ∧ (ct vt).fatalDue 3 = false := by decide +kernel

/-! ### Witnesses: messages, requests, firmware, Tidewatch, turns -/

/-- Host connection 5 of domain 0 is open, with queue 1. -/
def opened (c : Conn) : State := { queued aQueue with conns := [(0, {}), (5, c), (0x10000, c)] }
def packet (port psn : Nat) (addr : Word64) (payload : List Byte) : Packet :=
  { port, conn := if port = 0 then 5 else 0, rel := false, ackreq := false, etype := 0, psn, apsn := 0, addr
    len := payload.length, tag := 0, payload }

theorem test_witness_messages :
    (opened {}).packetConn (packet 0 0 0x20 [1, 2]) = some (5, {}) ∧ (opened {}).packetConn (packet 1 0 0x20 [1]) = some (0x10000, {})
      ∧ (opened { frozen := true }).packetConn (packet 0 0 0x20 [1]) = none
      ∧ 0 < ((2 ^ 23 - 1 + 2 ^ 24 - 0) % 2 ^ 24) ∧ 2 ^ 23 ≤ ((2 ^ 23 + 2 ^ 24 - 0) % 2 ^ 24)
      ∧ (0x20 : Word64).toNat % 64 + 32 ≤ 64 ∧ okBy ((opened {}).writeHome 0 0x20 [1, 2]) (fun _ _ => true) = true
      ∧ okBy ((opened {}).readHome 0 0x20 2) (fun bs _ => bs == [0, 0]) = true ∧ (opened {}).queue? 0 1 = some aQueue
      ∧ ({ aQueue with st := .destroying } : Queue).st ≠ .active
      ∧ (let t := ((opened {}).setQueue 0 1 { aQueue with scan := true }).scanQueue 0 1
         t.conn? 5 = some {} ∧ t.outbox = []) := by decide +kernel

/-- A SUBMIT to slot 15 of queue 1, an element added, a SIGNAL to an EMPTY future and to a FULL one. -/
theorem test_witness_submit :
    (0x1000F : Word64) = BitVec.ofNat 64 ((0x1000F : Word64).toNat / 65536 % 4096 * 65536 + 15)
      ∧ (let cs := chunksOf (0x100 + 128 * 15) 128 ++ [(0xC00 + 15 / 8, 1)]
         (opened {}).violatingChunk 0 cs = none)
      ∧ ((opened {}).submitNodes 0 aQueue [(15, List.replicate 128 7)]).1.stalled = none
      ∧ ((opened {}).addElement 0 0xFFC 4 0x3F800000).1.stalled = none
      ∧ okBy ((opened {}).writeChunks 0 (7 :: 0 :: List.replicate 126 7) (0x100 + 128 * 15) (chunksOf (0x100 + 128 * 15) 128)
        |> fun r => match r.2 with
          | none => Access.ok () r.1
          | some _ => .violation) (fun _ s => okBy (s.readHome 0 (0xC00 + 1) 1) fun bs t =>
              okBy (t.writeHome 0 (0xC00 + 1) [(bs[0]?).getD 0 ^^^ BitVec.twoPow 8 7]) fun _ _ => true) = true
      ∧ ((opened {}).submitNodes 0 aQueue [(15, List.replicate 128 7)]).2 = none
      ∧ (let t := ((opened {}).submitNodes 0 aQueue [(15, List.replicate 128 7)]).1.askScan 0 1
         t.conn? 5 = some {} ∧ t.outbox = [])
      ∧ ((opened {}).addElement 0 0xFFC 4 0x3F800000).2 = none
      ∧ okBy ((opened {}).atHome 0 0xFFC 4 .atomic .atomic) (fun t s => !(s.homePoisoned (cachingOf t.leaf t.loc .normal) t.loc 4)) = true
      ∧ ((withFuture { st := .empty }).fput 0 0x4000 7).1 = .stale
      ∧ (let h := handleOf 0 0 1
         ((withFuture { st := .empty }).fput 0 h 7).1 = .ok ∧ ((withFuture { st := .full }).fput 0 h 7).1 = .full) := by
  decide +kernel

/-- A SIGNAL node and a SIGNAL message that name an EMPTY entry. -/
theorem test_witness_fputs :
    let f : Future := { st := .empty, gen := 256, waiters := [(0, false)] }
    let x : Slot := { st := .released, order := 1, body := nodeBody 6 256 7 0 }
    let s : State := { queued (held x) with futures := [(0, f)] }
    (s.dueNode slotOf 6).isSome = true ∧ s.futureOf 0 (x.field 0x28 4) = .entry 0 f
      ∧ (let t : State := { opened {} with futures := [(0, f)] }
         let p := packet 1 0 256 (leBytes 8 7)
         t.packetConn p = some (0x10000, {}) ∧ p.len = 8 ∧ bits64 p.addr 32 32 = 0 ∧ t.futureOf 0 (bits64 p.addr 0 32) = .entry 0 f)
      := by decide +kernel

/-- A message not yet acknowledged, of the command of `linked`. -/
def outgoing : Sent :=
  { key := 0x10000, conn := 0, kind := 1, psn := 0, apsn := 0, flags := 0, addr := 0x20, len := 8, tag := 0, payload := List.replicate 8 0
    cmd := some 0 }

theorem test_witness_controlMessages :
    (let c : Conn := { unacked := [outgoing], nextPsn := 1 }
     let k : Command := { command 1 #v[0x10, 0x1000, 0x20, 8] with phase := .running, sent := 8, pending := 1 }
     ((linked c).setCommand k).packetConn (packet 1 0 0 []) = some (0x10000, c) ∧ ((linked c).setCommand k).command? 0 = some k
      ∧ cmdLen k.words ≤ k.sent ∧ (0 + 2 ^ 24 - outgoing.psn) % 2 ^ 24 < 2 ^ 23
      ∧ c.unacked.find? (fun x => x.psn == 0) = some outgoing)
      ∧ (let c : Conn := { reads := [(0, 0, 0, 8)] }
         okBy ((linked c).writeHome 0 (addrOffset 0x20 + 0) (List.replicate 8 1)) (fun _ _ => true) = true ∧ addrOffset 0x20 % 64 + 8 ≤ 64)
      ∧ (let c : Conn := { unacked := [outgoing], timeouts := 6 }
         let late : State := (linked c).elapse (.tile (peerTile 0)) 120000
         c.lastProgress + 120000 ≤ late.connNow 0x10000 c ∧ (linked c).connNow 0x10000 c < c.lastProgress + 120000
          ∧ c.lastCnp + 60000 ≤ late.connNow 0x10000 c) := by decide +kernel

/-- Requests on connection 5 and on connection 0: each of the ways to be turned away, and none. -/
theorem test_witness_screening :
    (opened {}).conn? 5 = some {} ∧ (opened {}).mgmtServes = true
      ∧ (opened {}).screen ⟨5, 1, 0⟩ 0 ⟨1, false, true⟩ true false = 0 ∧ (opened {}).screen ⟨5, 1, 64⟩ 0 ⟨1, false, true⟩ true false = 6
      ∧ (opened {}).screen ⟨5, 1, 63⟩ 0 ⟨1, false, true⟩ true false = 4 ∧ (opened {}).screen ⟨5, 1, 0⟩ 0 ⟨3, true, true⟩ true false = 4
      ∧ ({ ct vt with conns := [(0, {})] } : State).screen ⟨0, 1, 0⟩ 0 ⟨1, false, true⟩ true false = 5
      ∧ ({ opened {} with fatal := some 1 } : State).screen ⟨0, 1, 0⟩ 0 ⟨9, true, false⟩ true false = 7
      ∧ ((opened {}).tile (peerTile 7)).cordoned = false ∧ (opened {}).conn? 0x10001 = none ∧ (opened {}).conn? 4095 = none := by
  decide +kernel

theorem test_witness_queueRequests :
    (opened {}).areaUsable 0 0 (128 * 2 ^ 4) = true ∧ (opened {}).areaUsable 0 0xC00 (2 ^ 4 / 8) = true
      ∧ (opened {}).areaUsable 0 0xFF8 8 = true ∧ (opened {}).areaUsable 0 0x1000 8 = false ∧ (opened {}).queue? 0 4095 = none
      ∧ (opened {}).launchesOf 0 1 = [] ∧ aQueue.slots = [] ∧ aQueue.st = .active := by decide +kernel

/-- A leaf of each level with what it needs, and a page that MGMT reserves. -/
theorem test_witness_leaf :
    (∀ p ∈ [(4, (0x8000001D : Word64)), (3, 0x8000001F), (2, 0x8000001F)],
        entryV p.2 = true ∧ entryIsLeaf p.1 p.2 = true ∧ entryMalformed p.1 p.2 = false)
      ∧ (∀ p ∈ [(2, 2 ^ 30), (3, 2 ^ 21), (4, 4096)], leafBytes p.1 = p.2 ∧ (2 ^ 48 - p.2) % leafBytes p.1 = 0)
      ∧ (State.reset.leafPages 4 0x1D).any State.reset.pageReserved = true
      ∧ ((opened {}).leafPages 4 0x80000005).any (opened {}).pageReserved = false := by decide +kernel

theorem test_witness_images :
    (opened {}).fw.slack = none ∧ 0x1FFFFF + 1 ≤ 0x200000 ∧ verify 1 ((opened {}).kind 1) [] = .badImage
      ∧ (opened {}).register 0 2 0 = some 0x7777777700 ∧ registerLegal 5 0x7FFFF = true ∧ (opened {}).dump = none
      ∧ (let v : VT := { vt with st := .frozen, ctx := some (0x100000000, vt.recordSize) }
         (ct v).vt? 0 = some v ∧ (ct v).storageReachable 0x100000000 = true) ∧ vt.recordSize = (vt.record 0).length
      ∧ (opened {}).fatal = none := by decide +kernel

/-- The tables that `withFetchWord` leaves: each non-leaf entry names the page of the next table. -/
theorem test_witness_tables :
    let s := ct vt
    let page (l : Nat) : Nat := if l = 1 then 0x40000 else 0x4003E + l
    s.poison = [] ∧ entryV 0x8000001D = true ∧ entryIsLeaf 4 0x8000001D = true ∧ entryMalformed 4 0x8000001D = false
      ∧ (∀ l ∈ [1, 2, 3], leNat (Memory.readBytes s.mem (page l * 4096) 8) = page (l + 1) * 4096 + 1)
      ∧ leNat (Memory.readBytes s.mem (page 4 * 4096) 8) = fetchLoc + 0x1D
      ∧ ∀ l ∈ [1, 2, 3, 4], s.unreachable (page l * 4096) = false := by decide +kernel

theorem test_witness_noTables :
    State.reset.tables = [] ∧ State.reset.tablePages = [] ∧ Memory.wf State.reset.mem = true
      ∧ ∀ loc, isTableLoc loc = true → State.reset.unreachable loc = false := by
  refine ⟨rfl, rfl, rfl, fun loc h => ?_⟩
  have hs : isSram loc = false := by
    have h' : loc < 0x80000000 := by
      simp only [isTableLoc, Bool.and_eq_true] at h
      exact of_decide_eq_true h.2
    rw [isSram, Bool.and_eq_false_iff]
    exact .inl (decide_eq_false (by norm_num [sramBase]; omega))
  have ht : ∀ t, State.reset.tile t = {} := fun t => rfl
  have hn : State.reset.tiles = [] := rfl
  have hd : ∀ d, State.reset.die d = {} := fun d => rfl
  simp [State.unreachable, hs, ht, hd, hn, State.halfInService, State.pageListed]

/-- A Slack Water of FAB: an old instance, one that has handed over, a new one. -/
def renewing (x : FwInst) : State := { opened {} with fw := { (opened {}).fw with
  slack := some ⟨3, 9, [1], false⟩, kinds := (opened {}).fw.kinds.set 2 { insts := Vector.replicate 6 x, bankA := [1] } } }

theorem test_witness_slackWater :
    (0 : Fin 6) ∈ instances 2 ∧ (renewing { running := true }).fw.slack = some ⟨(2 : Fin 3).val + 1, 9, [1], false⟩
      ∧ (let x : FwInst := { running := true, isNew := true, accepted := true, beats := 64 }
         ∀ i ∈ instances 2, ((renewing x).kind 2).insts[i].isNew = true ∧ ((renewing x).kind 2).insts[i].accepted = true
          ∧ 64 ≤ ((renewing x).kind 2).insts[i].beats)
      ∧ (let x : FwInst := { running := true, isNew := true, accepted := true }
         ((renewing x).fallBackStep 2 ⟨3, 9, [1], false⟩ 0 8 = some 6 ∧ (renewing x).fallBackStep 2 ⟨3, 9, [1], false⟩ 0 7 = none))
      ∧ ({ running := true, restartedAt := some 0 } : FwInst).restartedAt = some 0
      ∧ (renewing {}).instNow 2 0 ≤ 200000 := by decide +kernel

theorem test_witness_clockSteps :
    ((opened {}).kind 0).insts[(0 : Fin 6)].serves = true ∧ ((ct vt).kind 0).insts[(0 : Fin 6)].serves = false
      ∧ (opened {}).fw.clk[(7 : Fin 8)] = 7 := by decide +kernel

/-- A cluster tile, one of its witnesses and a neighbour. -/
def aTile : TileId := clusterTile 0
def aWitness : TileId := sliceTile 0 3

/-- The witness's clock has run `n` cycles, and it views the tile as `v`; the tile is as `x` says. -/
def watching (n : Nat) (v : View) (x : Tile) : State :=
  let s := ((opened {}).elapse (.tile aWitness) n).elapse (.tile aTile) n
  { s.setTile aTile x with views := s.views.set (viewKey aWitness aTile) v }

theorem test_witness_tiles :
    (tileRole aTile).isSome = true ∧ (witnesses aTile).contains aWitness = true ∧ (neighbours aTile).contains aWitness = true
      ∧ (meshNeighbours aTile).contains aWitness = true ∧ tileRole aTile = some (.cluster 0) ∧ fatalTile aTile = false
      ∧ period aWitness aTile = 2048 ∧ tileRole aWitness = some (.slice 3) := by decide +kernel

theorem test_witness_heartbeats :
    (∀ q ∈ [0, 1, 2, 0x7FFF, 0x8000, 0xFFFF], let f := heartbeatFlit q 6 7 aTile
        flitValid f = true ∧ bits64 f 16 16 = aTile ∧ bits64 f 40 4 = 0 ∧ bits64 f 44 4 = 6 ∧ bits64 f 32 8 = 7
          ∧ bits64 f 48 16 = q)
      ∧ flitValid (heartbeatFlit 1 0 1 aTile ^^^ 1) = false
      ∧ (let v : View := { verdict := 1, clean := 15 }
         let s := watching 2304 v {}
         s.view aWitness aTile = v ∧ v.lastJudged + (9 * period aWitness aTile + 7) / 8 ≤ s.tileCycle aWitness)
      ∧ (watching 2048 { verdict := 2, lastAccuse := 0 } {}).tileCycle aWitness = 2048
      ∧ ((watching 0 { arrivals := [0, 0] } {}).view aWitness aTile).arrivals.length = 2
      ∧ (watching 0 { passed := [0, 0] } { cordoned := true }).allConsent aWitness aTile = false
      ∧ ((watching 2048 {} { bist := some true, sentAny := true, corrected := [(0, 5000)] }).tile aTile).bist = some true := by
  decide +kernel

theorem test_witness_votes :
    (∀ m ∈ [1, 2, 3, 4, 5, 6, 7, 8], let f := voteFlit aTile m 4 aWitness
        flitValid f = true ∧ bits64 f 48 16 = aTile ∧ bits64 f 16 16 = aWitness ∧ bits64 f 40 4 = m)
      ∧ (let v : View := { held := [(aWitness, 0, 1)], quorumKnown := true, quorumCause := 1 }
         let s := watching 6145 v { accusers := [(aWitness, 0)], st := 1 }
         v.held.any (fun a => a.1 == aWitness && a.2.1 + 3 * period aWitness aTile < s.tileCycle aWitness) = true
          ∧ (s.tile aTile).accusers.any (fun a => a.1 == aWitness && a.2 + 3 * period aTile aTile < s.tileCycle aTile) = true
          ∧ (s.tile aWitness).cordoned = false ∧ (s.tile aWitness).st ≠ 6 ∧ (s.view aWitness aTile).portClosed = false
          ∧ s.witnessServes aWitness = true)
      ∧ (sliceTile 0 5 ≠ aTile ∧ (witnesses aTile).contains (clusterTile 2) = true) := by decide +kernel

theorem test_witness_cordon :
    let x : Tile := { st := 4, cordoned := true }
    let v : View := { consents := (witnesses aTile).filter fun y => y != aWitness }
    let s := watching 0 v x
    s.tile aTile = x ∧ x.owed = [] ∧ s.cutOff aWitness = false ∧ s.fabPaused = false ∧ s.witnessServes aWitness = true ∧ s.gangs.get? 0 = some fetchGang
      ∧ (∀ y ∈ witnesses aTile, y = aWitness ∨ y ∈ (s.view aWitness aTile).consents)
      ∧ ((watching 0 {} { x with handled := false }).tile aTile).handled = false ∧ fetchGang.cluster = 4 * tileDie aTile + 0
      ∧ (watching 2800000 {} { x with st := 3 }).tileCycle aTile = 2800000
      ∧ (∀ y ∈ [{ x with handled := false }, { x with handled := false, remapped := true },
            { x with handled := false, remapped := true, marked := true }, { owed := [{ event := 2 }] }, { x with owed := [{ event := 1 }] }],
          (watching 0 {} y).tile aTile = y ∧ y.tally.again = [] ∧ y.tally.handOn = [])
      ∧ (ct vt).gangs.get? 0 = some fetchGang ∧ fetchGang.members = [0]
      ∧ (opened {}).takenPages (sliceTile 0 3) 5 = false
      ∧ ((opened {}).setTile (sliceTile 0 3) { pages := [5] }).takenPages (sliceTile 0 3) 5 = true := by decide +kernel

/-- An APPEAL, a REFUSE, a READMIT and a RETIRE of a tile, or about one, that is cordoned. -/
theorem test_witness_appeals :
    (∀ m ∈ [4, 8], flitValid (voteFlit aTile m 1 aTile) = true ∧ bits64 (voteFlit aTile m 1 aTile) 16 16 = aTile)
      ∧ (let s := watching 0 { passed := [0, 0] } { st := 4, cordoned := true, handled := true, appeals := 1 }
         (s.tile aTile).retired = false ∧ ((s.view aWitness aTile).passed.filter fun a =>
          s.tileCycle aWitness < a + period aWitness aTile).length = 2)
      ∧ (watching 0 {} { st := 2 }).tile aTile = { st := 2 }
      ∧ (∀ m ∈ [6, 7], flitValid (voteFlit aTile m 0 aWitness) = true ∧ bits64 (voteFlit aTile m 0 aWitness) 40 4 = m)
      ∧ ((watching 0 {} {}).tile aWitness).cordoned = false
      ∧ (((watching 0 {} {}).setTile aWitness { cordoned := true }).tile aWitness).cordoned = true := by decide +kernel

theorem test_witness_cxl :
    let down (s : State) : State := { s with links := s.links.set 3 { st := .down 0 } }
    (ct vt).links[(3 : Fin 4)].st = .up ∧ (down (ct vt)).links[(3 : Fin 4)].st = .down 0
      ∧ (∀ n ∈ [1200000, 1200001], ((down (ct vt)).elapse (.tile (cxlTile 3)) n).tileCycle (cxlTile 3) = n) := by decide +kernel

theorem test_witness_softErrors :
    (ct vt).vt? 0 = some vt ∧ vt.poison = [] ∧ 8 * (1 : Nat) < vt.w ∧ 64 * (0 : Nat) < 2 * vt.w ∧ ({ vt with claim := some aClaim } : VT).claim ≠ none ∧ vt.tcmPoison = []
      ∧ ({ inbound := [5] } : VP).inbound.length = 1
      ∧ (ct vt).gangs.get? 0 = some fetchGang ∧ (ct vt).l2Find 5 = none ∧ (withFuture {}).futures.get? 0 = some {}
      ∧ ([(true, none), (false, none), (true, some 7), (false, some 7)].all fun p =>
          let l : L2Line := { line := 5, dirty := p.1, old := p.2, pinned := false, first := false }
          ({ ct vt with l2 := [l] } : State).l2Find 5 == some l) = true := by decide +kernel

/-- The turns of a slot, of a virtual processor and of an event, each with what it needs. -/
theorem test_witness_turns :
    (ct vt).issueOrder 0 0 = [0] ∧ (ct vt).issueOrder 1 0 = [] ∧ (ct vt).fatal = none
      ∧ okBy ((ct vt).fetchLine 0 0 0 (fun _ => (0, 4))) (fun l _ => decode (l.extractLsb' 0 32) == .ok (Instr.addi always 0 0 0)
          || (decode (l.extractLsb' 0 32)).isOk) = true
      ∧ (ct vt).wants = [] ∧ (ct vt).stalled = none ∧ (ct vt).rejected = [] ∧ (ct vt).settle.heldMgmt = []
      ∧ (ct vt).vtServed vt = true ∧ ((running vt {}).runOf 0).isSome = true ∧ (ct vt).eventRuns .deviceReset = true
      ∧ ({ ct vt with fatal := some 1 } : State).eventRuns (.nodeCompletion slotOf) = false := by decide +kernel

theorem test_witness_invariant :
    State.reset.wf = true ∧ base.wf = true ∧ (Instr.addi always 5 6 0xFF0).wellFormed = true
      ∧ (encodeNat (.addi always 5 6 0xFF0)).isSome = true := by decide +kernel

/-! ### Behaviour: worked examples of the spec -/

/-- VP 0 of a VT of W = 4 with the element type `it`; v1 to v3 hold `a`, `b`, `c`. -/
def small (it : Nat) (a b c : VReg) : State :=
  let p : VP := { v := (((Vector.replicate 32 0).set 1 a).set 2 b).set 3 c }
  let v : VT := { vt with wsel := 0, vcfg := BitVec.ofNat 64 (8 * it) }
  onVp { v with vps := v.vps.set 0 { p with run := some { fetchRun 0x0B800000 with cap := v.capture } } }

/-- What `f` finds in VP 0 and FFLAGS after the instruction. -/
def onVp0 (e : Instr) (s : State) (f : VP → FFlags → Bool) : Bool :=
  match exec e s with
  | .next t => match t.vt? 0 with
    | some v => f v.vps[0] v.fflags
    | none => false
  | _ => false

def onCt (o : Host.Outcome State Fault Refusal) (f : VT → Bool) : Bool :=
  match o with
  | .next t => match t.vt? 0 with
    | some v => f v
    | none => false
  | _ => false

/-- "Example: a packed range test". -/
theorem test_cmpi_packed :
    onVp0 (.cmpi always 1 2 .ge 1 0) (small 0 0x0978FD05 0 0) (fun p _ => p.p[1] == 0x0D && p.p[2] == 0x02) = true := by
  decide +kernel
theorem test_andi_guard_per_element :
    (let s := small 0 0x0978FD05 0 0
     let t : State := { s with vts := s.vts.map fun e => (e.1, { e.2 with vps := e.2.vps.map fun p => { p with p := p.p.set 2 0x06 } }) }
     onVp0 (.andi (guard 2 false) 1 1 0) t (fun p _ => p.v[1] == 0x09000005)) = true := by decide +kernel

/-- "Example: one rounding against two". -/
theorem test_fma_one_rounding :
    onVp0 (.fma always 4 1 2 3) (small 4 0x3F800800 0x3F800800 0xBF801000) (fun p f => p.v[4] == 0x33800000 && f == 0) = true := by
  decide +kernel
theorem test_fmul_rounds :
    onVp0 (.fmul always 5 1 2) (small 4 0x3F800800 0x3F800800 0) (fun p f => p.v[5] == 0x3F801000 && f == flagNX) = true := by
  decide +kernel
theorem test_fadd_cancels :
    onVp0 (.fadd always 5 1 2) (small 4 0x3F801000 0xBF801000 0) (fun p f => p.v[5] == 0 && f == 0) = true := by decide +kernel

/-- "Example: conversions to E4M3 and E2M1" (but for 0.75 to E2M1, log 56). -/
theorem test_cvt_e4m3 :
    [(0x3F800000, 0x38, 0), (0x40200000, 0x42, 0), (0xBE800000, 0xA8, 0), (0x43E80000, 0x7E, flagNX),
     (0x43EB0000, 0x7E, flagOF ||| flagNX), (0x3A800000, 0x00, flagUF ||| flagNX), (0x7F800000, 0x7E, flagNV),
     (0x7FC00000, 0x7F, 0)].all (fun x => convertElement .fp32 .e4m3 .rne x.1 == (x.2.1, x.2.2)) = true := by decide +kernel
theorem test_cvt_e2m1 :
    [(0x3F800000, 0x2, 0), (0x40200000, 0x4, flagNX), (0x40A00000, 0x6, flagNX), 
     (0xBE800000, 0x8, flagUF ||| flagNX), (0x43E80000, 0x7, flagOF ||| flagNX), (0x7F800000, 0x7, flagNV),
     (0x7FC00000, 0x0, flagNV)].all (fun x => convertElement .fp32 .e2m1 .rne x.1 == (x.2.1, x.2.2)) = true := by decide +kernel

/-- "Example: one block to E4M3". -/
theorem test_cvts_scale :
    blockScale .e4m3 [fp32Format.decode 0x42C80000, fp32Format.decode 0x40533333] = some (-2)
      ∧ scaledElement .e4m3 (some (-2)) (fp32Format.decode 0x42C80000) = (0x7C, flagNX)
      ∧ scaledElement .e4m3 (some (-2)) (fp32Format.decode 0x40533333) = (0x55, flagNX) := by decide +kernel

/-- R202: the tie of `fexp2` at -150, and its exact cases. -/
theorem test_fexp2 :
    fp32Format.exp2 .rne (fp32Format.decode 0xC3160000) = (0, flagUF ||| flagNX)
      ∧ fp32Format.exp2 .rup (fp32Format.decode 0xC3160000) = (1, flagUF ||| flagNX)
      ∧ fp32Format.exp2 .rne (fp32Format.decode 0x40400000) = (0x41000000, 0) := by decide +kernel

/-- R128 to R132: an integer saturates, and an infinity has no scale. -/
theorem test_cvt_integers :
    convertElement .fp32 .i8 .rtz 0x43000000 = (0x7F, flagNV) ∧ convertElement .i32 .i8 .rne 0xFFFFFF00 = (0x80, 0)
      ∧ blockScale .e4m3 [fmtValue .fp32 0x7F800000] = none ∧ blockScale .e4m3 [fmtValue .fp32 0] = some (-127) := by
  decide +kernel

/-- FIPS 180-4: the digests of "abc". -/
theorem test_sha256_abc : beNat (sha256 [0x61, 0x62, 0x63])
    = 0xba7816bf8f01cfea414140de5dae2223b00361a396177a9cb410ff61f20015ad := by decide +kernel
theorem test_sha384_abc : beNat (sha384 [0x61, 0x62, 0x63])
    = 0xcb00753f45a35e8bb5a03d699ac65007272c32ab0eded1631a8b605a43ff5bed8086072ba1e7cc2358baeca134c825a7 := by decide +kernel

/-- R287: reset with no image in flash leaves start at its first step; R376. -/
theorem test_deviceReset :
    (match exec .deviceReset (ct vt) with
      | .next t => t.vts.length == 0 && !t.fw.mgmtUp && t.conns.length == 1
      | _ => false) = true := by decide +kernel

/-- "Example: a 29-bit constant": fetched, decoded and executed by a step. -/
theorem test_step_lui : onCt (step (State.reset.withFetchWord 32 0x238A1235)) (fun v => v.x[5] == 0x01235000 && v.pc == 4) = true := by
  decide +kernel
theorem test_step_addi :
    onCt (exec (.addi always 5 5 0xABC) (ct { vt with x := vt.x.set 5 0x01235000 })) (fun v => v.x[5] == 0x01234ABC) = true := by
  decide +kernel

/-- R151: a word of zeros is ILLOP; R173: a `trap` leaves its code. -/
theorem test_step_illop :
    onCt (step (State.reset.withFetchWord 32 0)) (fun v => v.stopping || v.st == .faulted) = true := by decide +kernel
theorem test_trap :
    onCt (exec (.trap always 17) (ct vt)) (fun v => v.pc == 4 && v.detected.map FaultInfo.code == [17]) = true := by decide +kernel

/-- R164: a store of eight bytes is little-endian, and its neighbours stand. -/
theorem test_std :
    (match exec (.std always 4 1 0x10) (ct { vt with x := (vt.x.set 4 0x40).set 1 0x0102030405060708 }) with
      | .next t => t.byteAt (fetchLoc + 0x50) == 8 && t.byteAt (fetchLoc + 0x57) == 1 && t.byteAt (fetchLoc + 0x58) == 0
      | _ => false) = true := by decide +kernel

/-- R161: division by zero and the one overflow. -/
theorem test_div_corners :
    onCt (exec (.div always 5 1 2) (ct { vt with x := (vt.x.set 1 7).set 2 0 })) (fun v => v.x[5] == 0xFFFFFFFFFFFFFFFF) = true
      ∧ onCt (exec (.div always 5 1 2) (ct { vt with x := (vt.x.set 1 0x8000000000000000).set 2 0xFFFFFFFFFFFFFFFF }))
          (fun v => v.x[5] == 0x8000000000000000) = true := by decide +kernel

end Sys2Proof.Tests
end

section
/-! SUPPORT. Memory with the bytes of some addresses dropped. -/

namespace Sys2Proof

theorem Memory.read_filter (m : List Host.Cell) (p : Nat → Bool) (a : Nat) :
    Memory.read (m.filter fun c => p c.1) a = if p a then Memory.read m a else 0 := by
  induction m with
  | nil => simp [Memory.read]
  | cons c m ih =>
    obtain ⟨b, v⟩ := c
    by_cases h : b = a
    · subst h
      by_cases hp : p b <;> simp [hp, ih, Memory.read]
    · by_cases hp : p b <;> simp [hp, h, ih, Memory.read]

end Sys2Proof
end

section
/-! SUPPORT. What an access to memory and a post to an event ring leave as they were, said once: everything but storage with its
caches, what monitors note, the tables, the requests to the slices, the posts that wait; and of a post the sequence numbers of the
domains (R316, R317). -/

namespace Sys2Proof.Machine

open Sys2Proof

/-- `s` with what memory accesses and posts may change taken from `t`: storage, L2 and their marks, what monitors note, the
tables and TLBs that a loss changes, the requests to the slices, the posts that wait. -/
def State.withMemoryOf (s t : State) : State :=
  { s with vts := t.vts, cores := t.cores, clusters := t.clusters, mem := t.mem, l2 := t.l2, poison := t.poison
           rejected := t.rejected, tables := t.tables, tablePages := t.tablePages, wants := t.wants
           duePosts := t.duePosts }

/-- `t` differs from `s` in nothing but what memory accesses and posts may change. -/
def State.MemoryOnly (s t : State) : Prop := t = s.withMemoryOf t

namespace State.MemoryOnly

variable {s t u : State}

theorem refl (s : State) : s.MemoryOnly s := rfl

theorem eq (h : s.MemoryOnly t) : t = s.withMemoryOf t := h

theorem trans (h : s.MemoryOnly t) (h' : t.MemoryOnly u) : s.MemoryOnly u :=
  calc
    u = t.withMemoryOf u := h'
    _ = (s.withMemoryOf t).withMemoryOf u := congrArg (fun r : State => r.withMemoryOf u) h.eq
    _ = s.withMemoryOf u := rfl

theorem setStorage (s : State) (m : List Host.Cell) (p : List Nat) : s.MemoryOnly { s with mem := m, poison := p } := rfl

theorem setRequests (s : State) (l : List Rejected) : s.MemoryOnly { s with rejected := l } := rfl

theorem fw (h : s.MemoryOnly t) : t.fw = s.fw := by rw [h.eq]; rfl
theorem mseq (h : s.MemoryOnly t) : t.mseq = s.mseq := by rw [h.eq]; rfl
theorem domains (h : s.MemoryOnly t) : t.domains = s.domains := by rw [h.eq]; rfl

theorem foldl {α : Type} {f : State → α → State} (h : ∀ (s : State) a, s.MemoryOnly (f s a)) (l : List α) (s : State) :
    s.MemoryOnly (l.foldl f s) := by
  induction l generalizing s with
  | nil => exact refl s
  | cons a l ih => exact (h s a).trans (ih _)

/-- Either branch of a choice. -/
theorem ite {p : Prop} [Decidable p] (ht : p → s.MemoryOnly t) (hu : ¬ p → s.MemoryOnly u) :
    s.MemoryOnly (if p then t else u) := by
  split
  · exact ht ‹_›
  · exact hu ‹_›

end State.MemoryOnly

/-! ### L2 -/

theorem State.fromStorage_memoryOnly (s : State) (l : L2Line) : s.MemoryOnly (s.fromStorage l) := by
  unfold State.fromStorage
  split
  · exact .setStorage s _ _
  · exact .refl s

theorem State.l2Revert_memoryOnly (s : State) (line : Nat) : s.MemoryOnly (s.l2Revert line) := by
  unfold State.l2Revert
  split
  · split
    · exact (State.fromStorage_memoryOnly (s.l2Drop line) _).trans rfl
    · rfl
  · rfl

theorem State.l2Evict_memoryOnly (s : State) (l : L2Line) : s.MemoryOnly (s.l2Evict l) :=
  .ite (fun _ => .ite (fun _ => rfl) fun _ => rfl) fun _ => s.l2Revert_memoryOnly l.line

theorem State.l2Insert_memoryOnly {s t : State} {l : L2Line} (h : s.l2Insert l = some t) : s.MemoryOnly t := by
  unfold State.l2Insert at h
  split at h
  · cases h
  · split at h
    · cases h; rfl
    · split at h
      · cases h
      · next v _ => cases h; exact (s.l2Evict_memoryOnly v).trans rfl

theorem State.l2Touch_memoryOnly (s : State) (k : Caching) (line : Nat) (write : Bool) :
    s.MemoryOnly (s.l2Touch k line write) := by
  unfold State.l2Touch
  refine .ite (fun _ => .refl s) fun _ => ?_
  split
  · rfl
  · refine .ite (fun _ => ?_) fun _ => .refl s
    cases h : s.l2Insert _ with
    | none => exact .refl s
    | some t => exact State.l2Insert_memoryOnly h

theorem State.l2TouchAll_memoryOnly (s : State) (k : Caching) (lines : List Nat) (write : Bool) :
    s.MemoryOnly (s.l2TouchAll k lines write) :=
  .foldl (fun s l => s.l2Touch_memoryOnly k l write) lines s

theorem State.homeWrite_memoryOnly (s : State) (k : Caching) (loc : Nat) (bs : List (Byte × Bool)) :
    s.MemoryOnly (s.homeWrite k loc bs) := by
  unfold State.homeWrite
  split
  · rfl
  · exact (s.l2TouchAll_memoryOnly k (linesOf loc bs.length) true).trans rfl

/-! ### Accesses -/

/-- Whatever comes of an access, the state that it leaves differs from `s` in nothing but what memory accesses may change. -/
def Access.MemoryOnly {α : Type} (s : State) : Access α → Prop
  | .ok _ t | .fault _ t | .wait t => s.MemoryOnly t
  | .violation => True

theorem Access.MemoryOnly.after {α : Type} {s t : State} {a : Access α} (h : s.MemoryOnly t) (ha : a.MemoryOnly t) :
    a.MemoryOnly s := by
  cases a with
  | ok | fault | wait => exact State.MemoryOnly.trans h ha
  | violation => trivial

theorem Access.MemoryOnly.bind {α β : Type} {s : State} {a : Access α} {f : α → State → Access β} (ha : a.MemoryOnly s)
    (hf : ∀ x t, (f x t).MemoryOnly t) : (a.bind f).MemoryOnly s := by
  cases a with
  | ok x t => exact (hf x t).after ha
  | fault | violation | wait => exact ha

theorem State.wantAs_memoryOnly (s : State) (l : List Nat) : s.MemoryOnly (s.wantAs l) := by
  unfold State.wantAs
  split
  · exact .ite (fun _ => rfl) fun _ => rfl
  all_goals exact .refl s

theorem State.cordonLoss_memoryOnly (s : State) (k : AccessKind) (loc n : Nat) : s.MemoryOnly (s.cordonLoss k loc n) := by
  have cleared := State.MemoryOnly.foldl (f := fun s l =>
    if s.unreachable (l * 64) && s.storageReachable (l * 64) then s.zeroBytes (l * 64) 64 else s)
    (fun s l => .ite (fun _ => rfl) fun _ => rfl) (linesOf loc n) s
  cases k with
  | load | fetch => rfl
  | store | atomic => exact cleared.trans rfl

theorem State.translate_memoryOnly (s : State) (dom va : Nat) : (s.translate dom va).MemoryOnly s := by
  have walked (s : State) : s.MemoryOnly (s.walkTouch dom va) := s.l2TouchAll_memoryOnly _ _ _
  have wanted := s.wantAs_memoryOnly (s.walkSlices dom va)
  unfold State.translate
  split
  · dsimp only
    split
    · exact wanted.trans rfl
    · exact wanted.trans (.ite (fun _ => rfl) fun _ => rfl)
    · exact wanted.trans (walked _)
    · split <;> exact wanted.trans (walked _)
  · exact .refl s

theorem State.checkTrans_memoryOnly (s : State) (k : AccessKind) (t : Option Trans) :
    (s.checkTrans k t).MemoryOnly s := by
  unfold State.checkTrans
  split
  · exact .refl s
  · split
    · trivial
    · split
      · exact .refl s
      · split <;> exact .refl s

theorem State.reachHome_memoryOnly (s : State) (k : AccessKind) (t : Trans) (n : Nat) (h : Hint) :
    (s.reachHome k t n h).MemoryOnly s := by
  refine Access.MemoryOnly.bind ?_ fun _ t => ?_
  · unfold State.reach
    split
    · exact s.cordonLoss_memoryOnly k _ n
    · exact .refl s
  · split <;> exact .refl t

theorem State.accessWalk_memoryOnly (s : State) (dom va : Nat) (k : AccessKind) : (s.accessWalk dom va k).MemoryOnly s :=
  (s.translate_memoryOnly dom va).bind fun _ s => s.checkTrans_memoryOnly k _

theorem State.reject_memoryOnly (s : State) (w : Requester) (k : Nat) : s.MemoryOnly (s.reject w k) := rfl

theorem State.gate_memoryOnly {s t : State} {w : Requester} {l : List Nat}
    (h : s.gate w l = .ok t ∨ s.gate w l = .error t) : s.MemoryOnly t := by
  unfold State.gate at h
  dsimp only at h
  split at h
  · obtain h | h := h <;> cases h
    exact .setRequests s _
  · obtain h | h := h <;> cases h
    exact .trans (.setRequests s _) (.foldl (fun s k => s.reject_memoryOnly w k) _ _)

/-! ### Posts -/

theorem State.postSlot_memoryOnly (s : State) (dom va : Nat) : (s.postSlot dom va).MemoryOnly s := by
  unfold State.postSlot
  dsimp only
  split
  · next h => exact State.gate_memoryOnly (.inr h)
  · next t h =>
    refine .after (State.gate_memoryOnly (.inl h)) ((t.accessWalk_memoryOnly dom va .store).bind fun x t => ?_)
    exact (t.reachHome_memoryOnly .store x 128 .normal).bind fun _ t => .refl t

theorem State.postBytes_memoryOnly (s : State) (t : Trans) (record : List Byte) (k : Nat) :
    s.MemoryOnly (s.postBytes t record k) :=
  .trans (.trans (s.homeWrite_memoryOnly _ _ _) (State.homeWrite_memoryOnly _ _ _ _)) (State.homeWrite_memoryOnly _ _ _ _)

theorem State.tryPost_memoryOnly (s : State) (p : DuePost) : s.MemoryOnly (s.tryPost p).1 := by
  have slot := s.postSlot_memoryOnly p.domain p.va
  have back {t : State} (h : s.MemoryOnly t) : s.MemoryOnly { t with wants := s.wants } := h.trans rfl
  unfold State.tryPost
  cases h : s.postSlot p.domain p.va with
  | violation => exact .refl s
  | ok x t => rw [h] at slot; exact (back slot).trans (State.postBytes_memoryOnly _ x p.record p.seq)
  | fault | wait => rw [h] at slot; exact back slot

theorem State.postOrWait_memoryOnly (s : State) (p : DuePost) : s.MemoryOnly (s.postOrWait p) := by
  have tried := s.tryPost_memoryOnly p
  unfold State.postOrWait
  refine .ite (fun _ => rfl) fun _ => ?_
  split
  · next h => rw [h] at tried; exact tried
  · next h => rw [h] at tried; exact tried.trans rfl

/-- A post raises its domain's sequence number (R316); beyond that it changes the records kept for the dump and what memory
accesses may change. -/
theorem State.post_frame (s : State) (dom typ source : Nat) (fields : List (Nat × List Byte)) :
    ∃ t records, (s.setDomain dom { s.domain dom with seq := (s.domain dom).seq + 1 }).MemoryOnly t
      ∧ s.post dom typ source fields = { t with records } := by
  unfold State.post
  dsimp only
  split <;> exact ⟨_, _, .ite (fun _ => .refl _) fun _ => State.postOrWait_memoryOnly _ _, rfl⟩

@[simp] theorem State.post_fw (s : State) (dom typ source : Nat) (fields : List (Nat × List Byte)) :
    (s.post dom typ source fields).fw = s.fw := by
  obtain ⟨t, _, h, e⟩ := s.post_frame dom typ source fields
  rw [e]; exact h.fw

@[simp] theorem State.post_mseq (s : State) (dom typ source : Nat) (fields : List (Nat × List Byte)) :
    (s.post dom typ source fields).mseq = s.mseq := by
  obtain ⟨t, _, h, e⟩ := s.post_frame dom typ source fields
  rw [e]; exact h.mseq

theorem State.domain_post (s : State) (dom typ source d : Nat) (fields : List (Nat × List Byte)) :
    (s.post dom typ source fields).domain d
      = if d = dom then { s.domain dom with seq := (s.domain dom).seq + 1 } else s.domain d := by
  obtain ⟨t, _, h, e⟩ := s.post_frame dom typ source fields
  have he : (s.post dom typ source fields).domain d
      = (s.setDomain dom { s.domain dom with seq := (s.domain dom).seq + 1 }).domain d := by
    rw [e]; exact congrArg (fun m => SMap.getD m d {}) h.domains
  rw [he]
  split
  · next hd => rw [hd, State.domain_setDomain_self]
  · next hd => exact State.domain_setDomain_ne s _ hd

@[simp] theorem State.postAll_fw (s : State) (typ source : Nat) (fields : Nat → List (Nat × List Byte)) :
    (s.postAll typ source fields).fw = s.fw :=
  List.foldlRecOn (motive := fun t : State => t.fw = s.fw) (List.range 64) _ rfl fun t h d _ => (t.post_fw d _ _ _).trans h

@[simp] theorem State.postAll_mseq (s : State) (typ source : Nat) (fields : Nat → List (Nat × List Byte)) :
    (s.postAll typ source fields).mseq = s.mseq :=
  List.foldlRecOn (motive := fun t : State => t.mseq = s.mseq) (List.range 64) _ rfl fun t h d _ => (t.post_mseq d _ _ _).trans h

@[simp] theorem State.kind_postAll (s : State) (typ source : Nat) (fields : Nat → List (Nat × List Byte)) (k : Fin 3) :
    (s.postAll typ source fields).kind k = s.kind k := by
  simp [State.kind]

/-- Posts to a list of domains raise a domain's sequence number once for each time that it stands in the list. -/
theorem State.seq_foldl_post (typ source d : Nat) (fields : Nat → List (Nat × List Byte)) (l : List Nat) (s : State) :
    ((l.foldl (fun s d => s.post d typ source (fields d)) s).domain d).seq = (s.domain d).seq + l.count d := by
  induction l generalizing s with
  | nil => rfl
  | cons e l ih =>
    rw [List.foldl_cons, ih, State.domain_post, List.count_cons]
    by_cases h : d = e
    · subst h; simp; omega
    · simp [h, Ne.symm h]

/-- R317: every domain has a record. -/
theorem State.seq_postAll (s : State) (typ source : Nat) (fields : Nat → List (Nat × List Byte)) {d : Nat} (h : d < 64) :
    ((s.postAll typ source fields).domain d).seq = (s.domain d).seq + 1 := by
  rw [State.postAll, State.seq_foldl_post, List.count_eq_one_of_mem List.nodup_range (List.mem_range.mpr h)]

end Sys2Proof.Machine
end

section
/-! PROOF. The steps of a Slack Water at one of the instances: what each operation does, by cases, then the claim. -/

namespace Sys2Proof.Machine

open Sys2Proof

/-! ### The kinds of image -/

@[simp] theorem State.kind_setKind_self (s : State) (k : Fin 3) (x : FwKind) : (s.setKind k x).kind k = x := by
  simp [State.kind, State.setKind]

/-- `y` in place `i` among the instances of a kind. -/
def State.putInst (s : State) (k : Fin 3) (i : Fin 6) (y : FwInst) : State :=
  s.setKind k { s.kind k with insts := (s.kind k).insts.set i y }

section
variable {s : State} {k : Fin 3} {i : Fin 6} {digest : BitVec 384} {image : List Byte}

/-- A Slack Water whose commit has not begun is found by its KIND. -/
theorem State.slackOf_pending (h : s.fw.slack = some ⟨k.val + 1, digest, image, false⟩) :
    s.slackOf (k.val + 1) = some (k, ⟨k.val + 1, digest, image, false⟩) := by
  have hk : k.val + 1 ≤ 3 := k.isLt
  simp [State.slackOf, h, hk]

/-- One whose commit has begun has no steps left at its instances (R293). -/
theorem State.slackOf_committed {w : SlackWater} (h : s.fw.slack = some w) (hw : w.committed = true) (kind : Nat) :
    s.slackOf kind = none := by
  simp [State.slackOf, h, hw]

/-- HAND_OVER at one of the instances of the kind that is replaced (R290 step 4, R291). -/
theorem exec_handOver (h : s.fw.slack = some ⟨k.val + 1, digest, image, false⟩) (hi : i ∈ instances k) (bytes : List Byte) :
    let x := (s.kind k).insts[i]
    exec (.handOver (k.val + 1) i.val bytes) s = .next (
      if x.isNew = true ∨ x.running = false ∨ ¬ (bytes = [] ∨ s.recordWritten k i bytes = true) then s
      else if x.stopped = false then
        s.putInst k i { x with stopped := true, stoppedAt := s.instNow k i, handOver := bytes }
      else if x.handOver = [] ∧ s.instNow k i ≤ x.stoppedAt + 100000 then s.putInst k i { x with handOver := bytes }
      else s) := by
  have hlt : ¬ 6 ≤ i.val := by omega
  show execHandOver _ _ _ s = _
  simp [execHandOver, State.slackOf_pending h, hi, hlt, State.modInst, State.putInst]

/-- NEW_INSTANCE_START (R290 step 5, R292). -/
theorem exec_newInstanceStart (h : s.fw.slack = some ⟨k.val + 1, digest, image, false⟩) (i : Fin 6) :
    let x := (s.kind k).insts[i]
    let ok := (rejectReason image digest k i x.handOver).isNone
    exec (.newInstanceStart (k.val + 1) i.val) s = .next (
      if x.stopped = false ∨ x.isNew = true ∨ x.handOver = [] then s
      else s.putInst k i
        { x with isNew := true, startedAt := s.instNow k i, beats := 0, accepted := ok, stopped := !ok, window := false }) := by
  have hlt : ¬ 6 ≤ i.val := by omega
  show execNewInstanceStart _ _ s = _
  simp [execNewInstanceStart, State.slackOf_pending h, hlt, State.modInst, State.putInst]

/-- LIVENESS_BEAT (R290 step 6, R379, R380). -/
theorem exec_livenessBeat (s : State) (k : Fin 3) (i : Fin 6) (region : List Byte) :
    let x := (s.kind k).insts[i]
    let now := s.instNow k i
    exec (.livenessBeat (k.val + 1) i.val region) s = .next (
      if 2 ^ 20 < region.length then s
      else if x.isNew = false ∧ (x.restartedAt.any fun t => now ≤ t + 200000) = true then
        s.putInst k i { x with restartedAt := none, lastBeat := now, region }
      else if x.isNew = true ∧ x.accepted = true
          ∧ (if x.beats = 0 then now ≤ x.startedAt + 200000 else now ≤ x.lastBeat + 8192) then
        s.putInst k i { x with beats := x.beats + 1, lastBeat := now, region, window := true }
      else s) := by
  have named : ¬ 3 ≤ k.val ∧ ¬ 6 ≤ i.val := by omega
  show execLivenessBeat _ _ _ s = _
  simp [execLivenessBeat, named, State.modInst, State.putInst]

end

/-- The steps at one of the instances (R290 to R292, R379, R380). -/
theorem slackWaterSteps : Claim.SlackWaterSteps := by
  intro s k i digest image bytes t h hi
  dsimp only
  simp only [exec_handOver h hi, exec_newInstanceStart h i, exec_livenessBeat, State.putInst]
  generalize (s.kind k).insts[i] = x
  refine ⟨?_, ?_, ?_, ?_, ?_, fun hr => ?_⟩
  · intro isNew running stopped written
    simp [isNew, running, stopped, written]
  · intro isNew running stopped written empty inTime
    simp [isNew, running, stopped, written, empty, inTime]
  · rintro (isNew | running | written | ⟨stopped, late⟩)
    · simp [isNew]
    · simp [running]
    · simp [not_or.mp written]
    · have : ¬ (x.handOver = [] ∧ s.instNow k i ≤ x.stoppedAt + 100000) := by
        rwa [not_and_or, not_le]
      simp [stopped, this]
  · intro stopped isNew record
    simp [stopped, isNew, record]
  · intro out
    rw [if_pos out]
  · rw [if_neg (not_lt.mpr hr)]
    refine ⟨?_, ?_, ?_⟩
    · intro isNew restarted inTime
      simp [isNew, restarted, inTime]
    · intro isNew accepted first later
      have inTime : if x.beats = 0 then s.instNow k i ≤ x.startedAt + 200000 else s.instNow k i ≤ x.lastBeat + 8192 := by
        split
        · exact first ‹_›
        · exact later ‹_›
      simp [isNew, accepted, inTime]
    · rintro (⟨isNew, accepted⟩ | ⟨isNew, late⟩)
      · simp [isNew, accepted]
      · have : ¬ (x.restartedAt.any fun t => s.instNow k i ≤ t + 200000) = true := by
          simpa [Option.any_eq_true] using late
        simp [isNew, this]

end Sys2Proof.Machine
end

section
/-! PROOF. Commit and fall-back of a Slack Water, and clock steps. -/

namespace Sys2Proof.Machine

open Sys2Proof

/-! ### The banks (R284) -/

@[simp] theorem FwKind.setIdle_active (x : FwKind) (bs : List Byte) : (x.setIdle bs).active = x.active := by
  unfold FwKind.setIdle; split <;> rfl
@[simp] theorem FwKind.setIdle_cur (x : FwKind) (bs : List Byte) : (x.setIdle bs).cur = x.cur := by
  unfold FwKind.setIdle; split <;> rfl
@[simp] theorem FwKind.setIdle_insts (x : FwKind) (bs : List Byte) : (x.setIdle bs).insts = x.insts := by
  unfold FwKind.setIdle; split <;> rfl
@[simp] theorem FwKind.setIdle_flash0 (x : FwKind) (bs : List Byte) : (x.setIdle bs).flash0 = x.flash0 := by
  unfold FwKind.setIdle; split <;> rfl
@[simp] theorem FwKind.setIdle_flash1 (x : FwKind) (bs : List Byte) : (x.setIdle bs).flash1 = x.flash1 := by
  unfold FwKind.setIdle; split <;> rfl
@[simp] theorem FwKind.setIdle_flashCur (x : FwKind) (bs : List Byte) : (x.setIdle bs).flashCur = x.flashCur := by
  unfold FwKind.setIdle; split <;> rfl
@[simp] theorem FwKind.idle_setIdle (x : FwKind) (bs : List Byte) : (x.setIdle bs).idle = bs := by
  cases h : x.active <;> simp [FwKind.idle, FwKind.setIdle, h]
@[simp] theorem FwKind.inForce_setIdle (x : FwKind) (bs : List Byte) : (x.setIdle bs).inForce = x.inForce := by
  cases h : x.active <;> simp [FwKind.inForce, FwKind.setIdle, h]

/-! ### Commit (R293) -/

@[simp] theorem extendSlot_self (ms : Vector (BitVec 384) 8) (k : Fin 8) (d : BitVec 384) :
    (extendSlot ms k d)[k] = digestOf (digestBytes ms[k] ++ digestBytes d) := by
  simp [extendSlot]

theorem extendSlot_ne (ms : Vector (BitVec 384) 8) {k j : Fin 8} (d : BitVec 384) (h : j ≠ k) :
    (extendSlot ms k d)[j] = ms[j] := by
  simp [extendSlot, Fin.val_inj, h.symm]

/-- No Slack Water is in progress any more. -/
def State.endSlack (s : State) : State := { s with fw := { s.fw with slack := none } }

@[simp] theorem State.kind_endSlack (s : State) (k : Fin 3) : s.endSlack.kind k = s.kind k := rfl

/-- A kind after steps 1 to 4 of a commit: the new image stands in the bank that becomes active. -/
def FwKind.commit (x : FwKind) (digest : BitVec 384) (image : List Byte) : FwKind :=
  { x.setIdle image with
    cur := digest, active := !x.active
    insts := x.insts.map fun y => { y with isNew := false, accepted := false, beats := 0, handOver := [] } }

@[simp] theorem FwKind.inForce_commit (x : FwKind) (digest : BitVec 384) (image : List Byte) :
    (x.commit digest image).inForce = image := by
  cases h : x.active <;> simp [FwKind.inForce, FwKind.commit, FwKind.setIdle, h]
@[simp] theorem FwKind.idle_commit (x : FwKind) (digest : BitVec 384) (image : List Byte) :
    (x.commit digest image).idle = x.inForce := by
  cases h : x.active <;> simp [FwKind.inForce, FwKind.idle, FwKind.commit, FwKind.setIdle, h]

/-- Steps 1 to 4 of a commit but for the record: the kind, MSEQ, its measurement slot, and the Slack Water marked. -/
def State.commitSteps (s : State) (k : Fin 3) (w : SlackWater) : State :=
  let t := { s.setKind k ((s.kind k).commit w.digest w.image) with mseq := s.mseq + 1 }
  { t with fw := { t.fw with ms := extendSlot s.fw.ms (slotOfKind k) w.digest, slack := some { w with committed := true } } }

@[simp] theorem State.kind_commitSteps (s : State) (k : Fin 3) (w : SlackWater) :
    (s.commitSteps k w).kind k = (s.kind k).commit w.digest w.image := by
  simp [State.commitSteps, State.kind, State.setKind]

section
variable {s : State} {k : Fin 3} {digest : BitVec 384} {image : List Byte}

/-- All instances of a kind have given their 64th beat. -/
def FwKind.ready (k : Fin 3) (x : FwKind) : Prop :=
  ∀ i ∈ instances k, x.insts[i].isNew = true ∧ x.insts[i].accepted = true ∧ 64 ≤ x.insts[i].beats

theorem FwKind.all_ready_iff {x : FwKind} :
    ((instances k).all fun i => x.insts[i].isNew && x.insts[i].accepted && 64 ≤ x.insts[i].beats) = true ↔ x.ready k := by
  simp [FwKind.ready, and_assoc]

/-- Steps 1 to 4, and a record to every domain. -/
theorem exec_slackWaterCommit_ready (h : s.fw.slack = some ⟨k.val + 1, digest, image, false⟩) (hr : (s.kind k).ready k) :
    ∃ fields, exec .slackWaterCommit s
      = .next ((s.commitSteps k ⟨k.val + 1, digest, image, false⟩).postAll 0x20 fw1Tile fields) := by
  show ∃ fields, execSlackWaterCommit s = .next (State.postAll _ _ _ fields)
  simp only [execSlackWaterCommit, h, State.slackOf_pending h, FwKind.all_ready_iff.mpr hr]
  exact ⟨_, rfl⟩

/-- Before the 64th beat of all of them nothing happens. -/
theorem exec_slackWaterCommit_early (h : s.fw.slack = some ⟨k.val + 1, digest, image, false⟩)
    (hr : ¬ (s.kind k).ready k) : exec .slackWaterCommit s = .next s := by
  show execSlackWaterCommit s = _
  simp only [execSlackWaterCommit, h, State.slackOf_pending h, Bool.eq_false_iff.mpr (mt FwKind.all_ready_iff.mp hr)]
  rfl

/-- Step 5, in a turn of its own (log 42). -/
theorem exec_slackWaterCommit_flash (h : s.fw.slack = some ⟨k.val + 1, digest, image, true⟩) :
    exec .slackWaterCommit s = .next (
      if (s.kind 0).insts[(0 : Fin 6)].serves then (s.setKind k ((s.kind k).flash (s.kind k).inForce)).endSlack
      else s) := by
  have hk : k.val + 1 ≤ 3 := k.isLt
  show execSlackWaterCommit s = _
  simp only [execSlackWaterCommit, h, State.slackOf_committed h rfl]
  simp [State.commitFlash, State.endSlack, hk]

/-- A new image in the flash copy that is not current, which becomes current. -/
theorem FwKind.flash_eq (x : FwKind) (bs : List Byte) :
    (x.flash bs).flashCur = !x.flashCur ∧ (x.flash bs).cur = x.cur ∧ (x.flash bs).active = x.active
      ∧ (if x.flashCur then (x.flash bs).flash0 else (x.flash bs).flash1) = bs
      ∧ (if x.flashCur then (x.flash bs).flash1 else (x.flash bs).flash0) = if x.flashCur then x.flash1 else x.flash0 := by
  cases h : x.flashCur <;> simp [FwKind.flash, h]

end

/-- The two turns of a commit (R288, R293, log 42). -/
theorem commitOfSlackWater : Claim.Commit := by
  intro s k digest image dom
  dsimp only
  refine ⟨fun h => ⟨fun hr hdom => ?_, fun hr => ?_⟩, fun h => ⟨fun hs => ?_, fun hs => ?_⟩⟩
  · obtain ⟨fields, e⟩ := exec_slackWaterCommit_ready h hr
    refine ⟨_, e, ?_⟩
    simp only [State.kind_postAll, State.kind_commitSteps, State.postAll_fw, State.postAll_mseq, State.seq_postAll _ _ _ _ hdom]
    refine ⟨rfl, rfl, rfl, rfl, FwKind.inForce_commit _ _ _, FwKind.idle_commit _ _ _, FwKind.setIdle_flashCur _ _,
      FwKind.setIdle_flash0 _ _, FwKind.setIdle_flash1 _ _, extendSlot_self _ _ _, fun j hj => extendSlot_ne _ _ hj,
      fun i _ => ?_, rfl⟩
    simp [FwKind.commit]
  · refine exec_slackWaterCommit_early h ?_
    simpa [FwKind.ready] using hr
  · rw [exec_slackWaterCommit_flash h, if_pos hs]
    obtain ⟨flashCur, cur, active, copy, other⟩ := (s.kind k).flash_eq (s.kind k).inForce
    refine ⟨_, rfl, rfl, rfl, rfl, ?_⟩
    rw [State.kind_endSlack, State.kind_setKind_self]
    exact ⟨flashCur, cur, active, copy, other⟩
  · rw [exec_slackWaterCommit_flash h, if_neg (Bool.eq_false_iff.mp hs)]

/-! ### Fall-back (R378, R380) -/

/-- A kind after a fall-back, its instances after it given. -/
def FwKind.fallBack (x : FwKind) (insts : Vector FwInst 6) : FwKind := { x with insts }.setIdle []

/-- The instances of a kind after a fall-back, each at the time of its own core. -/
def State.fallenInsts (s : State) (k : Fin 3) : Vector FwInst 6 :=
  Vector.ofFn fun (i : Fin 6) => (s.kind k).insts[i].fallBack (s.instNow k i)

section
variable {s : State} {k : Fin 3} {i : Fin 6} {digest : BitVec 384} {image : List Byte} {reason step : Nat}

theorem exec_fallBack_due (h : s.fw.slack = some ⟨k.val + 1, digest, image, false⟩) (hi : i ∈ instances k)
    (hd : s.fallBackStep k ⟨k.val + 1, digest, image, false⟩ i reason = some step) :
    ∃ fields, exec (.fallBack i.val reason) s
      = .next ((s.setKind k ((s.kind k).fallBack (s.fallenInsts k))).endSlack.postAll 0x22 fw1Tile fields) := by
  have named : ¬ (6 ≤ i.val ∨ (!((instances k).contains i)) = true) := by simp [hi]
  show ∃ fields, execFallBack i.val reason s = .next (State.postAll _ _ _ fields)
  simp only [execFallBack, h, State.slackOf_pending h, if_neg named, Fin.ofNat_eq_cast, Fin.cast_val_eq_self, hd]
  exact ⟨_, rfl⟩

theorem exec_fallBack_none (h : s.fw.slack = some ⟨k.val + 1, digest, image, false⟩)
    (hd : s.fallBackStep k ⟨k.val + 1, digest, image, false⟩ i reason = none) :
    exec (.fallBack i.val reason) s = .next s := by
  show execFallBack i.val reason s = _
  simp [execFallBack, h, State.slackOf_pending h, hd]

end

/-- One that is new or has stopped is an old one that starts again; any other stands. -/
theorem FwInst.fallBack_eq (x : FwInst) (now : Nat) :
    if x.isNew = true ∨ x.stopped = true then
      (x.fallBack now).isNew = false ∧ (x.fallBack now).stopped = false ∧ (x.fallBack now).restartedAt = some now
        ∧ (x.fallBack now).region = x.region
    else x.fallBack now = x := by
  split <;> rename_i h <;> simp [FwInst.fallBack, h]

/-- A fall-back that is due, and one that is not (R290, R378, R380). -/
theorem fallBackOfSlackWater : Claim.FallBack := by
  intro s k i j digest image reason step dom h hi
  dsimp only
  refine ⟨fun hd hdom => ?_, exec_fallBack_none h⟩
  obtain ⟨fields, e⟩ := exec_fallBack_due h hi hd
  have inst : (s.fallenInsts k)[j] = (s.kind k).insts[j].fallBack (s.instNow k j) := by simp [State.fallenInsts]
  refine ⟨_, e, ?_⟩
  simp only [State.kind_postAll, State.kind_endSlack, State.kind_setKind_self, State.postAll_fw, State.postAll_mseq,
    State.seq_postAll _ _ _ _ hdom, FwKind.fallBack, FwKind.setIdle_insts, inst]
  exact ⟨rfl, rfl, rfl, FwKind.setIdle_cur _ _, FwKind.setIdle_active _ _, FwKind.idle_setIdle _ _, FwKind.inForce_setIdle _ _,
    FwKind.setIdle_flash0 _ _, FwKind.setIdle_flash1 _ _, rfl, FwInst.fallBack_eq _ _⟩

/-! ### Clock steps (R19, R299) -/

/-- The readings that CLOCK_STEP brings. -/
def Firmware.readings (f : Firmware) (power inlet : Nat) : Firmware :=
  { f with power := power % 65536, inlet := inlet % 256, overtemp := 35 < inlet, overpower := 2800 < power }

/-- A die's clock step goes down while a reading is above its limit, up once both are back (R19). -/
def clockMoves (up : Bool) (old power inlet : Nat) : Bool :=
  (up && decide (old < 7) && !decide (35 < inlet) && !decide (2800 < power))
    || (!up && decide (0 < old) && (decide (35 < inlet) || decide (2800 < power)))

theorem clockMoves_iff {up : Bool} {old power inlet : Nat} : clockMoves up old power inlet = true ↔
    (up = false ∧ 0 < old ∧ (decide (35 < inlet) = true ∨ decide (2800 < power) = true))
    ∨ (up = true ∧ old < 7 ∧ decide (35 < inlet) = false ∧ decide (2800 < power) = false) := by
  cases up <;> simp [clockMoves, and_assoc]

/-- The clock step of a die one up or one down, with the readings. -/
def Firmware.moveClock (f : Firmware) (die : Fin 8) (up : Bool) (power inlet : Nat) : Firmware :=
  { f.readings power inlet with clk := f.clk.set die (if up then f.clk[die] + 1 else f.clk[die] - 1) }

section
variable {s : State} (die : Fin 8) (up : Bool) (power inlet : Nat)

theorem exec_clockStep_idle (h : (s.kind 0).insts[(0 : Fin 6)].serves = false) :
    exec (.clockStep die.val up power inlet) s = .next s := by
  show execClockStep die.val up power inlet s = _
  simp only [execClockStep, h]
  rfl

theorem exec_clockStep_serving (h : (s.kind 0).insts[(0 : Fin 6)].serves = true) :
    ∃ fields, exec (.clockStep die.val up power inlet) s = .next (
      if clockMoves up s.fw.clk[die] power inlet then
        State.postAll { s with fw := s.fw.moveClock die up power inlet } 0x21 fw0Tile fields
      else { s with fw := s.fw.readings power inlet }) := by
  show ∃ fields, execClockStep die.val up power inlet s = .next (if _ = true then State.postAll _ _ _ fields else _)
  simp only [execClockStep, h, dif_pos die.isLt]
  exact ⟨_, rfl⟩

end

/-- A clock step that happens, and one that does not (R19, R299). -/
theorem clockSteps : Claim.ClockSteps := by
  intro s die up power inlet dom hdom
  dsimp only
  refine ⟨exec_clockStep_idle die up power inlet, fun hs falls rises => ?_, fun hs moves => ?_⟩
  all_goals obtain ⟨fields, e⟩ := exec_clockStep_serving die up power inlet hs
  · have still : ¬ clockMoves up s.fw.clk[die] power inlet = true := fun m => (clockMoves_iff.mp m).elim falls rises
    rw [e, if_neg still]
    rfl
  · rw [e, if_pos (clockMoves_iff.mpr moves)]
    refine ⟨_, rfl, ?_⟩
    rw [State.postAll_fw, State.seq_postAll _ _ _ _ hdom]
    refine ⟨rfl, ?_, fun d hd => ?_, rfl⟩
    · simp [Firmware.moveClock]
    · simp [Firmware.moveClock, Fin.val_inj, hd.symm]

end Sys2Proof.Machine
end

section
/-! PROOF. DEVICE_RESET: the start of one kind, then of the device, then the claim; and the statement as a whole. -/

namespace Sys2Proof.Machine

open Sys2Proof

/-! ### The start of one kind (R286, R287) -/

/-- The flash copy that is marked current, and the other. -/
def FwKind.now (x : FwKind) : List Byte := if x.flashCur then x.flash1 else x.flash0
def FwKind.other (x : FwKind) : List Byte := if x.flashCur then x.flash0 else x.flash1

theorem FwKind.copies_eq (x : FwKind) : x.copies = (x.now, x.other) := by
  unfold FwKind.copies FwKind.now FwKind.other
  split <;> rfl

/-- The copy that start takes of a kind: the current one if it is accepted, else the other, else none (R287, R375). -/
def FwKind.taken (k : Fin 3) (x : FwKind) : List Byte :=
  if verify k x x.now = .accepted then x.now else if verify k x x.other = .accepted then x.other else []

/-- BOOT of a kind: the current copy, the other, none (R287). -/
def FwKind.bootCode (k : Fin 3) (x : FwKind) : Nat :=
  if verify k x x.now = .accepted then 0 else if verify k x x.other = .accepted then 1 else 2

theorem verify_kept (k : Fin 3) (x : FwKind) (bs : List Byte) : verify k x.kept bs = verify k x bs := rfl

theorem FwKind.read_kept (k : Fin 3) (x : FwKind) :
    x.kept.read k = { x.kept with found := x.taken k, boot := x.bootCode k } := by
  have copies : x.kept.copies = (x.now, x.other) := x.copies_eq
  unfold FwKind.read FwKind.taken FwKind.bootCode
  simp only [verify_kept, copies]
  by_cases h1 : verify k x x.now = .accepted
  · simp [h1]
  · by_cases h2 : verify k x x.other = .accepted
    · simp [h1, h2]
    · simp only [if_neg h1, if_neg h2]; rfl

/-- An accepted image measured and placed in bank A (R287 step 3). -/
def FwKind.placed (x : FwKind) : FwKind :=
  if x.found = [] then x
  else { x with bankA := x.found, bankB := [], active := false, found := [], cur := imageDigest x.found }

/-- A kind whose image runs once start has completed, and one that has none. -/
theorem FwKind.run_placed_read_kept (k : Fin 3) (x : FwKind) :
    ((x.kept.read k).placed.run k).settleFlash
      = if x.taken k = [] then { x.kept with boot := x.bootCode k }
        else { x.kept with
          boot := x.bootCode k, bankA := x.taken k, cur := imageDigest (x.taken k)
          insts := Vector.ofFn fun (i : Fin 6) => ({ running := (instances k).contains i } : FwInst) } := by
  rw [FwKind.read_kept]
  by_cases h : x.taken k = []
  · rw [if_pos h, h]; rfl
  · rw [if_neg h, FwKind.placed, if_neg h, FwKind.run, if_neg h]; rfl

/-! ### The start of the device (R287) -/

theorem digestBytes_zero : digestBytes 0 = leBytes 48 0 := congrArg (leBytes 48) BitVec.toNat_zero

theorem Firmware.startKind_none {f : Firmware} {j : Fin 3} (h : f.kinds[j].found = []) : f.startKind j = f := if_pos h

theorem Firmware.startKind_some {f : Firmware} {j : Fin 3} (h : f.kinds[j].found ≠ []) :
    f.startKind j = { f with kinds := f.kinds.set j f.kinds[j].placed
                             ms := extendSlot f.ms (slotOfKind j) (imageDigest f.kinds[j].found) } := by
  rw [FwKind.placed, if_neg h]
  exact if_neg h

theorem Firmware.startKind_kinds (f : Firmware) (j k : Fin 3) :
    (f.startKind j).kinds[k] = if j = k then f.kinds[k].placed else f.kinds[k] := by
  by_cases h : f.kinds[j].found = []
  · rw [Firmware.startKind_none h]
    split
    · next e => rw [← e, FwKind.placed, if_pos h]
    · rfl
  · rw [Firmware.startKind_some h]
    split
    · next e => subst e; simp
    · next e => simp [Fin.val_inj, e]

theorem Firmware.startKind_ms (f : Firmware) (j : Fin 3) (n : Fin 8) :
    (f.startKind j).ms[n] = if n = slotOfKind j ∧ f.kinds[j].found ≠ [] then
      digestOf (digestBytes f.ms[n] ++ digestBytes (imageDigest f.kinds[j].found)) else f.ms[n] := by
  by_cases h : f.kinds[j].found = []
  · rw [Firmware.startKind_none h, if_neg fun e => e.2 h]
  · rw [Firmware.startKind_some h]
    by_cases e : n = slotOfKind j
    · rw [if_pos ⟨e, h⟩, e]
      exact extendSlot_self _ _ _
    · rw [if_neg fun e' => e e'.1]
      exact extendSlot_ne _ _ e

/-- Step 3 of the start: the kinds in order. -/
def Firmware.startAll (f : Firmware) : Firmware := ((f.startKind 0).startKind 1).startKind 2

theorem Firmware.startAll_kinds (f : Firmware) (k : Fin 3) : f.startAll.kinds[k] = f.kinds[k].placed := by
  unfold Firmware.startAll
  rw [Firmware.startKind_kinds, Firmware.startKind_kinds, Firmware.startKind_kinds]
  fin_cases k <;> rfl

theorem slotOfKind_inj : ∀ k j : Fin 3, slotOfKind k = slotOfKind j ↔ k = j := by decide

theorem slotOfKind_ne {n : Fin 8} (h : n = 0 ∨ 4 ≤ n) : ∀ k : Fin 3, n ≠ slotOfKind k := by
  revert n
  decide

theorem Firmware.startAll_slot (f : Firmware) (k : Fin 3) :
    f.startAll.ms[slotOfKind k] = if f.kinds[k].found = [] then f.ms[slotOfKind k] else
      digestOf (digestBytes f.ms[slotOfKind k] ++ digestBytes (imageDigest f.kinds[k].found)) := by
  unfold Firmware.startAll
  simp only [Firmware.startKind_ms, Firmware.startKind_kinds, slotOfKind_inj]
  fin_cases k <;> simp [ite_not]

theorem Firmware.startAll_otherSlot (f : Firmware) {n : Fin 8} (h : ∀ k, n ≠ slotOfKind k) : f.startAll.ms[n] = f.ms[n] := by
  unfold Firmware.startAll
  rw [Firmware.startKind_ms, if_neg fun e => h _ e.1, Firmware.startKind_ms, if_neg fun e => h _ e.1,
    Firmware.startKind_ms, if_neg fun e => h _ e.1]

@[simp] theorem Firmware.startKind_slack (f : Firmware) (j : Fin 3) : (f.startKind j).slack = f.slack := by
  by_cases h : f.kinds[j].found = []
  · rw [Firmware.startKind_none h]
  · rw [Firmware.startKind_some h]

theorem Firmware.goOn_none {f : Firmware} {links : Vector Link 4} (h : f.kinds[(0 : Fin 3)].found = []) :
    f.goOn links = f := if_pos h

theorem Firmware.goOn_some {f : Firmware} {links : Vector Link 4} (h : f.kinds[(0 : Fin 3)].found ≠ []) :
    f.goOn links = f.startAll.release links := if_neg h

/-- Steps 1 and 2 of the boot ROM: itself and the fuses measured, the images read. -/
def Firmware.imagesRead (f : Firmware) : Firmware :=
  let kinds := f.kinds.map FwKind.kept
  { kinds := Vector.ofFn fun (k : Fin 3) => kinds[k].read k
    ms := extendSlot (extendSlot (Vector.replicate 8 0) 0 Config.bootRomDigest) 4
      (Config.fuseDigest (kinds.toList.flatMap fun x => [x.rsaHash, x.slhHash]) (kinds.toList.map FwKind.minSvn)) }

theorem Firmware.boot_eq (f : Firmware) (links : Vector Link 4) : f.boot links = f.imagesRead.goOn links := rfl

theorem Firmware.imagesRead_kinds (f : Firmware) (k : Fin 3) : f.imagesRead.kinds[k] = f.kinds[k].kept.read k := by
  simp [Firmware.imagesRead]

theorem Firmware.imagesRead_found (f : Firmware) (k : Fin 3) : f.imagesRead.kinds[k].found = f.kinds[k].taken k := by
  rw [Firmware.imagesRead_kinds, FwKind.read_kept]

theorem Firmware.imagesRead_ms0 (f : Firmware) :
    f.imagesRead.ms[(0 : Fin 8)] = digestOf (leBytes 48 0 ++ leBytes 48 Config.bootRomDigest.toNat) := by
  rw [Firmware.imagesRead, extendSlot_ne _ _ (by decide), extendSlot_self, ← digestBytes_zero]
  exact congrArg (fun d => digestOf (digestBytes d ++ _)) (by simp)

theorem Firmware.imagesRead_ms (f : Firmware) {n : Fin 8} (h0 : n ≠ 0) (h4 : n ≠ 4) : f.imagesRead.ms[n] = 0 := by
  rw [Firmware.imagesRead, extendSlot_ne _ _ h4, extendSlot_ne _ _ h0]
  simp

section
variable (f : Firmware) (links : Vector Link 4)

/-- No firmware core leaves reset without an image for MGMT (R287). -/
theorem Firmware.boot_mgmtUp : (f.boot links).mgmtUp = true ↔ f.kinds[(0 : Fin 3)].taken 0 ≠ [] := by
  rw [← Firmware.imagesRead_found, Firmware.boot_eq]
  by_cases h : f.imagesRead.kinds[(0 : Fin 3)].found = []
  · rw [Firmware.goOn_none h]
    exact iff_of_false Bool.false_ne_true (not_not.mpr h)
  · rw [Firmware.goOn_some h]
    exact iff_of_true rfl h

theorem Firmware.boot_up (h : (f.boot links).mgmtUp = true) : f.boot links = f.imagesRead.startAll.release links := by
  rw [Firmware.boot_mgmtUp, ← Firmware.imagesRead_found] at h
  rw [Firmware.boot_eq, Firmware.goOn_some h]

theorem Firmware.boot_down (h : (f.boot links).mgmtUp = false) : f.boot links = f.imagesRead := by
  rw [← Bool.not_eq_true, Firmware.boot_mgmtUp, not_not, ← Firmware.imagesRead_found] at h
  rw [Firmware.boot_eq, Firmware.goOn_none h]

theorem Firmware.boot_slack : (f.boot links).slack = none := by
  cases h : (f.boot links).mgmtUp with
  | false => rw [Firmware.boot_down f links h]; rfl
  | true =>
    rw [Firmware.boot_up f links h]
    simp only [Firmware.release, Firmware.startAll, Firmware.startKind_slack]
    rfl

theorem Firmware.boot_kind_up (h : (f.boot links).mgmtUp = true) (k : Fin 3) :
    (f.boot links).kinds[k] = ((f.kinds[k].kept.read k).placed.run k).settleFlash := by
  rw [Firmware.boot_up f links h, ← Firmware.imagesRead_kinds, ← Firmware.startAll_kinds]
  simp [Firmware.release]

/-- A measurement slot of a kind (R288). -/
theorem Firmware.boot_slot (k : Fin 3) :
    (f.boot links).ms[slotOfKind k] = if (f.boot links).mgmtUp = false ∨ f.kinds[k].taken k = [] then 0
      else digestOf (leBytes 48 0 ++ leBytes 48 (imageDigest (f.kinds[k].taken k)).toNat) := by
  have fresh : f.imagesRead.ms[slotOfKind k] = 0 :=
    f.imagesRead_ms (slotOfKind_ne (.inl rfl) k).symm (slotOfKind_ne (.inr (by decide)) k).symm
  have cxl : slotOfKind k ≠ 5 := (slotOfKind_ne (.inr (by decide)) k).symm
  cases up : (f.boot links).mgmtUp with
  | false => rw [if_pos (.inl rfl), Firmware.boot_down f links up, fresh]
  | true =>
    rw [Firmware.boot_up f links up, Firmware.release, extendSlot_ne _ _ cxl, Firmware.startAll_slot,
      Firmware.imagesRead_found, fresh, digestBytes_zero]
    exact if_congr (by simp) rfl rfl

/-- A kind after a start without an image for MGMT. -/
theorem Firmware.boot_kind_down (h : (f.boot links).mgmtUp = false) (k : Fin 3) :
    (f.boot links).kinds[k] = { f.kinds[k].kept with found := f.kinds[k].taken k, boot := f.kinds[k].bootCode k } := by
  rw [Firmware.boot_down f links h, Firmware.imagesRead_kinds, FwKind.read_kept]

/-- A kind that has no image, where start went on. -/
theorem Firmware.boot_kind_none (h : (f.boot links).mgmtUp = true) {k : Fin 3} (ht : f.kinds[k].taken k = []) :
    (f.boot links).kinds[k] = { f.kinds[k].kept with boot := f.kinds[k].bootCode k } := by
  rw [Firmware.boot_kind_up f links h, FwKind.run_placed_read_kept, if_pos ht]

/-- A kind that has one: it runs from bank A. -/
theorem Firmware.boot_kind_some (h : (f.boot links).mgmtUp = true) {k : Fin 3} (ht : f.kinds[k].taken k ≠ []) :
    (f.boot links).kinds[k] = { f.kinds[k].kept with
      boot := f.kinds[k].bootCode k, bankA := f.kinds[k].taken k, cur := imageDigest (f.kinds[k].taken k)
      insts := Vector.ofFn fun (i : Fin 6) => ({ running := (instances k).contains i } : FwInst) } := by
  rw [Firmware.boot_kind_up f links h, FwKind.run_placed_read_kept, if_neg ht]

/-- Fuses and boot flash stand, bank A is active, and BOOT names the copy (R286, R287). -/
theorem Firmware.boot_kept (k : Fin 3) :
    let x := f.kinds[k]
    let y := (f.boot links).kinds[k]
    y.rsaHash = x.rsaHash ∧ y.slhHash = x.slhHash ∧ y.minSvn = x.minSvn ∧ y.flash0 = x.flash0 ∧ y.flash1 = x.flash1
      ∧ y.flashCur = x.flashCur ∧ y.active = false ∧ y.boot = x.bootCode k := by
  dsimp only
  cases up : (f.boot links).mgmtUp with
  | false => rw [Firmware.boot_kind_down f links up]; exact ⟨rfl, rfl, rfl, rfl, rfl, rfl, rfl, rfl⟩
  | true =>
    by_cases h : f.kinds[k].taken k = []
    · rw [Firmware.boot_kind_none f links up h]; exact ⟨rfl, rfl, rfl, rfl, rfl, rfl, rfl, rfl⟩
    · rw [Firmware.boot_kind_some f links up h]; exact ⟨rfl, rfl, rfl, rfl, rfl, rfl, rfl, rfl⟩

/-- A kind that start left out has no image in a bank, and none of its instances runs. -/
theorem Firmware.boot_idle {k : Fin 3} (h : (f.boot links).mgmtUp = false ∨ f.kinds[k].taken k = []) :
    (f.boot links).kinds[k].bankA = [] ∧ (f.boot links).kinds[k].cur = 0 ∧ (f.boot links).ms[slotOfKind k] = 0
      ∧ ∀ i : Fin 6, (f.boot links).kinds[k].insts[i].running = false := by
  have still (i : Fin 6) : (f.kinds[k].kept).insts[i].running = false := by simp [FwKind.kept]
  rw [Firmware.boot_slot, if_pos h]
  cases up : (f.boot links).mgmtUp with
  | false => rw [Firmware.boot_kind_down f links up]; exact ⟨rfl, rfl, rfl, still⟩
  | true =>
    rw [Firmware.boot_kind_none f links up (h.resolve_left (by simp [up]))]; exact ⟨rfl, rfl, rfl, still⟩

/-- A kind whose image start has placed is measured and runs. -/
theorem Firmware.boot_runs (h : (f.boot links).mgmtUp = true) {k : Fin 3} (ht : f.kinds[k].taken k ≠ []) :
    (f.boot links).kinds[k].bankA = f.kinds[k].taken k ∧ (f.boot links).kinds[k].cur = imageDigest (f.kinds[k].taken k)
      ∧ (f.boot links).ms[slotOfKind k] = digestOf (leBytes 48 0 ++ leBytes 48 (imageDigest (f.kinds[k].taken k)).toNat)
      ∧ ∀ i : Fin 6, (f.boot links).kinds[k].insts[i].running = (instances k).contains i := by
  rw [Firmware.boot_slot, if_neg (not_or.mpr ⟨ne_false_of_eq_true h, ht⟩), Firmware.boot_kind_some f links h ht]
  exact ⟨rfl, rfl, rfl, fun i => by simp⟩

/-- The slots that are no kind's and not the CXL configuration's stand as the boot ROM left them (R288). -/
theorem Firmware.boot_otherSlot {n : Fin 8} (h : n = 0 ∨ 4 ≤ n) (h5 : n ≠ 5) :
    (f.boot links).ms[n] = f.imagesRead.ms[n] := by
  cases up : (f.boot links).mgmtUp with
  | false => rw [Firmware.boot_down f links up]
  | true =>
    rw [Firmware.boot_up f links up, Firmware.release, extendSlot_ne _ _ h5]
    exact f.imagesRead.startAll_otherSlot (slotOfKind_ne h)

end

/-- Of storage a reset keeps the dump region while a dump stands (R388, log 4). -/
theorem byteAt_reset (s : State) (a : Nat) :
    Memory.read (if s.dump.isSome then s.mem.filter fun c => decide (c.1 < 0x40000000) else []) a
      = if s.dump.isSome ∧ a < 0x40000000 then s.byteAt a else 0 := by
  by_cases h : s.dump.isSome
  · simp only [h, if_true, true_and]
    rw [Memory.read_filter s.mem fun n => decide (n < 0x40000000)]
    simp [State.byteAt]
  · simp [h, Memory.read]

/-- What a reset leaves, and the start (R6, R286 to R288, R388). -/
theorem deviceReset : Claim.DeviceReset := by
  intro s k a
  refine ⟨_, rfl, rfl, rfl, rfl, rfl, rfl, rfl, rfl, rfl, rfl, rfl, rfl, rfl, rfl, rfl, rfl, rfl, rfl, rfl, rfl, rfl, rfl,
    Firmware.boot_slack _ _, byteAt_reset s a, ?_, ?_, ?_, ?_⟩
  · obtain ⟨rsa, slh, svn, flash0, flash1, flashCur, active, boot⟩ :=
      s.fw.boot_kept (s.links.map fun l => { capacity := l.capacity }) k
    refine ⟨rsa, slh, svn, flash0, flash1, flashCur, active, boot, ?_, fun up ht => Firmware.boot_runs _ _ up ht,
      fun ht => Firmware.boot_idle _ _ (.inr ht), fun down => ?_⟩
    · rintro rfl
      exact Firmware.boot_mgmtUp _ _
    · obtain ⟨bankA, _, ms, insts⟩ := Firmware.boot_idle s.fw _ (k := k) (.inl down)
      exact ⟨bankA, congrArg FwKind.found (Firmware.boot_kind_down _ _ down k), ms, insts⟩
  · exact (Firmware.boot_otherSlot _ _ (.inl rfl) (by decide)).trans (Firmware.imagesRead_ms0 _)
  · exact (Firmware.boot_otherSlot _ _ (.inr (by decide)) (by decide)).trans (Firmware.imagesRead_ms _ (by decide) (by decide))
  · exact (Firmware.boot_otherSlot _ _ (.inr (by decide)) (by decide)).trans (Firmware.imagesRead_ms _ (by decide) (by decide))

/-- Settles O53: the start, the steps, commit and fall-back of a Slack Water, and clock steps. -/
theorem firmwareAndPower : Obligations.FirmwareAndPower :=
  ⟨deviceReset, slackWaterSteps, commitOfSlackWater, fallBackOfSlackWater, clockSteps⟩

end Sys2Proof.Machine
end

section
/-! SUPPORT. What the loss of a part of the device leaves as it was, said once: a VT that has ENDED stays so, and beyond VTs, gangs,
launches, futures, commands and what memory accesses change, nothing moves. First the VTs through every access to memory and
every post (R237, R316). -/

namespace Sys2Proof.Machine

open Sys2Proof

/-! ### A VT that has ENDED stays so -/

/-- A VT that has ENDED and is parked nowhere. -/
def VT.Gone (v : VT) : Prop := v.st = .ended ∧ v.park = none

/-- A VT that is parked nowhere if it has ENDED. -/
def VT.Sound (v : VT) : Prop := v.st = .ended → v.park = none

/-- `v'` is gone where `v` was, and sound where `v` was. -/
structure VT.Onward (v v' : VT) : Prop where
  gone : v.Gone → v'.Gone
  sound : v.Sound → v'.Sound

theorem VT.Onward.refl (v : VT) : v.Onward v := ⟨id, id⟩

theorem VT.Onward.trans {u v w : VT} (h : u.Onward v) (h' : v.Onward w) : u.Onward w :=
  ⟨fun o => h'.gone (h.gone o), fun o => h'.sound (h.sound o)⟩

theorem VT.Onward.of_same {v v' : VT} (hst : v'.st = v.st) (hpark : v'.park = v.park) : v.Onward v' := by
  constructor
  · intro h; exact ⟨hst.trans h.1, hpark.trans h.2⟩
  · intro h e; exact hpark.trans (h (hst.symm.trans e))

/-- A parked VT is not gone; a sound one has not ENDED. -/
theorem VT.Onward.of_parked {v v' : VT} (hp : v.park ≠ none) (he : v'.st = .ended → v.st = .ended) : v.Onward v' :=
  ⟨fun h => absurd h.2 hp, fun h e => absurd (h (he e)) hp⟩

theorem VT.Onward.of_gone {v v' : VT} (h : v'.Gone) : v.Onward v' := ⟨fun _ => h, fun _ _ => h.2⟩

/-- The VT `id` is there and gone; is there and sound. -/
def State.VtGone (s : State) (id : Nat) : Prop := ∃ v, s.vt? id = some v ∧ v.Gone
def State.VtSound (s : State) (id : Nat) : Prop := ∃ v, s.vt? id = some v ∧ v.Sound

/-- Every VT of `s` is there in `t`, gone where it was, and sound where it was. -/
def State.Onward (s t : State) : Prop := ∀ id v, s.vt? id = some v → ∃ v', t.vt? id = some v' ∧ v.Onward v'

namespace State.Onward

variable {s t u : State} {id : Nat}

theorem gone (h : s.Onward t) : s.VtGone id → t.VtGone id
  | ⟨v, hv, ho⟩ => let ⟨v', hv', hon⟩ := h id v hv; ⟨v', hv', hon.gone ho⟩

theorem sound (h : s.Onward t) : s.VtSound id → t.VtSound id
  | ⟨v, hv, ho⟩ => let ⟨v', hv', hon⟩ := h id v hv; ⟨v', hv', hon.sound ho⟩

theorem of_vts (h : t.vts = s.vts) : s.Onward t := by
  intro id v hv
  refine ⟨v, ?_, .refl v⟩
  rw [State.vt?, h]; exact hv

theorem refl (s : State) : s.Onward s := of_vts rfl

theorem trans (h : s.Onward t) (h' : t.Onward u) : s.Onward u := by
  intro id v hv
  obtain ⟨v', hv', h1⟩ := h id v hv
  obtain ⟨w, hw, h2⟩ := h' id v' hv'
  exact ⟨w, hw, h1.trans h2⟩

theorem of_mapVals (f : Nat → VT → VT) (hf : ∀ k (v : VT), v.Onward (f k v)) (h : t.vts = s.vts.mapVals f) : s.Onward t := by
  intro id v hv
  refine ⟨f id v, ?_, hf id v⟩
  rw [State.vt?, h, SMap.get?_mapVals, show s.vts.get? id = some v from hv]; rfl

theorem setVt {w : VT} (hw : ∀ v : VT, s.vt? id = some v → v.Onward w) : s.Onward (s.setVt id w) := by
  intro n v hv
  by_cases h : n = id
  · subst h; exact ⟨w, s.vt?_setVt_self n w, hw v hv⟩
  · exact ⟨v, (s.vt?_setVt_ne w h).trans hv, .refl v⟩

theorem modVt {f : VT → VT} (hf : ∀ v : VT, v.Onward (f v)) : s.Onward (s.modVt id f) := by
  unfold State.modVt
  split
  · next v hv => exact setVt fun v' hv' => by cases hv.symm.trans hv'; exact hf v
  · exact refl s

theorem foldl {σ α : Type} (π : σ → State) {f : σ → α → σ} (h : ∀ r a, (π r).Onward (π (f r a))) (l : List α) (r : σ) :
    (π r).Onward (π (l.foldl f r)) := by
  induction l generalizing r with
  | nil => exact refl _
  | cons a l ih => exact (h r a).trans (ih _)

/-- A VT that one step of a run through a list ends is gone at the end. -/
theorem foldl_gone {σ α : Type} (π : σ → State) {f : σ → α → σ} (h : ∀ r a, (π r).Onward (π (f r a))) {l : List α} {a : α}
    (ha : a ∈ l) (hend : ∀ r, (π r).VtSound id → (π (f r a)).VtGone id) (r : σ) (hr : (π r).VtSound id) :
    (π (l.foldl f r)).VtGone id := by
  induction l generalizing r with
  | nil => cases ha
  | cons b l ih =>
    rw [List.foldl_cons]
    rcases List.mem_cons.mp ha with rfl | ha
    · exact (foldl π h l _).gone (hend r hr)
    · exact ih ha _ ((h r b).sound hr)

theorem ite {p : Prop} [Decidable p] (ht : p → s.Onward t) (hu : ¬ p → s.Onward u) : s.Onward (if p then t else u) := by
  split
  · exact ht ‹_›
  · exact hu ‹_›

end State.Onward

/-! ### VTs and memory -/

theorem State.notify_onward (s : State) (loc n : Nat) : s.Onward (s.notify loc n) := by
  refine .of_mapVals _ (fun _ v => ?_) rfl
  dsimp only
  split
  · next hp =>
    exact .of_parked (by simp [hp]) fun e => by (repeat' split at e) <;> exact e
  · exact .refl v

theorem State.l2Revert_onward (s : State) (line : Nat) : s.Onward (s.l2Revert line) := by
  have back (t : State) (l : L2Line) : (t.fromStorage l).vts = t.vts := by unfold State.fromStorage; split <;> rfl
  unfold State.l2Revert
  split
  · split
    · exact .trans (.of_vts (back (s.l2Drop line) _)) (State.notify_onward _ _ _)
    · exact .of_vts rfl
  · exact .refl s

theorem State.l2Evict_onward (s : State) (l : L2Line) : s.Onward (s.l2Evict l) :=
  .ite (fun _ => .trans (t := (s.l2Drop l.line).notify (l.line * 64) 64)
      (.trans (.of_vts (t := s.l2Drop l.line) rfl) (State.notify_onward _ _ _))
      (.ite (fun _ => .of_vts rfl) fun _ => .refl _))
    fun _ => s.l2Revert_onward l.line

theorem State.l2Insert_onward {s t : State} {l : L2Line} (h : s.l2Insert l = some t) : s.Onward t := by
  unfold State.l2Insert at h
  split at h
  · cases h
  · split at h
    · cases h; exact .of_vts rfl
    · split at h
      · cases h
      · next v _ => cases h; exact (s.l2Evict_onward v).trans (.of_vts rfl)

theorem State.l2Touch_onward (s : State) (k : Caching) (line : Nat) (write : Bool) : s.Onward (s.l2Touch k line write) := by
  unfold State.l2Touch
  refine .ite (fun _ => .refl s) fun _ => ?_
  split
  · exact .of_vts rfl
  · refine .ite (fun _ => ?_) fun _ => .refl s
    cases h : s.l2Insert _ with
    | none => exact .refl s
    | some t => exact State.l2Insert_onward h

theorem State.l2TouchAll_onward (s : State) (k : Caching) (lines : List Nat) (write : Bool) :
    s.Onward (s.l2TouchAll k lines write) := by
  unfold State.l2TouchAll
  exact State.Onward.foldl (fun s : State => s) (fun s l => s.l2Touch_onward k l write) lines s

theorem State.homeWrite_onward (s : State) (k : Caching) (loc : Nat) (bs : List (Byte × Bool)) :
    s.Onward (s.homeWrite k loc bs) := by
  unfold State.homeWrite
  split
  · exact .trans (.of_vts rfl) (State.notify_onward (s.storageWrite loc bs) loc bs.length)
  · refine .trans ?_ (State.notify_onward _ _ _)
    exact (s.l2TouchAll_onward k (linesOf loc bs.length) true).trans (.of_vts rfl)

/-! ### VTs and accesses -/

/-- Whatever comes of an access, the state that it leaves is one of these. -/
def Access.Leaves {α : Type} (P : State → Prop) : Access α → Prop
  | .ok _ t | .fault _ t | .wait t => P t
  | .violation => True

theorem Access.Leaves.imp {α : Type} {P Q : State → Prop} {a : Access α} (h : a.Leaves P) (hPQ : ∀ t, P t → Q t) : a.Leaves Q := by
  cases a with
  | ok | fault | wait => exact hPQ _ h
  | violation => trivial

theorem Access.Leaves.bind {α β : Type} {P : State → Prop} {a : Access α} {f : α → State → Access β} (ha : a.Leaves P)
    (hf : ∀ x t, P t → (f x t).Leaves P) : (a.bind f).Leaves P := by
  cases a with
  | ok x t => exact hf x t ha
  | fault | violation | wait => exact ha

theorem State.cordonLoss_vts (s : State) (k : AccessKind) (loc n : Nat) : (s.cordonLoss k loc n).vts = s.vts := by
  have cleared : ((linesOf loc n).foldl (fun s l =>
      if s.unreachable (l * 64) && s.storageReachable (l * 64) then s.zeroBytes (l * 64) 64 else s) s).vts = s.vts :=
    List.foldlRecOn (motive := fun t : State => t.vts = s.vts) _ _ rfl fun t h l _ => by
      split
      · exact h
      · exact h
  cases k with
  | load | fetch => rfl
  | store | atomic => exact cleared

theorem State.translate_onward (s : State) (dom va : Nat) : (s.translate dom va).Leaves s.Onward := by
  have wanted : s.Onward (s.wantAs (s.walkSlices dom va)) := by
    unfold State.wantAs State.want
    split
    · exact .ite (fun _ => .refl s) fun _ => .of_vts rfl
    all_goals exact .refl s
  have walked (t : State) : t.Onward (t.walkTouch dom va) := t.l2TouchAll_onward _ _ _
  unfold State.translate
  split
  · dsimp only
    split
    · exact wanted.trans (.of_vts rfl)
    · exact wanted.trans (.ite (fun _ => .refl _) fun _ => .of_vts rfl)
    · exact wanted.trans (walked _)
    · split <;> exact wanted.trans (walked _)
  · exact .refl s

theorem State.checkTrans_onward (s : State) (k : AccessKind) (t : Option Trans) : (s.checkTrans k t).Leaves s.Onward := by
  unfold State.checkTrans
  split
  · exact .refl s
  · split
    · trivial
    · split
      · exact .refl s
      · split <;> exact .refl s

theorem State.accessWalk_onward (s : State) (dom va : Nat) (k : AccessKind) : (s.accessWalk dom va k).Leaves s.Onward :=
  (s.translate_onward dom va).bind fun _ t h => (t.checkTrans_onward k _).imp fun _ => h.trans

theorem State.reach_onward (s : State) (k : AccessKind) (loc n : Nat) : (s.reach k loc n).Leaves s.Onward := by
  unfold State.reach
  split
  · exact .of_vts (s.cordonLoss_vts k loc n)
  · exact .refl s

theorem State.gate_vts {s t : State} {w : Requester} {l : List Nat} (h : s.gate w l = .ok t ∨ s.gate w l = .error t) :
    t.vts = s.vts := by
  have rejected (l : List Nat) (s : State) : (l.foldl (fun s k => s.reject w k) s).vts = s.vts :=
    List.foldlRecOn (motive := fun t : State => t.vts = s.vts) l _ rfl fun _ h _ _ => h
  unfold State.gate at h
  dsimp only at h
  split at h
  · obtain h | h := h <;> cases h
    rfl
  · obtain h | h := h <;> cases h
    exact rejected _ _

/-! ### VTs and posts -/

theorem State.postSlot_onward (s : State) (dom va : Nat) : (s.postSlot dom va).Leaves s.Onward := by
  unfold State.postSlot
  dsimp only
  split
  · next h => exact .of_vts (State.gate_vts (.inr h))
  · next t h =>
    have taken : s.Onward t := .of_vts (State.gate_vts (.inl h))
    refine ((t.accessWalk_onward dom va .store).imp fun _ => taken.trans).bind fun x u hu =>
      Access.Leaves.bind ?_ fun _ _ h => h
    refine ((u.reach_onward .store x.loc 128).imp fun _ => hu.trans).bind fun _ _ h => ?_
    split <;> exact h

theorem State.tryPost_onward (s : State) (p : DuePost) : s.Onward (s.tryPost p).1 := by
  have slot := s.postSlot_onward p.domain p.va
  have back {t : State} (h : s.Onward t) : s.Onward { t with wants := s.wants } := h.trans (.of_vts rfl)
  unfold State.tryPost
  cases h : s.postSlot p.domain p.va with
  | violation => exact .refl s
  | ok x t =>
    rw [h] at slot
    exact (back slot).trans (.trans (.trans (State.homeWrite_onward _ _ _ _) (State.homeWrite_onward _ _ _ _))
      (State.homeWrite_onward _ _ _ _))
  | fault | wait => rw [h] at slot; exact back slot

theorem State.postOrWait_onward (s : State) (p : DuePost) : s.Onward (s.postOrWait p) := by
  have tried := s.tryPost_onward p
  unfold State.postOrWait
  refine .ite (fun _ => .of_vts rfl) fun _ => ?_
  split
  · next h => rw [h] at tried; exact tried
  · next h => rw [h] at tried; exact tried.trans (.of_vts rfl)

theorem State.post_onward (s : State) (dom typ source : Nat) (fields : List (Nat × List Byte)) :
    s.Onward (s.post dom typ source fields) := by
  have posted (t : State) (p : DuePost) (b : Prop) [Decidable b] : t.Onward (if b then t else t.postOrWait p) :=
    .ite (fun _ => .refl t) fun _ => t.postOrWait_onward p
  have recorded (t : State) (records : List (List Byte)) : t.Onward { t with records } := .of_vts rfl
  unfold State.post
  dsimp only
  refine .trans (t := s.setDomain dom { s.domain dom with seq := (s.domain dom).seq + 1 }) (.of_vts rfl) ?_
  split
  · exact (posted _ _ _).trans (recorded _ _)
  · exact posted _ _ _

theorem State.postAll_onward (s : State) (typ source : Nat) (fields : Nat → List (Nat × List Byte)) :
    s.Onward (s.postAll typ source fields) := by
  unfold State.postAll
  exact State.Onward.foldl (fun s : State => s) (fun s d => s.post_onward d typ source (fields d)) _ s

end Sys2Proof.Machine
end

section
/-! SUPPORT. What the loss of a cluster, of gangs and of VTs can change, said once (R177, R265, R359, R362): each step leaves
everything of Tidewatch and of the domains as it was, and a VT that has ENDED stays so. -/

namespace Sys2Proof.Machine

open Sys2Proof

/-- `s` with what a loss may change taken from `t`: what memory accesses change, VTs, gangs, launches, futures, commands and who
waits for them, the draws of free values. -/
def State.withLossOf (s t : State) : State :=
  { s.withMemoryOf t with gangs := t.gangs, launches := t.launches, futures := t.futures, commands := t.commands
                          fifoWait := t.fifoWait, picks := t.picks }

/-- `t` differs from `s` in nothing but what a loss may change, and the VTs that are gone in `s` are gone in `t`. -/
structure State.Loses (s t : State) : Prop where
  frame : t = s.withLossOf t
  onward : s.Onward t

namespace State.Loses

variable {s t u : State}

theorem of_vts (hf : t = s.withLossOf t) (hv : t.vts = s.vts) : s.Loses t := ⟨hf, .of_vts hv⟩

theorem refl (s : State) : s.Loses s := of_vts rfl rfl

theorem trans (h : s.Loses t) (h' : t.Loses u) : s.Loses u where
  frame :=
    calc
      u = t.withLossOf u := h'.frame
      _ = (s.withLossOf t).withLossOf u := congrArg (fun r : State => r.withLossOf u) h.frame
      _ = s.withLossOf u := rfl
  onward := h.onward.trans h'.onward

theorem of_memory (h : s.MemoryOnly t) (h' : s.Onward t) : s.Loses t where
  frame :=
    calc
      t = s.withMemoryOf t := h.eq
      _ = s.withLossOf (s.withMemoryOf t) := rfl
      _ = s.withLossOf t := congrArg s.withLossOf h.eq.symm
  onward := h'

theorem foldl {α : Type} {f : State → α → State} (h : ∀ (s : State) a, s.Loses (f s a)) (l : List α) (s : State) :
    s.Loses (l.foldl f s) := by
  induction l generalizing s with
  | nil => exact refl s
  | cons a l ih => exact (h s a).trans (ih _)

/-- A run that keeps an account beside the state. -/
theorem foldl_fst {α β : Type} {f : State × β → α → State × β} (h : ∀ (r : State × β) a, r.1.Loses (f r a).1) (l : List α) (r : State × β) :
    r.1.Loses (l.foldl f r).1 := by
  induction l generalizing r with
  | nil => exact refl r.1
  | cons a l ih => exact (h r a).trans (ih _)

theorem ite {p : Prop} [Decidable p] (ht : p → s.Loses t) (hu : ¬ p → s.Loses u) : s.Loses (if p then t else u) := by
  split
  · exact ht ‹_›
  · exact hu ‹_›

/-- One VT becomes `w`, and nothing else changes. -/
theorem setVt {id : Nat} {w : VT} (hw : ∀ v : VT, s.vt? id = some v → v.Onward w) : s.Loses (s.setVt id w) :=
  ⟨rfl, .setVt hw⟩

theorem modVt {id : Nat} {f : VT → VT} (hf : ∀ v : VT, v.Onward (f v)) : s.Loses (s.modVt id f) where
  frame := by unfold State.modVt; split <;> rfl
  onward := .modVt hf

theorem tiles (h : s.Loses t) : t.tiles = s.tiles := by rw [h.frame]; rfl
theorem views (h : s.Loses t) : t.views = s.views := by rw [h.frame]; rfl
theorem sideband (h : s.Loses t) : t.sideband = s.sideband := by rw [h.frame]; rfl
theorem cordons (h : s.Loses t) : t.cordons = s.cordons := by rw [h.frame]; rfl
theorem dies (h : s.Loses t) : t.dies = s.dies := by rw [h.frame]; rfl
theorem links (h : s.Loses t) : t.links = s.links := by rw [h.frame]; rfl
theorem domains (h : s.Loses t) : t.domains = s.domains := by rw [h.frame]; rfl

end State.Loses

/-! ### Accesses, held stores and lines of L2 -/

theorem State.accessWalk_loses (s : State) (dom va : Nat) (k : AccessKind) : (s.accessWalk dom va k).Leaves s.Loses := by
  have memory := s.accessWalk_memoryOnly dom va k
  have onward := s.accessWalk_onward dom va k
  cases h : s.accessWalk dom va k with
  | violation => trivial
  | ok | fault | wait => rw [h] at memory onward; exact .of_memory memory onward

theorem State.reach_loses (s : State) (k : AccessKind) (loc n : Nat) : (s.reach k loc n).Leaves s.Loses := by
  unfold State.reach
  split
  · exact .of_memory (s.cordonLoss_memoryOnly k loc n) (.of_vts (s.cordonLoss_vts k loc n))
  · exact .refl s

theorem State.performPend_loses (s : State) (c : Nat) (p : PendStore) : s.Loses (s.performPend c p) := by
  have reached := s.reach_loses .store p.loc p.data.length
  have stored (t : State) : t.Loses ((t.homeWrite (cachingOf p.leaf p.loc .normal) p.loc p.data).l1Update c p.loc p.data) :=
    .trans (.of_memory (t.homeWrite_memoryOnly _ _ _) (t.homeWrite_onward _ _ _)) (.of_vts rfl rfl)
  unfold State.performPend
  split
  · next t h => rw [h] at reached; exact State.Loses.trans reached (stored t)
  · next h => rw [h] at reached; exact reached
  · next h => rw [h] at reached; exact reached
  · exact .refl s

theorem State.flushCore_loses (s : State) (c : Nat) : s.Loses (s.flushCore c) := by
  unfold State.flushCore
  refine .ite (fun _ => .refl s) fun _ => ?_
  exact (State.Loses.foldl (fun s p => s.performPend_loses c p) _ s).trans (.of_vts rfl rfl)

theorem State.flushVt_loses (s : State) (id : Nat) : s.Loses (s.flushVt id) := by
  unfold State.flushVt
  split
  · exact .refl s
  · exact s.flushCore_loses _

theorem State.flushAll_loses (s : State) : s.Loses s.flushAll := by
  unfold State.flushAll
  exact .foldl (fun s e => s.flushCore_loses e.1) s.cores s

theorem State.l2Revert_loses (s : State) (line : Nat) : s.Loses (s.l2Revert line) :=
  .of_memory (s.l2Revert_memoryOnly line) (s.l2Revert_onward line)

theorem State.loseLines_loses (s : State) (p : L2Line → Bool) : s.Loses (s.loseLines p) := by
  unfold State.loseLines
  refine .foldl (fun s l => .ite (fun _ => ?_) fun _ => s.l2Revert_loses l.line) _ s
  exact .ite (fun _ => .of_vts rfl rfl) fun _ => .of_vts rfl rfl

theorem State.markLostPages_loses (s : State) (p : Nat → Bool) : s.Loses (s.markLostPages p) := .of_vts rfl rfl

/-! ### Waking -/

theorem State.ctFault_loses (s : State) (id : Nat) (v : VT) (c : Cause) (a : Word64) : s.Loses (s.ctFault id v c a) :=
  .modVt fun _ => .of_same rfl rfl

theorem State.ctViolation_loses (s : State) (id : Nat) (v : VT) (a : Word64) : s.Loses (s.ctViolation id v a) :=
  .trans (.of_vts (t := s.leaveFutures id) rfl rfl) (.modVt fun _ => .of_same rfl rfl)

/-- A VT that is parked may be woken. -/
theorem State.wake_loses {s : State} {id : Nat} {v : VT} (hv : s.vt? id = some v) (hp : v.park ≠ none) (f : VT → VT) :
    s.Loses (s.wake id f) := by
  have woken : v.Onward (v.awake (s.vtNow v) f) := by
    refine .of_parked hp fun e => ?_
    unfold VT.awake at e
    split at e
    · exact e
    · dsimp only at e; split at e <;> cases e
  have record (w : VT) : s.Loses (s.rewriteRecord w) := by
    unfold State.rewriteRecord
    split <;> exact .of_vts rfl rfl
  have before : s.Loses (if v.resident then s else s.rewriteRecord (v.awake (s.vtNow v) f)) :=
    .ite (fun _ => .refl s) fun _ => record _
  have same : (if v.resident then s else s.rewriteRecord (v.awake (s.vtNow v) f)).vt? id = some v := by
    split
    · exact hv
    · unfold State.rewriteRecord; split <;> exact hv
  unfold State.wake
  rw [hv]
  exact before.trans (.setVt fun u hu => by cases hu.symm.trans same; exact woken)

theorem State.wakeFault_loses (s : State) (id : Nat) (c : Cause) (a : Word64) : s.Loses (s.wakeFault id c a) := by
  unfold State.wakeFault
  split
  · exact .refl s
  · next v hv =>
    split
    · exact .refl s
    · next hp => exact (State.wake_loses hv (by simp [hp]) _).trans (State.ctFault_loses _ _ _ _ _)

theorem State.wakeAcquire_loses {s : State} {id : Nat} {v : VT} (hv : s.vt? id = some v) (hp : v.park ≠ none) (f : VT → VT) :
    s.Loses (s.wakeAcquire id f) := by
  unfold State.wakeAcquire
  rw [hv]
  dsimp only
  split
  · exact .trans (.of_vts (t := s.acquire v) rfl rfl) (State.wake_loses (s := s.acquire v) hv hp f)
  · exact State.wake_loses hv hp f

/-! ### The end of a VT -/

theorem State.setGangs_loses (s : State) (gangs : SMap Gang) : s.Loses { s with gangs } := .of_vts rfl rfl

theorem State.endBarrierWait_loses (s : State) (gang : Nat) (b : Fin 16) (id : Nat) : s.Loses (s.endBarrierWait gang b id) := by
  unfold State.endBarrierWait
  split
  · exact .refl s
  · next v hv =>
    split
    · next hp _ =>
      split
      · refine (s.setGangs_loses _).trans (State.wakeAcquire_loses (v := v) ?_ (by simp [hp]) _)
        exact hv
      · exact .refl s
    · exact .refl s

theorem State.settleBarrier_loses (s : State) (gang : Nat) (b : Fin 16) : s.Loses (s.settleBarrier gang b) := by
  have completes (s : State) : s.Loses (s.completeBarrier gang b) := by
    unfold State.completeBarrier
    split
    · exact .refl s
    · exact (s.setGangs_loses _).trans (.foldl (fun s id => s.endBarrierWait_loses gang b id) _ _)
  unfold State.settleBarrier
  split
  · exact .ite (fun _ => completes s) fun _ => .refl s
  · exact .refl s

theorem State.leaveBarriers_loses (s : State) (gang rank : Nat) : s.Loses (s.leaveBarriers gang rank) := by
  unfold State.leaveBarriers
  split
  · exact .refl s
  · exact (s.setGangs_loses _).trans (.foldl (fun s b => s.settleBarrier_loses gang b) _ _)

theorem State.tellKillers_loses (s : State) (id : Nat) : s.Loses (s.tellKillers id) := by
  have told (l : List (Reg × Nat)) (v : VT) : v.Onward (l.foldl (fun v p => v.writeX p.1 0) v) := by
    induction l generalizing v with
    | nil => exact .refl v
    | cons p l ih => exact .trans (.of_same (VT.writeX_st v _ _) (VT.writeX_park v _ _)) (ih _)
  exact ⟨rfl, .of_mapVals _ (fun _ v => told _ v) rfl⟩

theorem State.settleHold_loses (s : State) (g : Nat) : s.Loses (s.settleHold g) :=
  .ite (fun _ => .refl s) fun _ => .of_vts rfl rfl

theorem State.settleGang_loses (s : State) (gang : Nat) : s.Loses (s.settleGang gang) := by
  have held (g : Gang) : s.Loses (s.holdCsp g) := .ite (fun _ => .of_vts rfl rfl) fun _ => .refl s
  unfold State.settleGang
  split
  · exact .refl s
  · next g _ =>
    refine .ite (fun _ => ?_) fun _ => .refl s
    refine (held g).trans ?_
    refine .ite (fun _ => ?_) fun _ => .of_vts rfl rfl
    refine .trans ?_ (State.settleHold_loses _ _)
    exact .of_vts rfl rfl

/-- A VT as its end leaves it (R47, R177). -/
def VT.atEnd (v : VT) : VT :=
  { v.evict with
    st := .ended, park := none, waiting := [], inflight := [], claim := none, mop := none, admitted := false
    detected := [], violation := none, stopping := false, waitStatus := [], tcm := [], tcmPoison := []
    channels := Vector.replicate 8 {}, vps := v.vps.map fun vp => { vp with run := none, thread := false } }

theorem VT.gone_atEnd (v : VT) : v.atEnd.Gone := ⟨rfl, rfl⟩

/-- The end of a VT that has not ENDED: what comes before, the VT at its end, what comes after. -/
theorem State.endVt_steps {s : State} {id : Nat} {v : VT} (hv : s.vt? id = some v) (he : v.st ≠ .ended) :
    ∃ t, s.Loses t ∧ (t.setVt id v.atEnd).Loses (s.endVt id) := by
  have freed (t : State) : t.Loses (t.holdFreed v) := .ite (fun _ => .of_vts rfl rfl) fun _ => .refl t
  unfold State.endVt
  rw [hv]
  dsimp only
  rw [if_neg he]
  refine ⟨(s.flushVt id).holdFreed v, (s.flushVt_loses id).trans (freed _), ?_⟩
  refine .trans ?_ (State.settleGang_loses _ _)
  refine .trans ?_ (State.tellKillers_loses _ _)
  refine .trans ?_ (State.leaveBarriers_loses _ _ _)
  exact .of_vts rfl rfl

theorem State.endVt_loses (s : State) (id : Nat) : s.Loses (s.endVt id) := by
  cases hv : s.vt? id with
  | none => unfold State.endVt; rw [hv]; exact .refl s
  | some v =>
    by_cases he : v.st = .ended
    · unfold State.endVt; rw [hv]; dsimp only; rw [if_pos he]; exact .refl s
    · obtain ⟨t, before, after⟩ := State.endVt_steps hv he
      exact before.trans (.trans (.setVt fun _ _ => .of_gone v.gone_atEnd) after)

/-- A VT that has ended is gone (R177). -/
theorem State.endVt_gone {s : State} {id : Nat} (h : s.VtSound id) : (s.endVt id).VtGone id := by
  obtain ⟨v, hv, sound⟩ := h
  by_cases he : v.st = .ended
  · exact (s.endVt_loses id).onward.gone ⟨v, hv, he, sound he⟩
  · obtain ⟨t, _, after⟩ := State.endVt_steps hv he
    exact after.onward.gone ⟨_, t.vt?_setVt_self id v.atEnd, v.gone_atEnd⟩

end Sys2Proof.Machine
end

section
/-! SUPPORT. The loss of gangs and clusters, and what SCHED does with gangs that it hands on (R264, R265, R273, R362): what they
change, and that every VT of a lost gang is gone. -/

namespace Sys2Proof.Machine

open Sys2Proof

/-! ### A lost gang and a lost cluster (R362) -/

theorem State.setLaunches_loses (s : State) (launches : List Launch) : s.Loses { s with launches } := .of_vts rfl rfl

theorem State.noteCause_loses (s : State) (no c : Nat) : s.Loses (s.noteCause no c) := .of_vts rfl rfl

theorem State.cordonFutures_loses (s : State) (id dom : Nat) : s.Loses (s.cordonFutures id dom).1 := by
  have set (s : State) (key : Nat) (f : Future) : s.Loses (s.setFuture key f) := .of_vts rfl rfl
  unfold State.cordonFutures
  refine State.Loses.foldl_fst (fun r e => ?_) _ (s, 0)
  dsimp only
  split
  · exact (set r.1 _ _).trans (.foldl (fun s (w : Nat × Bool) => s.wakeFault_loses w.1 .cordon 0) _ _)
  · exact set r.1 _ _
  · exact .refl r.1

/-- The VTs of a list end. -/
theorem State.endVts_loses (s : State) (l : List Nat) : s.Loses (l.foldl State.endVt s) :=
  .foldl (fun s id => s.endVt_loses id) l s

/-- The members of a lost gang end; beyond that a loss of the gang is one of the device. -/
theorem State.loseGang_steps (s : State) (x : Gang) (r : CordonTally) :
    (((s.liveMembers x).map Prod.fst).foldl State.endVt s).Loses (s.loseGang x r).1 := by
  have resolved (l : List Nat) (s : State) := State.Loses.foldl_fst (f := fun (r : State × Nat) id =>
    ((r.1.cordonFutures id x.domain).1, r.2 + (r.1.cordonFutures id x.domain).2))
    (fun r id => r.1.cordonFutures_loses id x.domain) l (s, 0)
  unfold State.loseGang
  dsimp only
  split
  · exact (resolved _ _).trans (State.setLaunches_loses _ _)
  · exact (resolved _ _).trans (State.noteCause_loses _ _ _)

theorem State.loseGang_loses (s : State) (x : Gang) (r : CordonTally) : s.Loses (s.loseGang x r).1 :=
  (s.endVts_loses _).trans (s.loseGang_steps x r)

theorem State.mem_liveMembers {s : State} {x : Gang} {id : Nat} {v : VT} (hm : id ∈ x.members) (hv : s.vt? id = some v)
    (he : v.st ≠ .ended) : id ∈ (s.liveMembers x).map Prod.fst := by
  unfold State.liveMembers
  refine List.mem_map.mpr ⟨(id, v), List.mem_filterMap.mpr ⟨id, hm, ?_⟩, rfl⟩
  rw [hv]
  exact if_neg he

theorem State.loseGang_gone {s : State} {x : Gang} {id : Nat} (r : CordonTally) (hm : id ∈ x.members) (h : s.VtSound id) :
    (s.loseGang x r).1.VtGone id := by
  obtain ⟨v, hv, sound⟩ := h
  by_cases he : v.st = .ended
  · exact (s.loseGang_loses x r).onward.gone ⟨v, hv, he, sound he⟩
  · exact (s.loseGang_steps x r).onward.gone (State.Onward.foldl_gone (fun s : State => s)
      (fun s id => (s.endVt_loses id).onward) (State.mem_liveMembers hm hv he) (fun s => State.endVt_gone) s ⟨v, hv, sound⟩)

/-- The gangs placed in a cluster are lost one after another; then the cluster is empty. -/
theorem State.loseCluster_steps (s : State) (g : Nat) (r : CordonTally) :
    ((s.gangs.filter fun e => e.2.st == .placed && e.2.cluster == g).foldl
      (fun (a : State × CordonTally) e => a.1.loseGang e.2 a.2) (s, r)).1.Loses (s.loseCluster g r).1 := .of_vts rfl rfl

theorem State.loseCluster_loses (s : State) (g : Nat) (r : CordonTally) : s.Loses (s.loseCluster g r).1 :=
  .trans (State.Loses.foldl_fst (fun a (e : Nat × Gang) => a.1.loseGang_loses e.2 a.2) _ (s, r)) (s.loseCluster_steps g r)

theorem State.loseCluster_gone {s : State} {x : Gang} {g key id : Nat} (r : CordonTally) (hx : s.gangs.get? key = some x)
    (hp : x.st = .placed) (hg : x.cluster = g) (hm : id ∈ x.members) (h : s.VtSound id) : (s.loseCluster g r).1.VtGone id := by
  have hit : (key, x) ∈ s.gangs.filter fun e => e.2.st == .placed && e.2.cluster == g :=
    List.mem_filter.mpr ⟨SMap.mem_of_get? hx, by simp [hp, hg]⟩
  exact (s.loseCluster_steps g r).onward.gone (State.Onward.foldl_gone Prod.fst
    (fun a e => (a.1.loseGang_loses e.2 a.2).onward) hit (fun a => State.loseGang_gone a.2 hm) (s, r) h)

/-! ### Gangs that are handed on (R265, R273, R362) -/

theorem State.enqueueGang_loses (s : State) (key : Nat) (x : Gang) (c : Nat) : s.Loses (s.enqueueGang key x c) := .of_vts rfl rfl

theorem State.handOnGang_loses (s : State) (key : Nat) : s.Loses (s.handOnGang key) := by
  unfold State.handOnGang
  split
  · exact .refl s
  · refine .ite (fun _ => .refl s) fun _ => .ite (fun _ => .of_vts rfl rfl) fun _ => ?_
    split
    · exact s.enqueueGang_loses _ _ _
    · refine .trans ?_ (State.endVts_loses _ _)
      exact .of_vts rfl rfl

theorem State.newGang_loses (s : State) (l : Launch) (index : Nat) : s.Loses (s.newGang l index) := by
  unfold State.newGang
  split
  · exact .refl s
  · exact .of_vts rfl rfl

theorem State.replaceGang_loses (s : State) (e : Nat × Nat) : s.Loses (s.replaceGang e) := by
  have counted (s : State) (no : Nat) : s.Loses (s.countLost no) := .of_vts rfl rfl
  unfold State.replaceGang
  split
  · exact .refl s
  · refine .ite (fun _ => counted s _) fun _ => .ite (fun _ => ?_) fun _ => ?_
    · exact (counted s _).trans (State.noteCause_loses _ _ _)
    · exact (s.newGang_loses _ _).trans (State.setGangs_loses _ _)

/-! ### Monitors that register again (R359) -/

theorem State.reRegister_loses (s : State) (e : Nat × VT) : s.Loses (s.reRegister e) := by
  have notified (s : State) (loc : Nat) : s.Loses (s.notify loc 1) := ⟨rfl, s.notify_onward loc 1⟩
  unfold State.reRegister
  split
  · next addr loc _ word _ _ _ _ _ _ =>
    have read := (s.accessWalk_loses e.2.domain addr.toNat .load).bind
      (f := fun t s => s.reach .load t.loc (if word then 4 else 8))
      fun x t h => (t.reach_loses .load x.loc _).imp fun _ => h.trans
    split
    · next h => rw [h] at read; exact State.Loses.trans read (notified _ _)
    · next h => rw [h] at read; exact State.Loses.trans read (State.ctFault_loses _ _ _ _ _)
    · exact s.ctViolation_loses _ _ _
    · next h => rw [h] at read; exact read
  · exact .refl s

end Sys2Proof.Machine
end

section
/-! SUPPORT. The steps of a cordon on the registers of Tidewatch (R354, R358 to R366): each step changes of a tile's record what it
notes there of its work, and nothing else; views, flits and CORDONS stand. -/

namespace Sys2Proof.Machine

open Sys2Proof

/-! ### Tiles, views and dies after a change -/

theorem State.tile_modTile_self (s : State) (t : TileId) (f : Tile → Tile) : (s.modTile t f).tile t = f (s.tile t) :=
  s.tile_setTile_self t _

theorem State.tile_modTile (s : State) (t y : TileId) (f : Tile → Tile) :
    (s.modTile t f).tile y = if y = t then f (s.tile y) else s.tile y := by
  split
  · next h => subst h; exact s.tile_modTile_self y f
  · next h => exact s.tile_setTile_ne _ h

theorem State.view_modView_self (s : State) (w t : TileId) (f : View → View) : (s.modView w t f).view w t = f (s.view w t) :=
  s.view_setView_self w t _

theorem State.view_setView (s : State) (w t r y : TileId) (v : View) :
    (s.setView w t v).view r y = if viewKey r y = viewKey w t then v else s.view r y := by
  unfold State.view State.setView
  split
  · next h => rw [h]; exact SMap.getD_set_self _ _ _ _
  · next h => exact SMap.getD_set_ne _ _ _ h

theorem State.die_setDie_self (s : State) (d : Nat) (v : Die) : (s.setDie d v).die d = v := SMap.getD_set_self _ _ _ _

theorem State.tile_eq {s t : State} (h : t.tiles = s.tiles) (y : TileId) : t.tile y = s.tile y :=
  congrArg (fun m : SMap Tile => m.getD y {}) h

theorem State.view_eq {s t : State} (h : t.views = s.views) (r y : TileId) : t.view r y = s.view r y :=
  congrArg (fun m : SMap View => m.getD (viewKey r y) {}) h

theorem State.die_eq {s t : State} (h : t.dies = s.dies) (d : Nat) : t.die d = s.die d :=
  congrArg (fun m : SMap Die => m.getD d {}) h

theorem State.domain_eq {s t : State} (h : t.domains = s.domains) (d : Nat) : t.domain d = s.domain d :=
  congrArg (fun m : SMap Domain => m.getD d {}) h

/-! ### What a step of a cordon may change of a tile -/

/-- A tile with what a step of a cordon notes in it taken from `y`: the tally, the pages that were lost, that it is out. -/
def Tile.withWorkOf (x y : Tile) : Tile := { x with tally := y.tally, pages := y.pages, blind := y.blind, out := y.out }

/-- `t` differs from `s` at Tidewatch in nothing but what the steps of a cordon note in tiles. -/
structure State.Handles (s t : State) : Prop where
  tiles : ∀ y, t.tile y = (s.tile y).withWorkOf (t.tile y)
  views : t.views = s.views
  sideband : t.sideband = s.sideband
  cordons : t.cordons = s.cordons

namespace State.Handles

variable {s t u : State}

theorem of_tiles (h : t.tiles = s.tiles) (hv : t.views = s.views) (hs : t.sideband = s.sideband) (hc : t.cordons = s.cordons) :
    s.Handles t :=
  ⟨fun y => by rw [State.tile_eq h]; rfl, hv, hs, hc⟩

theorem refl (s : State) : s.Handles s := of_tiles rfl rfl rfl rfl

theorem trans (h : s.Handles t) (h' : t.Handles u) : s.Handles u where
  tiles y :=
    calc
      u.tile y = (t.tile y).withWorkOf (u.tile y) := h'.tiles y
      _ = ((s.tile y).withWorkOf (t.tile y)).withWorkOf (u.tile y) :=
        congrArg (fun x : Tile => x.withWorkOf (u.tile y)) (h.tiles y)
      _ = (s.tile y).withWorkOf (u.tile y) := rfl
  views := h'.views.trans h.views
  sideband := h'.sideband.trans h.sideband
  cordons := h'.cordons.trans h.cordons

theorem of_loses (h : s.Loses t) : s.Handles t := of_tiles h.tiles h.views h.sideband h.cordons

theorem modTile {y : TileId} {f : Tile → Tile} (hf : ∀ x, f x = x.withWorkOf (f x)) : s.Handles (s.modTile y f) where
  tiles z := by
    rw [State.tile_modTile]
    split
    · exact hf _
    · rfl
  views := rfl
  sideband := rfl
  cordons := rfl

theorem foldl {α : Type} {f : State → α → State} (h : ∀ (s : State) a, s.Handles (f s a)) (l : List α) (s : State) :
    s.Handles (l.foldl f s) := by
  induction l generalizing s with
  | nil => exact refl s
  | cons a l ih => exact (h s a).trans (ih _)

theorem ite {p : Prop} [Decidable p] (ht : p → s.Handles t) (hu : ¬ p → s.Handles u) : s.Handles (if p then t else u) := by
  split
  · exact ht ‹_›
  · exact hu ‹_›

theorem st (h : s.Handles t) (y : TileId) : (t.tile y).st = (s.tile y).st := by rw [h.tiles]; rfl
theorem cordoned (h : s.Handles t) (y : TileId) : (t.tile y).cordoned = (s.tile y).cordoned := by rw [h.tiles]; rfl
theorem remapped (h : s.Handles t) (y : TileId) : (t.tile y).remapped = (s.tile y).remapped := by rw [h.tiles]; rfl
theorem marked (h : s.Handles t) (y : TileId) : (t.tile y).marked = (s.tile y).marked := by rw [h.tiles]; rfl
theorem handled (h : s.Handles t) (y : TileId) : (t.tile y).handled = (s.tile y).handled := by rw [h.tiles]; rfl
theorem owed (h : s.Handles t) (y : TileId) : (t.tile y).owed = (s.tile y).owed := by rw [h.tiles]; rfl
theorem firstCause (h : s.Handles t) (y : TileId) : (t.tile y).firstCause = (s.tile y).firstCause := by rw [h.tiles]; rfl

end State.Handles

/-! ### Closure (R360) -/

/-- A tile's tally becomes another. -/
theorem State.modTally_handles (s : State) (t : TileId) (f : Tile → CordonTally) :
    s.Handles (s.modTile t fun x => { x with tally := f x }) := .modTile fun _ => rfl

theorem State.setDie_handles (s : State) (d : Nat) (x : Die) : s.Handles (s.setDie d x) := .of_tiles rfl rfl rfl rfl

theorem State.handOnDue_handles (s : State) (t : TileId) : s.Handles (s.handOnDue t) :=
  (s.modTally_handles t _).trans (.of_loses (.foldl (fun s k => s.handOnGang_loses k) _ _))

theorem State.emptyCluster_handles (t : TileId) (s : State) (g : Nat) : s.Handles (s.emptyCluster t g) := by
  have set (s : State) (x : Cluster) : s.Handles (s.setCluster g x) := .of_tiles rfl rfl rfl rfl
  exact (s.modTally_handles t _).trans ((set _ _).trans (.of_loses (State.settleHold_loses _ g)))

theorem State.emptyClusters_handles (s : State) (t : TileId) : s.Handles (s.emptyClusters t) :=
  .trans (.foldl (fun s g => s.emptyCluster_handles t g) _ s) (State.handOnDue_handles _ t)

theorem State.post_handles (s : State) (dom typ source : Nat) (fields : List (Nat × List Byte)) :
    s.Handles (s.post dom typ source fields) := by
  obtain ⟨t, records, h, e⟩ := s.post_frame dom typ source fields
  rw [e]
  exact .of_tiles (by rw [h.eq]; rfl) (by rw [h.eq]; rfl) (by rw [h.eq]; rfl) (by rw [h.eq]; rfl)

theorem State.freezePort_handles (s : State) (k : Nat) : s.Handles (s.freezePort k) := by
  unfold State.freezePort
  refine .foldl (fun s e => ?_) _ s
  unfold State.freezeConn State.postFreeze
  refine .trans ?_ (State.post_handles _ _ _ _ _)
  exact .of_tiles rfl rfl rfl rfl

/-- A CXL link is lost, before anything follows from it (R347). -/
def State.dropLink (s : State) (k : Fin 4) : State := { s with links := s.links.set k { s.links[k] with st := .lost } }

/-- A storage location on a CXL link. -/
def onLink (k : Fin 4) (loc : Nat) : Bool := isCxl loc && cxlOf loc == k

theorem State.loseLink_eq (s : State) (k : Fin 4) : s.loseLink k
    = ((s.flushAll.dropLink k).loseLines fun l => onLink k (l.line * 64)).markLostPages fun p => onLink k (p * 4096) := rfl

theorem State.loseLink_loses (s : State) (k : Fin 4) : (s.flushAll.dropLink k).Loses (s.loseLink k) := by
  rw [State.loseLink_eq]
  exact (State.loseLines_loses _ _).trans (State.markLostPages_loses _ _)

theorem State.loseLink_handles (s : State) (k : Fin 4) : s.Handles (s.loseLink k) := by
  have dropped (s : State) : s.Handles (s.dropLink k) := .of_tiles rfl rfl rfl rfl
  exact (State.Handles.of_loses s.flushAll_loses).trans ((dropped _).trans (.of_loses (s.loseLink_loses k)))

theorem State.closeTile_handles (s : State) (t : TileId) : s.Handles (s.closeTile t) := by
  unfold State.closeTile
  dsimp only
  split
  · exact s.emptyClusters_handles t
  · exact .trans (.modTile fun _ => rfl) (.of_loses (State.loseLines_loses _ _))
  · exact .trans (s.setDie_handles _ _) (.of_loses (State.loseLines_loses _ _))
  · refine .trans (s.setDie_handles _ _) (.ite (fun _ => ?_) fun _ => .refl _)
    exact .trans (.of_loses (State.loseLines_loses _ _)) (State.emptyClusters_handles _ t)
  · exact .modTile fun _ => rfl
  · exact s.freezePort_handles _
  · exact (s.loseLink_handles _).trans (State.modTally_handles _ t _)
  · exact .refl s

/-! ### The steps that follow (R361 to R366) -/

/-- A slice is out of its die's mask, and out of service, before the monitors register anew. -/
def State.unmapSlice (s : State) (d k : Nat) : State :=
  ({ s.setDie d { s.die d with sliceMask := (s.die d).sliceMask &&& ~~~(BitVec.twoPow 12 k) } with
      slices := s.slices.erase (sliceKey d k), rejected := s.rejected.filter fun r => r.slice != sliceKey d k }).modTile
    (sliceTile d k) fun x => { x with out := true }

theorem State.remapSlice_eq (s : State) (d k : Nat) : ∃ watch : List (Nat × VT), s.remapSlice d k
    = { watch.foldl State.reRegister (s.unmapSlice d k) with wants := s.wants, stalled := s.stalled } := ⟨_, rfl⟩

theorem State.remapSlice_handles (s : State) (d k : Nat) : s.Handles (s.remapSlice d k) := by
  have unmapped : s.Handles (s.unmapSlice d k) := by
    refine .trans ?_ (.modTile fun _ => rfl)
    exact .of_tiles rfl rfl rfl rfl
  obtain ⟨watch, e⟩ := s.remapSlice_eq d k
  rw [e]
  refine .trans (unmapped.trans (.of_loses (.foldl (fun s e => s.reRegister_loses e) watch _))) ?_
  exact .of_tiles rfl rfl rfl rfl

/-- The roles of a die's steward have moved, its link commands and its futures are gone; no waiter has heard of it yet. -/
def State.dropSteward (s : State) (d : Nat) : State :=
  { s with
    futures := s.futures.filter fun e => e.1 / 65536 != d
    commands := s.commands.map fun (c : Command) =>
      if c.eng.val = 1 ∧ c.unit = d ∧ (c.phase = CmdPhase.queued ∨ c.phase = CmdPhase.running) then
        { c with phase := .ended Cause.cordon.code (c.cutBytes (s.conns.map Prod.snd)) } else c
    dies := (s.dies.set d { s.die d with futuresLost := true }).mapVals fun e x =>
      if e = d ∨ x.steward = some d then { x with steward := s.adopter d } else x }

/-- The waiters of some futures wake with CORDON. -/
def State.wakeWaiters (s : State) (l : List (Nat × Future)) : State :=
  l.foldl (fun s e => e.2.waiters.foldl (fun s w => s.wakeFault w.1 .cordon 0) s) s

theorem State.wakeWaiters_loses (s : State) (l : List (Nat × Future)) : s.Loses (s.wakeWaiters l) := by
  unfold State.wakeWaiters
  exact .foldl (fun s e => .foldl (fun s (w : Nat × Bool) => s.wakeFault_loses w.1 .cordon 0) _ s) l s

theorem State.loseSteward_eq (s : State) (d : Nat) (r : CordonTally) : ∃ table, (s.loseSteward d r).1
    = ((s.dropSteward d).wakeWaiters table).modTile (roleTile d .steward) fun x => { x with out := true } := ⟨_, rfl⟩

theorem State.loseSteward_handles (s : State) (d : Nat) (r : CordonTally) : s.Handles (s.loseSteward d r).1 := by
  have dropped : s.Handles (s.dropSteward d) := .of_tiles rfl rfl rfl rfl
  obtain ⟨table, e⟩ := s.loseSteward_eq d r
  rw [e]
  exact dropped.trans (.trans (.of_loses (State.wakeWaiters_loses _ table)) (.modTile fun _ => rfl))

theorem State.tallied_handles {t : TileId} {f : State → CordonTally → State × CordonTally} {s : State}
    (h : ∀ r, s.Handles (f s r).1) : s.Handles (s.tallied t f) := by
  unfold State.tallied
  exact (h _).trans (State.modTally_handles _ t _)

/-- The remap: once the tile is noted as remapped, its record stands but for the work done. -/
theorem State.remapTile_handles (s : State) (t : TileId) :
    (s.modTile t fun x => { x with remapped := true }).Handles (s.remapTile t) := by
  unfold State.remapTile
  dsimp only
  split
  · exact State.remapSlice_handles _ _ _
  · exact State.tallied_handles fun r => State.loseSteward_handles _ _ r
  · refine State.tallied_handles fun r => ?_
    split
    · exact .refl _
    · exact State.loseSteward_handles _ _ r
  · exact .refl _

/-- The marks: all but the note that the tile is marked. -/
theorem State.markTile_handles (s : State) (t : TileId) :
    ∃ u, s.Handles u ∧ s.markTile t = u.modTile t fun x => { x with marked := true } := by
  have zeroed (s : State) (p : Nat → Bool) : s.Handles (s.zeroCxl p) := .of_tiles rfl rfl rfl rfl
  refine ⟨_, ?_, rfl⟩
  refine .trans (.trans (t := if (s.tile t).blind || isBridge t then s.zeroCxl (s.takenPages t) else s)
    (.ite (fun _ => zeroed s _) fun _ => .refl s) (.of_loses (State.markLostPages_loses _ _))) (State.modTally_handles _ t _)

/-! ### The step for which FAB runs, and what SCHED has still to do (R362, R366) -/

/-- As `Handles`; and the domains stand, and VTs that are gone stay gone. -/
structure State.Settles (s t : State) : Prop extends s.Handles t where
  domains : t.domains = s.domains
  onward : s.Onward t

namespace State.Settles

variable {s t u : State}

theorem refl (s : State) : s.Settles s := ⟨.refl s, rfl, .refl s⟩

theorem trans (h : s.Settles t) (h' : t.Settles u) : s.Settles u :=
  ⟨h.toHandles.trans h'.toHandles, h'.domains.trans h.domains, h.onward.trans h'.onward⟩

theorem of_loses (h : s.Loses t) : s.Settles t := ⟨.of_loses h, h.domains, h.onward⟩

theorem modTally (s : State) (t : TileId) (f : Tile → CordonTally) :
    s.Settles (s.modTile t fun x => { x with tally := f x }) :=
  ⟨s.modTally_handles t f, rfl, .of_vts rfl⟩

end State.Settles

theorem State.endTile_settles (s : State) (t : TileId) : s.Settles (s.endTile t) := by
  have tallied {f : State → CordonTally → State × CordonTally} (h : ∀ r, s.Loses (f s r).1) : s.Settles (s.tallied t f) := by
    unfold State.tallied
    exact .trans (.of_loses (h _)) (.modTally _ t _)
  unfold State.endTile
  dsimp only
  split
  · exact tallied fun r => s.loseCluster_loses _ r
  · exact tallied fun r => State.Loses.foldl_fst (fun a k => a.1.loseCluster_loses _ a.2) _ (s, r)
  · exact .refl s

theorem State.endTile_gone {s : State} {t : TileId} {x : Gang} {k key id : Nat} (ht : tileRole t = some (.cluster k))
    (hx : s.gangs.get? key = some x) (hp : x.st = .placed) (hg : x.cluster = 4 * tileDie t + k) (hm : id ∈ x.members)
    (h : s.VtSound id) : (s.endTile t).VtGone id := by
  unfold State.endTile
  rw [ht]
  exact State.loseCluster_gone _ hx hp hg hm h

theorem State.handOnDue_settles (s : State) (t : TileId) : s.Settles (s.handOnDue t) :=
  .trans (.modTally s t _) (.of_loses (.foldl (fun s k => s.handOnGang_loses k) _ _))

theorem State.placeAgain_settles (s : State) (t : TileId) : s.Settles (s.placeAgain t) :=
  (s.handOnDue_settles t).trans (.trans (.modTally _ t _) (.of_loses (.foldl (fun s e => s.replaceGang_loses e) _ _)))

end Sys2Proof.Machine
end

section
/-! SUPPORT. Lines that leave L2 and pages that are marked LOST (R342, R343, R347, R363). -/

namespace Sys2Proof.Machine

open Sys2Proof

/-! ### Lines of L2 that leave -/

theorem State.l2_l2Revert (s : State) (line : Nat) : (s.l2Revert line).l2 = s.l2.filter fun l => l.line != line := by
  have back (t : State) (l : L2Line) : (t.fromStorage l).l2 = t.l2 := by unfold State.fromStorage; split <;> rfl
  unfold State.l2Revert
  split
  · split
    · exact back _ _
    · rfl
  · next h =>
    refine (List.filter_eq_self.mpr fun l hl => ?_).symm
    exact bne_iff_ne.mpr fun e => List.find?_eq_none.mp h l hl (beq_iff_eq.mpr e)

/-- Of the lines present, those remain whose number no lost line has. -/
theorem State.mem_l2_loseLines {s : State} {p : L2Line → Bool} {l : L2Line} :
    l ∈ (s.loseLines p).l2 ↔ l ∈ s.l2 ∧ ∀ a ∈ s.l2.filter p, l.line ≠ a.line := by
  unfold State.loseLines
  generalize s.l2.filter p = lost
  induction lost generalizing s with
  | nil => simp
  | cons a lost ih =>
    rw [List.foldl_cons, ih]
    have dropped : (if a.dirty then
        (if (s.l2Drop a.line).storageReachable (a.line * 64) then (s.l2Drop a.line).zeroBytes (a.line * 64) 64
          else s.l2Drop a.line)
        else s.l2Revert a.line).l2 = s.l2.filter fun l => l.line != a.line := by
      split
      · split <;> rfl
      · exact s.l2_l2Revert a.line
    simp only [dropped, List.mem_filter, bne_iff_ne, List.forall_mem_cons, and_assoc]

/-- No line is left of those that are lost by their number. -/
theorem State.l2_loseLines {s : State} {p : L2Line → Bool} : ∀ l ∈ (s.loseLines p).l2, p l = false := by
  intro l hl
  obtain ⟨here, others⟩ := State.mem_l2_loseLines.mp hl
  cases h : p l with
  | false => rfl
  | true => exact absurd rfl (others l (List.mem_filter.mpr ⟨here, h⟩))

/-! ### Pages that are marked LOST -/

/-- HOME moves pages about whole: the number of the page that names an HBM location, and back (R77). -/
theorem hbmPa_page (loc : Nat) : hbmPa loc true / 4096 = loc / 4096 % 2 ^ 24 * 8 + loc / 4096 / 2 ^ 24 := by
  rw [hbmPa, if_pos rfl]
  omega

theorem hbmLoc_page (n : Nat) : hbmLoc (n * 4096) true / 4096 = n % 8 * 2 ^ 24 + n / 8 := by
  rw [hbmLoc, if_pos rfl]
  omega

/-- The page of a location, from the page that names it under HOME (R77). -/
theorem page_of_pa {n loc : Nat} {home : Bool} (h : (if loc < hbmEnd then hbmPa loc home else loc) / 4096 = n) :
    (if n * 4096 < hbmEnd then hbmLoc (n * 4096) home else n * 4096) / 4096 = loc / 4096 := by
  have e : hbmEnd = 549755813888 := rfl
  by_cases hl : loc < hbmEnd
  · rw [if_pos hl] at h
    cases home
    · have stays : hbmLoc (n * 4096) false = n * 4096 := rfl
      have page : loc / 4096 = n := h
      rw [stays, ite_self, page, Nat.mul_div_cancel n (by decide)]
    · rw [hbmPa_page] at h
      rw [if_pos (by omega), hbmLoc_page]
      omega
  · rw [if_neg hl] at h
    rw [if_neg (by omega)]
    omega

/-- The page of the address that a leaf of level 4 names is the page of every location that it maps. -/
theorem page_of_leaf {key loc : Nat} {w : Word64} (hl : keyLevel key = 4) (hm : leafMaps key w loc = true) :
    (if bits64 w 12 36 * 4096 < hbmEnd then hbmLoc (bits64 w 12 36 * 4096) (entryHome w) else bits64 w 12 36 * 4096) / 4096
      = loc / 4096 := by
  simp only [leafMaps, paOfLoc, isHbm, hl, levelShift, Bool.and_eq_true, beq_iff_eq, decide_eq_true_eq] at hm
  exact page_of_pa (hm.2.trans (Nat.mul_div_cancel _ (by decide)))

/-- The table entry of a key of level 4 is not one that leads to a table. -/
theorem leadsOn_level4 {key : Nat} (hl : keyLevel key = 4) (w : Word64) : leadsOn key w = false := by
  simp [leadsOn, entryIsLeaf, hl]

theorem entryLost_marked (w : Word64) : entryLost (w ||| 0x200) = true := by
  rw [entryLost, BitVec.getLsbD_or]
  exact Bool.or_eq_true_iff.mpr (.inr (by decide))

/-- `putTables` changes an entry of level 4 to what the new tables hold. -/
theorem State.putTables_level4 {s : State} {t : SMap Word64} {key : Nat} (hl : keyLevel key = 4) :
    (s.putTables t).tables.get? key = t.get? key := by
  refine (SMap.get?_mapVals _ t key).trans ?_
  cases t.get? key with
  | none => rfl
  | some w => rw [Option.map_some, leadsOn_level4 hl]; rfl

/-- A leaf of level 4 that is to be marked is LOST. -/
theorem markPages_lost {t : SMap Word64} {hit : Nat → Word64 → Bool} {key : Nat} {w : Word64}
    (hw : (markPages t hit).get? key = some w) (hl : keyLevel key = 4) (hv : entryV w = true)
    (hf : entryMalformed 4 w = false) (hh : hit key w = true) : entryLost w = true := by
  simp only [markPages, SMap.get?_mapVals, hl, Option.map_eq_some_iff] at hw
  obtain ⟨w0, _, rfl⟩ := hw
  split
  · exact entryLost_marked w0
  · next h =>
    rw [if_neg h] at hv hf hh
    simp [hv, hf, hh] at h

/-- A leaf of level 4 whose page is to be marked is LOST afterwards (R342, R363). -/
theorem State.markLostPages_lost {s : State} {p : Nat → Bool} {key loc : Nat} {w : Word64}
    (hw : (s.markLostPages p).tables.get? key = some w) (hl : keyLevel key = 4) (hm : leafMaps key w loc = true)
    (hp : p (loc / 4096) = true) : entryLost w = true := by
  have page := page_of_leaf hl hm
  simp only [leafMaps, hl, Bool.and_eq_true, Bool.not_eq_true'] at hm
  obtain ⟨⟨⟨hv, hf⟩, _⟩, _⟩ := hm
  refine markPages_lost ((State.putTables_level4 hl).symm.trans hw) hl hv hf ?_
  simp [hl, levelShift, page, hp]

/-- No translation is left in a core's micro-TLB (R86). -/
theorem State.tlb_tlbFlush (s : State) (c : Nat) : (s.tlbFlush.core c).tlb = [] := by
  have entry : s.tlbFlush.cores.get? c = (s.cores.get? c).map fun k => { k with tlb := [] } := SMap.get?_mapVals _ s.cores c
  rw [State.core, SMap.getD, entry]
  cases s.cores.get? c <;> rfl

end Sys2Proof.Machine
end

section
/-! PROOF. CXL links: down, retrained, lost. -/

namespace Sys2Proof.Machine

open Sys2Proof

theorem exec_cxlLinkDown (s : State) (k : Fin 4) : exec (.cxlLinkDown k) s = .next (if s.links[k].st = .up then
    { s with links := s.links.set k { s.links[k] with st := .down (s.tileCycle (cxlTile k.val)) } } else s) := rfl

section
variable {s : State} {k : Fin 4} {since : Nat}

theorem exec_cxlLinkRetrained (h : s.links[k].st = .down since) (width rate : Nat) : exec (.cxlLinkRetrained k width rate) s
    = .next (if s.tileCycle (cxlTile k.val) ≤ since + 1200000 then
        { s with links := s.links.set k { s.links[k] with st := .up, width, rate } } else s) := by
  simp only [exec, execCxlLinkRetrained, h]

theorem exec_cxlLinkLoss (h : s.links[k].st = .down since) : exec (.cxlLinkLoss k) s
    = .next (if since + 1200000 ≤ s.tileCycle (cxlTile k.val) then s.loseLink k else s) := by
  simp only [exec, execCxlLinkLoss, h]

/-- A link that is up, or lost, is neither retrained nor lost. -/
theorem exec_cxlLink_settled (h : s.links[k].st = .up ∨ s.links[k].st = .lost) (width rate : Nat) :
    exec (.cxlLinkRetrained k width rate) s = .next s ∧ exec (.cxlLinkLoss k) s = .next s := by
  obtain h | h := h <;> simp only [exec, execCxlLinkRetrained, execCxlLinkLoss, h, and_self]

end

/-- What the loss of a link leaves (R347). -/
theorem State.loseLink_lost (s : State) (k : Fin 4) :
    ((s.loseLink k).links[k]).st = .lost ∧ (∀ l ∈ (s.loseLink k).l2, onLink k (l.line * 64) = false)
      ∧ (∀ c, ((s.loseLink k).core c).tlb = [])
      ∧ ∀ (key : Nat) (w : Word64) (loc : Nat), (s.loseLink k).tables.get? key = some w → keyLevel key = 4 →
          leafMaps key w loc = true → onLink k (loc / 4096 * 4096) = true → entryLost w = true := by
  have state : (s.loseLink k).links[k].st = .lost := by
    rw [(s.loseLink_loses k).links]
    simp [State.dropLink]
  rw [State.loseLink_eq] at state ⊢
  exact ⟨state, State.l2_loseLines, State.tlb_tlbFlush _, fun key w loc => State.markLostPages_lost⟩

/-- The states of a link (R16, R347). -/
theorem cxlLinks : Claim.CxlLinks := by
  intro s k width rate since link now put on
  refine ⟨exec_cxlLinkDown s k, fun h => ⟨fun t => ?_, fun t => ?_, fun t => ?_, fun t => ?_⟩, fun h => exec_cxlLink_settled h _ _⟩
  · rw [exec_cxlLinkRetrained h, if_pos t]
  · rw [exec_cxlLinkRetrained h, if_neg (Nat.not_le.mpr t)]
  · rw [exec_cxlLinkLoss h, if_neg (Nat.not_le.mpr t)]
  · obtain ⟨lost, lines, tlbs, leaves⟩ := s.loseLink_lost k
    refine ⟨s.loseLink k, by rw [exec_cxlLinkLoss h, if_pos t], lost, fun l hl ⟨cxl, mine⟩ => ?_, tlbs,
      fun key w loc hw hk hm ⟨cxl, mine⟩ => leaves key w loc hw hk hm ?_⟩
    · have := lines l hl
      simp [onLink, cxl, mine] at this
    · simp [onLink, cxl, mine]

end Sys2Proof.Machine
end

section
/-! PROOF. Soft errors: what each strikes, unit by unit (R345, R346). -/

namespace Sys2Proof.Machine

open Sys2Proof

/-! ### A VT's own storage -/

section
variable {s : State} {id : Nat} {v : VT}

theorem exec_softError_reg (h : s.vt? id = some v) (u : RegUnit) : exec (.softError (.reg id u)) s
    = .next (s.setVt id (if v.poison.contains u || !(v.hasUnit u) then v else { v with poison := v.poison ++ [u] })) :=
  congrArg _ (State.modVt_eq h _)

theorem exec_softError_tcm (h : s.vt? id = some v) {off : Nat} (hp : off / 8 ∉ v.tcmPoison) : exec (.softError (.tcm id off)) s
    = .next (s.setVt id { v with tcmPoison := v.tcmPoison ++ [off / 8] }) := by
  refine congrArg _ ((State.modVt_eq h _).trans ?_)
  simp [hp]

end

/-! ### Gangs -/

section
variable {s : State} {gang : Nat} {g : Gang}

theorem exec_softError_csp (h : s.gangs.get? gang = some g) {off : Nat} (hp : off / 4 ∉ g.cspPoison) :
    exec (.softError (.csp gang off)) s
      = .next { s with gangs := s.gangs.set gang { g with cspPoison := g.cspPoison ++ [off / 4] } } := by
  simp [exec, execSoftError, State.poisonCsp, h, hp]

/-- A gang with one of its barriers poisoned. -/
def Gang.withPoisoned (g : Gang) (b : Fin 16) : Gang :=
  let bar : Barrier := { g.barriers[b] with poisoned := true }
  { g with barriers := g.barriers.set b bar }

theorem Gang.withPoisoned_barrier (g : Gang) (b : Fin 16) :
    (g.withPoisoned b).barriers[b] = { g.barriers[b] with poisoned := true } := by
  simp [Gang.withPoisoned]

theorem exec_softError_barrier (h : s.gangs.get? gang = some g) (b : Fin 16) : exec (.softError (.barrier gang b.val)) s
    = .next { s with gangs := s.gangs.set gang (g.withPoisoned b) } := by
  simp [exec, execSoftError, State.poisonBarrier, h, Gang.withPoisoned]

end

/-! ### Lines of L2 and what lies under them -/

section
variable {s : State} {l : L2Line}

theorem State.line_of_l2Find {line : Nat} (h : s.l2Find line = some l) : l.line = line := by
  simpa using List.find?_some h

/-- A present line that is replaced by one of its number is found as that. -/
theorem State.l2Find_setL2 {line : Nat} (h : s.l2Find line = some l) {x : L2Line} (hx : x.line = line) :
    (s.setL2 x).l2Find line = some x := by
  have found (m : List L2Line) (hm : m.find? (fun y => y.line == line) = some l) :
      (m.map fun y => if y.line = x.line then x else y).find? (fun y => y.line == line) = some x := by
    induction m with
    | nil => cases hm
    | cons y m ih =>
      by_cases hy : y.line = line
      · simp [hy, hx]
      · rw [List.find?_cons_of_neg (by simpa using hy)] at hm
        simpa [hx, hy] using ih hm
  exact found s.l2 h

theorem exec_softError_mem {loc : Nat} (h : s.l2Find (loc / 64) = none ∨ ∃ l, s.l2Find (loc / 64) = some l ∧ l.dirty = true)
    (hp : loc / 8 ∉ s.poison) : exec (.softError (.mem loc)) s = .next { s with poison := s.poison ++ [loc / 8] } := by
  obtain h | ⟨l, h, hd⟩ := h
  · simp [exec, execSoftError, State.poisonMem, h, hp]
  · simp [exec, execSoftError, State.poisonMem, h, hd, hp]

theorem exec_softError_mem_clean {loc : Nat} (h : s.l2Find (loc / 64) = some l) (hd : l.dirty = false) :
    exec (.softError (.mem loc)) s = .next (s.setL2 { l with
      old := some (s.storageLine (loc / 64))
      oldMarks := s.storageMarks (loc / 64) ||| BitVec.twoPow 8 (loc / 8 % 8) }) := by
  simp [exec, execSoftError, State.poisonMem, h, hd, State.line_of_l2Find h]

theorem exec_softError_l2_clean {line : Nat} (h : s.l2Find line = some l) (hd : l.dirty = false) :
    exec (.softError (.l2clean line)) s
      = .next (((s.fromStorage l).setL2 { l with old := none }).notify (line * 64) 64) := by
  simp [exec, execSoftError, State.refetchL2, h, hd]

theorem exec_softError_l2_dirty {line : Nat} (h : s.l2Find line = some l) (hd : l.dirty = true) :
    exec (.softError (.l2clean line)) s = .next s := by
  simp [exec, execSoftError, State.refetchL2, h, hd]

theorem State.fromStorage_none (h : l.old = none) : s.fromStorage l = s := by
  simp only [State.fromStorage, h]

theorem State.fromStorage_some {o : BitVec 512} (h : l.old = some o) :
    (s.fromStorage l).mem = Memory.writeBytes s.mem (l.line * 64) (leBytes 64 o.toNat)
      ∧ (s.fromStorage l).poison = (s.poison.filter fun u => u / 8 != l.line) ++ markedUnits l.line l.oldMarks := by
  simp only [State.fromStorage, h, and_self]

theorem State.fromStorage_l2 (s : State) (l : L2Line) : (s.fromStorage l).l2 = s.l2 := by
  unfold State.fromStorage; split <;> rfl

theorem State.fromStorage_cores (s : State) (l : L2Line) : (s.fromStorage l).cores = s.cores := by
  unfold State.fromStorage; split <;> rfl

end

/-! ### Caches of a core -/

theorem exec_softError_l1 (s : State) (core line : Nat) : exec (.softError (.l1 core line)) s
    = .next (s.setCore core { s.core core with
        l1 := if s.unreachable (line * 64) then (s.core core).l1.filter fun e => e.line != line
          else (s.core core).l1.map fun e => if e.line = line then (s.l1Line line).merged (s.core core).pend else e }) := rfl

/-- The 128-byte line cannot be read whole: some part of it is poisoned, or out of reach. -/
def State.codeBroken (s : State) (line : Nat) : Bool :=
  s.poisoned (line * 128) 128 || (linesOf (line * 128) 128).any fun l => s.unreachable (l * 64)

theorem icache_refetchCode (s : State) (core line : Nat) : ((s.refetchCode core line).core core).icache
    = if s.codeBroken line then (s.core core).icache.filter fun e => e.1 != line
      else (s.core core).icache.map fun e =>
        if e.1 = line then (line, s.codeLine (cachingOf 0 (line * 128) .normal) (line * 128)) else e := by
  rw [State.refetchCode, State.core_setCore_self]
  rfl

/-! ### The whole statement -/

/-- Uncorrectable soft errors (R345, R346). -/
theorem softErrors : Claim.SoftErrors := by
  intro s id off loc core line gang n vt r i p j h c u key f g b strikes stored none' code
  have restored (t : State) (l : L2Line) : ((t.setL2 l).notify (line * 64) 64).mem = t.mem
    ∧ ((t.setL2 l).notify (line * 64) 64).poison = t.poison := ⟨rfl, rfl⟩
  refine ⟨fun hv => ⟨fun hs hp => ?reg, fun hs => ?noReg, exec_softError_tcm hv⟩,
    fun hg => ⟨exec_softError_csp hg, _, _, exec_softError_barrier hg b, rfl, ?_, ?_⟩,
    exec_softError_mem, fun l hl hd => ⟨_, exec_softError_mem_clean hl hd, rfl, rfl,
      State.l2Find_setL2 hl (show l.line = _ from State.line_of_l2Find hl)⟩,
    fun l hl => ⟨fun hd => ⟨_, exec_softError_l2_clean hl hd, ?l2, s.fromStorage_cores l, ?_, ?_⟩, exec_softError_l2_dirty hl⟩,
    ⟨_, exec_softError_l1 s core line, ?_, ?_, ?_⟩, ⟨s.refetchCode core line, rfl, ?_, ?_⟩,
    fun hf => ⟨_, rfl, ?_, rfl⟩, fun hf => ⟨s.fatalError 7, rfl, ?_⟩⟩
  case reg =>
    have has : vt.hasUnit u = true := by
      rcases hs with ⟨rfl, hs⟩ | ⟨rfl, hs⟩ | ⟨rfl, hs⟩ | ⟨rfl, hs⟩ | ⟨rfl, hs⟩ | ⟨rfl, hs⟩ | ⟨rfl, hs⟩ | ⟨rfl, hs⟩ | ⟨rfl, hs⟩
      all_goals simpa [VT.hasUnit, Option.isSome_iff_ne_none] using hs
    refine (exec_softError_reg hv u).trans ?_
    simp [hp, has]
  case noReg =>
    refine (exec_softError_reg hv u).trans ?_
    rcases hs with hs | hp
    · have has : vt.hasUnit u = false := by
        rcases hs with rfl | rfl | rfl | rfl | ⟨rfl, hs⟩
        all_goals simp [VT.hasUnit]
        exact fun _ => hs
      simp [has]
    · simp [hp]
  · rw [Gang.withPoisoned_barrier]
  · rw [Gang.withPoisoned_barrier]
  case l2 =>
    refine State.l2Find_setL2 (s := s.fromStorage l) (l := l) ?_ (show l.line = _ from State.line_of_l2Find hl)
    rw [State.l2Find, State.fromStorage_l2]
    exact hl
  · intro ho
    rw [State.fromStorage_none ho]
    exact restored s _
  · intro o ho
    obtain ⟨mem, poison⟩ := restored (s.fromStorage l) { l with old := none }
    obtain ⟨mem', poison'⟩ := State.fromStorage_some (s := s) ho
    rw [State.line_of_l2Find hl] at mem' poison'
    exact ⟨mem.trans mem', poison.trans poison'⟩
  · rw [State.core_setCore_self]
  · intro hu e he
    rw [State.core_setCore_self, if_pos hu] at he
    simpa using (List.mem_filter.mp he).2
  · intro hu e he hline
    rw [State.core_setCore_self, if_neg (by simp [hu])] at he
    obtain ⟨e0, _, rfl⟩ := List.mem_map.mp he
    by_cases h0 : e0.line = line
    · rw [if_pos h0]
    · rw [if_neg h0] at hline; exact absurd hline h0
  · intro hb e he
    have broken : s.codeBroken line = true := Bool.or_eq_true_iff.mpr hb
    rw [icache_refetchCode, if_pos broken] at he
    simpa using (List.mem_filter.mp he).2
  · intro hp hc e he hline
    have whole : s.codeBroken line = false := Bool.or_eq_false_iff.mpr ⟨hp, hc⟩
    rw [icache_refetchCode, if_neg (by simp [whole])] at he
    obtain ⟨e0, _, rfl⟩ := List.mem_map.mp he
    by_cases h0 : e0.1 = line
    · rw [if_pos h0]
    · rw [if_neg h0] at hline; exact absurd hline h0
  · exact (SMap.get?_mapVals _ s.futures key).trans (by rw [hf]; simp)
  · simp [State.fatalError, hf]

end Sys2Proof.Machine
end

section
/-! PROOF. Closure of the ports to a tile: what hardware does at the first one, by the tile's kind, then the claim. -/

namespace Sys2Proof.Machine

open Sys2Proof

/-! ### Views that change -/

/-- `t` differs from `s` in nothing but views, and no port opens or closes. -/
structure State.ViewsOnly (s t : State) : Prop where
  rest : t = { s with views := t.views }
  ports : ∀ r y, (t.view r y).portClosed = (s.view r y).portClosed

namespace State.ViewsOnly

variable {s t u : State}

theorem refl (s : State) : s.ViewsOnly s := ⟨rfl, fun _ _ => rfl⟩

theorem trans (h : s.ViewsOnly t) (h' : t.ViewsOnly u) : s.ViewsOnly u where
  rest :=
    calc
      u = { t with views := u.views } := h'.rest
      _ = { ({ s with views := t.views } : State) with views := u.views } :=
        congrArg (fun r : State => { r with views := u.views }) h.rest
  ports r y := (h'.ports r y).trans (h.ports r y)

theorem foldl {α : Type} {f : State → α → State} (h : ∀ (s : State) a, s.ViewsOnly (f s a)) (l : List α) (s : State) :
    s.ViewsOnly (l.foldl f s) := by
  induction l generalizing s with
  | nil => exact refl s
  | cons a l ih => exact (h s a).trans (ih _)

theorem modView {w x : TileId} {f : View → View} (hf : ∀ v, (f v).portClosed = v.portClosed) :
    s.ViewsOnly (s.modView w x f) where
  rest := rfl
  ports r y := by
    rw [State.modView, State.view_setView]
    split
    · next h => rw [hf]; exact congrArg (fun k => (s.views.getD k {}).portClosed) h.symm
    · rfl

theorem tiles (h : s.ViewsOnly t) : t.tiles = s.tiles := by rw [h.rest]
theorem dies (h : s.ViewsOnly t) : t.dies = s.dies := by rw [h.rest]
theorem mem (h : s.ViewsOnly t) : t.mem = s.mem := by rw [h.rest]
theorem l2 (h : s.ViewsOnly t) : t.l2 = s.l2 := by rw [h.rest]
theorem cores (h : s.ViewsOnly t) : t.cores = s.cores := by rw [h.rest]
theorem sideband (h : s.ViewsOnly t) : t.sideband = s.sideband := by rw [h.rest]

end State.ViewsOnly

theorem State.retestQuorums_viewsOnly (s : State) (w : TileId) : s.ViewsOnly (s.retestQuorums w) := by
  have noted (s : State) (r t : TileId) (c : Nat) : s.ViewsOnly (s.noteQuorum r t c) := by
    unfold State.noteQuorum
    split
    · exact .modView fun _ => rfl
    · exact .refl s
  unfold State.retestQuorums
  refine .foldl (fun s t => .foldl (fun s r => ?_) _ s) _ s
  split
  · exact .refl s
  · exact noted s _ _ _

theorem State.clearViews_viewsOnly (s : State) (t : TileId) : s.ViewsOnly (s.clearViews t) := by
  unfold State.clearViews
  refine .foldl (fun s w => ?_) _ s
  exact .modView fun _ => rfl

/-! ### Closure by tile kind (R360) -/

section
variable {s : State} {t : TileId} {k : Nat}

theorem State.closeTile_hbm (ht : tileRole t = some (.hbm k)) :
    (if k = 0 then ((s.closeTile t).die (tileDie t)).hbm0 else ((s.closeTile t).die (tileDie t)).hbm1) = false := by
  unfold State.closeTile
  simp only [ht]
  rw [State.die_eq (State.loseLines_loses _ _).dies, State.die_setDie_self]
  by_cases hk : k = 0 <;> simp [hk]

theorem State.emptyClusters_dies (s : State) (t : TileId) : (s.emptyClusters t).dies = s.dies := by
  have emptied (l : List Nat) (s : State) : (l.foldl (State.emptyCluster t) s).dies = s.dies :=
    List.foldlRecOn (motive := fun u : State => u.dies = s.dies) l _ rfl
      fun u h g _ => (State.settleHold_loses _ _).dies.trans h
  have handed (s : State) : (s.handOnDue t).dies = s.dies :=
    (State.Loses.foldl (fun s k => s.handOnGang_loses k) _ _).dies
  exact (handed _).trans (emptied _ s)

theorem State.closeTile_bridge (ht : tileRole t = some .ringBridge) : ((s.closeTile t).die (tileDie t)).severed = true := by
  unfold State.closeTile
  simp only [ht]
  split
  · rw [State.die_eq (State.emptyClusters_dies _ t), State.die_eq (State.loseLines_loses _ _).dies, State.die_setDie_self]
  · rw [State.die_setDie_self]

/-- No line of a closed slice is left. -/
theorem State.closeTile_slice (ht : tileRole t = some (.slice k)) : ∀ l ∈ (s.closeTile t).l2,
    ¬ (homeDie (l.line * 64) = tileDie t ∧ ∃ y, (s.closeTile t).homeSlice (l.line * 64) = some (k, y)) := by
  unfold State.closeTile State.closeSlice
  simp only [ht]
  rintro l hl ⟨die, y, home⟩
  have mine := State.l2_loseLines l hl
  have same : s.homeSlice (l.line * 64) = some (k, y) := by
    rw [← home, State.homeSlice, State.homeSlice, State.die_eq (State.loseLines_loses _ _).dies]
    rfl
  simp [die, same] at mine

/-- Cores that change in something else than the stores that they hold. -/
theorem State.pend_mapVals {m : SMap Core} {f : Nat → Core → Core} (hf : ∀ n k, (f n k).pend = k.pend) (c : Nat) :
    ((m.mapVals f).getD c {}).pend = (m.getD c {}).pend := by
  rw [SMap.getD, SMap.get?_mapVals, SMap.getD]
  cases m.get? c with
  | none => rfl
  | some k => exact hf c k

theorem State.settleHold_pend (s : State) (g : Nat) : (s.settleHold g).mem = s.mem
    ∧ ∀ c, ((s.settleHold g).core c).pend = (s.core c).pend := by
  unfold State.settleHold
  split
  · exact ⟨rfl, fun _ => rfl⟩
  · exact ⟨rfl, State.pend_mapVals fun n k => by split <;> rfl⟩

/-- A cluster in which no gang waits closes without any effect on storage or on held stores. -/
theorem State.closeTile_cluster (ht : tileRole t = some (.cluster k)) (hq : (s.cluster (4 * tileDie t + k)).queue = [])
    (hh : (s.tile t).tally.handOn = []) :
    (s.closeTile t).mem = s.mem ∧ ∀ c, ((s.closeTile t).core c).pend = (s.core c).pend := by
  unfold State.closeTile State.emptyClusters takenClusters
  simp only [ht, List.foldl_cons, List.foldl_nil]
  have none' : ((State.emptyCluster t s (4 * tileDie t + k)).tile t).tally.handOn = [] := by
    have set (u : State) (g : Nat) (x : Cluster) : (u.setCluster g x).tile t = u.tile t := rfl
    rw [State.emptyCluster, State.tile_eq (State.settleHold_loses _ _).tiles, set, State.tile_modTile_self]
    simp only [hq, hh, List.append_nil]
  unfold State.handOnDue
  simp only [none', List.filter_nil, List.foldl_nil]
  exact State.settleHold_pend _ _

end

/-! ### The first port that closes (R354, R358, R368) -/

theorem State.flushAll_idle {s : State} (h : ∀ c, (s.core c).pend = []) : s.flushAll = s :=
  List.foldlRecOn (motive := fun u : State => u = s) s.cores _ rfl fun u hu e _ => by
    subst hu; exact if_pos (h e.1)

/-- The stores that cores of the clusters which a cordon takes held are gone; what others hold stands. -/
theorem State.pend_dropHeld (s : State) (t : TileId) (c : Nat) : ((s.dropHeld t).core c).pend
    = if (takenClusters t).contains (clusterOfCore c) then [] else (s.core c).pend := by
  have entry : (s.dropHeld t).cores.get? c = _ := SMap.get?_mapVals _ s.cores c
  rw [State.core, SMap.getD, entry, State.core, SMap.getD]
  cases s.cores.get? c <;> dsimp only [Option.map, Option.getD] <;> split <;> rfl

/-- The device treats a tile as cordoned, before anything follows from it by hardware. -/
def State.sealTile (s : State) (t : TileId) (cause : Nat) : State :=
  (s.dropHeld t).flushAll.modTile t fun x => { x with
    cordoned := true, firstCause := cause, remapped := false, marked := false, handled := false
    tally := { again := x.tally.again, handOn := x.tally.handOn } }

section
variable {s : State} {t : TileId}

theorem State.cordonTile_again (h : (s.tile t).cordoned = true) (cause : Nat) : s.cordonTile t cause = s := if_pos h

theorem State.cordonTile_first (h : (s.tile t).cordoned = false) (cause : Nat) :
    ((s.sealTile t cause).closeTile t).ViewsOnly (s.cordonTile t cause) := by
  rw [State.cordonTile, if_neg (by simp [h])]
  exact State.retestQuorums_viewsOnly _ t

/-- The stores that are performed before a cordon change no tile. -/
theorem State.flushed_tiles (s : State) (t : TileId) : (s.dropHeld t).flushAll.tiles = s.tiles :=
  (State.flushAll_loses (s.dropHeld t)).tiles

theorem State.tile_sealTile (s : State) (t y : TileId) (cause : Nat) : (s.sealTile t cause).tile y
    = if y = t then { s.tile y with
        cordoned := true, firstCause := cause, remapped := false, marked := false, handled := false
        tally := { again := (s.tile y).tally.again, handOn := (s.tile y).tally.handOn } } else s.tile y := by
  rw [State.sealTile, State.tile_modTile, State.tile_eq (s.flushed_tiles t)]

/-- A cordon leaves STATE of every tile, which the messages change, and no open port closes by it alone. -/
theorem State.cordonTile_kept (s : State) (t : TileId) (cause : Nat) :
    (∀ y, ((s.cordonTile t cause).tile y).st = (s.tile y).st)
      ∧ ∀ r y, ((s.cordonTile t cause).view r y).portClosed = (s.view r y).portClosed := by
  cases h : (s.tile t).cordoned with
  | true => rw [State.cordonTile_again h]; exact ⟨fun _ => rfl, fun _ _ => rfl⟩
  | false =>
    have views := State.cordonTile_first h cause
    have closed := (s.sealTile t cause).closeTile_handles t
    refine ⟨fun y => ?_, fun r y => ?_⟩
    · rw [State.tile_eq views.tiles, closed.st, State.tile_sealTile]
      split <;> rfl
    · rw [views.ports, State.view_eq closed.views]
      exact congrArg View.portClosed (State.view_eq (State.flushAll_loses (s.dropHeld t)).views r y)

/-- The tile is cordoned; at the first closure with that cause, and its cordon is yet to be handled. -/
theorem State.cordonTile_tile (s : State) (t : TileId) (cause : Nat) : ((s.cordonTile t cause).tile t).cordoned = true
    ∧ ((s.tile t).cordoned = false → ((s.cordonTile t cause).tile t).firstCause = cause
      ∧ ((s.cordonTile t cause).tile t).handled = false) := by
  cases h : (s.tile t).cordoned with
  | true => rw [State.cordonTile_again h]; exact ⟨h, nofun⟩
  | false =>
    have closed := (s.sealTile t cause).closeTile_handles t
    rw [State.tile_eq (State.cordonTile_first h cause).tiles, closed.cordoned, closed.firstCause, closed.handled,
      State.tile_sealTile, if_pos rfl]
    exact ⟨rfl, fun _ => ⟨rfl, rfl⟩⟩

/-- What hardware does at the first closure, by the tile's kind (R360). -/
theorem State.cordonTile_kinds (h : (s.tile t).cordoned = false) (cause k : Nat) :
    let u := s.cordonTile t cause
    let d := tileDie t
    (tileRole t = some (.hbm k) → (if k = 0 then (u.die d).hbm0 else (u.die d).hbm1) = false)
    ∧ (tileRole t = some .ringBridge → (u.die d).severed = true)
    ∧ (tileRole t = some (.cluster k) → (s.cluster (4 * d + k)).queue = [] → (s.tile t).tally.handOn = [] →
        (∀ c, clusterOfCore c ≠ 4 * d + k → (s.core c).pend = []) → u.mem = s.mem ∧ ∀ c, (u.core c).pend = [])
    ∧ (tileRole t = some (.slice k) →
        ∀ l ∈ u.l2, ¬ (homeDie (l.line * 64) = d ∧ ∃ y, u.homeSlice (l.line * 64) = some (k, y))) := by
  have views := State.cordonTile_first h cause
  intro u d
  have die : u.die d = ((s.sealTile t cause).closeTile t).die d := State.die_eq views.dies d
  refine ⟨fun ht => ?_, fun ht => ?_, fun ht hq hh hp => ?_, fun ht => ?_⟩
  · rw [die]; exact State.closeTile_hbm ht
  · rw [die]; exact State.closeTile_bridge ht
  · have idle : ∀ c, ((s.dropHeld t).core c).pend = [] := by
      intro c
      rw [State.pend_dropHeld]
      by_cases hc : clusterOfCore c = 4 * d + k
      · simp [takenClusters, ht, hc, d]
      · rw [hp c hc, ite_self]
    have sealed : s.sealTile t cause = (s.dropHeld t).modTile t _ := congrArg (fun u : State => u.modTile t _) (State.flushAll_idle idle)
    obtain ⟨mem, pend⟩ := State.closeTile_cluster (s := s.sealTile t cause) ht (by rw [sealed]; exact hq)
      (by rw [State.tile_sealTile, if_pos rfl]; exact hh)
    refine ⟨views.mem.trans (mem.trans (by rw [sealed]; rfl)), fun c => ?_⟩
    rw [State.core, views.cores]
    exact (pend c).trans (by rw [sealed]; exact idle c)
  · have home (loc : Nat) : u.homeSlice loc = ((s.sealTile t cause).closeTile t).homeSlice loc := by
      rw [State.homeSlice, State.homeSlice, State.die_eq views.dies]
    simp only [home]
    rw [views.l2]
    exact State.closeTile_slice ht

end

/-! ### The messages (R354, R356) -/

/-- A vote whose CHECK, MSG, subject and sender are these. -/
theorem isVote_of {f : Word64} {msg : Nat} (hf : flitValid f = true) (hm : bits64 f 40 4 = msg) : isVote f msg = true := by
  simp [isVote, hf, flitMsg, hm]

section
variable {s : State} {n t : TileId}

theorem exec_portClosure_open (hn : (neighbours t).contains n = true) (hc : (s.tile n).cordoned = false)
    (hp : (s.view n t).portClosed = false) (hq : (s.view n t).quorumKnown = true) : exec (.portClosure n t) s
      = .next (((s.setView n t { s.view n t with portClosed := true }).cordonTile t (s.view n t).quorumCause).sendFlit n
          ((t :: (witnesses t ++ neighbours t).eraseDups).filter (fun y => y != n) ++ [fw1Tile]) (voteFlit t 3 0 n)) := by
  simp only [exec, execPortClosure, hn, hc, hp, hq, msgCordoned]
  rfl

theorem exec_portClosure_stays (h : (s.view n t).portClosed = true ∨ (s.view n t).quorumKnown = false) :
    exec (.portClosure n t) s = .next s := by
  refine congrArg _ (if_pos ?_)
  obtain h | h := h <;> simp [h]

/-- A flit reaches those that a tile sends it to, if the tile has not been RETIRED. -/
theorem State.sendFlit_sideband (h : (s.tile n).st ≠ 6) (dest : List TileId) (f : Word64) :
    (s.sendFlit n dest f).sideband = s.sideband ++ dest.map fun y => (y, f) := by
  exact congrArg State.sideband (if_neg h)

/-- A flit that is sent changes nothing but the sideband. -/
theorem State.sendFlit_rest (s : State) (n : TileId) (dest : List TileId) (f : Word64) :
    s.sendFlit n dest f = { s with sideband := (s.sendFlit n dest f).sideband } := by
  unfold State.sendFlit; split <;> rfl

/-- Those who hear of a closure: the subject, its witnesses, its other neighbours, FAB. -/
theorem mem_closureHearers {y : TileId} (h : y = t ∨ y ∈ witnesses t ∨ y ∈ neighbours t ∨ y = fw1Tile) (hy : y ≠ n) :
    y ∈ (t :: (witnesses t ++ neighbours t).eraseDups).filter (fun y => y != n) ++ [fw1Tile] := by
  simp only [List.mem_append, List.mem_filter, List.mem_cons, List.mem_eraseDups, List.not_mem_nil, bne_iff_ne, or_false]
  tauto

/-- CORDONED from a neighbour in service reaches the subject. -/
theorem exec_cordoned_subject {f : Word64} (hf : flitValid f = true) (hm : bits64 f 40 4 = 3) (ht : flitSubject f = t)
    (hw : flitTile f = n) (hn : (neighbours t).contains n = true) (hc : (s.tile n).cordoned = false) :
    exec (.cordoned t f) s = .next ((s.takeFlit t f).modTile t fun x =>
      if x.st = 0 ∨ x.st = 1 ∨ x.st = 5 then { x with st := 2, accusers := [] } else x) := by
  have kept : ((s.takeFlit t f).tile n).cordoned = false := hc
  simp only [exec, execCordoned, ht, hw, isVote_of hf hm, msgCordoned, hn, kept]
  rfl

/-- CORDONED from a neighbour in service reaches another neighbour. -/
theorem exec_cordoned_neighbour {f : Word64} {r : TileId} (hf : flitValid f = true) (hm : bits64 f 40 4 = 3) (ht : flitSubject f = t)
    (hw : flitTile f = n) (hn : (neighbours t).contains n = true) (hc : (s.tile n).cordoned = false) (hr : r ≠ t)
    (hr' : (neighbours t).contains r = true) :
    exec (.cordoned r f) s = .next ((s.takeFlit r f).modView r t fun v => { v with quorumKnown := true }) := by
  have kept : ((s.takeFlit r f).tile n).cordoned = false := hc
  simp only [exec, execCordoned, ht, hw, isVote_of hf hm, msgCordoned, hn, kept, hr', if_neg hr]
  rfl

/-- PORT_CLOSURE and CORDONED (R354, R356, R358, R360, R363, R365, R366, R368). -/
theorem portsClose : Claim.PortsClose := by
  intro s n t r k f hn hc hst v x d
  refine ⟨fun hp hq => ?_, exec_portClosure_stays, fun hf hm ht hw => ⟨?_, fun hr hr' => ?_⟩⟩
  · let s0 := s.setView n t { s.view n t with portClosed := true }
    let u := s0.cordonTile t (s.view n t).quorumCause
    obtain ⟨st, ports⟩ := s0.cordonTile_kept t (s.view n t).quorumCause
    obtain ⟨cordoned, first⟩ := s0.cordonTile_tile t (s.view n t).quorumCause
    have opened : (u.view n t).portClosed = true :=
      (ports n t).trans (congrArg View.portClosed (s.view_setView_self n t _))
    refine ⟨_, exec_portClosure_open hn hc hp hq, ?_⟩
    rw [State.sendFlit_rest]
    refine ⟨cordoned, opened, fun hx => ?_, fun y hy hyn => ?_⟩
    · obtain ⟨cause, handled⟩ := first hx
      exact ⟨cause, handled, State.cordonTile_kinds (s := s0) hx _ k⟩
    · have sends : (u.tile n).st ≠ 6 := by rw [st]; exact hst
      exact (State.sendFlit_sideband sends _ _).symm ▸
        List.mem_append_right _ (List.mem_map_of_mem (mem_closureHearers hy hyn))
  · exact ⟨_, exec_cordoned_subject hf hm ht hw hn hc, State.tile_modTile_self _ t _⟩
  · exact ⟨_, exec_cordoned_neighbour hf hm ht hw hn hc hr hr', State.view_modView_self _ r t _⟩

end

end Sys2Proof.Machine
end

section
/-! PROOF. CORDON_HANDLING: the remap, the marks, the end of the VTs and the records (R358 to R367), then the claim. -/

namespace Sys2Proof.Machine

open Sys2Proof

/-! ### The remap (R361, R364) -/

section
variable {s : State} {t : TileId} {d k : Nat}

theorem State.remapTile_tile (s : State) (t : TileId) : ((s.remapTile t).tile t).remapped = true := by
  rw [(s.remapTile_handles t).remapped, State.tile_modTile_self]

/-- A slice leaves its die's mask. -/
theorem State.remapSlice_mask (s : State) (d k : Nat) :
    ((s.remapSlice d k).die d).sliceMask = (s.die d).sliceMask &&& ~~~(BitVec.twoPow 12 k) := by
  obtain ⟨watch, e⟩ := s.remapSlice_eq d k
  have kept : (watch.foldl State.reRegister (s.unmapSlice d k)).die d = (s.unmapSlice d k).die d :=
    State.die_eq (State.Loses.foldl (fun s e => s.reRegister_loses e) watch _).dies d
  have unmapped : (s.unmapSlice d k).die d = { s.die d with sliceMask := (s.die d).sliceMask &&& ~~~(BitVec.twoPow 12 k) } :=
    s.die_setDie_self d _
  rw [e]
  exact congrArg Die.sliceMask (kept.trans unmapped)

/-- Waking a waiter changes neither a future nor a command. -/
theorem State.wakeFault_keeps (s : State) (id : Nat) (c : Cause) (a : Word64) :
    (s.wakeFault id c a).futures = s.futures ∧ (s.wakeFault id c a).commands = s.commands := by
  have recorded (s : State) (w : VT) : (s.rewriteRecord w).futures = s.futures ∧ (s.rewriteRecord w).commands = s.commands := by
    unfold State.rewriteRecord; split <;> exact ⟨rfl, rfl⟩
  have modified (s : State) (f : VT → VT) : (s.modVt id f).futures = s.futures ∧ (s.modVt id f).commands = s.commands := by
    unfold State.modVt; split <;> exact ⟨rfl, rfl⟩
  have woken (f : VT → VT) : (s.wake id f).futures = s.futures ∧ (s.wake id f).commands = s.commands := by
    unfold State.wake
    split
    · exact ⟨rfl, rfl⟩
    · dsimp only; split
      · exact ⟨rfl, rfl⟩
      · exact recorded s _
  unfold State.wakeFault
  split
  · exact ⟨rfl, rfl⟩
  · split
    · exact ⟨rfl, rfl⟩
    · exact ⟨(modified _ _).1.trans (woken _).1, (modified _ _).2.trans (woken _).2⟩

theorem State.wakeWaiters_keeps (s : State) (l : List (Nat × Future)) :
    (s.wakeWaiters l).futures = s.futures ∧ (s.wakeWaiters l).commands = s.commands :=
  List.foldlRecOn (motive := fun u : State => u.futures = s.futures ∧ u.commands = s.commands) l _ ⟨rfl, rfl⟩
    fun _ h e _ => List.foldlRecOn (motive := fun u : State => u.futures = s.futures ∧ u.commands = s.commands) e.2.waiters _ h
      fun u h w _ => ⟨(u.wakeFault_keeps w.1 .cordon 0).1.trans h.1, (u.wakeFault_keeps w.1 .cordon 0).2.trans h.2⟩

theorem State.die_dropSteward (s : State) (d : Nat) :
    (s.dropSteward d).die d = { s.die d with futuresLost := true, steward := s.adopter d } := by
  have entry : (s.dropSteward d).dies.get? d = _ := SMap.get?_mapVals _ (s.dies.set d { s.die d with futuresLost := true }) d
  rw [State.die, SMap.getD, entry, SMap.get?_set_self]
  simp

/-- A die's roles move, its futures are gone, and its link commands have come to their end. -/
theorem State.loseSteward_spec (s : State) (d : Nat) (r : CordonTally) :
    let u := (s.loseSteward d r).1
    (u.die d).futuresLost = true ∧ (u.die d).steward = s.adopter d ∧ (∀ f ∈ u.futures, f.1 / 65536 ≠ d)
      ∧ ∀ c ∈ u.commands, c.eng = 1 → c.unit = d → c.phase ≠ .queued ∧ c.phase ≠ .running := by
  obtain ⟨table, e⟩ := s.loseSteward_eq d r
  have die : (s.loseSteward d r).1.die d = { s.die d with futuresLost := true, steward := s.adopter d } := by
    rw [e]
    exact (State.die_eq ((s.dropSteward d).wakeWaiters_loses table).dies d).trans (s.die_dropSteward d)
  have futures : (s.loseSteward d r).1.futures = (s.dropSteward d).futures := by
    rw [e]; exact ((s.dropSteward d).wakeWaiters_keeps table).1
  have commands : (s.loseSteward d r).1.commands = (s.dropSteward d).commands := by
    rw [e]; exact ((s.dropSteward d).wakeWaiters_keeps table).2
  intro u
  refine ⟨congrArg Die.futuresLost die, congrArg Die.steward die, fun f hf => ?_, fun c hc heng hunit => ?_⟩
  · rw [futures] at hf
    exact bne_iff_ne.mp (List.mem_filter.mp hf).2
  · rw [commands] at hc
    obtain ⟨c0, _, rfl⟩ := List.mem_map.mp hc
    have eng : c0.eng.val = 1 := by split at heng <;> exact congrArg Fin.val heng
    have unit : c0.unit = d := by split at hunit <;> exact hunit
    split
    · exact ⟨nofun, nofun⟩
    · next open' => simpa [eng, unit, not_or] using open'

/-- Which die adopts does not depend on how far the steps of a cordon have come. -/
theorem State.adopter_remapped (s : State) (t : TileId) (d : Nat) :
    (s.modTile t fun x => { x with remapped := true }).adopter d = s.adopter d := by
  have tile (y : TileId) : ((s.modTile t fun x => { x with remapped := true }).tile y).cordoned = (s.tile y).cordoned
      ∧ ((s.modTile t fun x => { x with remapped := true }).tile y).out = (s.tile y).out := by
    rw [State.tile_modTile]
    split <;> exact ⟨rfl, rfl⟩
  have die (e : Nat) : (s.modTile t fun x => { x with remapped := true }).die e = s.die e := rfl
  unfold State.adopter
  simp only [tile, die]

theorem State.remapTile_slice (ht : tileRole t = some (.slice k)) : ((s.remapTile t).die (tileDie t)).sliceMask
    = (s.die (tileDie t)).sliceMask &&& ~~~(BitVec.twoPow 12 k) := by
  unfold State.remapTile
  rw [ht]
  exact State.remapSlice_mask _ _ _

theorem State.remapTile_steward (ht : tileRole t = some .steward) :
    let u := s.remapTile t
    let d := tileDie t
    (u.die d).futuresLost = true ∧ (u.die d).steward = s.adopter d ∧ (∀ f ∈ u.futures, f.1 / 65536 ≠ d)
      ∧ ∀ c ∈ u.commands, c.eng = 1 → c.unit = d → c.phase ≠ .queued ∧ c.phase ≠ .running := by
  have spec := (s.modTile t fun x => { x with remapped := true }).loseSteward_spec (tileDie t)
    ((s.modTile t fun x => { x with remapped := true }).tile t).tally
  rw [State.adopter_remapped] at spec
  unfold State.remapTile
  rw [ht]
  exact spec

end

/-! ### Records (R366) -/

section
variable {s : State} {t : TileId} {n : CordonNote}

theorem State.tiles_postAll (s : State) (typ source : Nat) (fields : Nat → List (Nat × List Byte)) :
    (s.postAll typ source fields).tiles = s.tiles :=
  List.foldlRecOn (motive := fun u : State => u.tiles = s.tiles) (List.range 64) _ rfl fun u h d _ => by
    obtain ⟨v, records, memory, e⟩ := u.post_frame d typ source (fields d)
    rw [e]
    exact (congrArg State.tiles memory.eq).trans h

theorem State.cordons_postAll (s : State) (typ source : Nat) (fields : Nat → List (Nat × List Byte)) :
    (s.postAll typ source fields).cordons = s.cordons :=
  (State.Handles.foldl (fun s d => s.post_handles d typ source (fields d)) (List.range 64) s).cordons

/-- CORDONS as it counts a cordon, before its record. -/
def State.countCordon (s : State) (n : CordonNote) : State := if n.event = 1 then { s with cordons := s.cordons + 1 } else s

theorem State.postNote_eq (s : State) (t : TileId) (n : CordonNote) :
    ∃ fields, State.postNote t s n = (s.countCordon n).postAll 0x10 fw1Tile fields := by
  unfold State.postNote State.postCordon State.countCordon
  exact ⟨_, rfl⟩

theorem State.postNote_tiles (s : State) (t : TileId) (n : CordonNote) : (State.postNote t s n).tiles = s.tiles := by
  obtain ⟨fields, e⟩ := s.postNote_eq t n
  rw [e, State.tiles_postAll, State.countCordon]
  split <;> rfl

theorem State.postNote_cordons (s : State) (t : TileId) (n : CordonNote) :
    (State.postNote t s n).cordons = s.cordons + (if n.event = 1 then 1 else 0) := by
  obtain ⟨fields, e⟩ := s.postNote_eq t n
  rw [e, State.cordons_postAll, State.countCordon]
  split
  · rfl
  · exact (BitVec.add_zero _).symm

theorem State.postNote_seq (s : State) (t : TileId) (n : CordonNote) {dom : Nat} (h : dom < 64) :
    ((State.postNote t s n).domain dom).seq = (s.domain dom).seq + 1 := by
  obtain ⟨fields, e⟩ := s.postNote_eq t n
  rw [e, State.seq_postAll _ _ _ _ h, State.countCordon]
  split <;> rfl

theorem State.postNote_onward (s : State) (t : TileId) (n : CordonNote) : s.Onward (State.postNote t s n) := by
  obtain ⟨fields, e⟩ := s.postNote_eq t n
  rw [e]
  exact .trans (t := s.countCordon n) (.of_vts (by unfold State.countCordon; split <;> rfl)) (State.postAll_onward _ _ _ _)

/-- One record is owed: it is posted, and none is owed any more. -/
theorem State.postOwed_one (h : (s.tile t).owed = [n]) :
    s.postOwed t = State.postNote t (s.modTile t fun x => { x with owed := [] }) n := by
  rw [State.postOwed, h, List.foldl_cons, List.foldl_nil]

theorem State.postOwed_one_tile (h : (s.tile t).owed = [n]) : (s.postOwed t).tile t = { s.tile t with owed := [] } := by
  rw [State.postOwed_one h, State.tile_eq (State.postNote_tiles _ t n), State.tile_modTile_self]

/-- No record is owed: none is posted. -/
theorem State.postOwed_none (h : (s.tile t).owed = []) : s.postOwed t = s.modTile t fun x => { x with owed := [] } := by
  rw [State.postOwed, h, List.foldl_nil]

theorem State.postOwed_none_tile (h : (s.tile t).owed = []) : (s.postOwed t).tile t = s.tile t := by
  rw [State.postOwed_none h, State.tile_modTile_self, ← h]

/-! ### What FAB and SCHED have still to do (R265, R362, R366) -/

/-- With nothing to hand on, the tile reads as before, and nothing else moves. -/
theorem State.placeAgain_stands (ha : (s.tile t).tally.again = []) (hh : (s.tile t).tally.handOn = []) :
    (s.placeAgain t).cordons = s.cordons ∧ (s.placeAgain t).tile t = s.tile t ∧ (s.placeAgain t).vts = s.vts
      ∧ (s.placeAgain t).mem = s.mem ∧ ∀ d, (s.placeAgain t).domain d = s.domain d := by
  have handed : s.handOnDue t = s.modTile t fun x => { x with tally := { x.tally with handOn := [] } } := by
    unfold State.handOnDue; rw [hh]; rfl
  have placed : s.placeAgain t = (s.handOnDue t).modTile t fun x => { x with tally := { x.tally with again := [] } } := by
    have none' : ((s.handOnDue t).tile t).tally.again = [] := by rw [handed, State.tile_modTile_self]; exact ha
    unfold State.placeAgain; dsimp only; rw [none']; rfl
  have tile : (s.placeAgain t).tile t = s.tile t := by
    rw [placed, State.tile_modTile_self, handed, State.tile_modTile_self, ← ha, ← hh]
  rw [handed] at placed
  exact ⟨by rw [placed]; rfl, tile, by rw [placed]; rfl, by rw [placed]; rfl, fun d => by rw [placed]; rfl⟩

end

/-! ### A turn of CORDON_HANDLING -/

section
variable {s : State} {t : TileId}

theorem exec_cordonHandling_remaps (hf : fatalTile t = false) (hh : (s.tile t).handled = false) (hr : (s.tile t).remapped = false) :
    exec (.cordonHandling t) s = .next (s.remapTile t) := by
  simp only [exec, execCordonHandling, hf, hh, hr]; rfl

theorem exec_cordonHandling_marks (hf : fatalTile t = false) (hh : (s.tile t).handled = false) (hr : (s.tile t).remapped = true)
    (hm : (s.tile t).marked = false) : exec (.cordonHandling t) s = .next (s.markTile t) := by
  simp only [exec, execCordonHandling, hf, hh, hr, hm]; rfl

theorem exec_cordonHandling_finishes (hf : fatalTile t = false) (hh : (s.tile t).handled = false) (hr : (s.tile t).remapped = true)
    (hm : (s.tile t).marked = true) (hp : s.fabPaused = false) :
    exec (.cordonHandling t) s = .next (((s.finishCordon t).postOwed t).placeAgain t) := by
  simp only [exec, execCordonHandling, hf, hh, hr, hm, hp]; rfl

theorem exec_cordonHandling_posts (hf : fatalTile t = false) (hh : (s.tile t).handled = true) (hp : s.fabPaused = false) :
    exec (.cordonHandling t) s = .next ((s.postOwed t).placeAgain t) := by
  simp only [exec, execCordonHandling, hf, hh, hp]; rfl

theorem exec_cordonHandling_paused (hf : fatalTile t = false)
    (hh : (s.tile t).handled = true ∨ (s.tile t).remapped = true ∧ (s.tile t).marked = true) (hp : s.fabPaused = true) :
    exec (.cordonHandling t) s = .next (s.placeAgain t) := by
  obtain hh | ⟨hr, hm⟩ := hh
  · simp only [exec, execCordonHandling, hf, hh, hp]; rfl
  · simp only [exec, execCordonHandling, hf, hr, hm, hp, Bool.and_false, Bool.not_true]; rfl

/-- The marks: CORDONS stands, the tile is marked, and every leaf of a page that the cordon took is LOST. -/
theorem State.markTile_spec (s : State) (t : TileId) : (s.markTile t).cordons = s.cordons ∧ ((s.markTile t).tile t).marked = true
    ∧ ∀ (key : Nat) (w : Word64) (loc : Nat), (s.markTile t).tables.get? key = some w → keyLevel key = 4 →
        leafMaps key w loc = true → s.takenPages t (loc / 4096) = true → entryLost w = true := by
  obtain ⟨u, handles, e⟩ := s.markTile_handles t
  refine ⟨by rw [e]; exact handles.cordons, by rw [e, State.tile_modTile_self], fun key w loc hw hl hm hp => ?_⟩
  exact State.markLostPages_lost (p := s.takenPages t) hw hl hm hp

/-- The end of a cordon, and the record that FAB owes for it at once. -/
theorem State.finishCordon_posted (s : State) (t : TileId) (ho : (s.tile t).owed = []) {dom : Nat} (hdom : dom < 64) :
    let u := (s.finishCordon t).postOwed t
    u.cordons = s.cordons + 1 ∧ (u.tile t).handled = true ∧ (u.tile t).owed = [] ∧ (u.tile t).cordoned = (s.tile t).cordoned
      ∧ (u.domain dom).seq = (s.domain dom).seq + 1
      ∧ ((s.modTile t fun x => { x with handled := true }).endTile t).Onward u := by
  obtain ⟨v, settles, e⟩ : ∃ v, (s.modTile t fun x => { x with handled := true }).Settles v
      ∧ v = (s.modTile t fun x => { x with handled := true }).endTile t := ⟨_, State.endTile_settles _ t, rfl⟩
  obtain ⟨n, event, finished⟩ : ∃ n : CordonNote, n.event = 1 ∧ s.finishCordon t = v.owe t n := by rw [e]; exact ⟨_, rfl, rfl⟩
  have tile : (v.owe t n).tile t = { v.tile t with owed := [n] } := by
    rw [State.owe, State.tile_modTile_self, settles.owed, State.tile_modTile_self, ho]; rfl
  have owes : ((v.owe t n).tile t).owed = [n] := congrArg Tile.owed tile
  rw [finished, ← e]
  intro u
  have posted : u.tile t = { v.tile t with owed := [] } := by
    rw [State.postOwed_one_tile owes, tile]
  have eq : u = State.postNote t ((v.owe t n).modTile t fun x => { x with owed := [] }) n := State.postOwed_one owes
  refine ⟨?_, ?_, congrArg Tile.owed posted, ?_, ?_, ?_⟩
  · rw [eq, State.postNote_cordons, if_pos event]
    exact congrArg (· + 1) settles.cordons
  · rw [posted]; exact (settles.handled t).trans (by rw [State.tile_modTile_self])
  · rw [posted]; exact (settles.cordoned t).trans (by rw [State.tile_modTile_self])
  · rw [eq, State.postNote_seq _ _ _ hdom]
    exact congrArg (fun d : Domain => d.seq + 1) (State.domain_eq settles.domains dom)
  · rw [eq]
    refine .trans ?_ (State.postNote_onward _ _ _)
    exact .of_vts rfl

end

/-- CORDON_HANDLING (R358 to R367). -/
theorem cordonsAreHandled : Claim.CordonsAreHandled := by
  intro s t k id key e g v dom hf hdom x d handles idle
  refine ⟨fun hh hr => ?_, fun hh hr hm => ?_, fun hh hr hm ho hp => ?_, fun hh ho ⟨ha, hn⟩ hp => ?_, fun ⟨ha, hn⟩ h => ?_⟩
  · exact ⟨_, exec_cordonHandling_remaps hf hh hr, (s.remapTile_handles t).cordons, s.remapTile_tile t,
      State.remapTile_slice, State.remapTile_steward⟩
  · exact ⟨_, exec_cordonHandling_marks hf hh hr hm, s.markTile_spec t⟩
  · obtain ⟨cordons, handled, owed, cordoned, seq, onward⟩ := s.finishCordon_posted t ho hdom
    have settles := ((s.finishCordon t).postOwed t).placeAgain_settles t
    refine ⟨_, exec_cordonHandling_finishes hf hh hr hm hp, settles.cordons.trans cordons, (settles.handled t).trans handled,
      (settles.owed t).trans owed, (settles.cordoned t).trans cordoned, ?_, fun ht hg hplaced hcluster hmember hv he => ?_⟩
    · rw [State.domain_eq settles.domains]; exact seq
    · have sound : (s.modTile t fun x => { x with handled := true }).VtSound id := ⟨v, hv, fun h => absurd h he⟩
      obtain ⟨v', hv', ended, _⟩ := settles.onward.gone (onward.gone (State.endTile_gone ht hg hplaced hcluster hmember sound))
      exact ⟨v', hv', ended⟩
  · have tile := State.postOwed_one_tile ho
    obtain ⟨cordons, same, _, _, domain⟩ := State.placeAgain_stands (congrArg (·.tally.again) tile |>.trans ha)
      (congrArg (·.tally.handOn) tile |>.trans hn)
    refine ⟨_, exec_cordonHandling_posts hf hh hp, cordons.trans ?_, same.trans tile, ?_⟩
    · rw [State.postOwed_one ho, State.postNote_cordons]; rfl
    · rw [domain, State.postOwed_one ho, State.postNote_seq _ t e hdom]; rfl
  · by_cases hp : s.fabPaused = true
    · obtain ⟨cordons, same, vts, mem, domain⟩ := State.placeAgain_stands ha hn
      have done : x.handled = true ∨ x.remapped = true ∧ x.marked = true := h.imp And.left fun ⟨hr, hm, _⟩ => ⟨hr, hm⟩
      exact ⟨_, exec_cordonHandling_paused hf done hp, cordons, same, vts, mem, domain dom⟩
    · obtain ⟨hh, ho⟩ : x.handled = true ∧ x.owed = [] := by simpa [hp] using h
      have turn := exec_cordonHandling_posts hf hh (Bool.eq_false_iff.mpr hp)
      have tile := State.postOwed_none_tile ho
      rw [State.postOwed_none ho] at turn tile
      obtain ⟨cordons, same, vts, mem, domain⟩ := State.placeAgain_stands (congrArg (·.tally.again) tile |>.trans ha)
        (congrArg (·.tally.handOn) tile |>.trans hn)
      exact ⟨_, turn, cordons, same.trans tile, vts, mem, domain dom⟩

end Sys2Proof.Machine
end

section
/-! PROOF. The life of a cordoned tile: its self-test, its appeal, its readmission (R354, R356, R357, R360), then the claim. -/

namespace Sys2Proof.Machine

open Sys2Proof

/-! ### The self-test (R356) -/

section
variable {s : State} {t : TileId}

/-- The vote registers outlive the self-test. -/
theorem State.clearTile_tiles (s : State) (t : TileId) : (s.clearTile t).tiles = s.tiles := by
  unfold State.clearTile; dsimp only; split <;> rfl

theorem State.sendFlit_tiles (s : State) (n : TileId) (dest : List TileId) (f : Word64) :
    (s.sendFlit n dest f).tiles = s.tiles := by
  rw [State.sendFlit_rest]

theorem State.sendFlit_tile (s : State) (n y : TileId) (dest : List TileId) (f : Word64) :
    (s.sendFlit n dest f).tile y = s.tile y := State.tile_eq (s.sendFlit_tiles n dest f) y

theorem State.sendFlit_view (s : State) (n r y : TileId) (dest : List TileId) (f : Word64) :
    (s.sendFlit n dest f).view r y = s.view r y := by
  rw [State.sendFlit_rest]; rfl

theorem State.retireTile_tile (s : State) (t : TileId) : (s.retireTile t).tile t = { s.tile t with st := 6 } := by
  rw [State.retireTile, State.tile_modTile_self, State.sendFlit_tile]; rfl

theorem State.retireTile_mem (s : State) (t : TileId) : (s.retireTile t).mem = s.mem := by
  rw [State.retireTile, State.sendFlit_rest]; rfl

/-- A flit that is sent is on the sideband. -/
theorem State.mem_sendFlit {n y : TileId} {dest : List TileId} (h : (s.tile n).st ≠ 6) (hy : y ∈ dest) (f : Word64) :
    (y, f) ∈ (s.sendFlit n dest f).sideband :=
  State.sendFlit_sideband h dest f ▸ List.mem_append_right _ (List.mem_map_of_mem hy)

/-- SELFTEST of a tile in each state (R356). -/
theorem exec_selftest_cordoned (h : (s.tile t).st = 2) (pass : Bool) : exec (.selftest t pass) s = .next
    (if (s.tile t).appeals < 2 then (s.setTile t { s.tile t with st := 3, testAt := s.tileCycle t }).clearTile t
      else s.retireTile t) := congrArg _ (if_pos h)

theorem exec_selftest_passes (h : (s.tile t).st = 3)
    (hl : s.tileCycle t ≤ (s.tile t).testAt + (if tileDie t < 8 then 2800000 else 2400000)) :
    exec (.selftest t true) s = .next
      ((s.setTile t { s.tile t with st := 4, appeals := (s.tile t).appeals + 1, bist := some true }).sendFlit t
        (witnesses t ++ neighbours t).eraseDups (voteFlit t 4 ((s.tile t).appeals + 1) t)) :=
  have other : ¬ (s.tile t).st = 2 := by rw [h]; decide
  congrArg _ ((if_neg other).trans ((if_pos h).trans (if_pos ⟨rfl, hl⟩)))

theorem exec_selftest_fails {pass : Bool} (h : (s.tile t).st = 3)
    (hl : pass = false ∨ (s.tile t).testAt + (if tileDie t < 8 then 2800000 else 2400000) < s.tileCycle t) :
    exec (.selftest t pass) s = .next (s.retireTile t) := by
  have other : ¬ (s.tile t).st = 2 := by rw [h]; decide
  have misses : ¬ (pass = true ∧ s.tileCycle t ≤ (s.tile t).testAt + (if tileDie t < 8 then 2800000 else 2400000)) := by
    rintro ⟨hp, hl'⟩
    obtain hl | hl := hl
    · rw [hp] at hl; cases hl
    · exact Nat.not_lt.mpr hl' hl
  have retires : pass = true ∧ (s.tile t).testAt + (if tileDie t < 8 then 2800000 else 2400000) < s.tileCycle t ∨ pass = false := by
    cases pass with
    | false => exact .inr rfl
    | true => exact .inl ⟨rfl, hl.resolve_left nofun⟩
  exact congrArg _ ((if_neg other).trans ((if_pos h).trans ((if_neg misses).trans (if_pos retires))))

theorem exec_selftest_other (h2 : (s.tile t).st ≠ 2) (h3 : (s.tile t).st ≠ 3) (pass : Bool) :
    exec (.selftest t pass) s = .next s := congrArg _ ((if_neg h2).trans (if_neg h3))

end

/-! ### What passes a closed port (R354) -/

section
variable {s : State} {r t : TileId} {f : Word64}

/-- The flits of a subject that a closed port has passed within the last period. -/
def State.lately (s : State) (r t : TileId) : List Nat := (s.view r t).passed.filter fun a => s.tileCycle r < a + period r t

theorem State.passPort_passes (hc : (s.tile t).cordoned = true) (hm : flitMsg f = 4 ∨ flitMsg f = 8)
    (hl : (s.lately r t).length < 2) :
    s.passPort r t f = some (s.modView r t fun v => { v with passed := s.lately r t ++ [s.tileCycle r] }) := by
  have passes : ((flitMsg f == 0 || flitMsg f == msgAppeal || flitMsg f == msgRetire) && decide ((s.lately r t).length < 2)) = true := by
    obtain hm | hm := hm <;> simp [hm, hl, msgAppeal, msgRetire]
  unfold State.passPort
  rw [if_pos hc]
  exact if_pos passes

theorem State.passPort_full (hc : (s.tile t).cordoned = true) (hl : 2 ≤ (s.lately r t).length) : s.passPort r t f = none := by
  have full : ¬ ((flitMsg f == 0 || flitMsg f == msgAppeal || flitMsg f == msgRetire) && decide ((s.lately r t).length < 2)) = true := by
    simp [Nat.not_lt.mpr hl]
  unfold State.passPort
  rw [if_pos hc]
  exact if_neg full

theorem State.passPort_open (hc : (s.tile t).cordoned = false) : s.passPort r t f = some s := by
  unfold State.passPort
  rw [if_neg (Bool.eq_false_iff.mp hc)]

/-- A RETIRE or an APPEAL that passes leaves the tiles as they are. -/
theorem State.passPort_tiles (hm : flitMsg f = 4 ∨ flitMsg f = 8)
    (h : (s.tile t).cordoned = false ∨ (s.lately r t).length < 2) :
    ∃ u, s.passPort r t f = some u ∧ u.tiles = s.tiles := by
  cases hc : (s.tile t).cordoned with
  | false => exact ⟨s, State.passPort_open hc, rfl⟩
  | true =>
    have few := h.resolve_left (by simp [hc])
    exact ⟨_, State.passPort_passes hc hm few, rfl⟩

end

/-! ### Readmission (R357, R360, R365, R366) -/

section
variable {s : State} {t : TileId}

theorem State.reopenTile_keeps (s : State) (t : TileId) : (s.reopenTile t).tiles = s.tiles ∧ (s.reopenTile t).views = s.views
    ∧ (s.reopenTile t).sideband = s.sideband := by
  unfold State.reopenTile
  dsimp only
  split
  · exact ⟨rfl, rfl, rfl⟩
  · split <;> exact ⟨rfl, rfl, rfl⟩
  · exact ⟨rfl, rfl, rfl⟩

/-- The verdict of a witness or a neighbour whose view is cleared. -/
theorem State.verdict_clearViews (s : State) {r t : TileId} (hr : r ∈ neighbours t) : ((s.clearViews t).view r t).verdict = 0 := by
  have cleared (s : State) (w : TileId) (f : View → View) (hf : ∀ v, (f v).verdict = 0) :
      ((s.modView w t f).view r t).verdict = if viewKey r t = viewKey w t then 0 else (s.view r t).verdict := by
    rw [State.modView, State.view_setView]
    split
    · exact hf _
    · rfl
  have member : r ∈ (witnesses t ++ neighbours t).eraseDups := List.mem_eraseDups.mpr (List.mem_append_right _ hr)
  unfold State.clearViews
  generalize (witnesses t ++ neighbours t).eraseDups = l at member
  induction l using List.reverseRecOn with
  | nil => cases member
  | append_singleton l w ih =>
    rw [List.foldl_append, List.foldl_cons, List.foldl_nil, cleared _ _ _ fun _ => rfl]
    split
    · rfl
    · next other =>
      refine ih ((List.mem_append.mp member).resolve_right fun h => other ?_)
      rw [List.mem_singleton.mp h]

/-- Until FAB owes the record of a cordon, nothing moves at Tidewatch but what is noted of its steps. -/
structure State.Awaits (s u : State) (t : TileId) : Prop where
  views : u.views = s.views
  sideband : u.sideband = s.sideband
  st : (u.tile t).st = (s.tile t).st
  owed : (u.tile t).owed = (s.tile t).owed
  firstCause : (u.tile t).firstCause = (s.tile t).firstCause

namespace State.Awaits

variable {u v : State}

theorem refl (s : State) : s.Awaits s t := ⟨rfl, rfl, rfl, rfl, rfl⟩

theorem trans (h : s.Awaits u t) (h' : u.Awaits v t) : s.Awaits v t :=
  ⟨h'.views.trans h.views, h'.sideband.trans h.sideband, h'.st.trans h.st, h'.owed.trans h.owed, h'.firstCause.trans h.firstCause⟩

theorem of_handles (h : s.Handles u) : s.Awaits u t := ⟨h.views, h.sideband, h.st t, h.owed t, h.firstCause t⟩

theorem modTile {f : Tile → Tile} (hf : ∀ x, (f x).st = x.st ∧ (f x).owed = x.owed ∧ (f x).firstCause = x.firstCause) :
    s.Awaits (s.modTile t f) t := by
  obtain ⟨st, owed, cause⟩ := hf (s.tile t)
  exact ⟨rfl, rfl, by rw [State.tile_modTile_self, st], by rw [State.tile_modTile_self, owed], by rw [State.tile_modTile_self, cause]⟩

end State.Awaits

theorem State.remapTile_awaits (s : State) (t : TileId) : s.Awaits (s.remapTile t) t := by
  refine .trans ?_ (.of_handles (s.remapTile_handles t))
  exact .modTile fun _ => ⟨rfl, rfl, rfl⟩

theorem State.markTile_awaits (s : State) (t : TileId) : s.Awaits (s.markTile t) t := by
  obtain ⟨u, handles, e⟩ := s.markTile_handles t
  rw [e]
  exact .trans (.of_handles handles) (.modTile fun _ => ⟨rfl, rfl, rfl⟩)

/-- A tile as a cordon leaves it whose steps are done, before its readmission. -/
theorem State.finishCordon_settled (s : State) (t : TileId) : ∃ u n, s.Awaits u t ∧ (u.tile t).handled = true
    ∧ s.finishCordon t = u.owe t n ∧ n.event = 1 ∧ n.cause = (s.tile t).firstCause := by
  have settles := State.endTile_settles (s.modTile t fun x => { x with handled := true }) t
  have awaits : s.Awaits ((s.modTile t fun x => { x with handled := true }).endTile t) t := by
    refine .trans ?_ (.of_handles settles.toHandles)
    exact .modTile fun _ => ⟨rfl, rfl, rfl⟩
  exact ⟨_, _, awaits, by rw [settles.handled, State.tile_modTile_self], rfl, rfl, awaits.firstCause⟩

/-- Where FAB owes the record already, nothing of the cordon is left to do. -/
theorem State.settleCordon_handled (h : (s.tile t).handled = true) : s.settleCordon t = s := if_pos h

/-- Elsewhere the remap, the marks and the end of the VTs are made up for, and FAB owes the record of the cordon. -/
theorem State.settleCordon_open (h : (s.tile t).handled = false) : ∃ u n, s.Awaits u t ∧ (u.tile t).handled = true
    ∧ s.settleCordon t = u.owe t n ∧ n.event = 1 ∧ n.cause = (s.tile t).firstCause := by
  have remaps (s : State) : s.Awaits (if (s.tile t).remapped then s else s.remapTile t) t := by
    split
    · exact .refl s
    · exact s.remapTile_awaits t
  have marks (s : State) : s.Awaits (if (s.tile t).marked then s else s.markTile t) t := by
    split
    · exact .refl s
    · exact s.markTile_awaits t
  unfold State.settleCordon
  rw [if_neg (Bool.eq_false_iff.mp h)]
  dsimp only
  generalize hv : (if (s.tile t).remapped then s else s.remapTile t) = v
  have first : s.Awaits v t := hv ▸ remaps s
  have second := first.trans (marks v)
  obtain ⟨u, n, awaits, handled, eq, event, cause⟩ := State.finishCordon_settled (if (v.tile t).marked then v else v.markTile t) t
  exact ⟨u, n, second.trans awaits, handled, eq, event, cause.trans second.firstCause⟩

/-- What a readmission finds once nothing of the cordon is left to do: of the tile's record only FAB's debt has grown. -/
theorem State.settleCordon_spec (s : State) (t : TileId) : (s.settleCordon t).views = s.views
    ∧ (s.settleCordon t).sideband = s.sideband ∧ ((s.settleCordon t).tile t).st = (s.tile t).st
    ∧ ((s.settleCordon t).tile t).handled = true
    ∧ ((s.tile t).handled = true → ((s.settleCordon t).tile t).owed = (s.tile t).owed)
    ∧ ((s.tile t).handled = false → ∃ n : CordonNote, n.event = 1 ∧ n.cause = (s.tile t).firstCause
      ∧ ((s.settleCordon t).tile t).owed = (s.tile t).owed ++ [n]) := by
  cases h : (s.tile t).handled with
  | true => rw [State.settleCordon_handled h]; exact ⟨rfl, rfl, rfl, h, fun _ => rfl, nofun⟩
  | false =>
    obtain ⟨u, n, awaits, handled, eq, event, cause⟩ := State.settleCordon_open h
    have tile : (s.settleCordon t).tile t = { u.tile t with owed := (u.tile t).owed ++ [n] } := by
      rw [eq, State.owe, State.tile_modTile_self]
    refine ⟨?_, ?_, ?_, ?_, nofun, fun _ => ⟨n, event, cause, ?_⟩⟩
    · rw [eq]; exact awaits.views
    · rw [eq]; exact awaits.sideband
    · rw [tile]; exact awaits.st
    · rw [tile]; exact handled
    · rw [tile, ← awaits.owed]

/-- Readmission: the cordon is over, FAB owes its record, the views of the tile are clear. -/
theorem State.readmitTile_spec (s : State) {r t : TileId} (hr : r ∈ neighbours t) :
    let u := s.readmitTile t
    let v := s.settleCordon t
    u.tile t = { v.tile t with cordoned := false, pages := [], blind := false, owed := (v.tile t).owed ++ [{ event := 2 }] }
      ∧ u.sideband = s.sideband ∧ (u.view r t).portClosed = (s.view r t).portClosed ∧ (u.view r t).verdict = 0 := by
  obtain ⟨views, sideband, _⟩ := s.settleCordon_spec t
  intro u v
  let x := v.modTile t fun x => { x with cordoned := false, pages := [], blind := false }
  obtain ⟨tiles', views', sideband'⟩ := x.reopenTile_keeps t
  have cleared := ((x.reopenTile t).owe t { event := 2 }).clearViews_viewsOnly t
  refine ⟨?_, ?_, ?_, State.verdict_clearViews _ hr⟩
  · have owes : ((x.reopenTile t).owe t { event := 2 }).tile t = { x.tile t with owed := (x.tile t).owed ++ [{ event := 2 }] } := by
      rw [State.owe, State.tile_modTile_self, State.tile_eq tiles']
    rw [show x.tile t = _ from State.tile_modTile_self v t _] at owes
    exact (State.tile_eq cleared.tiles t).trans owes
  · exact cleared.sideband.trans (sideband'.trans sideband)
  · refine (cleared.ports r t).trans ?_
    exact congrArg View.portClosed ((State.view_eq views' r t).trans (State.view_eq views r t))

end

end Sys2Proof.Machine
end

section
/-! PROOF. APPEAL, CONSENT, REFUSE, READMIT and RETIRE (R354, R356, R357), then the claim and the obligation. -/

namespace Sys2Proof.Machine

open Sys2Proof

section
variable {s : State} {t r w : TileId} {f : Word64}

/-! ### APPEAL (R354, R357) -/

theorem exec_appeal_passes (hf : flitValid f = true) (hm : bits64 f 40 4 = 4) (ht : flitSubject f = t) (hw : flitTile f = t)
    (hc : (s.tile t).cordoned = true) (hl : (s.lately r t).length < 2) : ∃ u, exec (.appeal r f) s = .next u
      ∧ (u.view r t).consents = [] ∧ ((witnesses t).contains r = true → (u.view r t).fresh = some 0) := by
  obtain ⟨v, passes⟩ : ∃ v, (s.takeFlit r f).passPort r t f = some v := ⟨_, State.passPort_passes (s := s.takeFlit r f) hc (.inl hm) hl⟩
  have kept : ((s.takeFlit r f).tile t).cordoned = true := hc
  let heard := v.modView r t fun v => { v with consents := [] }
  have empty : (heard.view r t).consents = [] := by rw [State.view_modView_self]
  refine ⟨if (witnesses t).contains r then heard.modView r t fun v => { v with fresh := some 0 } else heard, ?_, ?_⟩
  · simp only [exec, execAppeal, ht, hw, isVote_of hf hm, msgAppeal, kept, passes, and_self, if_true, heard]
  · split
    · rw [State.view_modView_self]; exact ⟨empty, fun _ => rfl⟩
    · next other => exact ⟨empty, fun h => absurd h other⟩

theorem exec_appeal_drops (ht : flitSubject f = t)
    (hc : (s.tile t).cordoned = true) (hl : 2 ≤ (s.lately r t).length) : exec (.appeal r f) s = .next (s.takeFlit r f) := by
  have full : (s.takeFlit r f).passPort r t f = none := State.passPort_full (s := s.takeFlit r f) hc hl
  simp only [exec, execAppeal, ht, full, ite_self]

/-! ### CONSENT (R357) -/

theorem exec_consent_held (hf : flitValid f = true) (hm : bits64 f 40 4 = 5) (ht : flitSubject f = t) (hw : flitTile f = w)
    (hr : (neighbours t).contains r = true) (hw' : (witnesses t).contains w = true) (hs : s.witnessServes w = true)
    (hc : (s.tile t).cordoned = true) :
    exec (.consent r f) s = .next (((s.takeFlit r f).holdConsent r t w).settleConsent r t) := by
  have kept : ((s.takeFlit r f).tile t).cordoned = true := hc
  have serves : (s.takeFlit r f).witnessServes w = true := hs
  simp only [exec, execConsent, ht, hw, isVote_of hf hm, msgConsent, hr, hw', serves, kept, and_self, if_true]

/-- Whose CONSENT a neighbour holds. -/
theorem State.mem_holdConsent {y : TileId} :
    y ∈ ((s.holdConsent r t w).view r t).consents ↔ y = w ∨ y ∈ (s.view r t).consents := by
  rw [State.holdConsent, State.view_modView_self]
  dsimp only
  split
  · next h =>
    have held : w ∈ (s.view r t).consents := by simpa using h
    exact ⟨.inr, fun h => h.elim (fun e => e ▸ held) id⟩
  · simp [or_comm]

theorem State.allConsent_holdConsent : (s.holdConsent r t w).allConsent r t = true
    ↔ ∀ y ∈ witnesses t, y = w ∨ y ∈ (s.view r t).consents := by
  simp only [State.allConsent, List.all_eq_true, List.contains_iff_mem, State.mem_holdConsent]

/-- While a neighbour misses a CONSENT, the tile stays as it is. -/
theorem State.settleConsent_waits (h : s.allConsent r t = false) : s.settleConsent r t = s :=
  if_neg fun ⟨_, _, all⟩ => Bool.eq_false_iff.mp h all

theorem State.settleConsent_readmits (hc : (s.tile t).cordoned = true) (hcut : s.cutOff r = false) (h : s.allConsent r t = true) :
    s.settleConsent r t = (s.readmitFlits r t).readmitTile t := if_pos ⟨hc, hcut, h⟩

/-- READMIT goes out, and the neighbour's port is open. -/
theorem State.readmitFlits_spec (s : State) (r t : TileId) : (s.readmitFlits r t).tiles = s.tiles
    ∧ ((s.readmitFlits r t).view r t).portClosed = false
    ∧ ((s.tile r).st ≠ 6 → (t, voteFlit t 7 0 r) ∈ (s.readmitFlits r t).sideband) := by
  refine ⟨?_, ?_, fun h => State.mem_sendFlit h List.mem_cons_self _⟩
  · exact State.sendFlit_tiles s r _ _
  · rw [State.readmitFlits, State.view_modView_self]

/-- A neighbour readmits a tile: the cordon is over, and FAB owes its record, and the one of the cordon if it is not posted. -/
theorem State.readmitted (s : State) {r t : TileId} (hr : r ∈ neighbours t) :
    let u := (s.readmitFlits r t).readmitTile t
    let x := s.tile t
    (u.tile t).cordoned = false ∧ (u.tile t).st = x.st ∧ (u.tile t).handled = true
      ∧ (x.handled = true → (u.tile t).owed = x.owed ++ [{ event := 2 }])
      ∧ (x.handled = false → ∃ y : CordonNote, y.event = 1 ∧ y.cause = x.firstCause ∧ (u.tile t).owed = x.owed ++ [y, { event := 2 }])
      ∧ (u.view r t).portClosed = false ∧ (u.view r t).verdict = 0
      ∧ ((s.tile r).st ≠ 6 → (t, voteFlit t 7 0 r) ∈ u.sideband) := by
  obtain ⟨tiles, opened, sent⟩ := s.readmitFlits_spec r t
  obtain ⟨tile, sideband, port, verdict⟩ := (s.readmitFlits r t).readmitTile_spec hr
  obtain ⟨_, _, st, handled, owed, owed'⟩ := (s.readmitFlits r t).settleCordon_spec t
  rw [State.tile_eq tiles] at st owed owed'
  intro u x
  refine ⟨congrArg Tile.cordoned tile, (congrArg Tile.st tile).trans st, (congrArg Tile.handled tile).trans handled,
    fun h => ?_, fun h => ?_, port.trans opened, verdict, fun h => sideband ▸ sent h⟩
  · rw [tile, owed h]
  · obtain ⟨n, event, cause, eq⟩ := owed' h
    exact ⟨n, event, cause, by rw [tile, eq, List.append_assoc]; rfl⟩

/-! ### REFUSE and READMIT (R356, R357) -/

theorem exec_refuse_subject (hf : flitValid f = true) (hm : bits64 f 40 4 = 6) (ht : flitSubject f = t) (hw : flitTile f = w)
    (hc : (s.tile w).cordoned = false) :
    exec (.refuse t f) s = .next ((s.takeFlit t f).modTile t fun x => if x.st = 4 then { x with st := 2 } else x) := by
  have kept : ((s.takeFlit t f).tile w).cordoned = false := hc
  simp only [exec, execRefuse, ht, hw, isVote_of hf hm, msgRefuse, kept]
  rfl

theorem exec_refuse_neighbour (hf : flitValid f = true) (hm : bits64 f 40 4 = 6) (ht : flitSubject f = t) (hw : flitTile f = w)
    (hr : r ≠ t) (hr' : (neighbours t).contains r = true) (hw' : (witnesses t).contains w = true) (hs : s.witnessServes w = true) :
    exec (.refuse r f) s
      = .next (((s.takeFlit r f).modView r t fun v => { v with consents := [] }).sendFlit r [t] (voteFlit t 6 0 r)) := by
  have serves : (s.takeFlit r f).witnessServes w = true := hs
  simp only [exec, execRefuse, ht, hw, isVote_of hf hm, msgRefuse, if_neg hr, hr', hw', serves]
  rfl

/-- From a cordoned sender a REFUSE to its subject has no effect. -/
theorem exec_refuse_cordoned (ht : flitSubject f = t) (hw : flitTile f = w) (hc : (s.tile w).cordoned = true) :
    exec (.refuse t f) s = .next (s.takeFlit t f) := by
  have kept : ((s.takeFlit t f).tile w).cordoned = true := hc
  simp only [exec, execRefuse, ht, hw, kept, if_true, ite_self]

/-- From a cordoned sender a READMIT has no effect. -/
theorem exec_readmit_cordoned (hw : flitTile f = w) (hc : (s.tile w).cordoned = true) :
    exec (.readmit r f) s = .next (s.takeFlit r f) := by
  have kept : ((s.takeFlit r f).tile w).cordoned = true := hc
  simp only [exec, execReadmit, hw, kept, or_true, if_true]

theorem exec_readmit_subject (hf : flitValid f = true) (hm : bits64 f 40 4 = 7) (ht : flitSubject f = t) (hw : flitTile f = w)
    (hn : (neighbours t).contains w = true) (hc : (s.tile w).cordoned = false) :
    exec (.readmit t f) s = .next ((s.takeFlit t f).modTile t fun x => if x.st = 4 then { x with st := 5 } else x) := by
  have kept : ((s.takeFlit t f).tile w).cordoned = false := hc
  simp only [exec, execReadmit, ht, hw, isVote_of hf hm, msgReadmit, hn, kept]
  rfl

theorem exec_readmit_neighbour (hf : flitValid f = true) (hm : bits64 f 40 4 = 7) (ht : flitSubject f = t) (hw : flitTile f = w)
    (hn : (neighbours t).contains w = true) (hc : (s.tile w).cordoned = false) (hr : r ≠ t)
    (hr' : (neighbours t).contains r = true) :
    exec (.readmit r f) s = .next ((s.takeFlit r f).modView r t fun v => { v with portClosed := false }) := by
  have kept : ((s.takeFlit r f).tile w).cordoned = false := hc
  simp only [exec, execReadmit, ht, hw, isVote_of hf hm, msgReadmit, hn, kept, if_neg hr, hr']
  rfl

/-! ### RETIRE (R356, R366) -/

theorem exec_retire_hears (hf : flitValid f = true) (hm : bits64 f 40 4 = 8) (ht : flitSubject f = t) (hw : flitTile f = t)
    (hret : (s.tile t).retired = false) (hl : (s.tile t).cordoned = false ∨ (s.lately fw1Tile t).length < 2) :
    ∃ u, exec (.retire fw1Tile f) s = .next u
      ∧ u.tile t = { s.tile t with retired := true, owed := (s.tile t).owed ++ [{ event := 3 }] } := by
  obtain ⟨u, passes, tiles⟩ := State.passPort_tiles (s := s.takeFlit fw1Tile f) (r := fw1Tile) (t := t) (f := f) (.inr hm) hl
  have kept : ((s.takeFlit fw1Tile f).tile t).retired = false := hret
  refine ⟨(u.modTile t fun x => { x with retired := true }).owe t { event := 3 }, ?_, ?_⟩
  · simp only [exec, execRetire, ht, hw, isVote_of hf hm, msgRetire, kept, passes, and_self, if_true]
  · rw [State.owe, State.tile_modTile_self, State.tile_modTile_self, State.tile_eq tiles]
    rfl

theorem exec_retire_drops (ht : flitSubject f = t) (hc : (s.tile t).cordoned = true) (hl : 2 ≤ (s.lately r t).length) :
    exec (.retire r f) s = .next (s.takeFlit r f) := by
  have full : (s.takeFlit r f).passPort r t f = none := State.passPort_full (s := s.takeFlit r f) hc hl
  simp only [exec, execRetire, ht, full, ite_self]

end

/-- SELFTEST, APPEAL, CONSENT, REFUSE, READMIT and RETIRE (R354, R356, R357, R366). -/
theorem appealsAndReadmission : Claim.AppealsAndReadmission := by
  intro s t r w f pass hf ht hw x now msg bound test lately dropped
  refine ⟨fun h ha => ⟨_, exec_selftest_cordoned h pass, ?_⟩, fun h ha => ⟨_, exec_selftest_cordoned h pass, ?_⟩,
    fun h hp hl => ?_, fun h hl => ⟨_, exec_selftest_fails h hl, s.retireTile_tile t⟩, fun h2 h3 => exec_selftest_other h2 h3 pass,
    fun hm hwt hc => ⟨exec_appeal_passes hf hm ht (hw.trans hwt) hc, exec_appeal_drops ht hc⟩,
    fun hm hr hw' hs hc => ?_, fun hm hc => ⟨_, exec_refuse_subject hf hm ht hw hc, State.tile_modTile_self _ t _⟩,
    fun hm hr hr' hw' hs => ⟨_, exec_refuse_neighbour hf hm ht hw hr hr' hw' hs, fun h => ?_, ?_⟩,
    fun _ hc => ?_, fun hm hn hc => ⟨⟨_, exec_readmit_subject hf hm ht hw hn hc, State.tile_modTile_self _ t _⟩, fun hr hr' => ?_⟩,
    fun hm hwt hret => ⟨exec_retire_hears hf hm ht (hw.trans hwt) hret, fun hc hl hr => exec_retire_drops ht hc (by rw [hr]; exact hl)⟩⟩
  · rw [if_pos ha, State.tile_eq (State.clearTile_tiles _ t), State.tile_setTile_self]
  · rw [if_neg (Nat.not_lt.mpr ha)]
    have sends : (s.tile t).st ≠ 6 := by rw [h]; decide
    exact ⟨s.retireTile_tile t, s.retireTile_mem t, fun y hy => State.mem_sendFlit sends hy _⟩
  · subst hp
    refine ⟨_, exec_selftest_passes h hl, ?_, fun y hy => State.mem_sendFlit ?_ (List.mem_eraseDups.mpr hy) _⟩
    · rw [State.sendFlit_tile, State.tile_setTile_self]
    · rw [State.tile_setTile_self]; nofun
  · let s1 := (s.takeFlit r f).holdConsent r t w
    have held := exec_consent_held hf hm ht hw hr hw' hs hc
    have all : s1.allConsent r t = true ↔ ∀ y ∈ witnesses t, y = w ∨ y ∈ (s.view r t).consents := State.allConsent_holdConsent
    refine ⟨fun ⟨y, hy, hyw, hyn⟩ => ?_, fun h hcut => ?_⟩
    · have misses : s1.allConsent r t = false := Bool.eq_false_iff.mpr fun h => (all.mp h y hy).elim hyw hyn
      rw [State.settleConsent_waits misses] at held
      exact ⟨_, held, rfl, State.mem_holdConsent.mpr (.inl rfl)⟩
    · rw [State.settleConsent_readmits (s := s1) hc hcut (all.mpr h)] at held
      exact ⟨_, held, s1.readmitted (List.contains_iff_mem.mp hr)⟩
  · exact State.mem_sendFlit (s := (s.takeFlit r f).modView r t fun v => { v with consents := [] }) h List.mem_cons_self _
  · rw [State.sendFlit_view, State.view_modView_self]
  · simp only [List.forall_mem_cons, List.not_mem_nil, false_imp_iff, implies_true, and_true, if_true]
    exact ⟨exec_refuse_cordoned ht hw hc, exec_readmit_cordoned hw hc⟩
  · exact ⟨_, exec_readmit_neighbour hf hm ht hw hn hc hr hr', congrArg View.portClosed (State.view_modView_self _ r t _)⟩

/-- Settles O55: closure, the steps of a cordon, appeals, CXL links and soft errors hold, each by its own claim. -/
theorem cordonsAndErrors : Obligations.CordonsAndErrors :=
  ⟨portsClose, cordonsAreHandled, appealsAndReadmission, cxlLinks, softErrors⟩

end Sys2Proof.Machine
end

section
/-! PROOF. The machine at reset. -/

namespace Sys2Proof.Machine

open Sys2Proof

/-- At reset the dump region of R298 is the first of the reserved ones (log 15). -/
theorem dumpRegion_reservedAtReset : (0, 0x40000000) ∈ reservedAtReset :=
  List.mem_append_left _ List.mem_cons_self

/-- At reset every measurement slot reads 0 (R288). -/
theorem measurement_reset (k : Fin 8) : State.reset.fw.ms[k] = 0 :=
  Vector.getElem_replicate k.isLt

theorem State.tile_reset (t : TileId) : State.reset.tile t = {} := rfl

theorem State.health_reset (t : TileId) : State.reset.health t = 0 := rfl

/-- At reset every TWSELF reads 0 (R297). -/
theorem State.twself_reset (t : TileId) : State.reset.twself t = 0 := by
  simp [State.twself, State.tile_reset, State.health_reset]

/-- Settles O60: a table of the reset state is empty, so each of its entries is the absent one. -/
theorem resetState : Obligations.ResetState :=
  ⟨rfl, rfl, rfl, rfl, rfl, rfl, rfl, rfl, rfl, dumpRegion_reservedAtReset, fun _ => ⟨rfl, rfl⟩, fun _ => rfl,
    measurement_reset, State.twself_reset, fun _ _ => ⟨rfl, rfl, rfl⟩⟩

end Sys2Proof.Machine
end

section
/-! PROOF. The operands of a VP: registers, and the load and store queues at v31 (R40, R42). -/

namespace Sys2Proof.Machine

open Sys2Proof

section
variable {vp : VP} {r d : Reg} {value x : VReg} {m : BitVec 128} {rest : List LoadEntry}

theorem VP.source_register (h : r ≠ 31) : vp.source r = some (vp.v[r], vp) := if_neg h

theorem VP.dest_register (h : d ≠ 31) : vp.dest d value m = some { vp with v := vp.v.set d value } := if_neg h

theorem VP.source_queue : vp.source 31 = match vp.loadQ with
    | .filled x :: rest => some (x, { vp with loadQ := rest })
    | _ => none := if_pos rfl

/-- A pop takes the oldest entry once it is filled (R40). -/
theorem VP.source_filled (h : vp.loadQ = .filled x :: rest) : vp.source 31 = some (x, { vp with loadQ := rest }) := by
  rw [VP.source_queue, h]

/-- A pop waits for an entry that is not yet filled, and for one that is not there (R40). -/
theorem VP.source_waits (h : ∀ y t, vp.loadQ ≠ .filled y :: t) : vp.source 31 = none := by
  rw [VP.source_queue]
  split
  · next y t hq => exact absurd hq (h y t)
  · rfl

/-- A push waits while the store queue holds 8 entries (R42). -/
theorem VP.dest_queue : vp.dest 31 value m =
    if vp.storeQ.length < 8 then some { vp with storeQ := vp.storeQ ++ [{ data := value, mask := m }] } else none :=
  if_pos rfl

/-- An instruction of two sources pops for A, then for B, and writes what it has read (R40, R158). -/
theorem VP.binary_reads {vp1 vp2 : VP} {a b : Reg} {x1 y : VReg} (ha : vp.source a = some (x1, vp1))
    (hb : vp1.source b = some (y, vp2)) (w e n : Nat) (guard : Nat → Bool) (d : Reg) (f : BitVec e → BitVec e → BitVec e) :
    vp.binary w e n guard d a b f = vp2.writeFrame w e n guard d fun k => f (elem e x1 k) (elem e y k) := by
  simp only [VP.binary, ha, hb]

end

/-- Settles O6: a source is a register or a pop, a destination a register or a push, and each waits as its queue stands. -/
theorem queuePortOperands : Obligations.QueuePortOperands := fun _ _ _ _ _ _ _ _ _ _ _ _ _ _ =>
  ⟨fun h => ⟨VP.source_register h, VP.dest_register h⟩, VP.source_filled, VP.source_waits,
    fun h => VP.dest_queue.trans (if_pos h), fun h => VP.dest_queue.trans (if_neg (Nat.not_lt.mpr h)),
    fun _ _ _ _ ha hb => VP.binary_reads ha hb _ _ _ _ _ _⟩

end Sys2Proof.Machine
end

section
/-! PROOF. A step runs the decoded instruction: the turns of an issue slot, of a virtual processor and of an operation, and the VT
that a slot chooses (R26, R29, R49, R52, R268). -/

namespace Sys2Proof.Machine

open Sys2Proof

/-! ### What the start of a turn leaves as it was -/

@[simp] theorem State.closeWindows_vts (s : State) : s.closeWindows.vts = s.vts := by unfold State.closeWindows; split <;> rfl
@[simp] theorem State.closeWindows_fatal (s : State) : s.closeWindows.fatal = s.fatal := by unfold State.closeWindows; split <;> rfl
@[simp] theorem State.closeWindows_tiles (s : State) : s.closeWindows.tiles = s.tiles := by unfold State.closeWindows; split <;> rfl
@[simp] theorem State.closeWindows_dies (s : State) : s.closeWindows.dies = s.dies := by unfold State.closeWindows; split <;> rfl

section
variable (s : State) (x : Turn)

/-- A field that closing the windows of new instances leaves is as it was when a turn begins. -/
theorem State.beforeTurn_field {α : Type} (f : State → α) (hf : f s.closeWindows = f s) : f (s.beforeTurn x) = f s := by
  unfold State.beforeTurn
  split
  · rfl
  · exact hf

@[simp] theorem State.beforeTurn_vts : (s.beforeTurn x).vts = s.vts := s.beforeTurn_field x State.vts s.closeWindows_vts
@[simp] theorem State.beforeTurn_fatal : (s.beforeTurn x).fatal = s.fatal := s.beforeTurn_field x State.fatal s.closeWindows_fatal
@[simp] theorem State.beforeTurn_tiles : (s.beforeTurn x).tiles = s.tiles := s.beforeTurn_field x State.tiles s.closeWindows_tiles
@[simp] theorem State.beforeTurn_dies : (s.beforeTurn x).dies = s.dies := s.beforeTurn_field x State.dies s.closeWindows_dies

@[simp] theorem State.beforeTurn_vt? (id : Nat) : (s.beforeTurn x).vt? id = s.vt? id := by simp [State.vt?]

@[simp] theorem State.beforeTurn_inService (g : Nat) : (s.beforeTurn x).inService g = s.inService g := by
  simp [State.inService, State.tile, State.die]

@[simp] theorem State.beforeTurn_vtServed (v : VT) : (s.beforeTurn x).vtServed v = s.vtServed v := s.beforeTurn_inService x _

end

/-! ### One step, one turn -/

section
variable {s t u : State} {ts : List Turn} {x : Turn}

theorem step_turn (h : s.schedule = x :: ts) : step s = settled (takeTurn x ({ s with schedule := ts }.beforeTurn x)) := by
  unfold step
  rw [h]

theorem settled_next (h : t.settle.heldMgmt = []) : settled (.next t) = .next t.settle :=
  if_pos (.inl h)

/-! ### Issue -/

theorem lineWord_eq (l : BitVec 1024) (addr : Nat) : lineWord l addr = (l >>> (32 * (addr % 128 / 4))).setWidth 32 := by
  apply BitVec.eq_of_toNat_eq
  simp [lineWord, Nat.shiftRight_eq_div_pow]

variable {core slot id : Nat} {v : VT} {l : BitVec 1024} {e : Instr} {rest : List Nat}

theorem State.fetchCt_run (hl : s.fetchLine v.core v.domain v.pc.toNat (fun _ => (v.pc.toNat % 128, v.pc.toNat % 128 + 4)) = .ok l t)
    (hd : decode (lineWord l v.pc.toNat) = .ok e) : s.fetchCt id v = .run e { t with who := .ct id } := by
  simp only [State.fetchCt, hl, hd]

theorem State.fetchCt_illop {x : DecodeError}
    (hl : s.fetchLine v.core v.domain v.pc.toNat (fun _ => (v.pc.toNat % 128, v.pc.toNat % 128 + 4)) = .ok l t)
    (hd : decode (lineWord l v.pc.toNat) = .error x) : s.fetchCt id v = .stop (t.ctFault id v .illop 0) := by
  simp only [State.fetchCt, hl, hd]

theorem issueFrom_stop (hv : s.vt? id = some v) (hf : s.fetchCt id v = .stop t) (hi : s.issued t id = true) :
    issueFrom core (id :: rest) s = .next t := by
  simp only [issueFrom, hv, hf, hi, if_true]

theorem issueFrom_run (hv : s.vt? id = some v) (hf : s.fetchCt id v = .run e t) (he : exec e (t.beforeCt id e) = .next u) :
    issueFrom core (id :: rest) s = if t.issued u id then .next (t.noteIssue u id) else issueFrom core rest u := by
  simp only [issueFrom, hv, hf, he]

theorem takeTurn_issue (h : s.fatal = none) :
    takeTurn (.issue core slot) s = issueFrom core (s.issueOrder core slot) (s.tick core 1) := by
  simp [takeTurn, h]

/-- A slot's turn: one cycle passes at its core, and the first VT of its order that does not stall issues (R49, R52). -/
theorem step_issue (h : s.schedule = .issue core slot :: ts) (hf : s.fatal = none) :
    step s = settled (issueFrom core (({ s with schedule := ts }.closeWindows).issueOrder core slot)
      (({ s with schedule := ts }.closeWindows).tick core 1)) := by
  rw [step_turn h, takeTurn_issue (by rw [State.beforeTurn_fatal]; exact hf)]
  rfl

end

theorem slotIssues : Claim.SlotIssues := by
  intro s s' t core slot id rest ts v l e s0 s1 at' word s2 hs hf
  have turn : step s = settled (issueFrom core (s0.issueOrder core slot) s1) := step_issue hs hf
  have hw : lineWord l v.pc.toNat = word := lineWord_eq l _
  refine ⟨fun ho => by rw [turn, ho]; rfl, fun ho hv hl => ⟨fun x hd hc hi => ?_, fun hd he => ⟨fun hi => ?_, fun hi hr => ?_⟩⟩,
    settled_next⟩
  · subst hc
    rw [turn, ho, issueFrom_stop hv (State.fetchCt_illop hl (hw ▸ hd)) hi]
  · rw [turn, ho, issueFrom_run hv (State.fetchCt_run hl (hw ▸ hd)) he, if_pos hi]
  · rw [turn, ho, issueFrom_run hv (State.fetchCt_run hl (hw ▸ hd)) he, if_neg (ne_true_of_eq_false hi), hr]
    rfl

/-! ### Virtual processors, operations -/

section
variable {s t u : State} {ts : List Turn} {id : Nat} {i : Fin 32} {v : VT} {r : Run} {w : Word32} {e : Instr} {q : Requester}

theorem State.vpNext_eq (hv : s.vt? id = some v) (hr : v.resident = true) (hs : s.vtServed v = true) (hrun : v.runOf i = some r)
    (hw : r.words[r.idx]? = some w) : s.vpNext id i = some (decode w) := by
  simp [State.vpNext, hv, hr, hs, hrun, hw]

theorem takeTurn_vp (hf : s.fatal = none) (hn : s.vpNext id i = some (.ok e)) :
    takeTurn (.vp id i) s = exec e { s with who := .vp id i } := by
  simp [takeTurn, hf, hn]

/-- The requests of `q` that were rejected stand in no slice's way where it needs none. -/
theorem State.gate_nil (s : State) (q : Requester) : ∃ u, s.gate q [] = .ok u := by
  refine ⟨_, if_pos ?_⟩
  simp only [List.filter_nil, List.isEmpty_nil, Bool.true_and, List.all_eq_true, List.mem_filter, List.contains_nil, Bool.or_false,
    and_imp]
  intro r _ hne he
  exact absurd he (by simpa using hne)

theorem State.commit_taken (hst : t.stalled = none) (hg : s.gate q t.wants.eraseDups = .ok u) :
    s.commit q t = { t with wants := [], rejected := t.rejected.filter fun r => r.who != q } := by
  simp only [State.commit, hst, hg]

theorem State.commit_rejected (hst : t.stalled = none) (hg : s.gate q t.wants.eraseDups = .error u) : s.commit q t = u := by
  simp only [State.commit, hst, hg]

theorem State.commit_held (hst : t.stalled ≠ none) : s.commit q t = s.heldLine t.stalled := by
  unfold State.commit
  split
  · next h => rw [h]
  · next h => exact absurd h hst

theorem State.eventRuns_beforeTurn (s : State) (x : Turn) (e : Instr) : (s.beforeTurn x).eventRuns e = s.eventRuns e := by
  unfold State.eventRuns
  simp

theorem takeTurn_op (hr : s.eventRuns e = true)
    (he : exec e { s with who := .device, wants := [], stalled := none } = .next t) :
    takeTurn (.op e) s = .next (s.commit (.event e) t) := by
  simp only [takeTurn, hr, if_true, State.attempt, he]

theorem takeTurn_op_idle (hr : s.eventRuns e = false) : takeTurn (.op e) s = .next s := by
  simp [takeTurn, hr]

end

theorem otherTurns : Claim.OtherTurns := by
  intro s t u id i ts v r w e after
  have runs : (after (.op e)).eventRuns e = s.eventRuns e := State.eventRuns_beforeTurn _ _ _
  refine ⟨fun hf hs hv hr hserved hrun hw hd he => ?_, fun hs hr he => ?_, fun hs hr => ?_, fun hs hf => ?_⟩
  · rw [step_turn hs, takeTurn_vp (e := e), he]
    · rw [State.beforeTurn_fatal]; exact hf
    · rw [State.vpNext_eq (v := v) (r := r) (w := w) _ hr _ hrun hw, hd]
      · rw [State.beforeTurn_vt?]; exact hv
      · rw [State.beforeTurn_vtServed]; exact hserved
  · have turn : step s = settled (.next ((after (.op e)).commit (.event e) t)) := by
      exact (step_turn hs).trans (congrArg settled (takeTurn_op (runs.trans hr) he))
    refine ⟨fun hst hw _ => ?_, fun hst hg => ?_, fun hst hg => ?_, fun hst => ?_⟩
    · obtain ⟨u, hu⟩ := (after (.op e)).gate_nil (.event e)
      rw [turn, State.commit_taken hst (u := u) (by rw [hw]; exact hu), ← hw]
    · rw [turn, State.commit_taken hst hg]
    · rw [turn, State.commit_rejected hst hg]
    · rw [turn, State.commit_held hst]
  · exact (step_turn hs).trans (congrArg settled (takeTurn_op_idle (runs.trans hr)))
  · unfold step
    rw [hs]
    exact if_pos (Option.isSome_iff_ne_none.mpr hf)

/-! ### The choice of a slot -/

theorem VT.issueKey_fst (now : Nat) (v : VT) :
    (v.issueKey now).1 = if v.admitted then 0 else if v.aged ∨ v.readySince + 4096 ≤ now then 1 else 2 := by
  unfold VT.issueKey
  split
  · rfl
  · split <;> simp_all

theorem VT.issueKey_snd (now : Nat) (v : VT) :
    (v.issueKey now).2 = if v.admitted then v.readySince + v.interval else v.readySince := by
  unfold VT.issueKey
  split
  · rfl
  · split <;> rfl

theorem issueBefore_iff {now : Nat} {a b : Nat × VT} :
    issueBefore now a b = true ↔ (a.2.issueKey now).1 < (b.2.issueKey now).1
      ∨ ((a.2.issueKey now).1 = (b.2.issueKey now).1 ∧ ((a.2.issueKey now).2 < (b.2.issueKey now).2
        ∨ ((a.2.issueKey now).2 = (b.2.issueKey now).2 ∧ a.1 ≤ b.1))) := by
  simp [issueBefore]

theorem issueBefore_total (now : Nat) (a b : Nat × VT) : issueBefore now a b = true ∨ issueBefore now b a = true := by
  rw [issueBefore_iff, issueBefore_iff]
  omega

theorem issueBefore_trans {now : Nat} {a b c : Nat × VT} (h : issueBefore now a b = true) (h' : issueBefore now b c = true) :
    issueBefore now a c = true := by
  rw [issueBefore_iff] at h h' ⊢
  omega

/-- The order of a slot's choice is a sort of the VTs that it may choose. -/
theorem insertIssue_eq (now : Nat) (a : Nat × VT) (l : List (Nat × VT)) :
    insertIssue now a l = l.orderedInsert (fun a b => issueBefore now a b = true) a := by
  induction l with
  | nil => rfl
  | cons b l ih => rw [insertIssue, List.orderedInsert_cons, ih]

/-- The first VT of the order stands in the list and comes before every other one. -/
theorem issueOrder_head {now : Nat} {l as : List (Nat × VT)} {a : Nat × VT} (h : l.foldr (insertIssue now) [] = a :: as) :
    a ∈ l ∧ ∀ b ∈ l, issueBefore now a b = true := by
  have total : Std.Total fun a b : Nat × VT => issueBefore now a b = true := ⟨issueBefore_total now⟩
  have trans : IsTrans (Nat × VT) fun a b => issueBefore now a b = true := ⟨fun _ _ _ => issueBefore_trans⟩
  have sorted : l.insertionSort (fun a b => issueBefore now a b = true) = a :: as := by
    rw [← h, List.insertionSort, funext₂ (insertIssue_eq now)]
  have perm := List.perm_insertionSort (fun a b : Nat × VT => issueBefore now a b = true) l
  have pairs := List.pairwise_insertionSort (fun a b : Nat × VT => issueBefore now a b = true) l
  rw [sorted] at perm pairs
  refine ⟨perm.mem_iff.mp List.mem_cons_self, fun b hb => ?_⟩
  rcases List.mem_cons.mp (perm.mem_iff.mpr hb) with rfl | hb
  · exact (issueBefore_total now b b).elim id id
  · exact List.rel_of_pairwise_cons pairs hb

theorem slotChoosesVt : Claim.SlotChoosesVt := by
  intro s core slot id rest ho since rank time
  obtain ⟨⟨n, v⟩, as, hl, hn, -⟩ := List.map_eq_cons_iff.mp ho
  obtain rfl : n = id := hn
  obtain ⟨hmem, first⟩ := issueOrder_head hl
  obtain ⟨hv, hissue⟩ := List.mem_filter.mp hmem
  simp only [State.canIssue, Bool.and_eq_true, beq_iff_eq] at hissue
  obtain ⟨⟨⟨⟨⟨⟨⟨hst, hres⟩, hcore⟩, hslot⟩, -⟩, -⟩, -⟩, -⟩ := hissue
  refine ⟨v, hv, hst, hres, hcore, hslot, fun m w hw hc => ?_⟩
  have := issueBefore_iff.mp (first (m, w) (List.mem_filter.mpr ⟨hw, hc⟩))
  simp only [VT.issueKey_fst, VT.issueKey_snd] at this
  exact this

/-- Settles O56: a slot's turn fetches, decodes and executes; so does a VP's; an operation's turn is its effect. -/
theorem stepRunsDecodedInstruction : Obligations.StepRunsDecodedInstruction := ⟨slotIssues, otherTurns, slotChoosesVt⟩

end Sys2Proof.Machine
end

section
/-! PROOF. How a block starts on a VP, and how it names its successor and ends (R25 to R30, R218, R330). -/

namespace Sys2Proof

/-! ### Immediates (R138) -/

theorem sext_eq_toInt {n v : Nat} (hn : 0 < n) (hv : v < 2 ^ n) : sext n v = (BitVec.ofNat n v).toInt := by
  have two : 2 ^ n = 2 * 2 ^ (n - 1) := by rw [← Nat.pow_succ', Nat.succ_eq_add_one, Nat.sub_add_cancel hn]
  rw [sext, BitVec.toInt_eq_toNat_cond, BitVec.toNat_ofNat, Nat.mod_eq_of_lt hv, two]
  split <;> split <;> omega

/-- A scaled immediate, as a word. -/
theorem word64_mul_sext (c : Nat) {n v : Nat} (hn : 0 < n) (hv : v < 2 ^ n) :
    word64 (c * sext n v) = BitVec.ofNat 64 c * (BitVec.ofNat n v).signExtend 64 := by
  rw [word64, sext_eq_toInt hn hv, BitVec.ofInt_mul, BitVec.ofInt_natCast, BitVec.signExtend]

end Sys2Proof

namespace Sys2Proof.Machine

open Sys2Proof

/-! ### The words of a block -/

theorem head?_wordsOfLine (l : BitVec 1024) : (wordsOfLine l).head? = some (l.extractLsb' 0 32) := rfl

/-- A block is the LEN + 1 lowest words of its line (R139). -/
theorem blockWords_eq {h : Header} (hlen : h.len < 32) (l : BitVec 1024) :
    blockWords h l = (List.range (h.len + 1)).map fun k => l.extractLsb' (32 * k) 32 := by
  rw [blockWords, wordsOfLine, ← List.map_take, List.take_range, Nat.min_eq_left hlen]

/-! ### The start -/

section
variable {s s' t : State} {id : Nat} {v : VT} {i : Fin 32} {r : Run} {l : BitVec 1024} {h : Header} {quad : Nat}

/-- A VP that starts a block: the block runs from word 1 on that quad; a LOCKSTEP block leaves the VP's sequence (R25, R26). -/
def VT.started (v : VT) (i : Fin 32) (r : Run) (quad : Nat) (words : List Word32) : VT :=
  { v with
    waiting := if r.thread then v.waiting else seqPop i v.waiting
    vps := v.vps.set i { v.vps[i] with quad, run := some { r with words, idx := 1 } } }

/-- A LOCKSTEP block is read with one access of its line. -/
theorem State.startLine_lockstep (hr : r.thread = false) :
    s.startLine v r quad = s.fetchLaneLine v.core quad v.domain r.addr.toNat blockSpan := by
  unfold State.startLine
  rw [hr]
  rfl

/-- A named block's words are read once its header has passed (R330). -/
theorem State.startLine_thread (hr : r.thread = true)
    (hl : s.fetchLaneLine v.core quad v.domain r.addr.toNat (fun _ => (0, 4)) = .ok l t)
    (hh : decodeHeader (l.extractLsb' 0 32) = .ok h) (hwide : h.wide = false) (hlqn : h.lqn = 0) (hsqn : h.sqn = 0) :
    s.startLine v r quad = t.fetchLaneLine v.core quad v.domain r.addr.toNat blockSpan := by
  have header : s.fetchLaneLine v.core quad v.domain r.addr.toNat (headerSpan false) = .ok l t := hl
  simp [State.startLine, hr, header, Access.bind, hh, hwide, hlqn, hsqn]

/-- A block whose line is read and whose checks pass starts. -/
theorem State.startBlock_starts (hl : s.startLine v r quad = .ok l s') (hh : decodeHeader (l.extractLsb' 0 32) = .ok h)
    (hchecks : r.thread = true → h.wide = false ∧ h.lqn = 0 ∧ h.sqn = 0
      ∧ wordsCheck v.w (vcfgIt r.cap.vcfg) h (blockWords h l).tail = none) (hv : s'.vt? id = some v) :
    s.startBlock id i v r quad = s'.setVt id (v.started i r quad (blockWords h l)) := by
  simp only [State.startBlock, hl, head?_wordsOfLine, hh]
  cases hr : r.thread with
  | false => simp [State.modVt_eq hv, VT.started, hr]
  | true =>
    obtain ⟨hwide, hlqn, hsqn, hwords⟩ := hchecks hr
    simp [State.modVt_eq hv, VT.started, hr, hwide, hlqn, hsqn, hwords]

/-- The run of the block at the head of a VP's sequence. -/
def lockstepRun (addr pc : Word64) (cap : Capture) (wide : Bool) (parts : BitVec 32) : Run :=
  { addr, words := [], idx := 1, pc, cap, wide, thread := false, parts, named := none, suspended := false }

/-- The run of the block that a VP in THREAD mode has named. -/
def namedRun (addr pc : Word64) (cap : Capture) : Run :=
  { addr, words := [], idx := 1, pc, cap, wide := false, thread := true, parts := 0, named := none, suspended := false }

/-- BLOCK_START of a VP in LOCKSTEP whose sequence has a block at its head (R25, R31). -/
theorem exec_blockStart {addr pc : Word64} {cap : Capture} {wide : Bool} {parts mask : BitVec 32} {lane : Nat × Nat} {ins : Instr}
    (hv : s.vt? id = some v) (hrun : v.vps[i].run = none) (hthread : v.vps[i].thread = false)
    (hmay : v.running = true ∨ (wide = true ∧ v.wideBegun addr pc = true))
    (hhead : v.seqHead i = some { op := .block addr pc cap wide parts lane, mask, instr := ins }) :
    exec (.blockStart id i) s = .next (s.startBlock id i v (lockstepRun addr pc cap wide parts) (quadIn lane i)) := by
  have may : (v.running || (wide && v.wideBegun addr pc)) = true := by simpa using hmay
  simp only [exec, execBlockStart, hv, hrun, hthread, hhead, may, Option.isSome_none, Bool.or_self, Bool.false_eq_true, if_false,
    Bool.not_true]
  rfl

/-- THREAD_FETCH of a VP in THREAD mode (R29). -/
theorem exec_threadFetch {pc : Word64} {cap : Capture} (hv : s.vt? id = some v) (hrun : v.vps[i].run = none)
    (hthread : v.vps[i].thread = true) (hmay : v.running = true) (hchain : v.vps[i].chain = some (cap, pc)) :
    exec (.threadFetch id i) s
      = .next (s.startBlock id i v (namedRun v.vps[i].next pc cap) v.vps[i].quad) := by
  simp only [exec, execThreadFetch, hv, hrun, hthread, hmay, hchain, Option.isSome_none, Bool.or_self, Bool.false_eq_true, if_false,
    Bool.not_true]
  rfl

end

theorem blockStarts : Claim.BlockStarts := by
  intro s s1 s' id v i addr pc cap wide parts mask ins l h low span hv hrun hv' quad line hh words started hlen
  have hwords : blockWords h l = words := blockWords_eq hlen l
  refine ⟨fun hthread hl hmay hhead => ?_, fun hthread hl1 hl hmay hchain hnext hwide hlqn hsqn hcheck => ?_⟩
  · have hquad : quadIn (low, span) i = quad := (if_neg (ne_true_of_eq_false hthread)).symm
    have hline : s.startLine v (lockstepRun addr pc cap wide parts) quad = .ok l s' :=
      (State.startLine_lockstep (r := lockstepRun addr pc cap wide parts) rfl).trans hl
    have start := State.startBlock_starts (i := i) hline hh (fun hr => absurd hr Bool.false_ne_true) hv'
    rw [exec_blockStart hv hrun hthread hmay hhead, hquad, start, hwords]
    rfl
  · subst hnext
    have hquad : v.vps[i].quad = quad := (if_pos hthread).symm
    have hline : s.startLine v (namedRun v.vps[i].next pc cap) quad = .ok l s' :=
      (State.startLine_thread (r := namedRun v.vps[i].next pc cap) rfl hl1 hh hwide hlqn hsqn).trans hl
    have start := State.startBlock_starts (i := i) hline hh (fun _ => ⟨hwide, hlqn, hsqn, hwords ▸ hcheck⟩) hv'
    rw [exec_threadFetch hv hrun hthread hmay hchain, hquad, start, hwords]
    rfl

/-! ### Successor and end -/

section
variable {s s' : State} {id : Nat} {vt : VT} {i : Fin 32} {r : Run} {vp : VP} {g : Guard} {a : Reg}
variable {x : VReg} {a' : Word64}

/-- A pop leaves the predicates, and with them the guard. -/
theorem VP.source_guard0 {vp1 : VP} (h : vp.source a = some (x, vp1)) (g : Guard) : vp1.guard0 g = vp.guard0 g := by
  unfold VP.source at h
  split at h
  · split at h
    · cases h; rfl
    · cases h
  · cases h; rfl

/-- A target that may be executed is named: the VP goes on, past the instruction (R218). -/
theorem State.nameSuccessor_names {target : Word64} {t : Trans}
    (ha : s.gatedAccess vt.core vt.domain target.toNat .fetch = .ok t s') (hv : s'.vt? id = some vt) :
    s.nameSuccessor id i vt r vp target = s'.setVt id (vt.vpRetire i { r with named := some target } vp 0) := by
  simp only [State.nameSuccessor, ha, State.modVt_eq hv]

theorem VP.advance_within (h : r.idx < r.len) : vp.advance r = { vp with run := some { r with idx := r.idx + 1 } } :=
  if_pos h

/-- Without a name the VP is in LOCKSTEP at the end of its block (R28). -/
theorem VP.advance_unnamed (h : r.len ≤ r.idx) (hn : r.named = none) :
    vp.advance r = { vp with run := none, thread := false, next := 0, chain := none } := by
  rw [VP.advance, if_neg (Nat.not_lt.mpr h), VP.endBlock, hn]

/-- With a name it is in THREAD mode at the block named (R28). -/
theorem VP.advance_named (h : r.len ≤ r.idx) (hn : r.named = some a') :
    vp.advance r = { vp with run := none, thread := true, next := a', chain := some (r.cap, r.pc) } := by
  rw [VP.advance, if_neg (Nat.not_lt.mpr h), VP.endBlock, hn]

theorem exec_fetch (h : VpRuns s id vt i r g [] []) (imm : Fin 131072) :
    let target := r.addr + 128 * (BitVec.ofNat 17 imm.val).signExtend 64
    exec (.fetch g imm) s = .next (if vt.bits i g 0 then
        (if inCodeReach vt.codebase target then s.nameSuccessor id i vt r vt.vps[i] target
          else s.fetchFault id i r .illop target)
      else s.setVt id (vt.vpRetire i r vt.vps[i] 0)) := by
  intro target
  have htarget : r.addr + word64 (128 * sext 17 imm.val) = target :=
    congrArg (r.addr + ·) (word64_mul_sext 128 (by decide) imm.isLt)
  show Host.Outcome.next (s.vpOnly g [] [] _) = _
  rw [State.vpOnly_runs h]
  dsimp only
  rw [htarget, show vt.bits i g 0 = vt.vps[i].guard0 g from rfl]
  cases vt.vps[i].guard0 g <;> cases inCodeReach vt.codebase target <;> rfl

theorem exec_fetchr {vp1 : VP} (h : VpRuns s id vt i r g [(a, 4)] []) (hx : vt.vps[i].source a = some (x, vp1)) :
    let target := vt.codebase + (elem 32 x 0).zeroExtend 64
    exec (.fetchr g a) s = .next (if vt.bits i g 0 then
        (if target.toNat % 128 ≠ 0 then s.fetchFault id i r .misalign target else s.nameSuccessor id i vt r vp1 target)
      else s.setVt id (vt.vpRetire i r vp1 0)) := by
  intro target
  show Host.Outcome.next (s.vpOnly g [(a, 4)] [] _) = _
  rw [State.vpOnly_runs h, show vt.bits i g 0 = vt.vps[i].guard0 g from rfl, ← VP.source_guard0 hx g]
  simp only [hx, BitVec.ofNat_toNat]
  cases vp1.guard0 g <;> rfl

end

theorem successorAndBlockEnd : Claim.SuccessorAndBlockEnd := by
  intro s s' id vt i r g a imm t vp vp1 a' x
  refine ⟨fun h hg => ?_, fun h hg hreach ha hv => ?_,
    fun h hx => ⟨fun hg => ?_, fun hg halign ha hv => ?_⟩, VP.advance_within, VP.advance_unnamed, VP.advance_named⟩
  · rw [VpDone, exec_fetch h, if_neg (ne_true_of_eq_false hg)]
  · rw [exec_fetch h, if_pos hg, if_pos hreach, State.nameSuccessor_names ha hv]
  · rw [VpDone, exec_fetchr h hx, if_neg (ne_true_of_eq_false hg)]
  · rw [exec_fetchr h hx, if_pos hg, if_neg (not_not_intro halign), State.nameSuccessor_names ha hv]

/-- Settles O29: a block that may start is read and runs from word 1; a name given in it takes effect at its end. -/
theorem blockExecution : Obligations.BlockExecution := ⟨blockStarts, successorAndBlockEnd⟩

end Sys2Proof.Machine
end

section
/-! SUPPORT. What an access, a post and the stores that a core holds leave of the VTs, said once: everything but what a parked VT
has found in its word (R87, R237, R316). -/

namespace Sys2Proof

theorem SMap.mapVals_mapVals {α : Type} (f g : Nat → α → α) (m : SMap α) :
    (m.mapVals f).mapVals g = m.mapVals fun n a => g n (f n a) := by
  induction m with
  | nil => rfl
  | cons e m ih => rw [SMap.mapVals, SMap.mapVals, ih, SMap.mapVals]

end Sys2Proof

namespace Sys2Proof.Machine

open Sys2Proof

/-- A VT, but for what it waits for. -/
def VT.unparked (v : VT) : VT := { v with park := none }

/-- The VTs, but for what they wait for. -/
def State.unparked (s : State) : SMap VT := s.vts.mapVals fun _ v => v.unparked

/-- Every VT of `t` is that of `s` but for its `park`. -/
def State.ParkOnly (s t : State) : Prop := t.unparked = s.unparked

namespace State.ParkOnly

variable {s t u : State}

theorem of_vts (h : t.vts = s.vts) : s.ParkOnly t := congrArg (SMap.mapVals _) h

theorem refl (s : State) : s.ParkOnly s := rfl

theorem trans (h : s.ParkOnly t) (h' : t.ParkOnly u) : s.ParkOnly u := Eq.trans h' h

theorem foldl {α : Type} {f : State → α → State} (h : ∀ (s : State) a, s.ParkOnly (f s a)) (l : List α) (s : State) :
    s.ParkOnly (l.foldl f s) := by
  induction l generalizing s with
  | nil => exact refl s
  | cons a l ih => exact (h s a).trans (ih _)

theorem ite {p : Prop} [Decidable p] (ht : p → s.ParkOnly t) (hu : ¬ p → s.ParkOnly u) : s.ParkOnly (if p then t else u) := by
  split
  · exact ht ‹_›
  · exact hu ‹_›

/-- A VT is what it was but for its `park`. -/
theorem vt? (h : s.ParkOnly t) {id : Nat} {v : VT} (hv : s.vt? id = some v) : ∃ park, t.vt? id = some { v with park } := by
  have same : (t.vt? id).map VT.unparked = some v.unparked :=
    calc
      (t.vt? id).map VT.unparked = t.unparked.get? id := (SMap.get?_mapVals (fun _ => VT.unparked) t.vts id).symm
      _ = s.unparked.get? id := congrArg (SMap.get? · id) h
      _ = (s.vt? id).map VT.unparked := SMap.get?_mapVals (fun _ => VT.unparked) s.vts id
      _ = some v.unparked := congrArg (Option.map VT.unparked) hv
  obtain ⟨w, hw, hwv⟩ := Option.map_eq_some_iff.mp same
  exact ⟨w.park, hw.trans (congrArg (fun x : VT => some { x with park := w.park }) hwv)⟩

end State.ParkOnly

/-! ### L2 -/

theorem State.notify_parkOnly (s : State) (loc n : Nat) : s.ParkOnly (s.notify loc n) := by
  unfold State.ParkOnly State.unparked State.notify
  rw [SMap.mapVals_mapVals]
  refine congrArg (SMap.mapVals · s.vts) (funext₂ fun _ v => ?_)
  dsimp only
  (repeat' split) <;> rfl

theorem State.fromStorage_vts (s : State) (l : L2Line) : (s.fromStorage l).vts = s.vts := by
  unfold State.fromStorage
  split <;> rfl

theorem State.l2Revert_parkOnly (s : State) (line : Nat) : s.ParkOnly (s.l2Revert line) := by
  unfold State.l2Revert
  split
  · split
    · exact .trans (.of_vts ((s.l2Drop line).fromStorage_vts _)) (State.notify_parkOnly _ _ _)
    · exact .of_vts rfl
  · exact .refl s

theorem State.l2Evict_parkOnly (s : State) (l : L2Line) : s.ParkOnly (s.l2Evict l) :=
  .ite (fun _ => .trans (State.notify_parkOnly (s.l2Drop l.line) (l.line * 64) 64) (.ite (fun _ => .of_vts rfl) fun _ => .refl _))
    fun _ => s.l2Revert_parkOnly l.line

theorem State.l2Insert_parkOnly {s t : State} {l : L2Line} (h : s.l2Insert l = some t) : s.ParkOnly t := by
  unfold State.l2Insert at h
  split at h
  · cases h
  · split at h
    · cases h; exact .of_vts rfl
    · split at h
      · cases h
      · next v _ => cases h; exact (s.l2Evict_parkOnly v).trans (.of_vts rfl)

theorem State.l2Touch_parkOnly (s : State) (k : Caching) (line : Nat) (write : Bool) : s.ParkOnly (s.l2Touch k line write) := by
  unfold State.l2Touch
  refine .ite (fun _ => .refl s) fun _ => ?_
  split
  · exact .of_vts rfl
  · refine .ite (fun _ => ?_) fun _ => .refl s
    cases h : s.l2Insert _ with
    | none => exact .refl s
    | some t => exact State.l2Insert_parkOnly h

theorem State.l2TouchAll_parkOnly (s : State) (k : Caching) (lines : List Nat) (write : Bool) :
    s.ParkOnly (s.l2TouchAll k lines write) :=
  .foldl (fun s l => s.l2Touch_parkOnly k l write) lines s

theorem State.homeWrite_parkOnly (s : State) (k : Caching) (loc : Nat) (bs : List (Byte × Bool)) :
    s.ParkOnly (s.homeWrite k loc bs) := by
  unfold State.homeWrite
  refine .trans ?_ (State.notify_parkOnly _ loc bs.length)
  split
  · exact .of_vts rfl
  · exact (s.l2TouchAll_parkOnly k (linesOf loc bs.length) true).trans (.of_vts rfl)

/-! ### Accesses and posts -/

theorem State.translate_parkOnly (s : State) (dom va : Nat) : (s.translate dom va).Leaves s.ParkOnly := by
  have wanted : s.ParkOnly (s.wantAs (s.walkSlices dom va)) := by
    unfold State.wantAs State.want
    split
    · exact .ite (fun _ => .refl s) fun _ => .of_vts rfl
    all_goals exact .refl s
  have walked (t : State) : t.ParkOnly (t.walkTouch dom va) := t.l2TouchAll_parkOnly _ _ _
  unfold State.translate
  split
  · dsimp only
    split
    · exact wanted.trans (.of_vts rfl)
    · exact wanted.trans (.ite (fun _ => .refl _) fun _ => .of_vts rfl)
    · exact wanted.trans (walked _)
    · split <;> exact wanted.trans (walked _)
  · exact .refl s

theorem State.checkTrans_parkOnly (s : State) (k : AccessKind) (t : Option Trans) : (s.checkTrans k t).Leaves s.ParkOnly := by
  unfold State.checkTrans
  split
  · exact .refl s
  · split
    · trivial
    · split
      · exact .refl s
      · split <;> exact .refl s

theorem State.accessWalk_parkOnly (s : State) (dom va : Nat) (k : AccessKind) : (s.accessWalk dom va k).Leaves s.ParkOnly :=
  (s.translate_parkOnly dom va).bind fun _ t h => (t.checkTrans_parkOnly k _).imp fun _ => h.trans

theorem State.reach_parkOnly (s : State) (k : AccessKind) (loc n : Nat) : (s.reach k loc n).Leaves s.ParkOnly := by
  unfold State.reach
  split
  · exact .of_vts (s.cordonLoss_vts k loc n)
  · exact .refl s

theorem State.reachHome_parkOnly (s : State) (k : AccessKind) (t : Trans) (n : Nat) (h : Hint) :
    (s.reachHome k t n h).Leaves s.ParkOnly := by
  refine (s.reach_parkOnly k t.loc n).bind fun _ u hu => ?_
  split <;> exact hu

theorem State.postSlot_parkOnly (s : State) (dom va : Nat) : (s.postSlot dom va).Leaves s.ParkOnly := by
  unfold State.postSlot
  dsimp only
  split
  · next h => exact .of_vts (State.gate_vts (.inr h))
  · next t h =>
    have taken : s.ParkOnly t := .of_vts (State.gate_vts (.inl h))
    refine ((t.accessWalk_parkOnly dom va .store).imp fun _ => taken.trans).bind fun x u hu => ?_
    exact ((u.reachHome_parkOnly .store x 128 .normal).imp fun _ => hu.trans).bind fun _ _ h => h

theorem State.tryPost_parkOnly (s : State) (p : DuePost) : s.ParkOnly (s.tryPost p).1 := by
  have slot := s.postSlot_parkOnly p.domain p.va
  have back {t : State} (h : s.ParkOnly t) : s.ParkOnly { t with wants := s.wants } := h.trans (.of_vts rfl)
  unfold State.tryPost
  cases h : s.postSlot p.domain p.va with
  | violation => exact .refl s
  | ok x t =>
    rw [h] at slot
    exact (back slot).trans (.trans (.trans (State.homeWrite_parkOnly _ _ _ _) (State.homeWrite_parkOnly _ _ _ _))
      (State.homeWrite_parkOnly _ _ _ _))
  | fault | wait => rw [h] at slot; exact back slot

theorem State.postOrWait_parkOnly (s : State) (p : DuePost) : s.ParkOnly (s.postOrWait p) := by
  have tried := s.tryPost_parkOnly p
  unfold State.postOrWait
  refine .ite (fun _ => .of_vts rfl) fun _ => ?_
  split
  · next h => rw [h] at tried; exact tried
  · next h => rw [h] at tried; exact tried.trans (.of_vts rfl)

theorem State.post_parkOnly (s : State) (dom typ source : Nat) (fields : List (Nat × List Byte)) :
    s.ParkOnly (s.post dom typ source fields) := by
  have posted (t : State) (p : DuePost) (b : Prop) [Decidable b] : t.ParkOnly (if b then t else t.postOrWait p) :=
    .ite (fun _ => .refl t) fun _ => t.postOrWait_parkOnly p
  have recorded (t : State) (records : List (List Byte)) : t.ParkOnly { t with records } := .of_vts rfl
  unfold State.post
  dsimp only
  refine .trans (t := s.setDomain dom { s.domain dom with seq := (s.domain dom).seq + 1 }) (.of_vts rfl) ?_
  split
  · exact (posted _ _ _).trans (recorded _ _)
  · exact posted _ _ _

/-! ### Held stores -/

theorem State.performPend_parkOnly (s : State) (c : Nat) (p : PendStore) : s.ParkOnly (s.performPend c p) := by
  have reached := s.reach_parkOnly .store p.loc p.data.length
  unfold State.performPend
  split
  · next h => rw [h] at reached; exact State.ParkOnly.trans reached (State.homeWrite_parkOnly _ _ _ _)
  · next h => rw [h] at reached; exact reached
  · next h => rw [h] at reached; exact reached
  · exact .refl s

theorem State.flushVt_parkOnly (s : State) (id : Nat) : s.ParkOnly (s.flushVt id) := by
  unfold State.flushVt State.flushCore
  split
  · exact .refl s
  · next v _ =>
    exact .ite (fun _ => .refl s) fun _ => .trans (.foldl (fun s p => s.performPend_parkOnly v.core p) _ s) (.of_vts rfl)

theorem State.reach_memoryOnly (s : State) (k : AccessKind) (loc n : Nat) : (s.reach k loc n).MemoryOnly s := by
  unfold State.reach
  split
  · exact s.cordonLoss_memoryOnly k loc n
  · exact .refl s

theorem State.performPend_memoryOnly (s : State) (c : Nat) (p : PendStore) : s.MemoryOnly (s.performPend c p) := by
  have reached := s.reach_memoryOnly .store p.loc p.data.length
  unfold State.performPend
  split
  · next t h => rw [h] at reached; exact State.MemoryOnly.trans reached (.trans (t.homeWrite_memoryOnly _ _ _) rfl)
  · next h => rw [h] at reached; exact reached
  · next h => rw [h] at reached; exact reached
  · exact .refl s

theorem State.flushVt_memoryOnly (s : State) (id : Nat) : s.MemoryOnly (s.flushVt id) := by
  unfold State.flushVt State.flushCore
  split
  · exact .refl s
  · next v _ =>
    exact .ite (fun _ => .refl s) fun _ => .trans (.foldl (fun s p => s.performPend_memoryOnly v.core p) _ s) rfl

end Sys2Proof.Machine
end

section
/-! SUPPORT. Context records and the store areas that hold them: where a record may lie, that it stands there once it is written, and
what the writing leaves (R65, R270, log 59). -/

namespace Sys2Proof

/-- The bytes written are read back. -/
theorem Memory.readBytes_writeBytes {m : List Host.Cell} (hm : Memory.wf m = true) (a : Nat) (bs : List Byte) :
    Memory.readBytes (Memory.writeBytes m a bs) a bs.length = bs := by
  refine List.ext_getElem? fun k => ?_
  rw [Memory.getElem?_readBytes, Memory.read_writeBytes a (a + k) bs hm, if_pos (Nat.le_add_right a k), Nat.add_sub_cancel_left]
  split
  · next h => rw [List.getElem?_eq_getElem h]; rfl
  · next h => rw [List.getElem?_eq_none (Nat.not_lt.mp h)]

/-- Beyond the bytes written nothing changes. -/
theorem Memory.read_writeBytes_outside {m : List Host.Cell} (hm : Memory.wf m = true) {a k : Nat} {bs : List Byte}
    (h : k < a ∨ a + bs.length ≤ k) : Memory.read (Memory.writeBytes m a bs) k = Memory.read m k := by
  rw [Memory.read_writeBytes a k bs hm]
  split
  · rw [List.getElem?_eq_none (by omega)]; rfl
  · rfl

/-- A selection that drops the entry of a key does not see it set. -/
theorem SMap.filterMap_set {α β : Type} {f : Nat × α → Option β} {n : Nat} (hf : ∀ a, f (n, a) = none) (m : SMap α) (a : α) :
    (m.set n a).filterMap f = m.filterMap f := by
  induction m with
  | nil => exact List.filterMap_cons_none (hf a)
  | cons e m ih =>
    obtain ⟨k, b⟩ := e
    simp only [SMap.set]
    split
    · exact List.filterMap_cons_none (hf a)
    · split
      · next h => subst h; rw [List.filterMap_cons_none (hf a), List.filterMap_cons_none (hf b)]
      · rw [List.filterMap_cons, ih, List.filterMap_cons]

end Sys2Proof

namespace Sys2Proof.Machine

open Sys2Proof

variable {s t : State} {id : Nat} {v : VT} {loc dom n : Nat} {used : List (Nat × Nat)}

/-! ### Places -/

theorem placeIn_within {a : Nat × Nat} (h : placeIn used n a = some loc) : a.1 ≤ loc ∧ loc + n ≤ a.1 + a.2 := by
  have found := List.find?_some h
  simp only [Bool.and_eq_true, decide_eq_true_eq] at found
  exact found.1

/-- A place found lies in a part of the domain's area. -/
theorem State.ctxRoom_within (h : s.ctxRoom dom n used = some loc) : ∃ r ∈ ctxArea dom, r.1 ≤ loc ∧ loc + n ≤ r.1 + r.2 := by
  obtain ⟨a, ha, hloc⟩ := List.exists_of_findSome?_eq_some h
  refine ⟨a, ha, ?_⟩
  split at hloc
  · exact placeIn_within hloc
  · cases hloc

/-- What is in use but for the record of a VT does not depend on that VT. -/
theorem State.ctxInUse_setVt (s : State) (id : Nat) (v : VT) : (s.setVt id v).ctxInUse (some id) none = s.ctxInUse (some id) none :=
  congrArg (· ++ _) (SMap.filterMap_set (fun _ => if_pos (.inr rfl)) s.vts v)

/-! ### The record of a VT -/

theorem State.putRecord_vt? (s : State) (loc id : Nat) (bs : List Byte) (marks : List Nat) :
    (s.putRecord loc bs marks).vt? id = s.vt? id := rfl
theorem State.putRecord_mem (s : State) (loc : Nat) (bs : List Byte) (marks : List Nat) :
    (s.putRecord loc bs marks).mem = Memory.writeBytes s.mem loc bs := rfl
theorem State.putRecord_memoryOnly (s : State) (loc : Nat) (bs : List Byte) (marks : List Nat) :
    s.MemoryOnly (s.putRecord loc bs marks) := rfl
theorem State.setVt_memoryOnly (s : State) (id : Nat) (v : VT) : s.MemoryOnly (s.setVt id v) := rfl

/-- The bytes of a record stand at its place. -/
theorem State.putRecord_stands {bs : List Byte} (marks : List Nat) (hm : Memory.wf s.mem = true) :
    Memory.readBytes (s.putRecord loc bs marks).mem loc bs.length = bs := Memory.readBytes_writeBytes hm loc bs

theorem State.putRecord_outside {bs : List Byte} (marks : List Nat) (hm : Memory.wf s.mem = true) {a : Nat}
    (ha : a < loc ∨ loc + bs.length ≤ a) : Memory.read (s.putRecord loc bs marks).mem a = Memory.read s.mem a :=
  Memory.read_writeBytes_outside hm ha

/-- The record of a VT is written where there is a place for it; else nothing changes. (A search for a place is kept out of
reduction: evaluated, it would count through addresses.) -/
theorem State.saveContext_cases (hv : s.vt? id = some v) :
    (s.ctxRoom v.domain v.recordSize (s.ctxInUse (some id) none) = none ∧ s.saveContext id = s)
    ∨ ∃ loc, s.ctxRoom v.domain v.recordSize (s.ctxInUse (some id) none) = some loc ∧ s.saveContext id
        = (s.putRecord loc (v.record id) (v.recordMarks loc)).setVt id { v with ctx := some (loc, v.recordSize) } := by
  unfold State.saveContext
  obtain ⟨room, hroom⟩ : ∃ room, room = State.ctxRoom := ⟨_, rfl⟩
  rw [← hroom, hv]
  cases h : room s v.domain v.recordSize (s.ctxInUse (some id) none) with
  | none => exact .inl ⟨rfl, by simp only [h]⟩
  | some loc => exact .inr ⟨loc, rfl, by simp only [h]⟩

theorem State.saveContext_absent (hv : s.vt? id = none) : s.saveContext id = s := by
  unfold State.saveContext
  rw [hv]

theorem State.saveContext_memoryOnly (s : State) (id : Nat) : s.MemoryOnly (s.saveContext id) := by
  cases hv : s.vt? id with
  | none => rw [State.saveContext_absent hv]; exact .refl s
  | some v =>
    obtain ⟨-, h⟩ | ⟨loc, -, h⟩ := State.saveContext_cases hv
    · rw [h]; exact .refl s
    · rw [h]; exact (s.putRecord_memoryOnly _ _ _).trans (State.setVt_memoryOnly _ _ _)

theorem State.saveContext_vt_ne (s : State) {id n : Nat} (hn : n ≠ id) : (s.saveContext id).vt? n = s.vt? n := by
  cases hv : s.vt? id with
  | none => rw [State.saveContext_absent hv]
  | some v =>
    obtain ⟨-, h⟩ | ⟨loc, -, h⟩ := State.saveContext_cases hv
    · rw [h]
    · rw [h, State.vt?_setVt_ne _ _ hn, State.putRecord_vt?]

theorem State.saveContext_vt (hv : s.vt? id = some v) : ∃ ctx, (s.saveContext id).vt? id = some { v with ctx } := by
  obtain ⟨-, h⟩ | ⟨loc, -, h⟩ := State.saveContext_cases hv
  · rw [h]; exact ⟨v.ctx, hv⟩
  · rw [h]; exact ⟨_, State.vt?_setVt_self _ _ _⟩

/-- Where a record lies is no part of it. -/
theorem VT.record_ctx (v : VT) (id : Nat) (ctx : Option (Nat × Nat)) : ({ v with ctx } : VT).record id = v.record id := rfl
theorem VT.recordSize_ctx (v : VT) (ctx : Option (Nat × Nat)) : ({ v with ctx } : VT).recordSize = v.recordSize := rfl

/-- A record of the VT stands whole in its domain's area, and no byte of storage beside it is other than in `mem` (R65, log 59). -/
def State.HoldsRecord (u : State) (mem : List Host.Cell) (id : Nat) (w : VT) : Prop :=
  ∃ loc r, w.ctx = some (loc, w.recordSize) ∧ r ∈ ctxArea w.domain ∧ r.1 ≤ loc ∧ loc + w.recordSize ≤ r.1 + r.2
    ∧ Memory.readBytes u.mem loc (w.record id).length = w.record id
    ∧ ∀ a, (a < loc ∨ loc + (w.record id).length ≤ a) → Memory.read u.mem a = Memory.read mem a

/-- With room for it a record is written whole. -/
theorem State.saveContext_holds {w : VT} (hv : s.vt? id = some v) (hw : (s.saveContext id).vt? id = some w)
    (hm : Memory.wf s.mem = true) (hroom : (s.ctxRoom v.domain v.recordSize (s.ctxInUse (some id) none)).isSome = true) :
    (s.saveContext id).HoldsRecord s.mem id w := by
  obtain ⟨h, -⟩ | ⟨loc, hloc, h⟩ := State.saveContext_cases hv
  · rw [h] at hroom; cases hroom
  · obtain ⟨r, hr, hlo, hhi⟩ := State.ctxRoom_within hloc
    rw [h] at hw ⊢
    rw [State.vt?_setVt_self] at hw
    cases hw
    rw [State.HoldsRecord, VT.record_ctx, VT.recordSize_ctx, State.setVt_mem]
    exact ⟨loc, r, rfl, hr, hlo, hhi, State.putRecord_stands _ hm, fun a ha => State.putRecord_outside _ hm ha⟩

end Sys2Proof.Machine
end

section
/-! PROOF. A VT leaves its core and enters one (R46, R51, R65, R267, R269): what SWAP_OUT, MOVE and SWAP_IN make of it. -/

namespace Sys2Proof.Machine

open Sys2Proof

section
variable {s : State} {id n core : Nat} {v u : VT}

/-! ### Leaving -/

/-- A VT as it leaves its core (R47, R62). -/
def VT.left (v : VT) (now : Nat) : VT :=
  { v.evict with st := if v.st = .ready then .readyOut else v.st, preempts := v.preempts + 1
                 readyAt := if v.st = .ready then now else v.readyAt }

theorem VT.evict_inflight (h : v.inflight = []) : v.evict.inflight = [] := by rw [VT.evict, h]; rfl

/-- With nothing in flight the record of a VT that leaves takes the room that it took before. -/
theorem VT.recordSize_left (h : v.inflight = []) (now : Nat) : (v.left now).recordSize = v.recordSize := by
  have same : v.left now = { v with
      resident := false, reserved := false, claimWait := false, mopSince := none, awaited := 0
      st := if v.st = .ready then .readyOut else v.st, preempts := v.preempts + 1
      readyAt := if v.st = .ready then now else v.readyAt } := by
    rw [VT.left, VT.evict, h]; rfl
  rw [same]; rfl

theorem State.stopMop_none (hv : s.vt? id = some v) (h : v.mop = none) : s.stopMop id = s := by
  simp only [State.stopMop, hv, h]

theorem State.flushVt_none (hv : s.vt? id = some v) (h : (s.core v.core).pend = []) : s.flushVt id = s := by
  simp only [State.flushVt, hv]
  exact if_pos h

/-- A VT with no `mop` on a core that holds no store has nothing to finish (R87, R231). -/
theorem State.leavePoint_nothing (hv : s.vt? id = some v) (hm : v.mop = none) (hp : (s.core v.core).pend = []) : s.leavePoint id = s := by
  rw [State.leavePoint, State.stopMop_none hv hm, State.flushVt_none hv hp]

/-- What comes before the record: what the VT held is free, and it stands off its core. -/
theorem State.swapOut_eq (hv : (s.leavePoint id).vt? id = some v) : s.swapOut id
    = ((((s.leavePoint id).holdFreed v).leaveFifo id).setVt id (v.left (s.vtNow v))).saveContext id := by
  unfold State.swapOut
  obtain ⟨save, hsave⟩ : ∃ save, save = State.saveContext := ⟨_, rfl⟩
  rw [← hsave, hv]
  rfl

theorem State.swapOut_vt (hv : (s.leavePoint id).vt? id = some v) :
    ∃ ctx, (s.swapOut id).vt? id = some { v.left (s.vtNow v) with ctx } := by
  rw [State.swapOut_eq hv]
  exact State.saveContext_vt (State.vt?_setVt_self _ _ _)

/-! ### Room for the record -/

theorem State.ctxRoom_congr {s t : State} (hd : t.dies = s.dies) (hl : t.links = s.links) : t.ctxRoom = s.ctxRoom := by
  have reach : t.storageReachable = s.storageReachable := by
    funext loc
    simp only [State.storageReachable, State.halfInService, State.linkLost, State.die, hd, hl]
  funext dom n used
  simp only [State.ctxRoom, reach]

theorem State.ctxInUse_congr {s t : State} (hv : t.vts = s.vts) (hg : t.gangs = s.gangs) : t.ctxInUse = s.ctxInUse := by
  funext id key
  simp only [State.ctxInUse, hv, hg]

/-- What a VT frees, and that it waits at no FIFO, changes the cores and who waits there. -/
theorem State.freed_eq (s : State) (id : Nat) (v : VT) :
    ∃ cores fifoWait, (s.holdFreed v).leaveFifo id = { s with cores, fifoWait } := by
  unfold State.holdFreed
  split <;> exact ⟨_, _, rfl⟩

/-- A VT with nothing in flight that may leave leaves a record behind (R65). -/
theorem State.swapOut_holds {w : VT} (hv : s.vt? id = some v) (hp : s.leavePoint id = s) (hmay : s.mayLeave id v = true)
    (hi : v.inflight = []) (hm : Memory.wf s.mem = true) (hw : (s.swapOut id).vt? id = some w) :
    (s.swapOut id).HoldsRecord s.mem id w := by
  have room : (s.ctxRoom v.domain v.recordSize (s.ctxInUse (some id) none)).isSome = true := by
    simp only [State.mayLeave, Bool.and_eq_true] at hmay
    exact hmay.2
  have out := State.swapOut_eq (hp.symm ▸ hv)
  obtain ⟨cores, fifoWait, freed⟩ := s.freed_eq id v
  rw [hp, freed] at out
  rw [out] at hw ⊢
  let t : State := { s with cores, fifoWait }
  have rooms : (t.setVt id (v.left (s.vtNow v))).ctxRoom = s.ctxRoom := State.ctxRoom_congr rfl rfl
  have uses : t.ctxInUse = s.ctxInUse := State.ctxInUse_congr rfl rfl
  refine State.saveContext_holds (s := t.setVt id (v.left (s.vtNow v))) (State.vt?_setVt_self _ _ _) hw hm ?_
  rw [State.ctxInUse_setVt, uses, rooms, VT.recordSize_left hi]
  exact room

end

end Sys2Proof.Machine
end

section
/-! PROOF. A VT enters a core (R46, R47, R267): its binding, SWAP_IN, SWAP_OUT and MOVE. -/

namespace Sys2Proof.Machine

open Sys2Proof

section
variable {s : State} {id n core k : Nat} {v w : VT} {moved : Bool}

/-! ### Binding -/

theorem State.modVt_mem (s : State) (id : Nat) (f : VT → VT) : (s.modVt id f).mem = s.mem := by unfold State.modVt; split <;> rfl

theorem State.bindTo_vt (hv : s.vt? id = some v) (k : Nat) (moved : Bool) :
    ∃ slot span quad0 admitted park, (s.bindTo id k moved).vt? id = some { v with slot, span, quad0, admitted, park } := by
  unfold State.bindTo
  rw [hv]
  dsimp only
  split
  · exact ⟨_, _, _, v.admitted, v.park, State.vt?_setVt_self _ _ _⟩
  · split
    · exact ⟨_, _, _, true, v.park, State.vt?_setVt_self _ _ _⟩
    · obtain ⟨park, h⟩ := State.ParkOnly.vt? (State.post_parkOnly _ _ _ _ _) (State.vt?_setVt_self s id _)
      exact ⟨_, _, _, false, park, h⟩

/-- Only the refusal of an admission, of a VT with a service interval, posts a record (R268, R319). -/
theorem State.bindTo_mem (hv : s.vt? id = some v) (h : v.interval = 0) (k : Nat) (moved : Bool) :
    (s.bindTo id k moved).mem = s.mem := by
  unfold State.bindTo
  rw [hv]
  dsimp only
  rw [if_pos (.inl h)]
  rfl

/-- `w` is `v` under another binding: beside it only the lanes of its blocks and VPs, and what it waits for, may differ. -/
structure VT.BoundAs (v w : VT) : Prop where
  same : w = { v with
    slot := w.slot, span := w.span, quad0 := w.quad0, admitted := w.admitted, rebind := w.rebind, waiting := w.waiting
    park := w.park, vps := w.vps }
  vps : ∀ i : Fin 32, w.vps[i] = { v.vps[i] with quad := w.vps[i].quad }

theorem VT.BoundAs.refl (v : VT) : v.BoundAs v := ⟨rfl, fun _ => rfl⟩

theorem State.bindVt_vt (hv : s.vt? id = some v) : ∃ w, (s.bindVt id).vt? id = some w ∧ v.BoundAs w := by
  unfold State.bindVt
  rw [hv]
  dsimp only
  split
  · exact ⟨v, hv, .refl v⟩
  · next k _ =>
    obtain ⟨slot, span, quad0, admitted, park, h⟩ := State.bindTo_vt hv k v.rebind
    rw [State.modVt_eq h]
    exact ⟨_, State.vt?_setVt_self _ _ _, rfl, fun i => by simp⟩

theorem State.bindVt_mem (hv : s.vt? id = some v) (h : v.interval = 0) : (s.bindVt id).mem = s.mem := by
  unfold State.bindVt
  rw [hv]
  dsimp only
  split
  · rfl
  · rw [State.modVt_mem, State.bindTo_mem hv h]

/-! ### Entering -/

/-- `w` is `v` in the frames of a core: READY, without a record, its registers as they were (R46, R47). -/
structure VT.SeatedAs (v w : VT) (core : Nat) : Prop where
  same : w = { v with
    st := .ready, resident := true, reserved := false, aged := false, core, ctx := none
    skew := w.skew, slot := w.slot, span := w.span, quad0 := w.quad0, admitted := w.admitted, rebind := w.rebind
    waiting := w.waiting, park := w.park, vps := w.vps, swappedInAt := w.swappedInAt, readyAt := w.readyAt
    poison := w.poison, tcmPoison := w.tcmPoison }
  vps : ∀ i : Fin 32, w.vps[i] = { v.vps[i] with quad := w.vps[i].quad }

/-- What the marks of its storage have struck is poisoned in a restored VT, and nothing else changes (R346). -/
theorem State.restored_eq (s : State) (v : VT) : ∃ poison tcmPoison, s.restored v = { v with poison, tcmPoison } := by
  unfold State.restored
  split
  · exact ⟨_, _, rfl⟩
  · dsimp only
    split <;> exact ⟨_, _, rfl⟩

theorem State.capHold_vts (s : State) (g : Nat) : (s.capHold g).vts = s.vts := rfl
theorem State.capHold_mem (s : State) (g : Nat) : (s.capHold g).mem = s.mem := rfl

/-- What is held on a core is no part of its L1. -/
theorem State.l1_capHold (s : State) (g c : Nat) : ((s.capHold g).core c).l1 = (s.core c).l1 := by
  unfold State.capHold State.core SMap.getD
  rw [SMap.get?_mapVals]
  cases s.cores.get? c with
  | none => rfl
  | some k => dsimp only [Option.map_some, Option.getD_some]; split <;> rfl

theorem State.swapIn_vt (hv : s.vt? id = some v) (core : Nat) : ∃ w, (s.swapIn id core).vt? id = some w ∧ v.SeatedAs w core := by
  unfold State.swapIn
  dsimp only
  rw [State.modVt_eq hv]
  obtain ⟨u, hu, bound⟩ := State.bindVt_vt (State.vt?_setVt_self s id (s.onCore v core))
  rw [State.modVt_eq hu]
  obtain ⟨poison, tcmPoison, restored⟩ := (((s.setVt id (s.onCore v core)).bindVt id).restored_eq u)
  refine ⟨_, State.vt?_setVt_self _ _ _, ?_, ?_⟩
  · rw [restored, bound.same]; rfl
  · intro i; rw [restored]; exact bound.vps i

/-- The core that a VT enters has nothing in its L1 (R114, log 57). -/
theorem State.swapIn_l1 (s : State) (id core : Nat) : ((s.swapIn id core).core core).l1 = [] := by
  unfold State.swapIn
  dsimp only
  rw [State.l1_capHold, State.core_setCore_self]

theorem State.swapIn_mem (hv : s.vt? id = some v) (h : v.interval = 0) (core : Nat) : (s.swapIn id core).mem = s.mem := by
  unfold State.swapIn
  dsimp only
  rw [State.capHold_mem, State.setCore_mem, State.modVt_mem, State.modVt_eq hv, State.bindVt_mem (State.vt?_setVt_self s id (s.onCore v core)) h,
    State.setVt_mem]

end

/-! ### A freeze -/

section
variable {s : State} {id : Nat} {v : VT} {f : FaultInfo}

theorem State.freezeVt_vt (s : State) (id : Nat) (v : VT) (f : FaultInfo) :
    ∃ w, (s.freezeVt id v f).vt? id = some w ∧ w.st = .frozen ∧ w.resident = false ∧ w.x = v.x ∧ w.pc = v.pc := by
  let frozen : VT := { v.evict with
    st := .frozen, faultrec := faultWords { f with cause := .domain }, park := none, detected := [], violation := none
    stopping := false }
  let t : State := (((s.holdFreed v).setVt id frozen).leaveFutures id).leaveFifo id
  have here : t.vt? id = some frozen := State.vt?_setVt_self _ _ _
  obtain ⟨ctx, saved⟩ := State.saveContext_vt here
  obtain ⟨park, posted⟩ := State.ParkOnly.vt? (State.post_parkOnly _ _ _ _ _) saved
  exact ⟨_, posted, rfl, rfl, rfl, rfl⟩

end

/-! ### SWAP_IN, SWAP_OUT and MOVE -/

section
variable {s : State} {id core c : Nat} {v : VT}

/-- With no core the VT stays out. -/
theorem exec_swapIn_noCore (hv : s.vt? id = some v) (hw : s.wantsSwapIn v = true) (hc : s.swapCore v = none) :
    exec (.swapIn id) s = .next s := by
  simp only [exec, execSwapIn, hv, hw, hc, if_true]

/-- Requests are served in their order (R267). -/
theorem exec_swapIn_behind (hv : s.vt? id = some v) (hw : s.wantsSwapIn v = true) (hc : s.swapCore v = some c)
    (hn : s.nextSwapIn c ≠ some id) : exec (.swapIn id) s = .next s := by
  simp only [exec, execSwapIn, hv, hw, hc, if_true]
  rw [if_pos (.inl hn)]

/-- The first request enters its core, or is frozen where its record is another domain's (R322). -/
theorem exec_swapIn_first (hv : s.vt? id = some v) (hw : s.wantsSwapIn v = true) (hc : s.swapCore v = some c)
    (hn : s.nextSwapIn c = some id) (hr : s.recordServes v = true) : exec (.swapIn id) s
      = .next (if s.ctxOwn v.ctx 4 v.domain then s.swapIn id c else s.freezeVt id v (restoreViolation v)) := by
  simp only [exec, execSwapIn, hv, hw, hc, if_true]
  rw [if_neg (by simp [hn, hr])]

/-- Placement's core is kept for a VT, so long as it has no claim (R266, R267). -/
theorem State.swapCore_reserved (hr : v.reserved = true) (hc : v.claim = none) : s.swapCore v = some v.core := by
  simp [State.swapCore, hr, hc]

theorem State.swapCore_previous (hr : v.reserved = false) (hh : s.canHold v.core v = true) : s.swapCore v = some v.core := by
  simp [State.swapCore, hr, hh]

/-- An admitted VT goes to its previous core or nowhere (R46, R267). -/
theorem State.swapCore_admitted (hr : v.reserved = false) (hh : s.canHold v.core v = false) (ha : v.admitted = true) :
    s.swapCore v = none := by
  simp [State.swapCore, hr, hh, ha]

theorem exec_swapOut (hv : s.vt? id = some v) (hmay : s.mayLeave id v = true)
    (hchosen : s.victimForAged (clusterOfCore v.core) = some id ∨ s.victimForRoom v.core = some id
      ∨ s.victimForClaim v.core = some id) : exec (.swapOut id) s = .next (s.swapOut id) := by
  simp only [exec, execSwapOut, hv, hmay]
  rw [if_pos (by simpa [or_assoc] using hchosen)]

theorem exec_swapOut_stays (hv : s.vt? id = some v) (hmay : s.mayLeave id v = false) : exec (.swapOut id) s = .next s := by
  simp only [exec, execSwapOut, hv, hmay, Bool.false_and, Bool.false_eq_true, if_false]

theorem exec_move (hv : s.vt? id = some v) (hst : v.st = .ready) (ha : v.admitted = false) (hmay : s.mayLeave id v = true)
    (hne : core ≠ v.core) (hc : clusterOfCore core = clusterOfCore v.core) (hh : s.canHold core v = true)
    (hn : s.nextSwapIn core = none) : exec (.move id core) s = .next ((s.swapOut id).swapIn id core) := by
  simp only [exec, execMove, hv]
  rw [if_pos ⟨hst, ha, hmay, hne, hc, hh, hn⟩]

/-- What keeps a VT from being moved (R267, R269). -/
theorem exec_move_stays (hv : s.vt? id = some v)
    (h : v.admitted = true ∨ s.mayLeave id v = false ∨ s.nextSwapIn core ≠ none) : exec (.move id core) s = .next s := by
  simp only [exec, execMove, hv]
  rw [if_neg]
  rintro ⟨-, ha, hmay, -, -, -, hn⟩
  rcases h with h | h | h
  · exact Bool.false_ne_true (ha.symm.trans h)
  · exact Bool.false_ne_true (h.symm.trans hmay)
  · exact h hn

end

theorem swapIn : Claim.SwapIn := by
  intro s id c v hv hst hp hs
  have wants : s.wantsSwapIn v = true := by simp [State.wantsSwapIn, hst, hp, hs]
  refine ⟨exec_swapIn_noCore hv wants, exec_swapIn_behind hv wants, fun hc hn hr ho => ?_, fun hc hn hr ho => ?_,
    State.swapCore_reserved, State.swapCore_previous, State.swapCore_admitted⟩
  · obtain ⟨w, hw, seated⟩ := State.swapIn_vt hv c
    refine ⟨_, w, (exec_swapIn_first hv wants hc hn hr).trans (congrArg _ (if_pos ho)), hw, ?_⟩
    rw [seated.same]
    exact ⟨rfl, rfl, rfl, rfl, rfl, rfl, rfl, rfl, seated.vps, rfl, s.swapIn_l1 id c, fun h => State.swapIn_mem hv h c⟩
  · obtain ⟨w, hw, frozen⟩ := s.freezeVt_vt id v (restoreViolation v)
    exact ⟨_, w, (exec_swapIn_first hv wants hc hn hr).trans (congrArg _ (if_neg (ne_true_of_eq_false ho))), hw, frozen⟩

theorem swapOutAndMove : Claim.SwapOutAndMove := by
  intro s id core v hv hm hp
  have point : s.leavePoint id = s := State.leavePoint_nothing hv hm hp
  obtain ⟨ctx, out⟩ := State.swapOut_vt (point.symm ▸ hv)
  refine ⟨fun hmay hchosen => ?_, fun hmay hst ha hne hc hh hn => ?_, fun h => exec_move_stays hv (h.imp_right .inr),
    fun hmay => ⟨exec_swapOut_stays hv hmay, exec_move_stays hv (.inr (.inl hmay))⟩⟩
  · refine ⟨_, _, exec_swapOut hv hmay hchosen, out, rfl, VT.evict_inflight, fun hi hwf => ?_⟩
    exact State.swapOut_holds hv point hmay hi hwf out
  · obtain ⟨w, hw, seated⟩ := State.swapIn_vt out core
    refine ⟨_, w, exec_move hv hst ha hmay hne hc hh hn, hw, ?_⟩
    rw [seated.same]
    exact ⟨rfl, rfl, rfl, rfl, rfl, rfl, seated.vps, State.swapIn_l1 _ id core⟩

end Sys2Proof.Machine
end

section
/-! PROOF. A write of LPR (R43, R45): the partition that is tested and compared is bits [7:0] of the value. -/

namespace Sys2Proof.Machine

open Sys2Proof

/-! ### Slots of quads -/

/-- A quad's slot is one digit in base 4. -/
theorem lprSlot_eq (x : Word32) (q : Nat) : lprSlot x q = x.toNat / 4 ^ q % 4 := by
  rw [lprSlot, Nat.pow_mul]

theorem lprQuads_eq (x : Word32) (slot : Nat) : lprQuads x slot = (List.range 4).filter fun q => x.toNat / 4 ^ q % 4 == slot := by
  simp only [lprQuads, lprSlot_eq]

theorem lprLegal_iff (x : Word32) :
    lprLegal x = true ↔ ∀ k, k < 4 → lprQuads x k ∈ [[], [0], [1], [2], [3], [0, 1], [2, 3], [0, 1, 2, 3]] := by
  simp only [lprLegal, List.all_eq_true, List.mem_range, decide_eq_true_eq]

/-- The digits of the four quads lie in bits [7:0]. -/
theorem lprQuads_low (x : Word32) (slot : Nat) : lprQuads (BitVec.ofNat 32 (x.toNat % 256)) slot = lprQuads x slot := by
  have digit (q : Nat) (hq : q < 4) : x.toNat % 256 / 4 ^ q % 4 = x.toNat / 4 ^ q % 4 := by
    have split : 256 = 4 ^ q * 4 ^ (4 - q) := by rw [← Nat.pow_add, Nat.add_sub_cancel' hq.le]
    rw [split, Nat.mod_mul_right_div_self, Nat.mod_mod_of_dvd _ (dvd_pow_self 4 (Nat.sub_ne_zero_of_lt hq))]
  have low : (BitVec.ofNat 32 (x.toNat % 256)).toNat = x.toNat % 256 := by rw [BitVec.toNat_ofNat]; omega
  rw [lprQuads_eq, lprQuads_eq, low]
  refine List.filter_congr fun q hq => ?_
  rw [digit q (List.mem_range.mp hq)]

theorem lprLow_eq (x : Word32) : BitVec.ofNat 32 (x.toNat % 256) = (x.setWidth 8).setWidth 32 := by
  apply BitVec.eq_of_toNat_eq
  simp only [BitVec.toNat_ofNat, BitVec.toNat_setWidth]

theorem partitionWrite : Claim.PartitionWrite := by
  intro s core id value v
  simp only [← lprQuads_eq, ← lprLegal_iff]
  refine ⟨fun h => ?_, fun h => ?_⟩
  · exact congrArg Host.Outcome.next (if_neg h)
  · refine ⟨_, congrArg Host.Outcome.next (if_pos h), ?_, rfl, fun c hc => ?_, fun hv => ?_⟩
    · exact (State.core_setCore_self s core _).trans (congrArg (fun lpr => { s.core core with lpr }) (lprLow_eq value))
    · exact State.core_setCore_ne s _ hc
    · refine (SMap.get?_mapVals _ s.vts id).trans ?_
      rw [show s.vts.get? id = some v from hv, Option.map_some, lprQuads_low]

end Sys2Proof.Machine
end

section
/-! PROOF. PLACEMENT of a gang that waits alone (R262, R265, R266): fresh VTIDs, the members of a launch, the gang placed. -/

namespace Sys2Proof

theorem findFrom_spec {p : Nat → Bool} {n fuel k : Nat} (h : findFrom p n fuel = some k) : p k = true := by
  induction fuel generalizing n with
  | zero => cases h
  | succ fuel ih =>
    rw [findFrom] at h
    split at h
    · next hp => cases h; exact hp
    · exact ih h

theorem findFrom_isSome {p : Nat → Bool} {n fuel i : Nat} (hi : i < fuel) (hp : p (n + i) = true) : (findFrom p n fuel).isSome = true := by
  induction fuel generalizing n i with
  | zero => cases hi
  | succ fuel ih =>
    rw [findFrom]
    split
    · rfl
    · next hn =>
      cases i with
      | zero => exact absurd hp hn
      | succ i => exact ih (Nat.lt_of_succ_lt_succ hi) (by rwa [Nat.add_assoc, Nat.add_comm 1])

theorem SMap.length_set_le {α : Type} (m : SMap α) (n : Nat) (a : α) : (m.set n a).length ≤ m.length + 1 := by
  induction m with
  | nil => exact Nat.le_refl 1
  | cons e m ih =>
    rw [SMap.set]
    split
    · exact Nat.le_refl _
    · split
      · exact Nat.le_succ _
      · exact Nat.succ_le_succ ih

/-- Of more numbers than a table has entries, distinct below `M`, one is no key of it. -/
theorem SMap.exists_get?_none {α : Type} (m : SMap α) {M : Nat} (hM : m.length < M) (n : Nat) :
    ∃ i < m.length + 1, m.get? ((n + i) % M) = none := by
  have fewer : (m.map Prod.fst).toFinset.card < ((Finset.range (m.length + 1)).image fun i => (n + i) % M).card := by
    have distinct : Set.InjOn (fun i => (n + i) % M) (Finset.range (m.length + 1)) := by
      intro i hi j hj hij
      have hi := Finset.mem_range.mp hi
      have hj := Finset.mem_range.mp hj
      exact Nat.ModEq.eq_of_lt_of_lt (Nat.ModEq.add_left_cancel' n hij) (by omega) (by omega)
    rw [Finset.card_image_of_injOn distinct, Finset.card_range]
    exact Nat.lt_succ_of_le ((List.toFinset_card_le _).trans (List.length_map _).le)
  obtain ⟨k, hk, absent⟩ := Finset.exists_mem_notMem_of_card_lt_card fewer
  obtain ⟨i, hi, rfl⟩ := Finset.mem_image.mp hk
  refine ⟨i, Finset.mem_range.mp hi, ?_⟩
  cases h : m.get? ((n + i) % M) with
  | none => rfl
  | some a => exact absurd (List.mem_toFinset.mpr (List.mem_map_of_mem (SMap.mem_of_get? h))) absent

end Sys2Proof

namespace Sys2Proof.Machine

open Sys2Proof

section
variable {s : State} {l : Launch} {key g base : Nat} {x : Gang} {cs : List Nat}

/-! ### Fresh VTIDs -/

theorem State.freshVt_state (s : State) : s.freshVt.2 = { s with picks := s.picks + 1 } := rfl

/-- With fewer VTs than VTIDs, no VT that has not ENDED bears a fresh VTID (R62). -/
theorem State.freshVt_free (hs : s.vts.length < 2 ^ 32) {v : VT} (hv : s.vt? s.freshVt.1 = some v) : v.st = .ended := by
  let free (n : Nat) : Bool := match s.vt? (n % 2 ^ 32) with
    | some v => v.st == .ended
    | none => true
  let start := Config.choice s.picks % 2 ^ 32
  obtain ⟨i, hi, absent⟩ := SMap.exists_get?_none s.vts hs start
  have accepted : free (start + i) = true := by
    change (match s.vts.get? ((start + i) % 2 ^ 32) with
      | some v => v.st == .ended
      | none => true) = true
    rw [absent]
  obtain ⟨n, hn⟩ := Option.isSome_iff_exists.mp (findFrom_isSome hi accepted)
  have chosen : s.freshVt.1 = n % 2 ^ 32 := congrArg (fun o : Option Nat => o.getD 0 % 2 ^ 32) hn
  have ended : free n = true := findFrom_spec hn
  change (match s.vt? (n % 2 ^ 32) with
    | some v => v.st == .ended
    | none => true) = true at ended
  rw [← chosen, hv] at ended
  exact eq_of_beq ended

/-! ### The members of a launch -/

theorem VT.applyCfg_eq (v : VT) (req : Nat) : ∃ vcfg vl, v.applyCfg req = { v with vcfg, vl } := by
  unfold VT.applyCfg
  dsimp only
  split
  · exact ⟨_, _, rfl⟩
  · exact ⟨_, v.vl, rfl⟩

/-- What the image of a launch gives its member of a rank (R262). -/
structure Launch.Gives (l : Launch) (key rank core : Nat) (v : VT) : Prop where
  st : v.st = .new
  rank : v.rank = rank
  core : v.core = core
  gang : v.gang = key
  pc : v.pc = l.entry
  x : v.x = l.x
  seg : v.seg = l.seg
  em : v.em = l.em
  vmt : v.vmt = l.vmt
  codebase : v.codebase = l.codebase
  reserved : v.reserved = true
  resident : v.resident = false

theorem Launch.vt_gives (l : Launch) (key : Nat) (x : Gang) (rank core now : Nat) :
    l.Gives key rank core { l.vt key x rank core with readyAt := now } := by
  unfold Launch.vt
  dsimp only
  obtain ⟨vcfg, vl, h⟩ := VT.applyCfg_eq _ _
  rw [h]
  constructor <;> rfl

/-- The creation of members changes the VTs alone. -/
theorem State.createMembers_eq (s : State) (l : Launch) (key : Nat) (x : Gang) (cs : List Nat) (rank : Nat) (ids : List Nat) :
    ∃ vts picks, (s.createMembers l key x cs rank ids).1 = { s with vts, picks } := by
  induction cs generalizing s rank ids with
  | nil => exact ⟨s.vts, s.picks, rfl⟩
  | cons c cs ih =>
    rw [State.createMembers]
    obtain ⟨vts, picks, h⟩ := ih _ (rank + 1) _
    exact ⟨vts, picks, h⟩

theorem State.createMembers_keeps (hs : s.vts.length + cs.length < 2 ^ 32) (rank : Nat) (ids : List Nat) {n : Nat} {w : VT}
    (hw : s.vt? n = some w) (live : w.st ≠ .ended) : (s.createMembers l key x cs rank ids).1.vt? n = some w := by
  induction cs generalizing s rank ids with
  | nil => exact hw
  | cons c cs ih =>
    rw [List.length_cons] at hs
    have other : n ≠ s.freshVt.1 := fun h => live (State.freshVt_free (by omega) (h ▸ hw))
    rw [State.createMembers]
    refine ih ?_ _ _ ((State.vt?_setVt_ne _ _ other).trans hw)
    have grown := SMap.length_set_le s.vts s.freshVt.1 { l.vt key x rank c with readyAt := s.coreCycle c }
    exact Nat.lt_of_le_of_lt (Nat.add_le_add_right grown _) (by omega)

/-- The members of a launch in rank order, each under a VTID of its own. -/
theorem State.createMembers_members (hs : s.vts.length + cs.length < 2 ^ 32) (rank : Nat) (ids : List Nat) :
    ∃ new, (s.createMembers l key x cs rank ids).2 = ids ++ new ∧ new.length = cs.length ∧ ∀ j (h : j < cs.length), ∃ id v,
      new[j]? = some id ∧ (s.createMembers l key x cs rank ids).1.vt? id = some v ∧ l.Gives key (rank + j) cs[j] v := by
  induction cs generalizing s rank ids with
  | nil => exact ⟨[], (List.append_nil ids).symm, rfl, fun _ h => (Nat.not_lt_zero _ h).elim⟩
  | cons c cs ih =>
    rw [List.length_cons] at hs
    rw [State.createMembers]
    let first : VT := { l.vt key x rank c with readyAt := s.coreCycle c }
    have room : (s.freshVt.2.setVt s.freshVt.1 first).vts.length + cs.length < 2 ^ 32 :=
      Nat.lt_of_le_of_lt (Nat.add_le_add_right (SMap.length_set_le s.vts s.freshVt.1 first) _) (by omega)
    have given : l.Gives key rank c first := l.vt_gives key x rank c _
    obtain ⟨new, hids, hlen, rest⟩ := ih room (rank + 1) (ids ++ [s.freshVt.1])
    refine ⟨s.freshVt.1 :: new, by rw [hids, List.append_assoc]; rfl, congrArg (· + 1) hlen, fun j hj => ?_⟩
    cases j with
    | zero =>
      refine ⟨s.freshVt.1, first, rfl, ?_, given⟩
      exact State.createMembers_keeps room _ _ (State.vt?_setVt_self _ _ _) (by rw [given.st]; decide)
    | succ j =>
      obtain ⟨id, v, hid, hv, gives⟩ := rest j (Nat.lt_of_succ_lt_succ hj)
      exact ⟨id, v, hid, hv, by rwa [Nat.succ_add_eq_add_succ] at gives⟩

/-! ### Placing -/

/-! (`State.fit` is generalised before the pass is reduced: evaluated, it would count through cores and CSP units.) -/

theorem State.placePass_unfit {k : Nat} (hx : s.gangs.get? k = some x) (h : s.fit g x = none) : s.placePass g [k] [] = s := by
  delta State.placePass State.placePass._f
  generalize State.fit = fit at h ⊢
  simp only [hx, h, ite_self]

theorem State.placePass_fits {k : Nat} (hx : s.gangs.get? k = some x) (h : s.fit g x = some (cs, base)) (hst : x.st = .waiting) :
    s.placePass g [k] [] = (s.installGang g k x cs base).capHold g := by
  have notAged : ¬ x.st = .aged := by rw [hst]; decide
  delta State.placePass State.placePass._f
  generalize State.fit = fit at h ⊢
  simp only [hx, h, notAged, if_false, List.foldl_nil, List.any_nil, Bool.false_eq_true]

/-- A gang without members is placed with those that its launch gives it. -/
theorem State.installGang_new (hm : x.members = []) (hl : s.launches.find? (fun y => y.no == x.launchNo) = some l) :
    ∃ y, (s.installGang g key x cs base).gangs.get? key = some y ∧ y.st = .placed ∧ y.cluster = g ∧ y.base = base
      ∧ y.mem = lowOnes 1024 x.size ∧ y.members = (s.createMembers l key x cs 0 []).2
      ∧ (s.installGang g key x cs base).vts = (s.createMembers l key x cs 0 []).1.vts
      ∧ (s.installGang g key x cs base).mem = s.mem
      ∧ ((s.installGang g key x cs base).cluster g).queue = (s.cluster g).queue.filter (· != key) := by
  obtain ⟨vts, picks, made⟩ := s.createMembers_eq l key x cs 0 []
  unfold State.installGang
  simp only [hm, if_true, hl, true_or, made]
  exact ⟨_, SMap.get?_set_self _ _ _, rfl, rfl, rfl, rfl, rfl, rfl, rfl, congrArg Cluster.queue (State.cluster_setCluster_self _ _ _)⟩

theorem exec_placement (hg : s.inService g = true) : exec (.placement g) s = .next (s.placePass g (s.cluster g).queue []) :=
  congrArg Host.Outcome.next (if_pos hg)

end

theorem gangPlacement : Claim.GangPlacement := by
  intro s g k base x l cs hg hq hx
  rw [exec_placement hg, hq]
  refine ⟨fun h => congrArg _ (State.placePass_unfit hx h), fun h hst hm hl hs => ?_⟩
  obtain ⟨y, hy, placed, cluster, atBase, mem, members, vts, storage, queue⟩ := State.installGang_new (g := g) (key := k) (cs := cs)
    (base := base) hm hl
  obtain ⟨new, hids, hlen, ranks⟩ := State.createMembers_members (l := l) (key := k) (x := x) hs 0 []
  rw [hids, List.nil_append] at members
  refine ⟨_, y, congrArg _ (State.placePass_fits hx h hst), hy, placed, cluster, atBase, mem, members ▸ hlen, ?_, storage, fun j hj => ?_⟩
  · exact queue.trans (by simp [hq])
  · obtain ⟨id, v, hid, hv, gives⟩ := ranks j hj
    refine ⟨id, v, members ▸ hid, (congrArg (SMap.get? · id) vts).trans hv, gives.st, ?_, gives.core, gives.gang, gives.pc, gives.x,
      gives.seg, gives.em, gives.vmt, gives.codebase, gives.reserved, gives.resident⟩
    rw [gives.rank, Nat.zero_add]

end Sys2Proof.Machine
end

section
/-! PROOF. GANG_PREEMPTION (R266, R270): what storing its members leaves of a VT and of the gangs, and the record of the gang. -/

namespace Sys2Proof.Machine

open Sys2Proof

section
variable {s t : State} {id n gang loc : Nat} {v w : VT} {x y a : Gang}

/-! ### One member -/

theorem State.stopMop_vt_ne (s : State) (h : n ≠ id) : (s.stopMop id).vt? n = s.vt? n := by
  unfold State.stopMop
  split
  · rfl
  · split
    · dsimp only
      split
      · rfl
      · exact State.vt?_setVt_ne _ _ h
    · rfl

theorem State.leavePoint_vt_ne (hv : s.vt? n = some v) (h : n ≠ id) : ∃ park, (s.leavePoint id).vt? n = some { v with park } :=
  State.ParkOnly.vt? (State.flushVt_parkOnly _ _) ((s.stopMop_vt_ne h).trans hv)

theorem State.leavePoint_vt (hv : s.vt? id = some v) (hm : v.mop = none) :
    ∃ park, (s.leavePoint id).vt? id = some { v with park } := by
  rw [State.leavePoint, State.stopMop_none hv hm]
  exact State.ParkOnly.vt? (State.flushVt_parkOnly _ _) hv

theorem State.freed_vt? (s : State) (id : Nat) (v : VT) (n : Nat) : ((s.holdFreed v).leaveFifo id).vt? n = s.vt? n := by
  obtain ⟨cores, fifoWait, h⟩ := s.freed_eq id v
  rw [h]
  rfl

theorem State.swapOut_vt_ne (hv : s.vt? n = some v) (h : n ≠ id) : ∃ park, (s.swapOut id).vt? n = some { v with park } := by
  obtain ⟨park, point⟩ := State.leavePoint_vt_ne hv h
  cases hu : (s.leavePoint id).vt? id with
  | none => exact ⟨v.park, by rw [State.swapOut, hu]; exact hv⟩
  | some u =>
    refine ⟨park, ?_⟩
    rw [State.swapOut_eq hu, State.saveContext_vt_ne _ h, State.vt?_setVt_ne _ _ h, State.freed_vt?, point]

/-- The other members keep all but their `park`. -/
theorem State.storeMember_vt_ne (hv : s.vt? n = some v) (h : n ≠ id) : ∃ park, (s.storeMember id).vt? n = some { v with park } := by
  unfold State.storeMember
  split
  · exact ⟨v.park, hv⟩
  · split
    · exact State.swapOut_vt_ne hv h
    · exact ⟨v.park, by rw [State.vt?_setVt_ne _ _ h, State.freed_vt?]; exact hv⟩

/-- `w` is `v` off its core, its registers as they were (R51, R270). -/
structure VT.StoredAs (v w : VT) : Prop where
  resident : w.resident = false
  reserved : w.reserved = false
  x : w.x = v.x
  pc : w.pc = v.pc
  vps : w.vps = v.vps
  mop : w.mop = none
  st : w.st = if v.resident = true ∧ v.st = .ready then .readyOut else v.st

theorem VT.StoredAs.trans {u : VT} (h : v.StoredAs w) (h' : w.StoredAs u) : v.StoredAs u where
  resident := h'.resident
  reserved := h'.reserved
  x := h'.x.trans h.x
  pc := h'.pc.trans h.pc
  vps := h'.vps.trans h.vps
  mop := h'.mop
  st := by rw [h'.st, h.resident, h.st]; simp

theorem State.storeMember_vt (hv : s.vt? id = some v) (hm : v.mop = none) :
    ∃ w, (s.storeMember id).vt? id = some w ∧ v.StoredAs w := by
  cases hr : v.resident with
  | false =>
    refine ⟨v.evict, ?_, rfl, rfl, rfl, rfl, rfl, hm, ?_⟩
    · simp only [State.storeMember, hv, hr, Bool.false_eq_true, if_false]
      exact State.vt?_setVt_self _ _ _
    · rw [hr]; rfl
  | true =>
    obtain ⟨park, point⟩ := State.leavePoint_vt hv hm
    obtain ⟨ctx, out⟩ := State.swapOut_vt point
    have stored : s.storeMember id = s.swapOut id := by simp only [State.storeMember, hv, hr, if_true]
    rw [stored]
    refine ⟨_, out, rfl, rfl, rfl, rfl, rfl, hm, ?_⟩
    rw [hr]; simp only [true_and]; rfl

/-! ### All members -/

theorem State.storeMembers_stored (l : List Nat) (hw : s.vt? id = some w) (h : v.StoredAs w) :
    ∃ w, (l.foldl State.storeMember s).vt? id = some w ∧ v.StoredAs w := by
  induction l generalizing s w with
  | nil => exact ⟨w, hw, h⟩
  | cons n l ih =>
    by_cases hn : id = n
    · subst hn
      obtain ⟨u, hu, again⟩ := State.storeMember_vt hw h.mop
      exact ih hu (h.trans again)
    · obtain ⟨park, hu⟩ := State.storeMember_vt_ne hw hn
      exact ih hu ⟨h.resident, h.reserved, h.x, h.pc, h.vps, h.mop, h.st⟩

theorem State.storeMembers_vt (l : List Nat) (hl : id ∈ l) (hv : s.vt? id = some v) (hm : v.mop = none) :
    ∃ w, (l.foldl State.storeMember s).vt? id = some w ∧ v.StoredAs w := by
  induction l generalizing s v with
  | nil => cases hl
  | cons n l ih =>
    by_cases hn : id = n
    · subst hn
      obtain ⟨w, hw, stored⟩ := State.storeMember_vt hv hm
      exact State.storeMembers_stored l hw stored
    · obtain ⟨park, hu⟩ := State.storeMember_vt_ne hv hn
      obtain ⟨w, hw, stored⟩ := ih (List.mem_of_ne_of_mem hn hl) hu hm
      exact ⟨w, hw, stored.resident, stored.reserved, stored.x, stored.pc, stored.vps, stored.mop, stored.st⟩

/-! ### The gangs -/

/-- The gangs of `t` and its count of events are those of `s`. -/
structure State.SameGangs (s t : State) : Prop where
  gangs : t.gangs = s.gangs
  nextOrder : t.nextOrder = s.nextOrder

theorem State.SameGangs.trans {u : State} (h : s.SameGangs t) (h' : t.SameGangs u) : s.SameGangs u :=
  ⟨h'.gangs.trans h.gangs, h'.nextOrder.trans h.nextOrder⟩

theorem State.MemoryOnly.sameGangs (h : s.MemoryOnly t) : s.SameGangs t := by
  rw [h.eq]
  exact ⟨rfl, rfl⟩

theorem State.stopMop_sameGangs (s : State) (id : Nat) : s.SameGangs (s.stopMop id) := by
  unfold State.stopMop
  split
  · exact ⟨rfl, rfl⟩
  · split
    · dsimp only
      split <;> exact ⟨rfl, rfl⟩
    · exact ⟨rfl, rfl⟩

theorem State.freed_sameGangs (s : State) (id : Nat) (v : VT) : s.SameGangs ((s.holdFreed v).leaveFifo id) := by
  obtain ⟨cores, fifoWait, h⟩ := s.freed_eq id v
  rw [h]
  exact ⟨rfl, rfl⟩

theorem State.swapOut_sameGangs (s : State) (id : Nat) : s.SameGangs (s.swapOut id) := by
  have point : s.SameGangs (s.leavePoint id) := (s.stopMop_sameGangs id).trans (State.flushVt_memoryOnly _ _).sameGangs
  cases hv : (s.leavePoint id).vt? id with
  | none => rw [State.swapOut, hv]; exact ⟨rfl, rfl⟩
  | some v =>
    rw [State.swapOut_eq hv]
    exact (point.trans (State.freed_sameGangs _ _ _)).trans
      ((State.setVt_memoryOnly _ _ _).trans (State.saveContext_memoryOnly _ _)).sameGangs

theorem State.storeMember_sameGangs (s : State) (id : Nat) : s.SameGangs (s.storeMember id) := by
  unfold State.storeMember
  split
  · exact ⟨rfl, rfl⟩
  · split
    · exact s.swapOut_sameGangs id
    · exact (s.freed_sameGangs id _).trans (State.setVt_memoryOnly _ _ _).sameGangs

theorem State.storeMembers_sameGangs (s : State) (l : List Nat) : s.SameGangs (l.foldl State.storeMember s) := by
  induction l generalizing s with
  | nil => exact ⟨rfl, rfl⟩
  | cons n l ih => exact (s.storeMember_sameGangs n).trans (ih _)

end

end Sys2Proof.Machine
end

section
/-! PROOF. A gang is stored and restored (R266, R270, R271, R322): its record, GANG_PREEMPTION and GANG_RESTORE. -/

namespace Sys2Proof.Machine

open Sys2Proof

section
variable {s t : State} {id n gang loc c : Nat} {v w : VT} {x y a : Gang}

/-! ### The record of a gang -/

/-- With a place for it the record of a gang is written there. -/
theorem State.saveGang_room (hx : t.gangs.get? gang = some x)
    (h : t.ctxRoom x.domain x.recordSize (t.ctxInUse none (some gang)) = some loc) :
    t.saveGang gang = { t.putRecord loc x.record (x.recordMarks loc) with
      gangs := t.gangs.set gang { x with ctx := some (loc, x.recordSize) } } := by
  unfold State.saveGang
  obtain ⟨room, hroom⟩ : ∃ room, room = State.ctxRoom := ⟨_, rfl⟩
  rw [← hroom] at h ⊢
  rw [hx]
  simp only [h]
  rfl

theorem State.holdCsp_eq (s : State) (x : Gang) : ∃ clusters, s.holdCsp x = { s with clusters } := by
  unfold State.holdCsp
  split
  · exact ⟨_, rfl⟩
  · exact ⟨s.clusters, rfl⟩

theorem exec_gangPreemption_none (hx : s.gangs.get? gang = some x) (hp : s.pressing x.cluster = none) :
    exec (.gangPreemption gang) s = .next s := by
  simp only [exec, execGangPreemption, hx, hp]

/-- The gang chosen is stored once its members can leave and its windows are free (R270). -/
theorem exec_gangPreemption (hx : s.gangs.get? gang = some x) (hp : s.pressing x.cluster = some a)
    (hn : s.nextPreempted a = some gang) (hb : s.cspBusy gang = false) (hd : s.schedPaused a.domain = false)
    (hready : ∀ e ∈ s.liveMembers x, e.2.resident = false ∨ s.mayLeave e.1 e.2 = true)
    (ht : ((x.members.foldl State.storeMember s).saveGang gang).holdCsp x = t)
    (hall : ∀ e ∈ s.liveMembers x, e.2.resident = true → ∃ w, t.vt? e.1 = some w ∧ w.ctx ≠ none)
    (hy : t.gangs.get? gang = some y) (hc : y.ctx.isSome = true) : exec (.gangPreemption gang) s = .next
      { t with gangs := t.gangs.set gang { y with st := .stored, savedAt := t.nextOrder + 1 }, nextOrder := t.nextOrder + 1 } := by
  have ready : ((s.liveMembers x).all fun e => !e.2.resident || s.mayLeave e.1 e.2) = true := by
    simpa using hready
  have saved : ((s.liveMembers x).all fun e => !e.2.resident || (t.vt? e.1).any fun v => v.ctx.isSome) = true := by
    refine List.all_eq_true.mpr fun e he => ?_
    cases hr : e.2.resident with
    | false => rfl
    | true =>
      obtain ⟨w, hw, hctx⟩ := hall e he hr
      rw [hw]
      exact Option.isSome_iff_ne_none.mpr hctx
  obtain ⟨save, hsave⟩ : ∃ save, save = State.saveGang := ⟨_, rfl⟩
  rw [← hsave] at ht
  simp only [exec, execGangPreemption]
  rw [← hsave, hx]
  dsimp only
  rw [hp]
  dsimp only
  rw [ready, hb, hd, hn, if_neg (by simp), ht, hy]
  dsimp only
  rw [saved, hc]
  rfl

theorem State.putRecord_vts (s : State) (loc : Nat) (bs : List Byte) (marks : List Nat) : (s.putRecord loc bs marks).vts = s.vts := rfl
theorem State.putRecord_nextOrder (s : State) (loc : Nat) (bs : List Byte) (marks : List Nat) :
    (s.putRecord loc bs marks).nextOrder = s.nextOrder := rfl

/-- Once its members are stored a gang's record stands in its place, and the VTs are as the members' storing left them. -/
theorem State.gangSaved (hx : t.gangs.get? gang = some x)
    (h : t.ctxRoom x.domain x.recordSize (t.ctxInUse none (some gang)) = some loc) :
    ∃ u, (t.saveGang gang).holdCsp x = u ∧ u.vts = t.vts ∧ u.nextOrder = t.nextOrder
      ∧ u.gangs.get? gang = some { x with ctx := some (loc, x.recordSize) }
      ∧ (Memory.wf t.mem = true → Memory.readBytes u.mem loc x.record.length = x.record) := by
  obtain ⟨clusters, held⟩ := (t.saveGang gang).holdCsp_eq x
  have vts := t.putRecord_vts loc x.record (x.recordMarks loc)
  have order := t.putRecord_nextOrder loc x.record (x.recordMarks loc)
  have stands := State.putRecord_stands (s := t) (loc := loc) (bs := x.record) (x.recordMarks loc)
  rw [State.saveGang_room hx h] at held
  rw [State.saveGang_room hx h, held]
  generalize t.putRecord loc x.record (x.recordMarks loc) = r at vts order stands ⊢
  exact ⟨_, rfl, vts, order, SMap.get?_set_self _ _ _, stands⟩

/-! ### GANG_RESTORE -/

/-- A restored gang stands right behind the last of those that go before it. -/
theorem insertBehind_split (before : Nat → Bool) (key : Nat) (l : List Nat) : ∃ p q, l = p ++ q
    ∧ insertBehind before key l = p ++ key :: q ∧ (∀ k ∈ q, before k = false) ∧ ∀ k, p.getLast? = some k → before k = true := by
  induction l with
  | nil => exact ⟨[], [], rfl, rfl, fun _ h => (List.not_mem_nil h).elim, fun _ h => nomatch h⟩
  | cons k ks ih =>
    rw [insertBehind]
    split
    · next some =>
      obtain ⟨p, q, rfl, inserted, behind, last⟩ := ih
      refine ⟨k :: p, q, rfl, by rw [inserted]; rfl, behind, fun j hj => ?_⟩
      cases p with
      | nil =>
        cases hj
        simpa [List.any_eq_false.mpr fun i hi => ne_true_of_eq_false (behind i hi)] using some
      | cons i p => exact last j (by rwa [List.getLast?_cons_cons] at hj)
    · next none =>
      exact ⟨[], k :: ks, rfl, rfl, fun i hi => by simpa using List.any_eq_false.mp (eq_false_of_ne_true none) i hi,
        fun _ h => nomatch h⟩

/-- A gang goes before a restored one if it is AGED or was saved earlier (R271). -/
def State.goesBefore (s : State) (x : Gang) (k : Nat) : Bool :=
  (s.gangs.get? k).any fun y => y.st == .aged || (y.placedAt != 0 && y.savedAt < x.savedAt)

theorem exec_gangRestore (hx : s.gangs.get? gang = some x) (hst : x.st = .stored) (hd : s.schedPaused x.domain = false)
    (hr : s.ctxReady x.ctx = true) (ho : s.ctxOwn x.ctx 4 x.domain = true) (hw : s.ctxWhole x.ctx 5 = true)
    (hc : s.pickCluster x.clusters = some c) : exec (.gangRestore gang) s = .next
      (({ s with gangs := s.gangs.set gang { s.restoredGang x with st := .waiting, overtakes := 0, cluster := c } } : State).setCluster c
        { s.cluster c with queue := insertBehind (s.goesBefore x) gang (s.cluster c).queue }) := by
  simp only [exec, execGangRestore, hx, hst, hd, hr, ho, hw, hc]
  rfl

theorem exec_gangRestore_foreign (hx : s.gangs.get? gang = some x) (hst : x.st = .stored) (hd : s.schedPaused x.domain = false)
    (hr : s.ctxReady x.ctx = true) (ho : s.ctxOwn x.ctx 4 x.domain = false) :
    exec (.gangRestore gang) s = .next (s.freezeMembers x) := by
  simp only [exec, execGangRestore, hx, hst, hd, hr, ho]
  rfl

/-- With no mark since its record was written a gang comes back as it was (R346, log 72). -/
theorem State.restoredGang_same (h : s.newMarks (x.ctx.getD (0, 0)) (x.recordMarks (x.ctx.getD (0, 0)).1) = []) :
    s.restoredGang x = x := by
  unfold State.restoredGang
  split
  · rfl
  · next ctx hctx =>
    rw [hctx] at h
    exact if_pos h

/-! ### Members frozen -/

/-- The VT is FROZEN (R322). -/
def State.IsFrozen (s : State) (id : Nat) : Prop := ∃ w, s.vt? id = some w ∧ w.st = .frozen

/-- The step of `State.freezeMembers`. -/
def State.freezeMember (s : State) (e : Nat × VT) : State :=
  if e.2.st = .frozen then s else s.freezeVt e.1 e.2 (restoreViolation e.2)

theorem State.freezeMembers_eq (s : State) (x : Gang) : s.freezeMembers x = (s.liveMembers x).foldl State.freezeMember s := rfl

theorem State.freezeVt_vt_ne {f : FaultInfo} (hw : s.vt? n = some w) (h : n ≠ id) :
    ∃ park, (s.freezeVt id v f).vt? n = some { w with park } := by
  unfold State.freezeVt State.postFreeze
  refine State.ParkOnly.vt? (State.post_parkOnly _ _ _ _ _) ?_
  rw [State.saveContext_vt_ne _ h]
  refine (State.vt?_setVt_ne (s.holdFreed v) _ h).trans ?_
  exact (s.freed_vt? id v n).trans hw

theorem State.freezeMember_frozen (s : State) (e : Nat × VT) (h : e.2.st = .frozen → s.IsFrozen e.1) : (s.freezeMember e).IsFrozen e.1 := by
  unfold State.freezeMember
  split
  · next already => exact h already
  · obtain ⟨w, hw, frozen, -⟩ := s.freezeVt_vt e.1 e.2 (restoreViolation e.2)
    exact ⟨w, hw, frozen⟩

theorem State.freezeMember_keeps (e : Nat × VT) (h : s.IsFrozen n) : (s.freezeMember e).IsFrozen n := by
  by_cases hn : n = e.1
  · subst hn
    exact s.freezeMember_frozen e fun _ => h
  · unfold State.freezeMember
    split
    · exact h
    · obtain ⟨w, hw, frozen⟩ := h
      obtain ⟨park, kept⟩ := State.freezeVt_vt_ne (v := e.2) (f := restoreViolation e.2) hw hn
      exact ⟨_, kept, frozen⟩

theorem State.freezeFold_keeps (l : List (Nat × VT)) (h : s.IsFrozen n) : (l.foldl State.freezeMember s).IsFrozen n := by
  induction l generalizing s with
  | nil => exact h
  | cons e l ih => exact ih (State.freezeMember_keeps e h)

theorem State.freezeFold_frozen (l : List (Nat × VT)) {e : Nat × VT} (he : e ∈ l) (h : e.2.st = .frozen → s.IsFrozen e.1) :
    (l.foldl State.freezeMember s).IsFrozen e.1 := by
  induction l generalizing s with
  | nil => cases he
  | cons d l ih =>
    obtain rfl | he := List.mem_cons.mp he
    · exact State.freezeFold_keeps l (s.freezeMember_frozen _ h)
    · exact ih he fun already => State.freezeMember_keeps d (h already)

theorem State.vt?_of_mem_liveMembers {e : Nat × VT} (he : e ∈ s.liveMembers x) : s.vt? e.1 = some e.2 := by
  obtain ⟨id, -, found⟩ := List.mem_filterMap.mp he
  split at found
  · next v hv =>
    split at found
    · cases found
    · cases found; exact hv
  · cases found

/-- Every member that has not ENDED is FROZEN. -/
theorem State.freezeMembers_frozen {e : Nat × VT} (he : e ∈ s.liveMembers x) : (s.freezeMembers x).IsFrozen e.1 := by
  rw [State.freezeMembers_eq]
  exact State.freezeFold_frozen _ he fun already => ⟨e.2, State.vt?_of_mem_liveMembers he, already⟩

end

theorem gangsStoredAndRestored : Claim.GangsStoredAndRestored := by
  intro s gang id c loc x a v hx
  refine ⟨fun hp hn hb hd hready hctx hroom => ?_, exec_gangPreemption_none hx, fun hst hd hr => ⟨fun ho hw hc => ?_, fun ho => ?_⟩⟩
  · have same := s.storeMembers_sameGangs x.members
    obtain ⟨t, ht, vts, order, saved, record⟩ := State.gangSaved (same.gangs ▸ hx) hroom
    have stored (n : Nat) : t.vt? n = (x.members.foldl State.storeMember s).vt? n := congrArg (SMap.get? · n) vts
    refine ⟨_, exec_gangPreemption hx hp hn hb hd hready ht (fun e he h => (stored e.1).symm ▸ hctx e he h) saved rfl, ?_, record,
      fun hm hv hmop => ?_⟩
    · rw [order, same.nextOrder]
      exact SMap.get?_set_self _ _ _
    · obtain ⟨w, hw, out⟩ := State.storeMembers_vt x.members hm hv hmop
      exact ⟨w, (stored id).trans hw, out.resident, out.reserved, out.x, out.pc, out.vps, out.st⟩
  · obtain ⟨p, q, queue, inserted, behind, last⟩ := insertBehind_split (s.goesBefore x) gang (s.cluster c).queue
    have before (k : Nat) : s.goesBefore x k = match s.gangs.get? k with
        | some y => y.st == .aged || (y.placedAt != 0 && y.savedAt < x.savedAt)
        | none => false := by
      unfold State.goesBefore
      cases s.gangs.get? k <;> rfl
    refine ⟨_, p, q, exec_gangRestore hx hst hd hr ho hw hc, queue, ?_, fun k hk => (before k).symm.trans (behind k hk),
      fun k hk => (before k).symm.trans (last k hk), SMap.get?_set_self _ _ _, State.restoredGang_same, rfl, rfl⟩
    rw [State.cluster_setCluster_self]
    exact inserted
  · exact ⟨_, exec_gangRestore_foreign hx hst hd hr ho, fun e he => State.freezeMembers_frozen he⟩

/-- Settles O48: the claims on placement, swap-in, swap-out and move, a write of LPR, and gangs stored and restored. -/
theorem placementAndResidency : Obligations.PlacementAndResidency :=
  ⟨gangPlacement, swapIn, swapOutAndMove, partitionWrite, gangsStoredAndRestored⟩

end Sys2Proof.Machine
end

section
/-! PROOF. A register file reads back what is written; x0 and p7 are hard-wired (R55). -/

namespace Sys2Proof.Machine

open Sys2Proof

variable {vt : VT} {vp : VP}

/-- An entry of a register file keeps its value when another one is written. -/
theorem registerFile_set_ne {α : Type} {n : Nat} (file : Vector α n) {i j : Fin n} (h : j ≠ i) (v : α) :
    (file.set i v)[j] = file[j] := Vector.getElem_set_ne _ _ (Fin.val_ne_of_ne h.symm)

/-! ### x registers -/

@[simp] theorem VT.readX_zero (vt : VT) : vt.readX 0 = 0 := rfl

@[simp] theorem VT.writeX_zero (vt : VT) (v : Word64) : vt.writeX 0 v = vt := rfl

@[simp] theorem VT.readX_writeX_self {r : Reg} (h : r ≠ 0) (v : Word64) : (vt.writeX r v).readX r = v := by
  simp [VT.readX, VT.writeX, h]

@[simp] theorem VT.readX_writeX_ne {r q : Reg} (h : q ≠ r) (v : Word64) : (vt.writeX r v).readX q = vt.readX q := by
  by_cases hr : r = 0
  · rw [hr, VT.writeX_zero]
  · simp only [VT.readX, VT.writeX, if_neg hr, registerFile_set_ne _ h]

/-! ### Predicates of the control thread -/

@[simp] theorem VT.readP_seven (vt : VT) : vt.readP 7 = true := rfl

@[simp] theorem VT.writeP_seven (vt : VT) (c : Bool) : vt.writeP 7 c = vt := rfl

@[simp] theorem VT.readP_writeP_self {a : Fin 8} (h : a ≠ 7) (c : Bool) : (vt.writeP a c).readP a = c := by
  simp [VT.readP, VT.writeP, h]

@[simp] theorem VT.readP_writeP_ne {a b : Fin 8} (h : b ≠ a) (c : Bool) : (vt.writeP a c).readP b = vt.readP b := by
  by_cases ha : a = 7
  · rw [ha, VT.writeP_seven]
  · simp only [VT.readP, VT.writeP, if_neg ha, registerFile_set_ne _ h]

/-! ### Predicates of a virtual processor -/

@[simp] theorem VP.readP_seven (vp : VP) : vp.readP 7 = BitVec.allOnes 256 := rfl

@[simp] theorem VP.writeP_seven (vp : VP) (u : Pred) : vp.writeP 7 u = vp := rfl

@[simp] theorem VP.readP_writeP_self {a : Fin 8} (h : a ≠ 7) (u : Pred) : (vp.writeP a u).readP a = u := by
  simp [VP.readP, VP.writeP, h]

@[simp] theorem VP.readP_writeP_ne {a b : Fin 8} (h : b ≠ a) (u : Pred) : (vp.writeP a u).readP b = vp.readP b := by
  by_cases ha : a = 7
  · rw [ha, VP.writeP_seven]
  · simp only [VP.readP, VP.writeP, if_neg ha, registerFile_set_ne _ h]

/-- Settles O1: in each register file a hard-wired entry is never written, and any other write changes its own entry only. -/
theorem hardWiredRegisters : Obligations.HardWiredRegisters := fun vt vp _ _ _ _ v c u =>
  ⟨vt.readX_zero, vt.writeX_zero v, vt.readP_seven, vt.writeP_seven c, vp.readP_seven, vp.writeP_seven u,
    fun h => VT.readX_writeX_self h v, fun h => VT.readX_writeX_ne h v,
    fun h => VT.readP_writeP_self h c, fun h => VT.readP_writeP_ne h c,
    fun h => VP.readP_writeP_self h u, fun h => VP.readP_writeP_ne h u⟩

end Sys2Proof.Machine
end

section
/-! PROOF. The CSR instructions (R57, R172), what each CSR reads (R58 to R64) and what a write of it leaves (R60, R184). -/

namespace Sys2Proof.Machine

open Sys2Proof

variable {s : State} {id : Nat} {vt : VT} {g : Guard} {xs : List Reg}

/-! ### The instructions -/

/-- A CSR instruction that is not held writes the CSR where it has a value for it, and leaves the old one in x[d]. -/
theorem State.csrAccess_runs (h : CtRuns s id vt g xs []) {n : Nat} (free : vt.csrHeld n = false) (d : Reg)
    (f : Word64 → VT → Option Word64) :
    s.csrAccess g d xs n f
      = s.setVt id (((f (s.readCsr id vt n) vt).elim vt (vt.writeCsr n)).writeX d (s.readCsr id vt n)).retire := by
  rw [State.csrAccess, State.ctOnly_runs h, if_neg (Bool.eq_false_iff.mp free)]
  dsimp only
  cases f (s.readCsr id vt n) vt <;> rfl

theorem State.csrAccess_held (h : CtRuns s id vt g xs []) {n : Nat} (held : vt.csrHeld n = true) (d : Reg)
    (f : Word64 → VT → Option Word64) : s.csrAccess g d xs n f = s := by
  rw [State.csrAccess, State.ctOnly_runs h, if_pos held]

/-- With A = 0 there is no write (R172). -/
theorem elim_ite_none {a : Reg} (v : Word64) (n : Nat) :
    (if a = 0 then none else some v).elim vt (vt.writeCsr n) = if a = 0 then vt else vt.writeCsr n v := by
  split <;> rfl

theorem csrAccess : Claim.CsrAccess := by
  intro s id vt g d a csr free
  refine ⟨fun h => ?_, fun h => ⟨?_, ?_, ?_⟩⟩
  · exact congrArg _ (State.csrAccess_runs h free d fun _ _ => none)
  · exact congrArg _ (State.csrAccess_runs h free d fun _ vt => some (vt.readX a))
  · rw [← elim_ite_none]
    exact congrArg _ (State.csrAccess_runs h free d fun old vt => if a = 0 then none else some (old ||| vt.readX a))
  · rw [← elim_ite_none]
    exact congrArg _ (State.csrAccess_runs h free d fun old vt => if a = 0 then none else some (old &&& ~~~(vt.readX a)))

theorem VT.csrHeld_iff {n : Nat} : vt.csrHeld n = true ↔ n = 0x004 ∧ (vt.reconverged = false ∨ vt.matrixBusy = true) := by
  simp only [VT.csrHeld, Bool.and_eq_true, beq_iff_eq, Bool.not_eq_true', Bool.and_eq_false_iff, Bool.not_eq_false']

theorem fflagsAccessIsHeld : Claim.FflagsAccessIsHeld := by
  intro s id vt g d a csr
  refine ⟨VT.csrHeld_iff, fun held => ⟨fun h => congrArg _ (State.csrAccess_held h held d _), fun h e he => ?_⟩⟩
  simp only [List.mem_cons, List.not_mem_nil, or_false] at he
  obtain rfl | rfl | rfl := he
  all_goals exact congrArg _ (State.csrAccess_held h held d _)

/-! ### Fields of words -/

/-- The lowest `n` bits of a word, as a mask gives them. -/
theorem setWidth_setWidth_eq_and {n : Nat} (h : n ≤ 64) (v : Word64) :
    (v.setWidth n).setWidth 64 = v &&& BitVec.ofNat 64 (2 ^ n - 1) := by
  have mask : 2 ^ n - 1 < 2 ^ 64 := by
    have := Nat.pow_le_pow_right (n := 2) (by decide) h
    omega
  apply BitVec.eq_of_toNat_eq
  rw [BitVec.toNat_setWidth_of_le h, BitVec.toNat_setWidth, BitVec.toNat_and, BitVec.toNat_ofNat, Nat.mod_eq_of_lt mask,
    Nat.and_two_pow_sub_one_eq_mod]

theorem ofNat_bits64_low (v : Word64) : BitVec.ofNat 64 (bits64 v 0 2) = v &&& 3 := by
  have low : bits64 v 0 2 = (v.setWidth 2).toNat := by simp [bits64]
  rw [low, BitVec.ofNat_toNat]
  exact setWidth_setWidth_eq_and (n := 2) (by decide) v

theorem bits64_low_eq_three_iff (v : Word64) : bits64 v 0 2 = 3 ↔ v &&& 3 = 3 := by
  have small : bits64 v 0 2 < 4 := Nat.mod_lt _ (by decide)
  rw [← ofNat_bits64_low, ← BitVec.toNat_inj, BitVec.toNat_ofNat, Nat.mod_eq_of_lt (by omega)]
  rfl

theorem segTag_eq_three_iff (v : Word64) : segTag v = 3 ↔ v >>> 62 = 3 := by
  rw [← BitVec.toNat_inj, BitVec.toNat_ushiftRight, Nat.shiftRight_eq_div_pow, segTag, bits64]
  have := v.isLt
  show _ ↔ _ = 3
  omega

/-! ### Reading -/

theorem State.readCsr_seg (s : State) (id : Nat) (vt : VT) (k : Fin 4) : s.readCsr id vt (0x008 + k.val) = vt.seg[k] := by
  fin_cases k <;> rfl

theorem State.readCsr_faultrec (s : State) (id : Nat) (vt : VT) (k : Fin 4) :
    s.readCsr id vt (0x0C8 + k.val) = vt.faultrec[k] := by
  fin_cases k <;> rfl

/-- MCFG and MSTAT are those of the claim held (R61). -/
theorem State.readCsr_claim (s : State) (id : Nat) {c : Claim} (h : vt.claim = some c) :
    s.readCsr id vt 0x010 = c.mcfg ∧ s.readCsr id vt 0x011 = c.mstat := by
  simp [State.readCsr, VT.mcfg, VT.mstat, h]

theorem State.readCsr_no_claim (s : State) (id : Nat) (h : vt.claim = none) :
    s.readCsr id vt 0x010 = 0 ∧ s.readCsr id vt 0x011 = 0 := by
  simp [State.readCsr, VT.mcfg, VT.mstat, h]

/-- VTLOC (R62): a core, a slot and a span that fit their fields fill the word from bit 0 up. -/
theorem State.readCsr_vtloc (s : State) (id : Nat) (hcore : vt.core < 2 ^ 11) (hslot : vt.slot < 4) (hspan : vt.span < 8) :
    bits64 (s.readCsr id vt 0x041) 0 11 = vt.core ∧ bits64 (s.readCsr id vt 0x041) 11 2 = vt.slot
      ∧ bits64 (s.readCsr id vt 0x041) 13 3 = vt.span ∧ bits64 (s.readCsr id vt 0x041) 16 48 = 0 := by
  have loc : (s.readCsr id vt 0x041).toNat = vt.span * 2 ^ 13 + vt.slot * 2 ^ 11 + vt.core :=
    Nat.mod_eq_of_lt (by omega)
  simp only [bits64, loc]
  omega

theorem State.readCsr_unassigned (s : State) (id : Nat) (vt : VT) {n : Nat}
    (h : n ∉ [0x000, 0x001, 0x002, 0x003, 0x004, 0x008, 0x009, 0x00A, 0x00B, 0x010, 0x011, 0x040, 0x041, 0x042, 0x043, 0x044,
      0x080, 0x081, 0x082, 0x0C0, 0x0C1, 0x0C2, 0x0C8, 0x0C9, 0x0CA, 0x0CB]) : s.readCsr id vt n = 0 := by
  unfold State.readCsr
  split
  case h_27 => rfl
  all_goals exact absurd h (by decide)

/-! ### Writing -/

theorem VT.writeCsr_seg (vt : VT) (k : Fin 4) (v : Word64) : vt.writeCsr (0x008 + k.val) v = vt.writeSeg k v := by
  fin_cases k <;> rfl

theorem VT.writeCsr_readOnly (vt : VT) {n : Nat} (v : Word64)
    (h : n ∉ [0x002, 0x003, 0x004, 0x008, 0x009, 0x00A, 0x00B]) : vt.writeCsr n v = vt := by
  unfold VT.writeCsr
  split
  case h_8 => rfl
  all_goals exact absurd h (by decide)

theorem State.readCsr_writeCsr_em (s : State) (id : Nat) (vt : VT) (v : Word64) :
    s.readCsr id (vt.writeCsr 0x003 v) 0x003 = v &&& 0xFFFFFFFF := setWidth_setWidth_eq_and (n := 32) (by decide) v

theorem State.readCsr_writeCsr_fflags (s : State) (id : Nat) (vt : VT) (v : Word64) :
    s.readCsr id (vt.writeCsr 0x004 v) 0x004 = v &&& 0x1F := setWidth_setWidth_eq_and (n := 5) (by decide) v

theorem State.readCsr_writeCsr_vmt (s : State) (id : Nat) (vt : VT) (v : Word64) :
    s.readCsr id (vt.writeCsr 0x002 v) 0x002 = if v &&& 3 = 3 then s.readCsr id vt 0x002 else v &&& 3 := by
  show s.readCsr id (vt.writeVmt v) 0x002 = _
  simp only [VT.writeVmt, bits64_low_eq_three_iff]
  split
  · rfl
  · exact ofNat_bits64_low v

theorem State.readCsr_writeCsr_seg (s : State) (id : Nat) (vt : VT) (k : Fin 4) (v : Word64) :
    s.readCsr id (vt.writeCsr (0x008 + k.val) v) (0x008 + k.val)
      = if v >>> 62 = 3 then s.readCsr id vt (0x008 + k.val) else v &&& 0xC000FFFFFFFFFFFF := by
  simp only [State.readCsr_seg, VT.writeCsr_seg, VT.writeSeg, segTag_eq_three_iff]
  split
  · rfl
  · exact Vector.getElem_set_self _

theorem csrValues : Claim.CsrValues := fun s id _ vt v k _ =>
  ⟨rfl, rfl, rfl, rfl, rfl, s.readCsr_seg id vt k, s.readCsr_claim id, s.readCsr_no_claim id, rfl, s.readCsr_vtloc id,
    rfl, rfl, rfl, rfl, rfl, rfl, rfl, rfl, rfl, s.readCsr_faultrec id vt k, s.readCsr_unassigned id vt,
    s.readCsr_writeCsr_em id vt v, s.readCsr_writeCsr_fflags id vt v, s.readCsr_writeCsr_vmt id vt v,
    s.readCsr_writeCsr_seg id vt k v, vt.writeCsr_readOnly v⟩

/-- Settles O13: the CSR instructions, the hold of FFLAGS, and the values of the CSRs, each by its own claim. -/
theorem controlAndStatusRegisters : Obligations.ControlAndStatusRegisters := ⟨csrAccess, fflagsAccessIsHeld, csrValues⟩

end Sys2Proof.Machine
end

section
/-! SUPPORT. The canonical form of memories, part by part (R73, R74, R76; log 4), and that what changes storage keeps it: tables,
L2, accesses, the stores that a core holds. -/

set_option Elab.async false

namespace Sys2Proof.Machine

open Sys2Proof

/-- The TCM window of a VT is in canonical form. -/
def VT.Canonical (v : VT) : Prop := Memory.wf v.tcm = true

/-- The CSP window of a gang is in canonical form. -/
def Gang.Canonical (g : Gang) : Prop := Memory.wf g.csp = true

/-- Storage and every window are in canonical form. -/
structure State.Canonical (s : State) : Prop where
  mem : Memory.wf s.mem = true
  vts : s.vts.all (fun e => Memory.wf e.2.tcm) = true
  gangs : s.gangs.all (fun e => Memory.wf e.2.csp) = true

theorem State.canonical_iff (s : State) : s.Canonical ↔ s.wf = true := by
  simp only [State.wf, Bool.and_eq_true]
  exact ⟨fun h => ⟨⟨h.mem, h.vts⟩, h.gangs⟩, fun h => ⟨h.1.1, h.1.2, h.2⟩⟩

/-- Whichever way the slices answer, the state is one of these. -/
def Answers (P : State → Prop) : Except State State → Prop
  | .ok t | .error t => P t

theorem Access.Leaves.ok {α : Type} {P : State → Prop} {a : Access α} {x : α} {t : State} (h : a.Leaves P) (e : a = .ok x t) :
    P t := by
  subst e; exact h

theorem Access.Leaves.fault {α : Type} {P : State → Prop} {a : Access α} {c : Cause} {t : State} (h : a.Leaves P)
    (e : a = .fault c t) : P t := by
  subst e; exact h

theorem Access.Leaves.wait {α : Type} {P : State → Prop} {a : Access α} {t : State} (h : a.Leaves P) (e : a = .wait t) : P t := by
  subst e; exact h

theorem Answers.ok {P : State → Prop} {a : Except State State} {t : State} (h : Answers P a) (e : a = .ok t) : P t := by
  subst e; exact h

theorem Answers.error {P : State → Prop} {a : Except State State} {t : State} (h : Answers P a) (e : a = .error t) : P t := by
  subst e; exact h

namespace State.Canonical

variable {s t : State} {id n : Nat} {v : VT} {g : Gang}

/-! ### What every proof uses -/

theorem vt? (h : s.Canonical) (hv : s.vt? id = some v) : v.Canonical :=
  List.all_eq_true.mp h.vts (id, v) (SMap.mem_of_get? hv)

theorem gang? (h : s.Canonical) (hg : s.gangs.get? n = some g) : g.Canonical :=
  List.all_eq_true.mp h.gangs (n, g) (SMap.mem_of_get? hg)

/-- Storage and windows are as they were. -/
theorem frame (h : s.Canonical) (hm : t.mem = s.mem := by rfl) (hv : t.vts = s.vts := by rfl)
    (hg : t.gangs = s.gangs := by rfl) : t.Canonical :=
  ⟨hm ▸ h.mem, hv ▸ h.vts, hg ▸ h.gangs⟩

/-- Storage changes, windows are as they were. -/
theorem storage (h : s.Canonical) (hm : Memory.wf t.mem = true) (hv : t.vts = s.vts := by rfl)
    (hg : t.gangs = s.gangs := by rfl) : t.Canonical :=
  ⟨hm, hv ▸ h.vts, hg ▸ h.gangs⟩

theorem ite {p : Prop} [Decidable p] (ht : p → s.Canonical) (hu : ¬ p → t.Canonical) : (if p then s else t).Canonical := by
  split
  · exact ht ‹_›
  · exact hu ‹_›

theorem foldl {α : Type} {f : State → α → State} {l : List α} (h : s.Canonical)
    (hf : ∀ (t : State) a, t.Canonical → (f t a).Canonical) : (l.foldl f s).Canonical :=
  List.foldlRecOn (motive := State.Canonical) l f h fun t ht a _ => hf t a ht

/-- A run that keeps an account beside the state. -/
theorem foldl_fst {α β : Type} {f : State × β → α → State × β} {l : List α} {r : State × β} (h : r.1.Canonical)
    (hf : ∀ (r : State × β) a, r.1.Canonical → (f r a).1.Canonical) : (l.foldl f r).1.Canonical :=
  List.foldlRecOn (motive := fun r : State × β => r.1.Canonical) l f h fun t ht a _ => hf t a ht

/-- A VT becomes one whose window is in canonical form; storage and the other windows are as they were. -/
theorem setVt (h : s.Canonical) (hv : v.Canonical) : (s.setVt id v).Canonical :=
  ⟨h.mem, SMap.all_set h.vts hv, h.gangs⟩

theorem setGang (h : s.Canonical) (hg : g.Canonical) : ({ s with gangs := s.gangs.set n g } : State).Canonical :=
  ⟨h.mem, h.vts, SMap.all_set h.gangs hg⟩

theorem mapVts {f : Nat → VT → VT} (h : s.Canonical) (hf : ∀ k (v : VT), v.Canonical → (f k v).Canonical)
    (hm : t.mem = s.mem := by rfl) (hv : t.vts = s.vts.mapVals f := by rfl) (hg : t.gangs = s.gangs := by rfl) : t.Canonical :=
  ⟨hm ▸ h.mem, hv ▸ SMap.all_mapVals hf h.vts, hg ▸ h.gangs⟩

theorem mapGangs {f : Nat → Gang → Gang} (h : s.Canonical) (hf : ∀ k (g : Gang), g.Canonical → (f k g).Canonical)
    (hm : t.mem = s.mem := by rfl) (hv : t.vts = s.vts := by rfl) (hg : t.gangs = s.gangs.mapVals f := by rfl) : t.Canonical :=
  ⟨hm ▸ h.mem, hv ▸ h.vts, hg ▸ SMap.all_mapVals hf h.gangs⟩

theorem modVt {f : VT → VT} (h : s.Canonical) (hf : ∀ v : VT, v.Canonical → (f v).Canonical) : (s.modVt id f).Canonical := by
  unfold State.modVt
  split
  · next v hv => exact h.setVt (hf v (h.vt? hv))
  · exact h

theorem writeBytes {a : Nat} {bs : List Byte} (h : s.Canonical) (hm : t.mem = Memory.writeBytes s.mem a bs := by rfl)
    (hv : t.vts = s.vts := by rfl) (hg : t.gangs = s.gangs := by rfl) : t.Canonical :=
  h.storage (hm ▸ Memory.wf_writeBytes a bs h.mem) hv hg

theorem filterMem {p : Host.Cell → Bool} (h : s.Canonical) (hm : t.mem = s.mem.filter p := by rfl)
    (hv : t.vts = s.vts := by rfl) (hg : t.gangs = s.gangs := by rfl) : t.Canonical :=
  h.storage (hm ▸ Memory.wf_filter p h.mem) hv hg

/-! ### Tables and TLBs (R81, R85, R86, R341) -/

theorem tlbFill {c dom va l w} (h : s.Canonical) : (s.tlbFill c dom va l w).Canonical :=
  have filled (t : State) (g : Cluster) (ht : t.Canonical) : (t.setCluster (clusterOfCore c) g).Canonical := ht.frame
  .ite (fun _ => .ite (fun _ => h) fun _ => h.frame) fun _ => filled _ _ (.ite (fun _ => h) fun _ => h.frame)

theorem rewriteTable {loc} (h : s.Canonical) : (s.rewriteTable loc).Canonical := by
  refine h.storage (List.foldlRecOn (motive := fun m => Memory.wf m = true) _ _ (Memory.wf_writeBytes _ _ h.mem)
    fun m hm e _ => ?_)
  split
  · split
    · exact Memory.wf_writeBytes _ _ hm
    · exact hm
  · exact hm

theorem breakLine {loc} (h : s.Canonical) : (s.breakLine loc).Canonical := .ite (fun _ => h) fun _ => h.frame

theorem putTables {tables} (h : s.Canonical) : (s.putTables tables).Canonical := by
  refine h.storage (List.foldlRecOn (motive := fun m => Memory.wf m = true) _ _
    (List.foldlRecOn (motive := fun m => Memory.wf m = true) _ _ h.mem fun m hm e _ => ?_) fun m hm e _ => ?_)
  all_goals
    split
    · exact hm
    · split
      · exact Memory.wf_writeBytes _ _ hm
      · exact hm

theorem markLost {loc} (h : s.Canonical) : (s.markLost loc).Canonical := .frame h.putTables

theorem markLostPages {p} (h : s.Canonical) : (s.markLostPages p).Canonical := .frame h.putTables

theorem zeroBytes {loc} (h : s.Canonical) : (s.zeroBytes loc n).Canonical := h.filterMem

theorem cordonLoss {k loc} (h : s.Canonical) : (s.cordonLoss k loc n).Canonical := by
  unfold State.cordonLoss
  have cleared := h.foldl (l := linesOf loc n) (f := fun s l =>
    if s.unreachable (l * 64) && s.storageReachable (l * 64) then s.zeroBytes (l * 64) 64 else s)
    fun t a ht => .ite (fun _ => ht.zeroBytes) fun _ => ht
  cases k with
  | load | fetch => exact h
  | store | atomic => exact cleared.markLost

theorem checkTrans {k tr} (h : s.Canonical) : (s.checkTrans k tr).Leaves State.Canonical := by
  unfold State.checkTrans
  split
  · exact h
  · split
    · trivial
    · split
      · exact h
      · split <;> exact h

theorem reach {k loc} (h : s.Canonical) : (s.reach k loc n).Leaves State.Canonical := by
  unfold State.reach
  split
  · exact h.cordonLoss
  · exact h

/-! ### L2 (R84, R88, R94) -/

theorem notify {loc} (h : s.Canonical) : (s.notify loc n).Canonical :=
  ⟨h.mem, SMap.all_mapVals (fun _ v hv => by dsimp only; (repeat' split) <;> exact hv) h.vts, h.gangs⟩

theorem fromStorage {l} (h : s.Canonical) : (s.fromStorage l).Canonical := by
  unfold State.fromStorage
  split
  · exact h.writeBytes
  · exact h

theorem l2Revert {line} (h : s.Canonical) : (s.l2Revert line).Canonical := by
  unfold State.l2Revert
  split
  · split
    · exact .notify (.fromStorage h.frame)
    · exact h.frame
  · exact h

theorem l2Evict {l} (h : s.Canonical) : (s.l2Evict l).Canonical :=
  .ite (fun _ => .ite (fun _ => .markLost (.zeroBytes (.notify h.frame))) fun _ => .notify h.frame) fun _ => h.l2Revert

theorem l2Insert {l} (h : s.Canonical) (ht : s.l2Insert l = some t) : t.Canonical := by
  unfold State.l2Insert at ht
  split at ht
  · cases ht
  · split at ht
    · cases ht; exact h.frame
    · split at ht
      · cases ht
      · next w _ => cases ht; exact .frame (h.l2Evict (l := w))

theorem l2Touch {k line write} (h : s.Canonical) : (s.l2Touch k line write).Canonical := by
  unfold State.l2Touch
  refine .ite (fun _ => h) fun _ => ?_
  split
  · exact h.frame
  · refine .ite (fun _ => ?_) fun _ => h
    cases ht : s.l2Insert _ with
    | none => exact h
    | some t => exact h.l2Insert ht

theorem l2TouchAll {k lines write} (h : s.Canonical) : (s.l2TouchAll k lines write).Canonical := h.foldl fun _ _ h => h.l2Touch

theorem storageWrite {loc bs} (h : s.Canonical) : (s.storageWrite loc bs).Canonical :=
  h.storage (Memory.wf_writeMasked _ _ h.mem)

theorem homeWrite {k loc bs} (h : s.Canonical) : (s.homeWrite k loc bs).Canonical := by
  unfold State.homeWrite
  refine .notify (.ite (fun _ => h.storageWrite) fun _ => ?_)
  have touched := h.l2TouchAll (k := k) (lines := linesOf loc bs.length) (write := true)
  exact touched.storage (Memory.wf_writeMasked _ _ touched.mem)

/-! ### Requests to the slices (R90, R91) -/

theorem want {l} (h : s.Canonical) : (s.want l).Canonical := .ite (fun _ => h) fun _ => h.frame

theorem wantAs {l} (h : s.Canonical) : (s.wantAs l).Canonical := by
  unfold State.wantAs
  split
  · exact h.want
  all_goals exact h

theorem gate {w l} (h : s.Canonical) : Answers State.Canonical (s.gate w l) := by
  unfold State.gate
  dsimp only
  split
  · exact h.frame
  · exact .foldl h.frame fun _ _ h => h.frame

theorem gateHere {l} (h : s.Canonical) : Answers State.Canonical (s.gateHere l) := by
  unfold State.gateHere
  split
  · exact h.want
  · exact h.gate

theorem heldLine {l} (h : s.Canonical) : (s.heldLine l).Canonical := by
  unfold State.heldLine
  split
  · exact h.breakLine
  · exact h

theorem gated {c dom va k hint} (h : s.Canonical) : Answers State.Canonical (s.gated c dom va n k hint) := by
  unfold State.gated
  split
  · exact h
  · exact h.gate

/-! ### Walks and translations (R83, R85) -/

theorem walkTouch {dom va} (h : s.Canonical) : (s.walkTouch dom va).Canonical := h.l2TouchAll

theorem translate {dom va} (h : s.Canonical) : (s.translate dom va).Leaves State.Canonical := by
  unfold State.translate
  split
  · dsimp only
    split
    · exact h.wantAs.rewriteTable
    · exact h.wantAs.breakLine
    · exact h.wantAs.walkTouch
    · split <;> exact h.wantAs.walkTouch
  · exact h

theorem accessWalk {dom va k} (h : s.Canonical) : (s.accessWalk dom va k).Leaves State.Canonical :=
  h.translate.bind fun _ _ h => h.checkTrans

theorem translateAt {c dom va} (h : s.Canonical) : (s.translateAt c dom va).Leaves State.Canonical := by
  unfold State.translateAt
  split
  · split <;> exact h
  · exact h.translate

theorem access {c dom va k} (h : s.Canonical) : (s.access c dom va k).Leaves State.Canonical :=
  (h.translateAt.bind fun _ _ h => h.checkTrans).bind fun _ _ h => h.tlbFill

theorem afterWalk {α : Type} {c dom va} {f : State → Access α} (h : s.Canonical)
    (hf : ∀ t : State, t.Canonical → (f t).Leaves State.Canonical) : (s.afterWalk c dom va f).Leaves State.Canonical := by
  unfold State.afterWalk
  split
  · exact hf s h
  · split
    · next ht => exact h.gateHere.error ht
    · next ht => exact hf _ (h.gateHere.ok ht)

theorem gatedAccess {c dom va k} (h : s.Canonical) : (s.gatedAccess c dom va k).Leaves State.Canonical :=
  h.afterWalk fun _ h => h.access

/-! ### Loads, stores and atomics of a core (R84, R87) -/

theorem l1Update {c loc bs} (h : s.Canonical) : (s.l1Update c loc bs).Canonical := h.frame

theorem l1Fill {c line} (h : s.Canonical) : (s.l1Fill c line).Canonical := h.frame

theorem showStores {c} (h : s.Canonical) : (s.showStores c).Canonical := .ite (fun _ => h) fun _ => h.frame

theorem reachLine {c k loc} (h : s.Canonical) : (s.reachLine c k loc n).Leaves State.Canonical := by
  unfold State.reachLine
  split
  · split <;> exact h
  · exact h.reach.bind fun _ _ h => h

theorem readLine {c k loc} (h : s.Canonical) : (s.readLine c k loc n).Leaves State.Canonical := by
  refine h.reachLine.bind fun l _ h => ?_
  split
  · split <;> exact h
  · split
    · exact h
    · split
      · exact h
      · exact .ite (fun _ => h.l2Touch.l1Fill) fun _ => h.l2Touch

theorem loadRaw {c dom va hint} (h : s.Canonical) : (s.loadRaw c dom va n hint).Leaves State.Canonical := by
  refine h.access.bind fun _ _ h => ?_
  dsimp only
  split
  · exact h.readLine
  · exact h.reachLine.bind fun _ _ h => h.reachLine.bind fun _ _ h => h.readLine.bind fun _ _ h => h.readLine.bind fun _ _ h => h

theorem loadGlobal {c dom va hint} (h : s.Canonical) : (s.loadGlobal c dom va n hint).Leaves State.Canonical :=
  h.loadRaw.bind fun _ _ h => h.showStores

theorem reachHome {k tr hint} (h : s.Canonical) : (s.reachHome k tr n hint).Leaves State.Canonical := by
  refine h.reach.bind fun _ _ h => ?_
  split <;> exact h

theorem performPend {c p} (h : s.Canonical) : (s.performPend c p).Canonical := by
  unfold State.performPend
  split
  · next hr => exact (h.reach.ok hr).homeWrite.l1Update
  · next hr => exact h.reach.fault hr
  · next hr => exact h.reach.wait hr
  · exact h

theorem flushCore {c} (h : s.Canonical) : (s.flushCore c).Canonical :=
  .ite (fun _ => h) fun _ => .frame (h.foldl (f := fun s p => s.performPend c p) fun _ _ h => h.performPend)

theorem flushVt (h : s.Canonical) : (s.flushVt id).Canonical := by
  unfold State.flushVt
  split
  · exact h
  · exact h.flushCore

theorem flushAll (h : s.Canonical) : s.flushAll.Canonical := h.foldl fun _ _ h => h.flushCore

theorem performStore {c k} (h : s.Canonical) : (s.performStore c k).Canonical := by
  unfold State.performStore
  split
  · exact h
  · next p _ => exact .ite (fun _ => h) fun _ => .showStores (.frame (h.performPend (c := c) (p := p)))

theorem settleHeld {own c loc} (h : s.Canonical) : (s.settleHeld own c loc n).Canonical :=
  .ite (fun _ => h.flushCore) fun _ => h

theorem storeAt {own c tr bs hint} (h : s.Canonical) : (s.storeAt own c tr bs hint).Leaves State.Canonical :=
  h.settleHeld.reachHome.bind fun _ _ h => h.homeWrite.l1Update

theorem storeGlobal {c dom va bs hint} (h : s.Canonical) : (s.storeGlobal c dom va bs hint).Leaves State.Canonical :=
  h.access.bind fun _ _ h => h.storeAt

theorem storeCheck {c dom va hint} (h : s.Canonical) : (s.storeCheck c dom va n hint).Leaves State.Canonical :=
  h.access.bind fun _ _ h => h.reachHome

theorem atomicGlobal {c dom va f} (h : s.Canonical) : (s.atomicGlobal c dom va n f).Leaves State.Canonical := by
  refine h.access.bind fun _ _ h => h.settleHeld.reachHome.bind fun _ _ h => ?_
  dsimp only
  split
  · exact h
  · split
    · exact h.l2TouchAll.l1Update
    · exact h.homeWrite.l1Update

theorem storeScalar {va bs} (h : s.Canonical) : (s.storeScalar v va bs).Leaves State.Canonical := by
  refine h.access.bind fun _ _ h => ?_
  split
  · exact h.reachHome.bind fun _ _ h => .showStores h.frame
  · exact h.storeAt

/-! ### Instruction fetch (R29, R174) -/

theorem fetchLine {c dom va span} (h : s.Canonical) : (s.fetchLine c dom va span).Leaves State.Canonical := by
  refine h.gatedAccess.bind fun _ _ h => ?_
  split
  · split <;> exact h
  · dsimp only
    split
    · next ht => exact h.gateHere.error ht
    · next ht =>
      refine (h.gateHere.ok ht).reach.bind fun _ _ h => ?_
      split
      · exact h
      · split
        · exact h
        · exact .ite (fun _ => .frame h.l2TouchAll) fun _ => h.l2TouchAll

theorem fetchLaneLine {c q dom va span} (h : s.Canonical) : (s.fetchLaneLine c q dom va span).Leaves State.Canonical := by
  refine h.gatedAccess.bind fun _ _ h => ?_
  dsimp only
  split
  · split <;> exact h
  · exact h.fetchLine.bind fun _ _ h => .ite (fun _ => h.frame) fun _ => h

/-! ### Agents without an L1 -/

theorem atHome {dom va permit k} (h : s.Canonical) : (s.atHome dom va n permit k).Leaves State.Canonical :=
  h.accessWalk.bind fun _ _ h => h.want.reachHome.bind fun _ _ h => h

theorem readFor {dom va permit} (h : s.Canonical) : (s.readFor dom va n permit).Leaves State.Canonical := by
  refine h.atHome.bind fun _ _ h => ?_
  dsimp only
  split
  · exact h
  · exact h.l2TouchAll

theorem writeFor {dom va bs permit} (h : s.Canonical) : (s.writeFor dom va bs permit).Leaves State.Canonical :=
  h.atHome.bind fun _ _ h => h.homeWrite

theorem readHome {dom va} (h : s.Canonical) : (s.readHome dom va n).Leaves State.Canonical := h.readFor

theorem writeHome {dom va bs} (h : s.Canonical) : (s.writeHome dom va bs).Leaves State.Canonical := h.writeFor

end State.Canonical

end Sys2Proof.Machine
end

section
/-! SUPPORT. What the parts of an instruction do to the canonical form of memories: issue, windows, waking, posts, barriers, the end of
a VT (R47, R71 to R74, R177, R316). -/

set_option Elab.async false

namespace Sys2Proof.Machine

open Sys2Proof

/-! ### VTs -/

namespace VT.Canonical

variable {v w : VT} {id : Nat}

/-- The window is as it was. -/
theorem frame (h : v.Canonical) (hw : w.tcm = v.tcm := by rfl) : w.Canonical := by
  unfold VT.Canonical at h ⊢
  exact hw ▸ h

theorem ite {p : Prop} [Decidable p] (hv : p → v.Canonical) (hw : ¬ p → w.Canonical) : (if p then v else w).Canonical := by
  split
  · exact hv ‹_›
  · exact hw ‹_›

theorem foldl {α : Type} {f : VT → α → VT} {l : List α} (h : v.Canonical)
    (hf : ∀ (w : VT) a, w.Canonical → (f w a).Canonical) : (l.foldl f v).Canonical :=
  List.foldlRecOn (motive := VT.Canonical) l f h fun t ht a _ => hf t a ht

theorem retire (h : v.Canonical) : v.retire.Canonical := h.frame

theorem jump {a} (h : v.Canonical) : (v.jump a).Canonical := h.frame

theorem writeX {r x} (h : v.Canonical) : (v.writeX r x).Canonical := h.frame (VT.writeX_tcm v r x)

theorem writeP {r b} (h : v.Canonical) : (v.writeP r b).Canonical := h.frame (VT.writeP_tcm v r b)

theorem writeCompare {p q f c} (h : v.Canonical) : (v.writeCompare p q f c).Canonical := h.writeP.writeP

theorem enqueue {o m i} (h : v.Canonical) : (v.enqueue o m i).Canonical := .ite (fun _ => h) fun _ => h.frame

theorem settleFrom {i n} (h : v.Canonical) : (v.settleFrom i n).Canonical := by
  induction n generalizing v with
  | zero => exact h
  | succ n ih =>
    unfold VT.settleFrom
    split
    · exact h
    · split
      · exact .ite (fun _ => h) fun _ => ih h.frame
      · exact .ite (fun _ => ih h.frame) fun _ => h
      · exact h

theorem settleVp {i} (h : v.Canonical) : (v.settleVp i).Canonical := h.settleFrom

theorem writeCsr {n x} (h : v.Canonical) : (v.writeCsr n x).Canonical := by
  have seg (k : Fin 4) : (v.writeSeg k x).Canonical := .ite (fun _ => h) fun _ => h.frame
  unfold VT.writeCsr
  split
  · exact .ite (fun _ => h) fun _ => h.frame
  · exact h.frame
  · exact h.frame
  · exact seg 0
  · exact seg 1
  · exact seg 2
  · exact seg 3
  · exact h

theorem vpRetire {i r vp fl} (h : v.Canonical) : (v.vpRetire i r vp fl).Canonical := .settleVp h.frame

theorem popRecord {c r} (h : v.Canonical) (hw : v.popRecord c = some (r, w)) : w.Canonical := by
  unfold VT.popRecord at hw
  dsimp only at hw
  split at hw
  · cases hw
  · split at hw <;> cases hw
    exact h.frame

theorem woken {f : VT → VT} (h : v.Canonical) (hf : ∀ v : VT, v.Canonical → (f v).Canonical) : (v.woken f).Canonical := by
  unfold VT.woken
  split
  · exact .ite (fun _ => h.frame) fun _ => hf v h
  · exact hf v h

theorem awake {n} {f : VT → VT} (h : v.Canonical) (hf : ∀ v : VT, v.Canonical → (f v).Canonical) : (v.awake n f).Canonical :=
  .ite (fun _ => h) fun _ => (h.woken hf).frame

end VT.Canonical

/-- A gang's window is as it was. -/
theorem Gang.Canonical.frame {g k : Gang} (h : g.Canonical) (hk : k.csp = g.csp := by rfl) : k.Canonical := by
  unfold Gang.Canonical at h ⊢
  exact hk ▸ h

theorem VT.Canonical.of_empty {v : VT} (h : v.tcm = [] := by rfl) : v.Canonical := by
  unfold VT.Canonical
  rw [h]; rfl

theorem Gang.Canonical.of_empty {g : Gang} (h : g.csp = [] := by rfl) : g.Canonical := by
  unfold Gang.Canonical
  rw [h]; rfl

namespace State.Canonical

variable {s t : State} {id n : Nat} {v : VT} {g : Gang}

theorem draw (h : s.Canonical) : s.draw.2.Canonical := h.frame

theorem setCluster {c} (h : s.Canonical) : (s.setCluster n c).Canonical := h.frame

theorem acquire (h : s.Canonical) : (s.acquire v).Canonical := h.frame

theorem acquireLines {c l} (h : s.Canonical) : (s.acquireLines c l).Canonical := h.frame

/-! ### Faults and violations detected (R311, R322) -/

theorem detect {f} (h : s.Canonical) : (s.detect id f).Canonical := h.modVt fun _ h => h.frame

theorem ctFault {c a} (h : s.Canonical) : (s.ctFault id v c a).Canonical := h.detect

theorem violate {f} (h : s.Canonical) : (s.violate id f).Canonical := .modVt h.frame fun _ h => h.frame

theorem ctViolation {a} (h : s.Canonical) : (s.ctViolation id v a).Canonical := h.violate

theorem vpFault {i r c a k} (h : s.Canonical) : (s.vpFault id i r c a k).Canonical := .detect (h.modVt fun _ h => h.frame)

theorem vpViolation {i r a k} (h : s.Canonical) : (s.vpViolation id i r a k).Canonical :=
  .violate (h.modVt fun _ h => h.frame)

/-! ### Issue (R137, R140, R158) -/

theorem ctIssue {gd xs ps} {body : VT → State} (h : s.Canonical) (hb : ∀ v : VT, v.Canonical → (body v).Canonical) :
    (s.ctIssue id gd xs ps body).Canonical := by
  obtain ⟨_, e⟩ | ⟨v, hv, e⟩ := State.ctIssue_cases s id gd xs ps body
  · rw [e]; exact h
  · obtain e | ⟨_, e⟩ | ⟨_, _, e⟩ | ⟨_, _, e⟩ := e <;> rw [e]
    · exact h.ctFault
    · exact h.setVt (h.vt? hv).retire
    · exact h
    · exact hb v (h.vt? hv)

theorem ctOnly {gd xs ps} {body : Nat → VT → State} (h : s.Canonical)
    (hb : ∀ id (v : VT), v.Canonical → (body id v).Canonical) : (s.ctOnly gd xs ps body).Canonical := by
  unfold State.ctOnly
  split
  · exact h.ctIssue (hb _)
  · split
    · exact h
    · split
      · exact h
      · exact h.vpFault
  · exact h

theorem ctOnlyIf {pre gd xs ps} {body : Nat → VT → State} (h : s.Canonical)
    (hb : ∀ id (v : VT), v.Canonical → (body id v).Canonical) : (s.ctOnlyIf pre gd xs ps body).Canonical := by
  have faulted {id : Nat} {t : State} (ht : s.preFault id gd pre = some t) : t.Canonical := by
    unfold State.preFault at ht
    split at ht
    · cases ht
    · split at ht
      · obtain ⟨c, _, rfl⟩ := Option.map_eq_some_iff.mp ht
        exact h.ctFault
      · cases ht
  unfold State.ctOnlyIf
  split
  · next id _ =>
    cases ht : s.preFault id gd pre with
    | none => exact h.ctOnly hb
    | some t => exact faulted ht
  · exact h.ctOnly hb

theorem ctRegs {gd xs} {f : VT → VT} (h : s.Canonical) (hf : ∀ v : VT, v.Canonical → (f v).Canonical) :
    (s.ctRegs gd xs f).Canonical :=
  h.ctOnly fun _ v hv => h.setVt (hf v hv).retire

theorem vpIssue {i gd xs ps} {body : VT → Run → State} (h : s.Canonical)
    (hb : ∀ (v : VT) r, v.Canonical → (body v r).Canonical) : (s.vpIssue id i gd xs ps body).Canonical := by
  obtain e | ⟨v, r, hv, _, e | ⟨_, e⟩⟩ := State.vpIssue_cases s id i gd xs ps body <;> rw [e]
  · exact h
  · exact h.vpFault
  · exact hb v r (h.vt? hv)

theorem vpOnly {gd xs ps} {body : Nat → Fin 32 → VT → Run → State} (h : s.Canonical)
    (hb : ∀ id i (v : VT) r, v.Canonical → (body id i v r).Canonical) : (s.vpOnly gd xs ps body).Canonical := by
  unfold State.vpOnly
  split
  · exact h.vpIssue (hb _ _)
  · split
    · exact h
    · exact h.ctFault
  · exact h

theorem vpRegs {gd xs ps f} (h : s.Canonical) : (s.vpRegs gd xs ps f).Canonical := by
  refine h.vpOnly fun id i v r hv => ?_
  split
  · exact h
  · exact h.setVt hv.vpRetire

theorem shared {gd xs ps vp} {ct : VT → VT} (h : s.Canonical) (hc : ∀ v : VT, v.Canonical → (ct v).Canonical) :
    (s.shared gd xs ps ct vp).Canonical := by
  unfold State.shared
  split
  · exact h.ctIssue fun v hv => h.setVt (hc v hv).retire
  · exact h.vpRegs
  · exact h

/-! ### Windows (R71 to R74) -/

theorem cspWrite {gang off bs} (h : s.Canonical) : (s.cspWrite gang off bs).Canonical := by
  unfold State.cspWrite
  split
  · exact h
  · next g hg => exact h.setGang (g := { g with csp := _, cspPoison := _ }) (Memory.wf_writeMasked off bs (h.gang? hg))

theorem tcmWrite {off bs} (h : s.Canonical) : (s.tcmWrite id off bs).Canonical :=
  h.modVt fun _ hv => Memory.wf_writeMasked off bs hv

theorem windowWrite {space off bs} (h : s.Canonical) : (s.windowWrite id v space off bs).Canonical :=
  .ite (fun _ => h.cspWrite) fun _ => h.tcmWrite

theorem loadSpace {space a hint} (h : s.Canonical) : (s.loadSpace v space a n hint).Leaves State.Canonical := by
  unfold State.loadSpace
  split
  · exact h.loadGlobal
  · split
    · exact h
    · split <;> exact h

theorem storeSpace {space a bs hint} (h : s.Canonical) : (s.storeSpace id v space a bs hint).Leaves State.Canonical := by
  unfold State.storeSpace
  split
  · exact h.storeGlobal
  · split
    · exact h
    · exact h.windowWrite

theorem checkSpace {space a hint} (h : s.Canonical) : (s.checkSpace v space a n hint).Leaves State.Canonical := by
  unfold State.checkSpace
  split
  · exact h.storeCheck
  · split <;> exact h

theorem atomicSpace {space a f} (h : s.Canonical) : (s.atomicSpace id v space a n f).Leaves State.Canonical := by
  unfold State.atomicSpace
  split
  · exact h.atomicGlobal
  · split
    · exact h
    · split
      · exact h
      · dsimp only
        split
        · exact h
        · exact h.windowWrite

/-! ### Accesses of an instruction -/

theorem ctAccess {α : Type} {a} {r : Access α} {k : α → State → State} (h : s.Canonical) (hr : r.Leaves State.Canonical)
    (hk : ∀ x (t : State), t.Canonical → (k x t).Canonical) : (s.ctAccess id v a r k).Canonical := by
  cases r with
  | ok x t => exact hk x t hr
  | fault c t => exact State.Canonical.ctFault hr
  | violation => exact h.ctViolation
  | wait t => exact hr

theorem earlyFault {a k} (h : s.Canonical) (ht : s.earlyFault id v a n k = some t) : t.Canonical := by
  unfold State.earlyFault at ht
  split at ht
  · cases ht; exact h.ctFault
  · split at ht <;> cases ht
    · next hr => exact (h.gatedAccess.fault hr).ctFault
    · exact h.ctViolation
    · next hr => exact h.gatedAccess.wait hr

theorem ctEarly {gd as xs} {early : Nat → VT → Option State} {k : State}
    (he : ∀ id v t, early id v = some t → t.Canonical) (hk : k.Canonical) : (s.ctEarly gd as xs early k).Canonical := by
  unfold State.ctEarly
  split
  · next id _ =>
    split
    · next v _ =>
      refine .ite (fun _ => ?_) fun _ => hk
      cases ht : early id v with
      | none => exact hk
      | some t => exact he id v t ht
    · exact hk
  · exact hk

theorem ctGated {a k} {f : State → State} (h : s.Canonical) (hf : ∀ t : State, t.Canonical → (f t).Canonical) :
    (s.ctGated v a n k f).Canonical := by
  unfold State.ctGated
  split
  · next ht => exact h.gated.error ht
  · next ht => exact hf _ (h.gated.ok ht)

/-! ### Parking and waking (R47, R48, R50) -/

theorem parkVt {r} (h : s.Canonical) (hv : v.Canonical) : (s.parkVt id v r).Canonical := h.setVt hv.frame

theorem rewriteRecord (h : s.Canonical) : (s.rewriteRecord v).Canonical := by
  unfold State.rewriteRecord
  split
  · exact h
  · exact h.storage (Memory.wf_writeBytes _ _ (Memory.wf_writeBytes _ _ h.mem))

theorem wake {f : VT → VT} (h : s.Canonical) (hf : ∀ v : VT, v.Canonical → (f v).Canonical) : (s.wake id f).Canonical := by
  unfold State.wake
  split
  · exact h
  · next v hv => exact .setVt (.ite (fun _ => h) fun _ => h.rewriteRecord) ((h.vt? hv).awake hf)

theorem wakeAcquire {f : VT → VT} (h : s.Canonical) (hf : ∀ v : VT, v.Canonical → (f v).Canonical) :
    (s.wakeAcquire id f).Canonical := by
  unfold State.wakeAcquire
  split
  · exact .wake (.ite (fun _ => h.acquire) fun _ => h) hf
  · exact h

theorem wakeFault {c a} (h : s.Canonical) : (s.wakeFault id c a).Canonical := by
  unfold State.wakeFault
  split
  · exact h
  · split
    · exact h
    · exact .ctFault (h.wake fun _ h => h.frame)

/-! ### Posts (R316, R317) -/

theorem postSlot {dom va} (h : s.Canonical) : (s.postSlot dom va).Leaves State.Canonical := by
  unfold State.postSlot
  dsimp only
  split
  · next ht => exact h.gate.error ht
  · next ht => exact (h.gate.ok ht).accessWalk.bind fun _ _ h => h.reachHome.bind fun _ _ h => h

theorem postBytes {tr bs k} (h : s.Canonical) : (s.postBytes tr bs k).Canonical := h.homeWrite.homeWrite.homeWrite

theorem tryPost {p} (h : s.Canonical) : (s.tryPost p).1.Canonical := by
  unfold State.tryPost
  split
  · next hr => exact .postBytes (h.postSlot.ok hr).frame
  · next hr => exact (h.postSlot.wait hr).frame
  · next hr => exact (h.postSlot.fault hr).frame
  · exact h

theorem postOrWait {p} (h : s.Canonical) : (s.postOrWait p).Canonical := by
  have tried := h.tryPost (p := p)
  unfold State.postOrWait
  refine .ite (fun _ => h.frame) fun _ => ?_
  split
  · next e => rw [e] at tried; exact tried
  · next e => rw [e] at tried; exact tried.frame

theorem settlePosts (h : s.Canonical) : s.settlePosts.Canonical :=
  .ite (fun _ => h) fun _ => .foldl h.frame fun _ _ h => h.postOrWait

theorem post {dom typ source fields} (h : s.Canonical) : (s.post dom typ source fields).Canonical := by
  have raised (d : Domain) : (s.setDomain dom d).Canonical := h.frame
  have posted (d : Domain) (p : DuePost) (b : Prop) [Decidable b] :
      (if b then s.setDomain dom d else (s.setDomain dom d).postOrWait p).Canonical :=
    .ite (fun _ => raised d) fun _ => (raised d).postOrWait
  have recorded (t : State) (l : List (List Byte)) (ht : t.Canonical) : ({ t with records := l } : State).Canonical := ht.frame
  exact .ite (fun _ => recorded _ _ (posted _ _ _)) fun _ => posted _ _ _

theorem postAll {typ source fields} (h : s.Canonical) : (s.postAll typ source fields).Canonical := h.foldl fun _ _ h => h.post

/-! ### What a VT that leaves its core frees (R266), and a fault that is taken (R311) -/

theorem holdFreed (h : s.Canonical) : (s.holdFreed v).Canonical := .ite (fun _ => h.frame) fun _ => h

theorem holdCsp (h : s.Canonical) : (s.holdCsp g).Canonical := .ite (fun _ => h.frame) fun _ => h

theorem settleHold (h : s.Canonical) : (s.settleHold n).Canonical := .ite (fun _ => h) fun _ => h.frame

theorem leaveFifo (h : s.Canonical) : (s.leaveFifo id).Canonical := h.frame

theorem leaveFutures (h : s.Canonical) : (s.leaveFutures id).Canonical := h.frame

theorem takeFault {f} (h : s.Canonical) : (s.takeFault id f).Canonical := by
  unfold State.takeFault
  split
  · exact h
  · next v hv => exact .post (h.holdFreed.leaveFifo.setVt (h.vt? hv).frame)

/-! ### Barriers (R233 to R235) -/

theorem endBarrierWait {gang b} (h : s.Canonical) : (s.endBarrierWait gang b id).Canonical := by
  unfold State.endBarrierWait
  split
  · exact h
  · split
    · next hg => exact .ite (fun _ => .wakeAcquire (h.setGang (h.gang? hg).frame) fun _ h => h) fun _ => h
    · exact h

theorem completeBarrier {gang b} (h : s.Canonical) : (s.completeBarrier gang b).Canonical := by
  unfold State.completeBarrier
  split
  · exact h
  · next g hg => exact .foldl (h.setGang (h.gang? hg).frame) fun _ _ h => h.endBarrierWait

theorem settleBarrier {gang b} (h : s.Canonical) : (s.settleBarrier gang b).Canonical := by
  unfold State.settleBarrier
  split
  · exact .ite (fun _ => h.completeBarrier) fun _ => h
  · exact h

theorem leaveBarriers {gang rank} (h : s.Canonical) : (s.leaveBarriers gang rank).Canonical := by
  unfold State.leaveBarriers
  split
  · exact h
  · next g hg => exact .foldl (h.setGang (h.gang? hg).frame) fun _ _ h => h.settleBarrier

/-! ### The end of a VT (R47, R177) -/

theorem settleGang {gang} (h : s.Canonical) : (s.settleGang gang).Canonical := by
  have ended (g : Gang) (t : State) (ht : t.Canonical) :
      ({ t with gangs := t.gangs.set gang { g with st := .ended, csp := [], cspPoison := [] } } : State).Canonical :=
    ht.setGang .of_empty
  unfold State.settleGang
  split
  · exact h
  · next g _ =>
    refine .ite (fun _ => ?_) fun _ => h
    have ended := (ended g _ (h.holdCsp (g := g)))
    exact .ite (fun _ => .settleHold ended.frame) fun _ => ended.frame

theorem tellKillers (h : s.Canonical) : (s.tellKillers id).Canonical := h.mapVts fun _ _ hv => hv.foldl fun _ _ h => h.writeX

theorem endVt (h : s.Canonical) : (s.endVt id).Canonical := by
  unfold State.endVt
  split
  · exact h
  · next v _ =>
    refine .ite (fun _ => h) fun _ => .settleGang (.tellKillers (.leaveBarriers ?_))
    exact .frame (h.flushVt.holdFreed.setVt (id := id) (v := v.atEnd) .of_empty)

theorem settleKill (h : s.Canonical) : (s.settleKill id).Canonical := by
  unfold State.settleKill
  split
  · exact h
  · exact .ite (fun _ => h.endVt) fun _ => h

end State.Canonical

end Sys2Proof.Machine
end

section
/-! SUPPORT. Loads, stores and atomics of control threads and virtual processors keep the canonical form (R164 to R171, R216, R217). -/

set_option Elab.async false

namespace Sys2Proof.Machine

open Sys2Proof

/-- Where the outcome is a next state, it is one of these. -/
def NextIs (P : State → Prop) : Host.Outcome State Fault Refusal → Prop
  | .next t => P t
  | .fault _ | .refused _ => True

theorem NextIs.next {P : State → Prop} {o : Host.Outcome State Fault Refusal} {t : State} (h : NextIs P o) (e : o = .next t) :
    P t := by
  subst e; exact h

namespace State.Canonical

variable {s t : State} {id n : Nat} {i : Fin 32} {v : VT} {g : Guard} {d a b : Reg}

/-! ### Control threads -/

theorem ctLoad {signed imm} (h : s.Canonical) : (s.ctLoad n signed g d a imm).Canonical :=
  h.ctOnly fun _ _ _ => .ite (fun _ => h.ctFault) fun _ =>
    h.ctGated fun _ h => h.ctAccess h.loadGlobal fun _ _ h => h.modVt fun _ hv => hv.writeX.retire

theorem ctStore {imm} (h : s.Canonical) : (s.ctStore n g a b imm).Canonical :=
  .ctEarly (fun _ _ _ => h.earlyFault) <| h.ctOnly fun _ _ _ => .ite (fun _ => h.ctFault) fun _ =>
    h.ctGated fun _ h => h.ctAccess h.storeScalar fun _ _ h => h.modVt fun _ hv => hv.retire

theorem l1Invalidate {c} (h : s.Canonical) : (s.l1Invalidate c).Canonical := h.frame

theorem acquireAt {c sc} (h : s.Canonical) : (s.acquireAt c sc).Canonical := .ite (fun _ => h) fun _ => h.l1Invalidate

theorem ctAmo {m k ord} (h : s.Canonical) : (s.ctAmo id v m k d a b ord).Canonical :=
  .ite (fun _ => h.ctFault) fun _ => h.ctGated fun _ h => h.ctAccess h.atomicGlobal fun _ _ h =>
    .modVt (.ite (fun _ => h.l1Invalidate) fun _ => h) fun _ hv => hv.writeX.retire

theorem execLda {sc} (h : s.Canonical) : NextIs State.Canonical (execLda g d a sc s) :=
  h.ctOnly fun _ _ _ => .ite (fun _ => h.ctFault) fun _ =>
    h.ctGated fun _ h => h.ctAccess h.loadGlobal fun _ _ h => h.acquireAt.modVt fun _ hv => hv.writeX.retire

theorem execStl {sc} (h : s.Canonical) : NextIs State.Canonical (execStl g a b sc s) :=
  .ctEarly (fun _ _ _ => h.earlyFault) <| h.ctOnly fun _ _ _ => .ite (fun _ => h.ctFault) fun _ =>
    h.ctGated fun _ h => h.ctAccess h.storeGlobal fun _ _ h => h.modVt fun _ hv => hv.retire

theorem fence {vector sc} (h : s.Canonical) : (s.fence vector g sc).Canonical :=
  h.ctOnly fun _ _ hv => .ite (fun _ => h) fun _ => (h.setVt hv.retire).acquireAt

/-! ### Virtual processors -/

theorem vpAccess {α : Type} {r a k} {x : Access α} {f : α → State → State} (h : s.Canonical) (hx : x.Leaves State.Canonical)
    (hf : ∀ y (t : State), t.Canonical → (f y t).Canonical) : (s.vpAccess id i r a k x f).Canonical := by
  cases x with
  | ok y t => exact hf y t hx
  | fault c t => exact State.Canonical.vpFault hx
  | violation => exact h.vpViolation
  | wait t => exact hx

theorem vpGated {space a k} {f : State → State} (h : s.Canonical) (hf : ∀ t : State, t.Canonical → (f t).Canonical) :
    (s.vpGated v space a n k f).Canonical := by
  unfold State.vpGated
  refine .ite (fun _ => ?_) fun _ => hf s h
  split
  · next ht => exact h.gated.error ht
  · next ht => exact hf _ (h.gated.ok ht)

theorem vpAmo {r m k ord sc} (h : s.Canonical) (hv : v.Canonical) : (s.vpAmo id i v r m k g d a b ord sc).Canonical := by
  refine .ite (fun _ => h.vpFault) fun _ => ?_
  split
  · exact h
  · split
    · exact h
    · refine .ite (fun _ => h.setVt hv.vpRetire) fun _ => .ite (fun _ => h) fun _ => .ite (fun _ => h.vpFault) fun _ => ?_
      exact h.vpGated fun _ h => h.vpAccess h.atomicSpace fun _ _ h =>
        .modVt (.ite (fun _ => h.l1Invalidate) fun _ => h) fun _ hv => hv.vpRetire

theorem amo {m k ord sc} (h : s.Canonical) : (s.amo m k g d a b ord sc).Canonical := by
  unfold State.amo
  dsimp only
  split
  · exact .ctEarly (fun _ _ _ => h.earlyFault) (h.ctIssue fun _ _ => h.ctAmo)
  · exact h.vpIssue fun _ _ => h.vpAmo
  · exact h

theorem vpElements {sz vs} {body : Nat → Fin 32 → VT → Run → State} (h : s.Canonical)
    (hb : ∀ id i (v : VT) r, v.Canonical → (body id i v r).Canonical) : (s.vpElements g sz vs body).Canonical :=
  h.vpOnly fun id i v r hv => .ite (fun _ => h.vpFault) fun _ => hb id i v r hv

theorem loadElems {space x b ks acc} (h : s.Canonical) : (s.loadElems v space x b ks acc).1.Leaves State.Canonical := by
  induction ks generalizing s acc with
  | nil => exact h
  | cons k ks ih =>
    unfold State.loadElems
    split
    · next hr => exact ih (h.loadSpace.ok hr)
    · next hr => exact h.loadSpace.fault hr
    · trivial
    · next hr => exact h.loadSpace.wait hr

theorem storeElems {space x b y ks} (h : s.Canonical) :
    (s.storeElems id v space x b y ks).1.Canonical ∧ (s.storeElems id v space x b y ks).2.1.Leaves State.Canonical := by
  induction ks generalizing s with
  | nil => exact ⟨h, h⟩
  | cons k ks ih =>
    unfold State.storeElems
    split
    · next hr => exact ih (h.storeSpace.ok hr)
    · next hr => exact ⟨h.storeSpace.fault hr, h.storeSpace.fault hr⟩
    · exact ⟨h, trivial⟩
    · next hr => exact ⟨h, h.storeSpace.wait hr⟩

theorem ldvSized {r vp sz space x} (h : s.Canonical) (hv : v.Canonical) :
    (s.ldvSized id i v r vp g d sz space x).Canonical := by
  unfold State.ldvSized
  dsimp only
  split
  · exact h
  · refine .ite (fun _ => h.setVt hv.vpRetire) fun _ => .ite (fun _ => h.vpFault) fun _ => .ite (fun _ => h) fun _ =>
      .ite (fun _ => h.vpFault) fun _ => ?_
    exact h.vpGated fun _ h => h.vpAccess h.loadSpace fun _ _ h => h.modVt fun _ hv => hv.vpRetire

theorem ldvWhole {r vp space x} (h : s.Canonical) (hv : v.Canonical) : (s.ldvWhole id i v r vp g d space x).Canonical := by
  unfold State.ldvWhole
  dsimp only
  split
  · exact h
  · split
    · exact h.setVt hv.vpRetire
    · refine .ite (fun _ => h) fun _ => .ite (fun _ => h.vpFault) fun _ => ?_
      exact h.vpGated fun _ h => h.vpAccess h.loadElems fun _ _ h => h.modVt fun _ hv => hv.vpRetire

theorem stvSized {r vp sz y space x} (h : s.Canonical) (hv : v.Canonical) :
    (s.stvSized id i v r vp g sz y space x).Canonical :=
  .ite (fun _ => h.setVt hv.vpRetire) fun _ => .ite (fun _ => h.vpFault) fun _ => .ite (fun _ => h) fun _ =>
    .ite (fun _ => h.vpFault) fun _ =>
      h.vpGated fun _ h => h.vpAccess h.storeSpace fun _ _ h => h.modVt fun _ hv => hv.vpRetire

theorem stvWhole {r vp y space x} (h : s.Canonical) (hv : v.Canonical) : (s.stvWhole id i v r vp g y space x).Canonical := by
  unfold State.stvWhole
  dsimp only
  split
  · exact h.setVt hv.vpRetire
  · refine .ite (fun _ => h) fun _ => .ite (fun _ => h.vpFault) fun _ => h.vpGated fun _ h => ?_
    split
    · exact h
    · exact h.storeElems.1.vpAccess h.storeElems.2 fun _ _ h => h.modVt fun _ hv => hv.vpRetire

theorem execLdv {seg sz imm} (h : s.Canonical) : NextIs State.Canonical (execLdv g d a seg sz imm s) := by
  refine h.vpElements fun _ _ _ _ hv => ?_
  split
  · exact h
  · exact .ite (fun _ => h.ldvWhole hv) fun _ => h.ldvSized hv

theorem execStv {seg sz imm} (h : s.Canonical) : NextIs State.Canonical (execStv g d a seg sz imm s) := by
  refine h.vpElements fun _ _ _ _ hv => ?_
  split
  · exact h
  · split
    · exact h
    · exact .ite (fun _ => h.stvWhole hv) fun _ => h.stvSized hv

end State.Canonical

end Sys2Proof.Machine
end

section
/-! SUPPORT. Blocks and the control instructions keep the canonical form (R25 to R31, R172 to R179, R218). -/

set_option Elab.async false

namespace Sys2Proof.Machine

open Sys2Proof

namespace State.Canonical

variable {s t : State} {id n : Nat} {i : Fin 32} {v : VT} {g : Guard} {d a b : Reg}

/-! ### Blocks (R25 to R31, R218) -/

theorem blockFault {thread pc a c} (h : s.Canonical) : (s.blockFault id i thread pc a c).Canonical := h.detect

theorem startLine {r quad} (h : s.Canonical) : (s.startLine v r quad).Leaves State.Canonical := by
  unfold State.startLine
  dsimp only
  split
  · refine h.fetchLaneLine.bind fun _ _ h => ?_
    split
    · split
      · exact h
      · exact h.fetchLaneLine
    · exact h
  · exact h.fetchLaneLine

theorem startBlock {r quad} (h : s.Canonical) : (s.startBlock id i v r quad).Canonical := by
  unfold State.startBlock
  split
  · next hr => exact h.startLine.wait hr
  · next hr => exact (h.startLine.fault hr).blockFault
  · exact h.violate
  · next hr =>
    have h := h.startLine.ok hr
    split
    · exact h
    · split
      · exact h.blockFault
      · refine .ite (fun _ => h.blockFault) fun _ => ?_
        split
        · exact h.blockFault
        · refine h.modVt fun v hv => ?_
          dsimp only
          split <;> exact hv.frame

theorem execBlockStart (h : s.Canonical) : NextIs State.Canonical (execBlockStart id i s) := by
  unfold Machine.execBlockStart NextIs
  dsimp only
  split
  · exact h
  · refine .ite (fun _ => h) fun _ => ?_
    split
    · exact .ite (fun _ => h) fun _ => h.startBlock
    · exact h

theorem execThreadFetch (h : s.Canonical) : NextIs State.Canonical (execThreadFetch id i s) := by
  unfold Machine.execThreadFetch NextIs
  dsimp only
  split
  · exact h
  · refine .ite (fun _ => h) fun _ => ?_
    split
    · exact h
    · exact h.startBlock

theorem fetchFault {r c a} (h : s.Canonical) : (s.fetchFault id i r c a).Canonical := .detect (h.modVt fun _ h => h.frame)

theorem nameSuccessor {r vp a} (h : s.Canonical) : (s.nameSuccessor id i v r vp a).Canonical := by
  unfold State.nameSuccessor
  split
  · next hr => exact (h.gatedAccess.fault hr).fetchFault
  · exact .violate (h.modVt fun _ h => h.frame)
  · next hr => exact h.gatedAccess.wait hr
  · next hr => exact (h.gatedAccess.ok hr).modVt fun _ h => h.vpRetire

theorem execFetch {imm} (h : s.Canonical) : NextIs State.Canonical (execFetch g imm s) :=
  h.vpOnly fun _ _ _ _ hv => .ite (fun _ => h.setVt hv.vpRetire) fun _ => .ite (fun _ => h.fetchFault) fun _ => h.nameSuccessor

theorem execFetchr (h : s.Canonical) : NextIs State.Canonical (execFetchr g a s) := by
  refine h.vpOnly fun _ _ _ _ hv => ?_
  split
  · exact h
  · exact .ite (fun _ => h.setVt hv.vpRetire) fun _ => .ite (fun _ => h.fetchFault) fun _ => h.nameSuccessor

/-! ### Jumps and CSRs (R172, R173) -/

theorem execBr {imm} (h : s.Canonical) : NextIs State.Canonical (execBr g imm s) := h.ctOnly fun _ _ hv => h.setVt hv.jump

theorem execJal {imm} (h : s.Canonical) : NextIs State.Canonical (execJal g d imm s) :=
  h.ctOnly fun _ _ hv => h.setVt hv.writeX.jump

theorem execJalr {imm} (h : s.Canonical) : NextIs State.Canonical (execJalr g d a imm s) :=
  h.ctOnly fun _ _ hv => .ite (fun _ => h.ctFault) fun _ => h.setVt hv.writeX.jump

theorem csrAccess {xs f} (h : s.Canonical) : (s.csrAccess g d xs n f).Canonical := by
  refine h.ctOnly fun _ _ hv => .ite (fun _ => h) fun _ => h.setVt (VT.Canonical.writeX ?_).retire
  split
  · exact hv.writeCsr
  · exact hv

theorem execTrap {code} (h : s.Canonical) : NextIs State.Canonical (execTrap g code s) :=
  h.ctOnly fun _ _ hv => (h.setVt hv.retire).detect

theorem dropCodeLine {line} (h : s.Canonical) : (s.dropCodeLine line).Canonical := h.frame

theorem execIcinv (h : s.Canonical) : NextIs State.Canonical (execIcinv g a s) :=
  h.ctOnly fun _ _ hv => h.ctAccess (h.afterWalk fun _ h => h.translateAt) fun _ _ h => h.tlbFill.dropCodeLine.setVt hv.retire

theorem execPark (h : s.Canonical) : NextIs State.Canonical (execPark g a s) := h.ctOnly fun _ _ hv => h.parkVt hv

theorem execYield (h : s.Canonical) : NextIs State.Canonical (execYield g s) := h.ctOnly fun _ _ hv => h.setVt hv.frame

/-! ### The end and the start of a VT (R177, R178) -/

theorem noteCause {c} (h : s.Canonical) : (s.noteCause n c).Canonical := h.frame

theorem spill {ps} (h : s.Canonical) (ht : s.spill v ps = .ok t) : t.Canonical := by
  induction ps generalizing s with
  | nil => cases ht; exact h
  | cons p ps ih =>
    unfold State.spill at ht
    split at ht
    · cases ht; exact h.noteCause
    · split at ht
      · next hr => exact ih (h.storeGlobal.ok hr) ht
      · next hr => cases ht; exact (h.storeGlobal.fault hr).noteCause
      · cases ht; exact h.noteCause
      · cases ht

theorem gateSpill {ps} (h : s.Canonical) : Answers State.Canonical (s.gateSpill v ps) := by
  unfold State.gateSpill
  split
  · exact h
  · exact h.gate

theorem execExit (h : s.Canonical) : NextIs State.Canonical (execExit g s) := by
  refine h.ctOnly fun _ _ _ => .ite (fun _ => h) fun _ => ?_
  dsimp only
  split
  · next hg => exact h.gateSpill.error hg
  · next hg =>
    split
    · split
      · next hr => exact h.translateAt.wait hr
      · exact h
    · next ht => exact (((h.gateSpill.ok hg).spill ht).modVt fun _ hv => hv.retire).endVt

theorem spawnVt {p} (h : s.Canonical) : (s.spawnVt v p).2.Canonical :=
  have drawn : (s.freshVt.2.freshGang v.domain).2.Canonical := h.frame
  .setCluster (.setVt (drawn.setGang .of_empty) .of_empty)

theorem execSpawn (h : s.Canonical) : NextIs State.Canonical (execSpawn g d a s) := by
  refine h.ctOnly fun id v _ => .ite (fun _ => ?_) fun _ => .ite (fun _ => h.ctFault) fun _ => ?_
  · cases ht : s.earlyFault id v (v.readX a) 64 .load with
    | none => exact h
    | some t => exact h.earlyFault ht
  · refine h.ctGated fun _ h => h.ctAccess h.loadGlobal fun _ _ h => ?_
    split
    · exact h.modVt fun _ hv => hv.writeX.retire
    · exact h.spawnVt.modVt fun _ hv => hv.writeX.retire

/-! ### Control of other VTs (R179) -/

theorem vtctl {f : Nat → VT → Nat → VT → State} (h : s.Canonical)
    (hf : ∀ id (v : VT) k (w : VT), v.Canonical → w.Canonical → (f id v k w).Canonical) : (s.vtctl g d a f).Canonical := by
  refine h.ctOnly fun id v hv => .ite (fun _ => h) fun _ => ?_
  split
  · exact h.setVt hv.writeX.retire
  · next k w ht =>
    refine hf id v k w hv ?_
    unfold State.vtTarget at ht
    dsimp only at ht
    split at ht
    · next hw => split at ht <;> cases ht; exact h.vt? hw
    · cases ht

theorem vtctlStatus {x} (h : s.Canonical) : (s.vtctlStatus id d x).Canonical := h.modVt fun _ hv => hv.writeX.retire

theorem execVtctlResume (h : s.Canonical) : NextIs State.Canonical (execVtctlResume g d a s) :=
  h.vtctl fun _ _ _ _ _ hw => .ite (fun _ => (h.setVt hw.frame).vtctlStatus) fun _ => h.vtctlStatus

theorem execVtctlKill (h : s.Canonical) : NextIs State.Canonical (execVtctlKill g d a s) :=
  h.vtctl fun _ _ _ _ hv hw => .ite (fun _ => .settleKill (h.setVt hv.frame)) fun _ =>
    .settleKill (.setVt (h.setVt (hv.writeX.retire.frame)) hw.frame)

theorem execVtctlWake (h : s.Canonical) : NextIs State.Canonical (execVtctlWake g d a s) := by
  refine h.vtctl fun _ _ _ _ _ _ => ?_
  split
  · exact .vtctlStatus (h.wakeAcquire fun _ h => h)
  · exact h.vtctlStatus

end State.Canonical

end Sys2Proof.Machine
end

section
/-! SUPPORT. Barriers, futures, engine commands and their completion keep the canonical form (R233 to R252). -/

set_option Elab.async false

namespace Sys2Proof.Machine

open Sys2Proof

namespace State.Canonical

variable {s t : State} {id n : Nat} {v : VT} {g : Guard} {d a b : Reg}

/-! ### Barriers, `mwait`, `waitd` (R233 to R239) -/

theorem arrive {k} (h : s.Canonical) : (s.arrive v k).Canonical := by
  unfold State.arrive
  split
  · exact h
  · next hg => exact .ite (fun _ => h) fun _ => .settleBarrier (h.setGang (h.gang? hg).frame)

theorem barrierWait {k} (h : s.Canonical) (hv : v.Canonical) : (s.barrierWait id v k).Canonical := by
  unfold State.barrierWait
  split
  · exact h
  · next hg =>
    exact .ite (fun _ => h.setVt hv.retire) fun _ => .ite (fun _ => h.parkVt hv) fun _ =>
      .setVt (.acquire (h.setGang (h.gang? hg).frame)) hv.retire

theorem barrierOp {arrives k} {f : Nat → VT → State} (h : s.Canonical)
    (hf : ∀ id (v : VT), v.Canonical → (f id v).Canonical) : (s.barrierOp arrives k g f).Canonical := by
  refine h.ctOnly fun id v hv => ?_
  split
  · exact h.ctFault
  · exact .ite (fun _ => h.ctFault) fun _ => .ite (fun _ => h.ctFault) fun _ => .ite (fun _ => h) fun _ => hf id v hv

theorem execBar {k} (h : s.Canonical) : NextIs State.Canonical (execBar g k s) :=
  h.barrierOp fun _ _ hv => h.arrive.barrierWait hv

theorem execBara {k} (h : s.Canonical) : NextIs State.Canonical (execBara g k s) :=
  h.barrierOp fun _ _ _ => h.arrive.modVt fun _ hv => hv.retire

theorem execBarw {k} (h : s.Canonical) : NextIs State.Canonical (execBarw g k s) := h.barrierOp fun _ _ hv => h.barrierWait hv

theorem homeAccess {c dom va} (h : s.Canonical) : (s.homeAccess c dom va n).Leaves State.Canonical := by
  refine h.gatedAccess.bind fun _ _ h => ?_
  split
  · next ht => exact h.gate.error ht
  · next ht => exact (h.gate.ok ht).reachHome.bind fun _ _ h => h

theorem execMwait {word c} (h : s.Canonical) : NextIs State.Canonical (execMwait g d a b word c s) :=
  .ctEarly (fun _ _ _ => h.earlyFault) <| h.ctOnly fun _ _ hv => .ite (fun _ => h.ctFault) fun _ =>
    h.ctAccess h.homeAccess fun _ _ h => .ite (fun _ => h.ctFault) fun _ =>
      .ite (fun _ => h.l2TouchAll.acquire.modVt fun _ hv => hv.writeX.retire) fun _ => h.l2TouchAll.parkVt hv

theorem execWaitd {k dc} (h : s.Canonical) : NextIs State.Canonical (execWaitd g k dc s) :=
  h.ctOnly fun _ _ hv => .ite (fun _ => h.setVt hv.retire) fun _ => h

/-! ### Futures (R240 to R242) -/

theorem setFuture {k f} (h : s.Canonical) : (s.setFuture k f).Canonical := h.frame

theorem wakeFuture {x} (h : s.Canonical) : (s.wakeFuture id x).Canonical := by
  refine h.wakeAcquire fun v hv => ?_
  split
  · exact hv.writeX
  · exact hv

theorem serveWaiters {x ws} (h : s.Canonical) : (s.serveWaiters x ws).1.Canonical := by
  induction ws generalizing s with
  | nil => exact h
  | cons w ws ih =>
    unfold State.serveWaiters
    split
    · exact ih h
    · split
      · exact h.wakeFuture
      · exact ih h.wakeFuture

theorem fput {dom k x} (h : s.Canonical) : (s.fput dom k x).2.Canonical := by
  unfold State.fput
  split
  · exact h
  · exact h
  · split
    · exact h.serveWaiters.setFuture
    all_goals exact h

theorem execFnew (h : s.Canonical) : NextIs State.Canonical (execFnew g d s) := by
  refine h.ctOnly fun _ _ hv => .ite (fun _ => h) fun _ => ?_
  dsimp only
  split
  · exact h.draw.setVt hv.writeX.retire
  · exact h.draw.setFuture.setVt hv.writeX.retire

theorem execFput (h : s.Canonical) : NextIs State.Canonical (execFput g d a b s) := by
  refine h.ctOnly fun _ _ _ => .ite (fun _ => h) fun _ => ?_
  dsimp only
  split
  · exact h.ctFault
  all_goals exact h.fput.modVt fun _ hv => hv.writeX.retire

theorem futureTake {take} (h : s.Canonical) : (s.futureTake take g d a).Canonical := by
  refine h.ctOnly fun _ _ hv => ?_
  dsimp only
  split
  · exact h.ctFault
  · exact h.ctFault
  · split
    · exact .ite (fun _ => h.ctFault) fun _ => .setVt (.acquire (.ite (fun _ => h.setFuture) fun _ => h)) hv.writeX.retire
    · exact h.setFuture.parkVt hv
    all_goals exact h.ctFault

theorem execFtry (h : s.Canonical) : NextIs State.Canonical (execFtry g d a b s) := by
  refine h.ctOnly fun _ _ hv => ?_
  dsimp only
  split
  · exact h.ctFault
  · exact h.setVt hv.writeX.writeX.retire
  · split
    · exact .ite (fun _ => h.ctFault) fun _ => h.acquire.setVt hv.writeX.writeX.retire
    all_goals exact h.setVt hv.writeX.writeX.retire

theorem execFfree (h : s.Canonical) : NextIs State.Canonical (execFfree g a s) := by
  refine h.ctOnly fun _ _ hv => ?_
  dsimp only
  split
  · exact h.ctFault
  · exact h.setVt hv.retire
  · exact .modVt (h.setFuture.foldl fun _ _ h => h.wakeFault) fun _ hv => hv.retire

/-! ### Commands that are enqueued, and their records (R244, R249, R251) -/

theorem acceptCmd {eng chan dest ws} (h : s.Canonical) : (s.acceptCmd id v eng chan dest ws).Canonical := h.frame

theorem joinFifo {eng unit} (h : s.Canonical) : (s.joinFifo id eng unit).Canonical := .ite (fun _ => h) fun _ => h.frame

theorem enqChecked {eng ws} {k : State → State} (h : s.Canonical) (hk : ∀ t : State, t.Canonical → (k t).Canonical) :
    (s.enqChecked id v eng ws k).Canonical := by
  refine .ite (fun _ => h.ctFault) fun _ => ?_
  split
  · exact h.ctFault
  · exact .ite (fun _ => h) fun _ => .ite (fun _ => hk _ h.leaveFifo) fun _ => h.joinFifo

theorem execEnq {eng dc} (h : s.Canonical) : NextIs State.Canonical (execEnq g a eng dc s) :=
  h.ctOnlyIf fun _ _ hv => h.enqChecked fun _ h => h.acceptCmd.setVt hv.frame

theorem execEnqy {eng} (h : s.Canonical) : NextIs State.Canonical (execEnqy g d a b eng s) := by
  refine .ctEarly (fun id v t ht => ?_) <| h.ctOnly fun _ _ hv => .ite (fun _ => h.ctFault) fun _ =>
    h.enqChecked fun _ h => h.acceptCmd.parkVt hv
  split at ht <;> cases ht
  exact h.ctFault

theorem execDeq {eng dc} (h : s.Canonical) : NextIs State.Canonical (execDeq g d eng dc s) := by
  refine h.ctOnly fun _ _ hv => ?_
  dsimp only
  split
  · next hr => exact h.acquireLines.setVt (hv.popRecord hr).writeX.retire
  · exact h.parkVt hv

theorem execDeqt {eng dc} (h : s.Canonical) : NextIs State.Canonical (execDeqt g d eng dc s) := by
  refine h.ctOnly fun _ _ hv => ?_
  split
  · next hr => exact h.acquireLines.setVt (hv.popRecord hr).writeX.retire
  · exact h.setVt hv.writeX.retire

/-! ### Copies (R244 to R248) -/

theorem stallOn {dom va} (h : s.Canonical) : (s.stallOn dom va).Canonical := h.frame

theorem copyRead {w dom space x} (h : s.Canonical) : (s.copyRead w dom space x).2.Canonical := by
  unfold State.copyRead
  split
  · split
    · next hr => exact h.readHome.ok hr
    · next hr => exact h.readHome.fault hr
    · exact h
    · next hr => exact (h.readHome.wait hr).stallOn
  · split
    · exact h.draw
    · split <;> exact h

theorem copyReads {w dom space x} (h : s.Canonical) : (s.copyReads w dom space x n).2.2.Canonical := by
  induction n generalizing s x with
  | zero => exact h
  | succ n ih =>
    have first := h.copyRead (w := w) (dom := dom) (space := space) (x := x)
    unfold State.copyReads
    split
    · next e => rw [e] at first; exact first
    · next e => rw [e] at first; exact ih first

theorem copyWrite {w dom space x bs} (h : s.Canonical) : (s.copyWrite w dom space x bs).2.Canonical := by
  unfold State.copyWrite
  split
  · split
    · next hr => exact h.writeHome.ok hr
    · next hr => exact h.writeHome.fault hr
    · exact h
    · next hr => exact (h.writeHome.wait hr).stallOn
  · refine .ite (fun _ => ?_) fun _ => ?_
    · split
      · exact h.cspWrite
      · exact h
    · split
      · exact h.tcmWrite
      · exact h

theorem copyRow {w dom dsp da len src pat k c fuel} (h : s.Canonical) :
    (s.copyRow w dom dsp da len src pat k c fuel).2.Canonical := by
  induction fuel generalizing s k c with
  | zero => exact h
  | succ fuel ih =>
    have went (r : List Byte × Option CopyStop × State) (hr : r.2.2.Canonical) :
        (if r.1 = [] then ({ c with stop := r.2.1 }, r.2.2)
          else match r.2.2.copyWrite w dom dsp (da + k) r.1 with
            | (some e, s) => ({ c with stop := some e }, s)
            | (none, s) =>
              let d := { c with bytes := c.bytes + r.1.length, lines := (s.lineOf dom dsp (da + k) ++ c.lines).eraseDups }
              match r.2.1 with
              | some e => ({ d with stop := some e }, s)
              | none => s.copyRow w dom dsp da len src pat (k + min (len - k) (8 - (da + k) % 8)) d fuel :
          CopyDone × State).2.Canonical := by
      have written := hr.copyWrite (w := w) (dom := dom) (space := dsp) (x := da + k) (bs := r.1)
      split
      · exact hr
      · split
        · next e => rw [e] at written; exact written
        · next e =>
          rw [e] at written
          dsimp only
          split
          · exact written
          · exact ih written
    unfold State.copyRow
    split
    · exact h
    · refine went _ ?_
      split
      · exact h.copyReads
      · exact h

theorem copyRun {w dom ws} (h : s.Canonical) : (s.copyRun w dom ws).2.Canonical := by
  refine List.foldlRecOn (motive := fun x : CopyDone × State => x.2.Canonical) _ _ h fun x hx q _ => ?_
  dsimp only
  split
  · exact hx
  · exact hx.copyRow

theorem setCommand {c} (h : s.Canonical) : (s.setCommand c).Canonical := h.frame

theorem runCopy {cmd kind} (h : s.Canonical) : (s.runCopy cmd kind).Canonical := by
  unfold State.runCopy
  split
  · exact h
  · refine .ite (fun _ => h) fun _ => ?_
    split
    · next ht => exact (h.gate.error ht).setCommand
    · next ht =>
      have h := h.gate.ok ht
      have ran (u : List Nat) (c : Command) : ({ (State.copyRun _ c.window c.domain c.words).2 with wants := u } : State).Canonical :=
        (h.copyRun (w := c.window) (dom := c.domain) (ws := c.words)).frame
      dsimp only
      split
      · exact h.heldLine.setCommand
      all_goals exact (ran _ _).setCommand

theorem pushRecord {ch r} (h : s.Canonical) (hv : v.Canonical) : (s.pushRecord id v ch r).Canonical := by
  unfold State.pushRecord
  dsimp only
  split
  · exact .wake (.ite (fun _ => (h.setVt hv.frame).acquireLines) fun _ => h.setVt hv.frame) fun _ hv => hv.writeX
  · exact h.setVt hv.frame

theorem finishEnqy {cmd r} (h : s.Canonical) : (s.finishEnqy id v cmd r).Canonical := by
  unfold State.finishEnqy
  split
  · exact .ite (fun _ => .wake (.ite (fun _ => h.acquireLines) fun _ => h) fun _ hv => hv.writeX.frame) fun _ => h
  · exact h

theorem execCompletionRecord {cmd} (h : s.Canonical) : NextIs State.Canonical (execCompletionRecord cmd s) := by
  unfold Machine.execCompletionRecord NextIs
  dsimp only
  split
  · exact h
  · next c _ =>
    split
    · have done : ({ s with commands := s.commands.filter fun x => x.id != cmd } : State).Canonical := h.frame
      split
      · exact done
      · next v hv =>
        refine .settleKill ?_
        split
        · refine done.pushRecord (h.vt? (id := c.vt) ?_)
          split at hv
          · cases hv
          · exact hv
        · exact done.finishEnqy
    · exact h

end State.Canonical

end Sys2Proof.Machine
end

section
/-! SUPPORT. The vector instructions of a CT and their memory elements keep the canonical form (R181 to R199). -/

set_option Elab.async false

namespace Sys2Proof.Machine

open Sys2Proof

namespace VT.Canonical

variable {v : VT} {i : Fin 32}

theorem writeVmt {x} (h : v.Canonical) : (v.writeVmt x).Canonical := .ite (fun _ => h) fun _ => h.frame

theorem writeSeg {k x} (h : v.Canonical) : (v.writeSeg k x).Canonical := .ite (fun _ => h) fun _ => h.frame

theorem applyCfg {n} (h : v.Canonical) : (v.applyCfg n).Canonical := .ite (fun _ => h.frame) fun _ => h.frame

theorem settleAll {m} (h : v.Canonical) : (v.settleAll m).Canonical := h.foldl fun _ _ h => h.settleVp

theorem takeCounts {a b} (h : v.Canonical) : (v.takeCounts a b).Canonical := h.foldl fun _ _ h => h.frame

theorem leaveWindow (h : v.Canonical) : v.leaveWindow.Canonical := h.frame

theorem takeQueues {isStore k} (h : v.Canonical) : (v.takeQueues isStore k).Canonical := h.foldl fun _ _ h => h.frame

theorem setEntry {e} (h : v.Canonical) : (v.setEntry e).Canonical := h.frame

theorem nextElement {e} (h : v.Canonical) : (v.nextElement e i).Canonical :=
  .ite (fun _ => h.setEntry) fun _ => .ite (fun _ => .settleVp h.frame) fun _ => .settleVp h.frame

theorem finishEntry {e} (h : v.Canonical) : (v.finishEntry e).Canonical := h.frame

end VT.Canonical

namespace State.Canonical

variable {s t : State} {id n : Nat} {i : Fin 32} {k : Fin 8} {v : VT} {g : Guard} {d a b : Reg}

/-! ### Configuration (R181 to R184) -/

theorem bindTo {slot moved} (h : s.Canonical) : (s.bindTo id slot moved).Canonical := by
  unfold State.bindTo
  split
  · exact h
  · next hv =>
    have hv := h.vt? hv
    exact .ite (fun _ => h.setVt hv.frame) fun _ => .ite (fun _ => h.setVt hv.frame) fun _ => .post (h.setVt hv.frame)

theorem requestSpan {span} (h : s.Canonical) : (s.requestSpan id v span).Canonical := by
  unfold State.requestSpan
  dsimp only
  split
  · exact h
  · exact .ite (fun _ => h.modVt fun _ hv => hv.frame) fun _ => h.bindTo

theorem settleSpan (h : s.Canonical) : (s.settleSpan id).Canonical := by
  unfold State.settleSpan
  split
  · exact h
  · next hv =>
    have set (w : VT) (hw : w.Canonical) : (s.setVt id w).Canonical := h.setVt hw
    exact .ite (fun _ => h) fun _ => .ite (fun _ => (set _ (h.vt? hv).frame).requestSpan) fun _ => set _ (h.vt? hv).frame

theorem ctVector {xs} {body : Nat → VT → State} (h : s.Canonical) (hb : ∀ id (v : VT), v.Canonical → (body id v).Canonical) :
    (s.ctVector g xs body).Canonical := h.ctOnlyIf hb

theorem execSetvl (h : s.Canonical) : NextIs State.Canonical (execSetvl g d a b s) := by
  refine h.ctVector fun id v hv => ?_
  have set (w : VT) (hw : w.Canonical) : (s.setVt id w).Canonical := h.setVt hw
  exact .ite (fun _ => set _ hv.writeX.retire.frame) fun _ => (set _ hv.writeX.retire.frame).requestSpan

theorem execSetcfg (h : s.Canonical) : NextIs State.Canonical (execSetcfg g d a s) := h.ctRegs fun _ hv => hv.applyCfg.writeX

theorem execSetmt (h : s.Canonical) : NextIs State.Canonical (execSetmt g a s) := h.ctRegs fun _ hv => hv.writeVmt

theorem execSetem (h : s.Canonical) : NextIs State.Canonical (execSetem g a s) := h.ctRegs fun _ hv => hv.frame

theorem execSetseg {seg} (h : s.Canonical) : NextIs State.Canonical (execSetseg g seg a s) := h.ctRegs fun _ hv => hv.writeSeg

/-! ### Single values (R186 to R189) -/

theorem execVjoin (h : s.Canonical) : NextIs State.Canonical (execVjoin g s) :=
  h.ctOnly fun _ _ hv => .ite (fun _ => h.setVt hv.retire) fun _ => h

theorem execXseed (h : s.Canonical) : NextIs State.Canonical (execXseed g a s) := by
  refine h.ctVector fun _ _ hv => .ite (fun _ => h) fun _ => ?_
  split
  · exact h.setVt hv.retire
  · exact .ite (fun _ => h.ctFault) fun _ => h.setVt hv.retire.frame

theorem execXdrain (h : s.Canonical) : NextIs State.Canonical (execXdrain g d s) := by
  refine h.ctVector fun _ _ hv => .ite (fun _ => h) fun _ => ?_
  split
  · exact h.ctFault
  · exact .ite (fun _ => h.ctFault) fun _ => h.setVt hv.writeX.retire.frame

theorem execVbcast (h : s.Canonical) : NextIs State.Canonical (execVbcast g d a s) :=
  h.ctVector fun _ _ hv => .ite (fun _ => h) fun _ => h.setVt hv.enqueue.settleAll.retire

theorem execVextract (h : s.Canonical) : NextIs State.Canonical (execVextract g d a b s) :=
  h.ctVector fun _ _ hv => .ite (fun _ => h) fun _ => .ite (fun _ => h.setVt hv.frame) fun _ => .ite (fun _ => h.ctFault) fun _ =>
    h.setVt (.retire (.writeX hv.frame))

/-! ### Blocks that are sent (R29, R218) -/

theorem vfFault {c x} (h : s.Canonical) : (s.vfFault id v c x).Canonical := h.detect

theorem sendBlock {x e} (h : s.Canonical) (hv : v.Canonical) : (s.sendBlock id v x e).Canonical := by
  refine .ite (fun _ => h.ctFault) fun _ => ?_
  split
  · next hr => exact h.fetchLine.wait hr
  · next hr => exact (h.fetchLine.fault hr).vfFault
  · exact h.violate
  · next hr =>
    have fetched := h.fetchLine.ok hr
    split
    · exact h
    · split
      · exact fetched.vfFault
      · refine .ite (fun _ => h) fun _ => .ite (fun _ => fetched.vfFault) fun _ => .ite (fun _ => fetched.vfFault) fun _ => ?_
        split
        · exact fetched.vfFault
        · exact .ite (fun _ => h) fun _ => fetched.setVt hv.takeCounts.enqueue.retire

theorem execVf {imm} (h : s.Canonical) : NextIs State.Canonical (execVf g imm s) := h.ctVector fun _ _ hv => h.sendBlock hv

theorem execVfr {imm} (h : s.Canonical) : NextIs State.Canonical (execVfr g a imm s) := h.ctVector fun _ _ hv => h.sendBlock hv

/-! ### Vector memory (R190 to R199) -/

theorem issueMemory {isStore r mode dc q hint} (h : s.Canonical) :
    (s.issueMemory isStore g r a b mode dc q hint).Canonical := by
  refine h.ctOnlyIf fun _ _ hv => .ite (fun _ => h) fun _ => h.setVt (.retire (.leaveWindow (.settleAll (.enqueue ?_))))
  exact .ite (fun _ => .takeQueues hv.frame) fun _ => hv.frame

theorem elementFault {e c x} (h : s.Canonical) : (s.elementFault id v e i c x).Canonical := h.detect

theorem loadElement {e x} (h : s.Canonical) : (s.loadElement v e x).Leaves State.Canonical := by
  unfold State.loadElement
  split
  · exact h.loadRaw
  · exact h.loadSpace

theorem storeElement {e n x bs bad} (h : s.Canonical) : (s.storeElement id v e n x bs bad).Leaves State.Canonical := by
  refine Access.Leaves.bind ?_ fun _ _ h => h
  split
  · exact h.checkSpace.bind fun _ _ h => h
  · split
    · exact h.storeSpace
    · exact h.checkSpace

end State.Canonical

end Sys2Proof.Machine
end

section
/-! SUPPORT. The performing of vector memory instructions, spill records and the matrix instructions keep the canonical form (R192 to
R199, R263, R220 to R232). -/

set_option Elab.async false

namespace Sys2Proof.Machine

open Sys2Proof

/-- Whatever comes of the attempt, the state is one of these. -/
def Attempt.Leaves (P : State → Prop) : Attempt → Prop
  | .performed t | .failed t | .waits t => P t

theorem Attempt.Leaves.performed {P : State → Prop} {a : Attempt} {t : State} (h : a.Leaves P) (e : a = .performed t) : P t := by
  subst e; exact h

theorem Attempt.Leaves.failed {P : State → Prop} {a : Attempt} {t : State} (h : a.Leaves P) (e : a = .failed t) : P t := by
  subst e; exact h

theorem Attempt.Leaves.waits {P : State → Prop} {a : Attempt} {t : State} (h : a.Leaves P) (e : a = .waits t) : P t := by
  subst e; exact h

theorem Attempt.Leaves.ite {P : State → Prop} {p : Prop} [Decidable p] {a b : Attempt} (ha : p → a.Leaves P)
    (hb : ¬ p → b.Leaves P) : (if p then a else b).Leaves P := by
  split
  · exact ha ‹_›
  · exact hb ‹_›

namespace State.Canonical

variable {s t : State} {id n : Nat} {i : Fin 32} {k : Fin 8} {v : VT} {g : Guard} {d a b : Reg}

/-! ### Elements of vector memory instructions (R192, R193, R196, R314) -/

theorem attempted {e x r} {done : List Byte → VT → VT} (h : s.Canonical) (hr : r.Leaves State.Canonical)
    (hd : ∀ bs (v : VT), v.Canonical → (done bs v).Canonical) :
    (s.attempted id v e i x r done).Leaves State.Canonical := by
  cases r with
  | ok bs t => exact State.Canonical.modVt hr (hd bs)
  | fault c t => exact State.Canonical.elementFault hr
  | violation => exact h.violate
  | wait t => exact hr

theorem attemptAgain {e x} (h : s.Canonical) : (s.attemptAgain id v e i x).Leaves State.Canonical :=
  .ite (fun _ => h) fun _ => h.attempted h.storeElement fun _ _ hv => hv.setEntry

theorem attemptElement {e} (h : s.Canonical) (hv : v.Canonical) : (s.attemptElement id v e i).Leaves State.Canonical := by
  refine .ite (fun _ => h) fun _ => ?_
  split
  · exact h.attemptAgain
  · exact .ite (fun _ => h.setVt hv.nextElement) fun _ => .ite (fun _ => h.elementFault) fun _ => .ite (fun _ => h) fun _ =>
      .ite (fun _ => h.elementFault) fun _ => .ite (fun _ => h.attempted h.storeElement fun _ _ hv => hv.nextElement) fun _ =>
        h.attempted h.loadElement fun _ _ hv => .nextElement hv.frame

theorem performVp (h : s.Canonical) : (s.performVp id k i n).1.Canonical := by
  induction n generalizing s with
  | zero => exact h
  | succ n ih =>
    unfold State.performVp
    split
    · exact h
    · next hv =>
      split
      · exact h
      · split
        · exact h
        · have attempt {e} := h.attemptElement (id := id) (i := i) (e := e) (h.vt? hv)
          split
          · next ha => exact ih (attempt.performed ha)
          · next ha => exact attempt.failed ha
          · next ha => exact attempt.waits ha

theorem performVps {is} (h : s.Canonical) : (s.performVps id k n is).Canonical := by
  induction is generalizing s with
  | nil => exact h
  | cons i is ih =>
    have first := h.performVp (id := id) (k := k) (i := i) (n := n)
    unfold State.performVps
    split
    · next e => rw [e] at first; exact first
    · next e => rw [e] at first; exact ih first

theorem performAll (h : s.Canonical) : (s.performAll id k).Canonical := by
  unfold State.performAll
  split
  · exact h
  · split
    · exact h
    · refine h.performVps.showStores.modVt fun _ hv => ?_
      split
      · exact .ite (fun _ => hv.finishEntry) fun _ => hv
      · exact hv

theorem sendHeaders {e} (h : s.Canonical) (hv : v.Canonical) : (s.sendHeaders id v e).Canonical :=
  .foldl (h.setVt hv.setEntry) fun _ _ h => h.frame

theorem execVectorMemoryPerformed (h : s.Canonical) : NextIs State.Canonical (execVectorMemoryPerformed id k s) := by
  unfold Machine.execVectorMemoryPerformed NextIs
  dsimp only
  split
  · exact h
  · next hv =>
    split
    · exact h
    · exact .ite (fun _ => h) fun _ => .settleKill (.performAll (.ite (fun _ => h.sendHeaders (h.vt? hv)) fun _ => h))

/-! ### Retries, monitors, timeouts (R52, R90, R175, R236) -/

theorem grant {r} (h : s.Canonical) : (s.grant r).Canonical := by
  unfold State.grant
  split
  · refine .modVt h.frame fun _ hv => ?_
    split
    · exact hv.setEntry
    · exact hv
  all_goals exact h.frame

theorem execRetry {r} (h : s.Canonical) : NextIs State.Canonical (execRetry r s) := by
  unfold Machine.execRetry NextIs
  dsimp only
  split
  · exact h
  · exact .ite (fun _ => h) fun _ => .ite (fun _ => h.frame) fun _ => .grant h.frame

theorem execMonitorWake (h : s.Canonical) : NextIs State.Canonical (execMonitorWake id s) := by
  unfold Machine.execMonitorWake NextIs
  dsimp only
  split
  · exact h
  · split
    · exact .ite (fun _ => h) fun _ => .settleKill (h.wakeAcquire fun _ hv => hv.writeX)
    · exact h

theorem execParkTimeout (h : s.Canonical) : NextIs State.Canonical (execParkTimeout id s) := by
  unfold Machine.execParkTimeout NextIs
  dsimp only
  split
  · exact h
  · split
    · exact .ite (fun _ => h) fun _ => .settleKill (h.wake fun _ hv => hv)
    · exact h

theorem execIssueAgeing (h : s.Canonical) : NextIs State.Canonical (execIssueAgeing id s) :=
  h.modVt fun _ hv => .ite (fun _ => hv.frame) fun _ => hv

/-! ### Spill records (R263) -/

theorem putRecord {loc bs marks} (h : s.Canonical) : (s.putRecord loc bs marks).Canonical := h.writeBytes

theorem restored (hv : v.Canonical) : (s.restored v).Canonical := by
  unfold State.restored
  split
  · exact hv
  · exact .ite (fun _ => hv) fun _ => hv.frame

theorem restoredGang {x : Gang} (hx : x.Canonical) : (s.restoredGang x).Canonical := by
  unfold State.restoredGang
  dsimp only
  split
  · exact hx
  · split
    · exact hx
    · exact hx.frame

theorem saveContext (h : s.Canonical) : (s.saveContext id).Canonical := by
  cases hv : s.vt? id with
  | none => rw [State.saveContext_absent hv]; exact h
  | some v =>
    obtain ⟨-, e⟩ | ⟨loc, -, e⟩ := State.saveContext_cases hv <;> rw [e]
    · exact h
    · exact h.putRecord.setVt (h.vt? hv).frame

/-- The room is named apart: the kernel would compute it. -/
theorem saveGang {key} (h : s.Canonical) : (s.saveGang key).Canonical := by
  unfold State.saveGang
  obtain ⟨room, hroom⟩ : ∃ room, room = State.ctxRoom := ⟨_, rfl⟩
  rw [← hroom]
  split
  · exact h
  · next hg =>
    split
    · exact h
    · exact h.putRecord.setGang (h.gang? hg).frame

/-! ### The matrix unit (R220 to R232) -/

theorem execMopBlockCompletion (h : s.Canonical) : NextIs State.Canonical (execMopBlockCompletion id s) := by
  unfold Machine.execMopBlockCompletion NextIs
  dsimp only
  split
  · exact h
  · next hv =>
    have hv := h.vt? hv
    split
    · exact .ite (fun _ => h) fun _ => .ite (fun _ => .settleKill (h.setVt hv.frame)) fun _ =>
        .settleKill (.setVt h.frame hv.frame)
    · exact h

theorem stopMop (h : s.Canonical) : (s.stopMop id).Canonical := by
  unfold State.stopMop
  split
  · exact h
  · next hv =>
    split
    · exact .ite (fun _ => h) fun _ => .setVt h.frame (h.vt? hv).frame
    · exact h

theorem execMxon (h : s.Canonical) : NextIs State.Canonical (execMxon g a s) := by
  refine h.ctOnly fun _ _ hv => .ite (fun _ => h.ctFault) fun _ => .ite (fun _ => h) fun _ => ?_
  split
  · exact h.setVt hv.frame
  · exact .ite (fun _ => h.setVt hv.frame) fun _ => h.setVt hv.frame

theorem execMxoff (h : s.Canonical) : NextIs State.Canonical (execMxoff g s) :=
  h.ctOnly fun _ _ hv => .ite (fun _ => h) fun _ => h.setVt hv.frame

theorem ctMatrix {reads ok} {body : Claim → State} (h : s.Canonical) (hb : ∀ c, (body c).Canonical) :
    (s.ctMatrix id v reads ok body).Canonical := by
  unfold State.ctMatrix
  split
  · exact h.ctFault
  · exact .ite (fun _ => h.ctFault) fun _ => .ite (fun _ => h.ctFault) fun _ => hb _

theorem mopIssue {acc vs scaled reassoc} (h : s.Canonical) : (s.mopIssue g acc a b vs scaled reassoc).Canonical :=
  h.ctVector fun _ _ hv => h.ctMatrix fun _ => .ite (fun _ => h) fun _ => .ite (fun _ => h.setVt hv.frame) fun _ =>
    .ite (fun _ => h.ctFault) fun _ => .ite (fun _ => h.setVt hv.frame) fun _ => h.setVt (.ite (fun _ => hv.frame) fun _ => hv.frame)

theorem execMopz {acc} (h : s.Canonical) : NextIs State.Canonical (execMopz g acc s) := by
  refine h.ctOnly fun _ _ hv => ?_
  split
  · exact h.ctFault
  · split
    · exact .ite (fun _ => h.setVt hv.frame) fun _ => h.setVt hv.frame
    · exact h.setVt hv.frame

theorem accMove {acc toVp} {body : Nat → VT → Claim → State} (h : s.Canonical)
    (hb : ∀ id (v : VT) c, v.Canonical → (body id v c).Canonical) : (s.accMove g acc a b toVp body).Canonical := by
  have skipped : (s.ctVector g [] fun _ _ => s).Canonical := h.ctVector fun _ _ _ => h
  unfold State.accMove
  split
  · split
    · exact .ite (fun _ => h.ctFault) fun _ => h.ctVector fun _ _ hv => h.ctMatrix fun _ => .ite (fun _ => h) fun _ =>
        .ite (fun _ => h.setVt hv.frame) fun _ => .ite (fun _ => h.ctFault) fun _ => hb _ _ _ hv.frame
    · exact h
  · exact skipped

theorem execMova {acc} (h : s.Canonical) : NextIs State.Canonical (execMova g acc a b s) :=
  h.accMove fun _ _ _ hv => h.setVt hv.frame

theorem execMovta {acc} (h : s.Canonical) : NextIs State.Canonical (execMovta g acc a b s) :=
  h.accMove fun _ _ _ hv => h.setVt hv.frame

end State.Canonical

end Sys2Proof.Machine
end

section
/-! SUPPORT. Messages between devices and the link engine keep the canonical form (R274 to R281, R382 to R384). -/

set_option Elab.async false

namespace Sys2Proof.Machine

open Sys2Proof

/-- Whatever becomes of the message, the state is one of these. -/
def Dealt.Leaves (P : State → Prop) : Dealt → Prop
  | .done t | .failed _ t => P t
  | .violation _ | .notNow => True

theorem Dealt.Leaves.ite {P : State → Prop} {p : Prop} [Decidable p] {a b : Dealt} (ha : p → a.Leaves P)
    (hb : ¬ p → b.Leaves P) : (if p then a else b).Leaves P := by
  split
  · exact ha ‹_›
  · exact hb ‹_›

namespace State.Canonical

variable {s t : State} {n port dom va : Nat} {key : ConnKey} {p : Packet}

/-! ### Packets to send, and those that are taken (R275, R278) -/

theorem setConn {c} (h : s.Canonical) : (s.setConn key c).Canonical := h.frame

theorem drop (h : s.Canonical) : (s.drop port).Canonical := h.frame

theorem sendControl {kind apsn addr tag payload} (h : s.Canonical) : (s.sendControl key kind apsn addr tag payload).Canonical :=
  h.frame

theorem putOut {m} (h : s.Canonical) : (s.putOut key m).Canonical := by
  unfold State.putOut
  split
  · exact h
  · exact h.frame

theorem sendSequenced {kind flags addr len payload cmd off} (h : s.Canonical) :
    (s.sendSequenced key kind flags addr len payload cmd off).Canonical := by
  unfold State.sendSequenced
  split
  · exact h
  · exact .ite (fun _ => h.putOut) fun _ => h.setConn

theorem flush (h : s.Canonical) : (s.flush key).Canonical := by
  unfold State.flush
  split
  · exact h
  · exact h.setConn.foldl fun _ _ h => h.putOut

theorem sendStatus {psn cause} (h : s.Canonical) : (s.sendStatus key psn cause).Canonical := h.sendControl

theorem sendAck {x} (h : s.Canonical) : (s.sendAck key x).Canonical := h.sendControl

theorem acceptMessage {psn cause} (h : s.Canonical) : (s.acceptMessage key psn cause).Canonical := by
  unfold State.acceptMessage
  split
  · exact h
  · cases cause with
    | none => exact h.setConn.sendAck
    | some e => exact h.setConn.sendStatus.sendAck

theorem receive {isRead bad} {perform : ConnKey → Conn → State → Dealt} (h : s.Canonical)
    (hp : ∀ key c, (perform key c s).Leaves State.Canonical) : (s.receive p isRead bad perform).Canonical := by
  unfold State.receive
  split
  · exact h.drop
  · next key c _ =>
    have dealt : (if bad then Dealt.failed causeMalformed s else perform key c s).Leaves State.Canonical :=
      .ite (fun _ => h) fun _ => hp key c
    have again (t : State) (ht : t.Canonical) : ((match c.failures.find? (fun (f : Nat × Nat) => f.1 == p.psn) with
        | some f => t.sendStatus key p.psn f.2
        | none => t).sendAck key c.expected).Canonical := by
      split
      · exact ht.sendStatus.sendAck
      · exact ht.sendAck
    dsimp only
    generalize (if bad then Dealt.failed causeMalformed s else perform key c s) = r at dealt
    split
    · cases r with
      | done t => exact State.Canonical.acceptMessage dealt
      | failed e t => exact State.Canonical.acceptMessage dealt
      | violation a => exact h.setConn
      | notNow => exact h
    · split
      · split
        · exact h
        · exact h.setConn.sendControl
      · split
        · cases r with
          | done t => exact again t dealt
          | failed e t => exact (State.Canonical.setConn dealt).sendStatus.sendAck
          | violation a => exact h.setConn
          | notNow => exact h
        · exact again s h

/-! ### What the messages ask for (R276, R277) -/

theorem writeChunks {bs cs} (h : s.Canonical) : (s.writeChunks dom bs va cs).1.Canonical := by
  induction cs generalizing s with
  | nil => exact h
  | cons c cs ih =>
    unfold State.writeChunks
    refine ih ?_
    split
    · next hr => exact h.writeHome.ok hr
    · next hr => exact h.writeHome.fault hr
    · next hr => exact (h.writeHome.wait hr).stallOn
    · exact h

theorem readChunks {cs} (h : s.Canonical) : (s.readChunks dom cs).2.1.Canonical := by
  induction cs generalizing s with
  | nil => exact h
  | cons c cs ih =>
    unfold State.readChunks
    refine ih ?_
    split
    · next hr => exact h.readHome.ok hr
    · next hr => exact h.readHome.fault hr
    · next hr => exact (h.readHome.wait hr).stallOn
    · exact h

theorem overChunks {cs} {k : State → State × Option Nat} (hk : (k s).1.Canonical) :
    (s.overChunks dom cs k).Leaves State.Canonical := by
  unfold State.overChunks
  split
  · trivial
  · dsimp only
    split <;> exact hk

theorem execWrite (h : s.Canonical) : NextIs State.Canonical (execWrite p s) :=
  h.receive fun _ _ => overChunks h.writeChunks

theorem execRead (h : s.Canonical) : NextIs State.Canonical (execRead p s) :=
  h.receive fun _ _ => overChunks h.readChunks.sendControl

theorem execSend (h : s.Canonical) : NextIs State.Canonical (execSend p s) := h.receive fun _ _ => h.post

theorem addElement {x} (h : s.Canonical) : (s.addElement dom va n x).1.Canonical := by
  unfold State.addElement
  split
  · next hr => exact h.atHome.fault hr
  · next hr => exact (h.atHome.wait hr).stallOn
  · exact h
  · next hr =>
    have h := h.atHome.ok hr
    split
    · exact h
    · exact h.homeWrite

theorem addElements {bs k} (h : s.Canonical) : (s.addElements dom va n bs k).1.Canonical := by
  induction k generalizing s va bs with
  | zero => exact h
  | succ k ih =>
    unfold State.addElements
    split
    · exact h
    · exact ih h.addElement

theorem execAddw (h : s.Canonical) : NextIs State.Canonical (execAddw p s) :=
  h.receive fun _ _ => overChunks h.addElements

theorem execSignalMessage (h : s.Canonical) : NextIs State.Canonical (execSignalMessage p s) := by
  refine h.receive fun _ _ => ?_
  dsimp only
  split <;> exact h.fput

/-! ### Acknowledgement and retransmission (R278 to R280) -/

theorem settleLink {cmd} (h : s.Canonical) : (s.settleLink cmd).Canonical := by
  unfold State.settleLink
  split
  · exact h
  · exact .ite (fun _ => h.setCommand) fun _ => h

theorem modCommand {cmd f} (h : s.Canonical) : (s.modCommand cmd f).Canonical := by
  unfold State.modCommand
  split
  · exact h
  · split
    · exact .ite (fun _ => h.setCommand.settleLink) fun _ => h
    · exact h

theorem retireMessages {ms} (h : s.Canonical) : (s.retireMessages ms).Canonical := h.foldl fun _ _ h => h.modCommand

theorem resend {ms} (h : s.Canonical) : (s.resend ms).Canonical := h.frame

theorem execAck (h : s.Canonical) : NextIs State.Canonical (execAck p s) := by
  unfold Machine.execAck NextIs
  dsimp only
  split
  · exact h.drop
  · exact h.setConn.retireMessages.flush

theorem execNak (h : s.Canonical) : NextIs State.Canonical (execNak p s) := by
  unfold Machine.execNak NextIs
  dsimp only
  split
  · exact h.drop
  · exact h.resend

theorem execStatus (h : s.Canonical) : NextIs State.Canonical (execStatus p s) := by
  unfold Machine.execStatus NextIs
  dsimp only
  split
  · exact h.drop
  · split
    · exact h
    · exact h.modCommand

theorem execReadresp (h : s.Canonical) : NextIs State.Canonical (execReadresp p s) := by
  unfold Machine.execReadresp NextIs
  dsimp only
  split
  · exact h.drop
  · split
    · exact h
    · refine .ite (fun _ => h) fun _ => ?_
      split
      · exact h.setConn.retireMessages.flush
      · refine .ite (fun _ => h.setConn.retireMessages.flush) fun _ => ?_
        split
        · exact h.setConn.writeChunks.setCommand.retireMessages.flush
        · exact h.setConn.writeChunks.modCommand.retireMessages.flush

theorem execCnp (h : s.Canonical) : NextIs State.Canonical (execCnp p s) := by
  unfold Machine.execCnp NextIs
  dsimp only
  split
  · exact h.drop
  · exact h.setConn

theorem execRateIncrease (h : s.Canonical) : NextIs State.Canonical (execRateIncrease key s) := by
  unfold Machine.execRateIncrease NextIs
  dsimp only
  split
  · exact h
  · exact .ite (fun _ => h) fun _ => h.setConn

theorem postFreeze {kind vtid info addr} (h : s.Canonical) : (s.postFreeze dom kind vtid info addr).Canonical := h.post

theorem endLinks {c} (h : s.Canonical) : (s.endLinks key c).Canonical := h.frame

theorem freezeConn {c addr} (h : s.Canonical) : (s.freezeConn key c addr).Canonical := h.endLinks.setConn.postFreeze

theorem execRetransmitTimeout (h : s.Canonical) : NextIs State.Canonical (execRetransmitTimeout key s) := by
  unfold Machine.execRetransmitTimeout NextIs
  dsimp only
  split
  · exact h
  · exact .ite (fun _ => h) fun _ => .ite (fun _ => h.freezeConn) fun _ => h.setConn.resend

/-! ### The link engine (R250, R281) -/

theorem amend {f : Command → Command} (h : s.Canonical) :
    (match s.command? n with
      | some c => s.setCommand (f c)
      | none => s).Canonical := by
  split
  · exact h.setCommand
  · exact h

theorem linkMessage {k} (h : s.Canonical) (ht : s.linkMessage key k = some t) : t.Canonical := by
  have next {c kind flags addr len payload cmd off} {t : State} (ht : t.Canonical) :
      ((t.setCommand c).sendSequenced key kind flags addr len payload cmd off).Canonical := ht.setCommand.sendSequenced
  unfold State.linkMessage at ht
  dsimp only at ht
  split at ht
  · cases ht
  · split at ht
    · cases ht
    · split at ht
      · cases ht; exact next h
      · cases ht; exact next h
      · have read := fun a n => h.copyReads (w := k.window) (dom := k.domain) (space := 0) (x := a) (n := n)
        split at ht
        · cases ht; exact .ite (fun _ => read _ _) fun _ => .ite (fun _ => next (read _ _)) fun _ => next (read _ _)
        · cases ht
        · cases ht; exact amend (.ite (fun _ => read _ _) fun _ => .ite (fun _ => next (read _ _)) fun _ => next (read _ _))
        · cases ht; exact amend (.ite (fun _ => read _ _) fun _ => .ite (fun _ => next (read _ _)) fun _ => next (read _ _))

theorem linkSend {cmd} (h : s.Canonical) : (s.linkSend key cmd n).Canonical := by
  induction n generalizing s with
  | zero => exact h
  | succ n ih =>
    unfold State.linkSend
    split
    · exact h
    · split
      · exact h
      · split
        · next ht => exact ih (h.linkMessage ht)
        · exact h

theorem runLink {cmd kind} (h : s.Canonical) : (s.runLink cmd kind).Canonical := by
  unfold State.runLink
  split
  · exact h
  · split
    · exact h
    · dsimp only
      split
      · exact .ite (fun _ => h.setCommand) fun _ => h
      · refine .ite (fun _ => h.setCommand) fun _ => .ite (fun _ => .ite (fun _ => h.setCommand) fun _ => h) fun _ => ?_
        split
        · next ht => exact h.setCommand.gate.error ht
        · next ht => exact .frame (h.setCommand.gate.ok ht).linkSend.settleLink

end State.Canonical

end Sys2Proof.Machine
end

section
/-! SUPPORT. Queues and nodes keep the canonical form (R256 to R262, R385 to R387). -/

set_option Elab.async false

namespace Sys2Proof.Machine

open Sys2Proof

/-- Whatever becomes of the line, the state is one of these. -/
def LineOutcome.Leaves (P : State → Prop) : LineOutcome → Prop
  | .done t | .skipped t | .refused t => P t
  | .violation => True

theorem LineOutcome.Leaves.done {P : State → Prop} {o : LineOutcome} {t : State} (h : o.Leaves P) (e : o = .done t) : P t := by
  subst e; exact h

theorem LineOutcome.Leaves.skipped {P : State → Prop} {o : LineOutcome} {t : State} (h : o.Leaves P) (e : o = .skipped t) :
    P t := by
  subst e; exact h

theorem LineOutcome.Leaves.refused {P : State → Prop} {o : LineOutcome} {t : State} (h : o.Leaves P) (e : o = .refused t) :
    P t := by
  subst e; exact h

theorem LineOutcome.Leaves.ite {P : State → Prop} {p : Prop} [Decidable p] {a b : LineOutcome} (ha : p → a.Leaves P)
    (hb : ¬ p → b.Leaves P) : (if p then a else b).Leaves P := by
  split
  · exact ha ‹_›
  · exact hb ‹_›

namespace State.Canonical

variable {s t : State} {k dom va : Nat} {n : SlotRef} {p : Packet}

theorem of_snd {α : Type} {r : α × State} {x : α} (h : r.2.Canonical) (e : r = (x, t)) : t.Canonical := by
  subst e; exact h

theorem of_fst {α : Type} {r : State × α} {x : α} (h : r.1.Canonical) (e : r = (t, x)) : t.Canonical := by
  subst e; exact h

/-! ### What SCHED reads and writes (R256, R283) -/

theorem setQueue {q v} (h : s.Canonical) : (s.setQueue dom q v).Canonical := h.frame

theorem setSlot {x} (h : s.Canonical) : (s.setSlot n x).Canonical := by
  unfold State.setSlot
  split
  · exact h.setQueue
  · exact h

theorem schedReads {permit cs} (h : s.Canonical) : (s.schedReads dom permit cs).2.Canonical := by
  induction cs generalizing s with
  | nil => exact h
  | cons c cs ih =>
    unfold State.schedReads
    split
    · next hr => exact h.readFor.fault hr
    · next hr => exact (h.readFor.wait hr).stallOn
    · exact h
    · next hr =>
      have rest := ih (h.readFor.ok hr)
      split
      · next e => exact of_snd rest e
      · exact rest

theorem schedRead {permit m} (h : s.Canonical) : (s.schedRead dom permit va m).2.Canonical := h.schedReads

theorem schedWrites {bs cs} (h : s.Canonical) : (s.schedWrites dom va bs cs).2.Canonical := by
  induction cs generalizing s with
  | nil => exact h
  | cons c cs ih =>
    unfold State.schedWrites
    split
    · next hr => exact h.writeFor.fault hr
    · next hr => exact (h.writeFor.wait hr).stallOn
    · exact h
    · next hr => exact ih (h.writeFor.ok hr)

theorem schedWrite {bs} (h : s.Canonical) : (s.schedWrite dom va bs).2.Canonical := h.schedWrites

theorem writeHeader {res} (h : s.Canonical) : (s.writeHeader n res).2.Canonical := by
  unfold State.writeHeader
  split
  · exact h
  · next q x _ =>
    dsimp only
    split
    · have first := h.schedWrite (dom := n.domain) (va := slotVa q n.slot + 1) (bs := leBytes 1 x.st.code)
      split
      · next e => exact (of_snd first e).schedWrite
      · exact first
    · exact h.schedWrite

/-! ### The states of a node and of a queue (R255 to R258) -/

theorem abortNode (h : s.Canonical) : (s.abortNode n).Canonical := by
  unfold State.abortNode
  split
  · exact h
  · exact h.setQueue.writeHeader

theorem removeWaiting {no} (h : s.Canonical) : (s.removeWaiting no).Canonical := by
  refine .foldl (h.mapGangs (fun _ _ hg => ?_)) fun _ _ h => h.settleHold
  split <;> exact hg

theorem endAtPoint {id} (h : s.Canonical) : (s.endAtPoint id).Canonical := .settleKill (h.modVt fun _ hv => hv.frame)

theorem stopNodes {q} (h : s.Canonical) : (s.stopNodes dom q).Canonical := by
  unfold State.stopNodes
  split
  · exact h
  · exact .ite (fun _ => h) fun _ => h.setQueue.foldl fun _ _ h => h.abortNode

theorem destroyQueue {q drain} (h : s.Canonical) : (s.destroyQueue dom q drain).Canonical := by
  unfold State.destroyQueue
  split
  · exact h
  · have removed := fun x l => (h.setQueue (dom := dom) (q := q) (v := x)).stopNodes (dom := dom) (q := q).foldl (l := l)
      (f := fun s (l : Launch) => s.removeWaiting l.no) fun _ _ h => h.removeWaiting
    exact .ite (fun _ => (removed _ _).foldl fun _ _ h => h.endAtPoint) fun _ => removed _ _

theorem queueFault {q slot what cause} (h : s.Canonical) : (s.queueFault dom q slot what cause).Canonical := by
  unfold State.queueFault
  split
  · exact h
  · exact .ite (fun _ => h.setQueue.destroyQueue) fun _ => h

theorem publish {res} (h : s.Canonical) : (s.publish n res).Canonical := by
  have header := h.writeHeader (n := n) (res := res)
  unfold State.publish
  split
  · next e => exact of_snd header e
  · next e => exact (of_snd header e).queueFault

theorem readImage {x} (h : s.Canonical) : (s.readImage n x).2.Canonical := by
  unfold State.readImage
  split
  · exact h
  · dsimp only
    split
    · next e => exact of_snd h.schedRead e
    · next e =>
      have first := of_snd h.schedRead e
      split
      · next e => exact of_snd first.schedRead e
      · next e => exact of_snd first.schedRead e

theorem releaseNode (h : s.Canonical) : (s.releaseNode n).Canonical := by
  unfold State.releaseNode
  split
  · exact h
  · split
    next e => exact .publish (.frame (of_snd h.readImage e).setSlot)

theorem creditNode {sid} (h : s.Canonical) : (s.creditNode dom sid).Canonical := by
  unfold State.creditNode
  dsimp only
  split
  · exact h
  · split
    · exact h
    · split
      · exact h.setSlot
      · exact .ite (fun _ => h.setSlot.releaseNode) fun _ => h.setSlot
      · exact h.setSlot

theorem finishNode {done res} (h : s.Canonical) : (s.finishNode n done res).Canonical := by
  unfold State.finishNode
  split
  · exact h
  · exact .ite (fun _ => h.setSlot.publish.foldl fun _ _ h => h.creditNode) fun _ => h.setSlot.publish

/-! ### SCAN (R256, R257) -/

theorem checkNode {x} (h : s.Canonical) : (s.checkNode dom x).2.Canonical := by
  unfold State.checkNode
  dsimp only
  split
  · exact h
  · have rest : (if x.field 4 2 ≤ 6 then (Except.ok [], s)
        else s.schedRead dom .load (x.field 0x20 8) (4 * (x.field 4 2 - 6)) :
        Except (Option Cause) (List Byte) × State).2.Canonical := by
      split
      · exact h
      · exact h.schedRead
    split
    · next e => exact of_snd rest e
    · next e => split <;> exact of_snd rest e

theorem takeSlot (h : s.Canonical) : (s.takeSlot n).Canonical := by
  unfold State.takeSlot
  split
  · exact h
  · dsimp only
    split
    · next e => exact (of_snd h.setSlot.schedRead e).setSlot.finishNode
    · next e =>
      have h := of_snd h.setSlot.schedRead e
      split
      · exact h.queueFault
      · split
        · next e => exact (of_snd h.setSlot.checkNode e).finishNode
        · next e =>
          have h := of_snd h.setSlot.checkNode e
          exact .ite (fun _ => h.setSlot.finishNode) fun _ => .ite (fun _ => h.setSlot.releaseNode) fun _ => h.setSlot.publish

theorem scanQueue {q} (h : s.Canonical) : (s.scanQueue dom q).Canonical := by
  unfold State.scanQueue
  split
  · exact h
  · refine .ite (fun _ => h) fun _ => ?_
    dsimp only
    split
    · next e => exact (of_snd h.setQueue.schedRead e).queueFault
    · next e =>
      have h := of_snd h.setQueue.schedRead e
      split
      · next e => exact (of_snd h.schedRead e).queueFault
      · next e =>
        refine (of_snd h.schedRead e).foldl fun _ _ h => ?_
        split
        · exact .ite (fun _ => h.takeSlot) fun _ => h
        · exact h

theorem execScan {q} (h : s.Canonical) : NextIs State.Canonical (execScan dom q s) := h.scanQueue

theorem askScan {q} (h : s.Canonical) : (s.askScan dom q).Canonical := by
  unfold State.askScan
  split
  · exact h
  · exact h.setQueue.scanQueue

/-! ### Doorbells and submitted nodes (R277) -/

theorem execDoorbell (h : s.Canonical) : NextIs State.Canonical (execDoorbell p s) := by
  refine h.receive fun _ _ => ?_
  split
  · exact h.askScan
  · exact h

theorem invertBit {q slot} (h : s.Canonical) : (s.invertBit dom q slot).1.Canonical := by
  unfold State.invertBit
  split
  · next hr => exact (h.readHome.ok hr).writeChunks
  · next hr => exact h.readHome.fault hr
  · next hr => exact (h.readHome.wait hr).stallOn
  · exact h

theorem submitNodes {q es} (h : s.Canonical) : (s.submitNodes dom q es).1.Canonical := by
  refine foldl_fst (foldl_fst h fun r e h => ?_) fun r k h => h.invertBit
  dsimp only
  split
  · next e => exact of_fst h.writeChunks e
  · next e => exact of_fst h.writeChunks e

theorem execSubmit (h : s.Canonical) : NextIs State.Canonical (execSubmit p s) := by
  refine h.receive fun _ _ => ?_
  dsimp only
  split
  · exact h
  · exact .ite (fun _ => h) fun _ => overChunks h.submitNodes.askScan

/-! ### The nodes that act by themselves (R260, R262) -/

theorem nodeOutcome {failed res} (h : s.Canonical) : (s.nodeOutcome n failed res).Canonical := by
  unfold State.nodeOutcome
  split
  · exact h.setSlot
  · exact h

theorem execCopy (h : s.Canonical) : NextIs State.Canonical (execCopy n s) := by
  unfold Machine.execCopy NextIs
  dsimp only
  split
  · exact h
  · split
    · exact h.copyRun.nodeOutcome
    · exact h.copyRun.nodeOutcome
    · exact h.copyRun.nodeOutcome
    · exact h.copyRun

theorem execSignalNode (h : s.Canonical) : NextIs State.Canonical (execSignalNode n s) := by
  unfold Machine.execSignalNode NextIs
  dsimp only
  split
  · exact h
  · split <;> exact h.fput.nodeOutcome

theorem writeBody {q off bs} (h : s.Canonical) : (s.writeBody n q off bs).Canonical := by
  unfold State.writeBody
  split
  · next e => exact of_snd h.schedWrite e
  · next e => exact (of_snd h.schedWrite e).queueFault

theorem poisonAt (h : s.Canonical) : (s.poisonAt dom va).Canonical := by
  unfold State.poisonAt
  split
  · exact h
  · exact .ite (fun _ => h.frame) fun _ => .ite (fun _ => h) fun _ => h.frame

theorem execWaitfut (h : s.Canonical) : NextIs State.Canonical (execWaitfut n s) := by
  unfold Machine.execWaitfut NextIs
  dsimp only
  split
  · exact h
  · split
    · exact h.nodeOutcome
    · exact h.nodeOutcome
    · split
      · split
        · next e =>
          have h := of_snd h.schedWrite e
          exact .nodeOutcome (.ite (fun _ => h.poisonAt) fun _ => h)
        · next e => exact (of_snd h.schedWrite e).queueFault.nodeOutcome
      · exact h
      · exact h.nodeOutcome
      · exact h.nodeOutcome

theorem execNop (h : s.Canonical) : NextIs State.Canonical (execNop n s) := by
  unfold Machine.execNop NextIs
  dsimp only
  split
  · exact h
  · exact h.nodeOutcome

/-! ### The nodes that act on L2 (R92 to R94) -/

theorem overLines {f : State → Nat → LineOutcome} {vas} (h : s.Canonical)
    (hf : ∀ (t : State) va, t.Canonical → (f t va).Leaves State.Canonical) : (s.overLines f vas).1.Canonical := by
  induction vas generalizing s with
  | nil => exact h
  | cons va vas ih =>
    unfold State.overLines
    split
    · next e => exact ih ((hf s va h).done e)
    · next e => exact ih ((hf s va h).skipped e)
    · next e => exact ih ((hf s va h).refused e)
    · exact h

theorem prefetchLine {pin} (h : s.Canonical) : (s.prefetchLine dom pin va).Leaves State.Canonical := by
  unfold State.prefetchLine
  split
  · trivial
  · next hr => exact h.accessWalk.fault hr
  · next hr => exact (h.accessWalk.wait hr).stallOn
  · next hr =>
    have h := h.accessWalk.ok hr
    dsimp only
    split
    · exact h
    · split
      · exact State.Canonical.frame h
      · split
        · exact h.stallOn
        · split
          · next ht => exact h.want.l2Insert ht
          · exact h

theorem unpinLine (h : s.Canonical) : (s.unpinLine dom va).Leaves State.Canonical := by
  unfold State.unpinLine
  split
  · trivial
  · next hr => exact h.translate.fault hr
  · next hr => exact (h.translate.wait hr).stallOn
  · next hr =>
    have h := h.translate.ok hr
    split
    · trivial
    · split
      · exact State.Canonical.frame h
      · exact h

theorem discardLine (h : s.Canonical) : (s.discardLine dom va).Leaves State.Canonical := by
  unfold State.discardLine
  split
  · trivial
  · next hr => exact h.translate.fault hr
  · next hr => exact (h.translate.wait hr).stallOn
  · next hr =>
    have h := h.translate.ok hr
    dsimp only
    split
    · trivial
    · exact .ite (fun _ => h) fun _ => h.l2Revert

theorem execPrefetch (h : s.Canonical) : NextIs State.Canonical (execPrefetch n s) := by
  unfold Machine.execPrefetch NextIs
  dsimp only
  split
  · exact h
  · have acted := fun pin vas => h.overLines (f := State.prefetchLine n.domain pin) (vas := vas) fun _ _ h => h.prefetchLine
    exact .ite (fun _ => (acted _ _).nodeOutcome) fun _ => (acted _ _).writeBody.nodeOutcome

theorem execUnpin (h : s.Canonical) : NextIs State.Canonical (execUnpin n s) := by
  unfold Machine.execUnpin NextIs
  dsimp only
  split
  · exact h
  · exact (h.overLines fun _ _ h => h.unpinLine).nodeOutcome

theorem execDiscard (h : s.Canonical) : NextIs State.Canonical (execDiscard n s) := by
  unfold Machine.execDiscard NextIs
  dsimp only
  split
  · exact h
  · have acted := fun vas => h.overLines (f := State.discardLine n.domain) (vas := vas) fun _ _ h => h.discardLine
    exact .ite (fun _ => (acted _).nodeOutcome) fun _ => (acted _).writeBody.nodeOutcome

/-! ### LAUNCH, and the end of nodes and queues (R258, R260, R385) -/

theorem enqueueGang {key g c} (h : s.Canonical) (hg : g.Canonical) : (s.enqueueGang key g c).Canonical :=
  have added : ({ s with gangs := s.gangs.set key { g with cluster := c } } : State).Canonical := h.setGang hg.frame
  added.setCluster

theorem newGang {l i} (h : s.Canonical) : (s.newGang l i).Canonical := by
  unfold State.newGang
  split
  · exact h
  · exact enqueueGang h.frame .of_empty

theorem execLaunch (h : s.Canonical) : NextIs State.Canonical (execLaunch n s) := by
  unfold Machine.execLaunch NextIs
  dsimp only
  split
  · exact h
  · refine .ite (fun _ => h) fun _ => ?_
    split
    · exact h.nodeOutcome
    · exact h.nodeOutcome
    · exact .ite (fun _ => h.nodeOutcome) fun _ => .foldl (.frame h.setSlot) fun _ _ h => h.newGang

theorem launchOutcome {o} (h : s.Canonical) (e : s.launchOutcome n = some (o, t)) : t.Canonical := by
  unfold State.launchOutcome at e
  split at e
  · cases e
  · obtain ⟨-, e⟩ := Option.ite_none_right_eq_some.mp e
    split at e
    · cases e; exact h
    · split at e
      · cases e; exact h
      · cases e; exact h.draw

theorem execNodeCompletion (h : s.Canonical) : NextIs State.Canonical (execNodeCompletion n s) := by
  unfold Machine.execNodeCompletion NextIs
  dsimp only
  split
  · exact h
  · refine .ite (fun _ => h) fun _ => ?_
    split
    · exact h
    · next o t e =>
      have h : t.Canonical := by
        split at e
        · cases e; exact h
        · split at e
          · exact h.launchOutcome e
          · cases e
      exact .ite (fun _ => .ite (fun _ => h) fun _ => h.abortNode) fun _ =>
        .ite (fun _ => h.finishNode) fun _ => h.finishNode

theorem execQueueDestroyed {q} (h : s.Canonical) : NextIs State.Canonical (execQueueDestroyed dom q s) := by
  unfold Machine.execQueueDestroyed NextIs
  dsimp only
  split
  · exact h
  · refine .ite (fun _ => h.stopNodes) fun _ => .ite (fun _ => h) fun _ => ?_
    have aborted := fun l => h.foldl (l := l) (f := fun s (e : Nat × Slot) => s.abortNode { domain := dom, queue := q, slot := e.1 })
      fun _ _ h => h.abortNode
    split
    · exact aborted _
    · exact (aborted _).setQueue.post

end State.Canonical

end Sys2Proof.Machine
end

section
/-! SUPPORT. The placing, storing and freezing of gangs and VTs keep the canonical form (R261 to R273, R311, R322). -/

set_option Elab.async false

namespace Sys2Proof.Machine

open Sys2Proof

namespace VT.Canonical

variable {v : VT} {s : State} {c : Nat}

theorem evict (h : v.Canonical) : v.evict.Canonical := h.frame

theorem onCore (h : v.Canonical) : (s.onCore v c).Canonical := h.frame

end VT.Canonical

namespace State.Canonical

variable {s t : State} {id c g key : Nat} {v : VT} {x : Gang} {w u : TileId} {f : Word64}

/-! ### Placement (R265 to R267) -/

theorem capHold (h : s.Canonical) : (s.capHold g).Canonical := h.frame

theorem launchedVt {l : Launch} {rank} : (l.vt key x rank c).Canonical :=
  VT.Canonical.applyCfg .of_empty

theorem createMembers {l cs rank ids} (h : s.Canonical) : (s.createMembers l key x cs rank ids).1.Canonical := by
  induction cs generalizing s rank ids with
  | nil => exact h
  | cons c cs ih =>
    have drawn : s.freshVt.2.Canonical := h.frame
    exact ih (drawn.setVt (launchedVt (l := l) (rank := rank)).frame)

theorem seatMember {e} (h : s.Canonical) : (s.seatMember e).Canonical := h.modVt fun _ hv => hv.frame

theorem installGang {cs base} (h : s.Canonical) (hx : x.Canonical) : (s.installGang g key x cs base).Canonical := by
  unfold State.installGang
  have members : (if x.members = [] then
      match s.launches.find? fun (l : Launch) => l.no == x.launchNo with
      | some l => s.createMembers l key x cs 0 []
      | none => (s, [])
    else (((s.liveMembers x).map Prod.fst |>.zip cs).foldl State.seatMember s, x.members) : State × List Nat).1.Canonical := by
    split
    · split
      · exact h.createMembers
      · exact h
    · exact h.foldl fun _ _ h => h.seatMember
  have placed {y : Gang} (t : State) {n ls} (ht : t.Canonical) (hy : y.Canonical) :
      ({ t with gangs := t.gangs.set key y, nextOrder := n, launches := ls } : State).Canonical := .frame (ht.setGang hy)
  exact (placed _ members hx.frame).setCluster

theorem overtake (h : s.Canonical) : (s.overtake g key).Canonical := by
  unfold State.overtake
  split
  · exact h
  · next hx =>
    refine h.setGang ?_
    split
    · exact (h.gang? hx).frame
    · exact (h.gang? hx).frame

/-- (`State.fit` is generalised before the pass is reduced: evaluated, it would count through cores and CSP units.) -/
theorem placePass {ks skipped} (h : s.Canonical) : (s.placePass g ks skipped).Canonical := by
  delta State.placePass State.placePass._f
  generalize State.fit = fit
  induction ks generalizing s skipped with
  | nil => exact h
  | cons k ks ih =>
    dsimp only
    split
    · exact ih h
    · next x hx =>
      split
      · next cs base _ =>
        have overtaken := (h.installGang (g := g) (key := k) (cs := cs) (base := base) (h.gang? hx)).foldl (l := skipped)
          (f := fun s j => s.overtake g j) fun _ _ h => h.overtake
        have placed := (State.Canonical.ite (p := x.st = .aged) (fun _ => overtaken.settleHold (n := g)) fun _ => overtaken).capHold
          (g := g)
        exact .ite (fun _ => placed) fun _ => ih placed
      · split
        · exact h
        · exact ih h

theorem execPlacement (h : s.Canonical) : NextIs State.Canonical (execPlacement c s) :=
  State.Canonical.ite (fun _ => h.placePass) fun _ => h

/-! ### Binding, swapping and freezing (R45, R51, R270, R311, R322) -/

theorem bindVt (h : s.Canonical) : (s.bindVt id).Canonical := by
  unfold State.bindVt
  split
  · exact h
  · split
    · exact h
    · exact h.bindTo.modVt fun _ hv => hv.frame

theorem settleBind (h : s.Canonical) : (s.settleBind id).Canonical := by
  unfold State.settleBind
  split
  · exact h
  · exact .ite (fun _ => h.bindVt) fun _ => h

theorem freezeVt {f} (h : s.Canonical) (hv : v.Canonical) : (s.freezeVt id v f).Canonical :=
  .postFreeze (.saveContext (.leaveFifo (.leaveFutures (h.holdFreed.setVt hv.evict.frame))))

theorem setCore {k} (h : s.Canonical) : (s.setCore c k).Canonical := h.frame

theorem swapIn (h : s.Canonical) : (s.swapIn id c).Canonical :=
  .capHold (.setCore (.modVt (.bindVt (h.modVt fun _ hv => hv.onCore)) fun _ hv => (restored hv).frame))

theorem execSwapIn (h : s.Canonical) : NextIs State.Canonical (execSwapIn id s) := by
  unfold Machine.execSwapIn NextIs
  dsimp only
  split
  · exact h
  · next hv =>
    split
    · split
      · exact .ite (fun _ => h) fun _ => .ite (fun _ => h.swapIn) fun _ => h.freezeVt (h.vt? hv)
      · exact h
    · exact h

theorem leavePoint (h : s.Canonical) : (s.leavePoint id).Canonical := h.stopMop.flushVt

theorem swapOut (h : s.Canonical) : (s.swapOut id).Canonical := by
  unfold State.swapOut
  split
  · exact h
  · next hv =>
    exact .saveContext (.setVt h.leavePoint.holdFreed.leaveFifo (h.leavePoint.vt? hv).evict.frame)

theorem execSwapOut (h : s.Canonical) : NextIs State.Canonical (execSwapOut id s) := by
  unfold Machine.execSwapOut NextIs
  dsimp only
  split
  · exact h
  · exact .ite (fun _ => h.swapOut) fun _ => h

theorem execMove (h : s.Canonical) : NextIs State.Canonical (execMove id c s) := by
  unfold Machine.execMove NextIs
  dsimp only
  split
  · exact h
  · exact .ite (fun _ => h.swapOut.swapIn) fun _ => h

theorem execLprWrite {value} (h : s.Canonical) : NextIs State.Canonical (execLprWrite c value s) := by
  refine State.Canonical.ite (fun _ => mapVts h.setCore (fun _ v hv => ?_) rfl rfl rfl) fun _ => h
  split
  · exact hv.frame
  · exact hv

/-- A gang becomes one whose window is in canonical form; storage and the other windows are as they were. -/
theorem putGang {n} (h : s.Canonical) (hx : x.Canonical) (hm : t.mem = s.mem) (hv : t.vts = s.vts)
    (hg : t.gangs = s.gangs.set n x) : t.Canonical :=
  (h.setGang (n := n) hx).frame hm hv hg

theorem storeMember (h : s.Canonical) : (s.storeMember id).Canonical := by
  unfold State.storeMember
  split
  · exact h
  · next hv => exact .ite (fun _ => h.swapOut) fun _ => h.holdFreed.leaveFifo.setVt (h.vt? hv).evict

theorem execGangPreemption (h : s.Canonical) : NextIs State.Canonical (execGangPreemption g s) := by
  unfold Machine.execGangPreemption NextIs
  dsimp only
  split
  · exact h
  · next x _ =>
    split
    · exact h
    · refine .ite (fun _ => h) fun _ => ?_
      have stored : (((x.members.foldl State.storeMember s).saveGang g).holdCsp x).Canonical :=
        .holdCsp (.saveGang (h.foldl fun _ _ h => h.storeMember))
      split
      · exact h
      · next hy =>
        exact .ite (fun _ => putGang stored (stored.gang? hy).frame rfl rfl rfl) fun _ => h

theorem freezeMembers (h : s.Canonical) : (s.freezeMembers x).Canonical := by
  refine List.foldlRecOn (motive := State.Canonical) _ _ h fun t ht e he => .ite (fun _ => ht) fun _ => ht.freezeVt ?_
  obtain ⟨k, -, hk⟩ := List.mem_filterMap.mp he
  split at hk
  · next hv => split at hk <;> cases hk; exact h.vt? hv
  · cases hk

theorem execGangRestore (h : s.Canonical) : NextIs State.Canonical (execGangRestore g s) := by
  unfold Machine.execGangRestore NextIs
  dsimp only
  split
  · exact h
  · next hx =>
    refine .ite (fun _ => h) fun _ => .ite (fun _ => h.freezeMembers) fun _ => .ite (fun _ => h) fun _ => ?_
    split
    · exact h
    · exact .setCluster (h.setGang (restoredGang (h.gang? hx)).frame)

theorem execFaultStop (h : s.Canonical) : NextIs State.Canonical (execFaultStop id s) := by
  unfold Machine.execFaultStop NextIs
  dsimp only
  split
  · exact h
  · split
    · split
      · exact h
      · exact h.leavePoint.takeFault.saveContext
    · exact h

theorem freezeVtAt {addr} (h : s.Canonical) : (s.freezeVtAt id addr).Canonical := by
  unfold State.freezeVtAt
  split
  · exact h
  · next hv =>
    split
    · exact h
    · exact .ite (fun _ => h.leavePoint.freezeVt (h.leavePoint.vt? hv)) fun _ => h

theorem freezeChannel {eng chan addr} (h : s.Canonical) : (s.freezeChannel id eng chan addr).Canonical := by
  unfold State.freezeChannel
  dsimp only
  split
  · exact h
  · refine .postFreeze ?_
    split
    · exact .modVt h.frame fun _ hv => hv.frame
    · exact h.frame

theorem execFreeze {m addr} (h : s.Canonical) : NextIs State.Canonical (execFreeze m addr s) := by
  unfold Machine.execFreeze NextIs
  dsimp only
  split
  · exact h.freezeVtAt
  · exact h.freezeChannel
  · split
    · exact h
    · exact .ite (fun _ => h.freezeConn) fun _ => h

end State.Canonical

end Sys2Proof.Machine
end

section
/-! SUPPORT. The heartbeat watch keeps the canonical form (R350 to R359). -/

set_option Elab.async false

namespace Sys2Proof.Machine

open Sys2Proof

namespace State.Canonical

variable {s t : State} {w u n : TileId} {f : Word64}

/-! ### Flits, views and tiles -/

theorem sendFlit {dest} (h : s.Canonical) : (s.sendFlit w dest f).Canonical := .ite (fun _ => h) fun _ => h.frame

theorem takeFlit (h : s.Canonical) : (s.takeFlit w f).Canonical := h.frame

theorem setView {v} (h : s.Canonical) : (s.setView w u v).Canonical := h.frame

theorem modView {k} (h : s.Canonical) : (s.modView w u k).Canonical := h.setView

theorem setTile {x} (h : s.Canonical) : (s.setTile w x).Canonical := h.frame

theorem modTile {k} (h : s.Canonical) : (s.modTile w k).Canonical := h.setTile

theorem noteCorrected {n} (h : s.Canonical) : (s.noteCorrected w n).Canonical := h.modTile

theorem endBist {pass} (h : s.Canonical) : (s.endBist w pass).Canonical := h.modTile

theorem clearViews (h : s.Canonical) : (s.clearViews u).Canonical := h.foldl fun _ _ h => h.modView

/-! ### Verdicts, accusations, consents (R350 to R359) -/

theorem noteQuorum {cause} (h : s.Canonical) : (s.noteQuorum w u cause).Canonical := .ite (fun _ => h.modView) fun _ => h

theorem retestQuorums (h : s.Canonical) : (s.retestQuorums w).Canonical :=
  h.foldl fun _ _ h => h.foldl fun _ _ h => .ite (fun _ => h) fun _ => h.noteQuorum

theorem sendAccuse (h : s.Canonical) : (s.sendAccuse w u).Canonical := h.modView.sendFlit

theorem enterAccuse {cause} (h : s.Canonical) : (s.enterAccuse w u cause).Canonical := h.modView.sendAccuse.noteQuorum

theorem refuseAppeal (h : s.Canonical) : (s.refuseAppeal w u).Canonical :=
  .ite (fun _ => h) fun _ => .ite (fun _ => h.modView.sendFlit) fun _ => h.modView

theorem babble {cause} (h : s.Canonical) : (s.babble w u cause).Canonical := by
  unfold State.babble
  dsimp only
  split
  · exact h.refuseAppeal.modView
  · exact h.refuseAppeal.enterAccuse
  · exact h.refuseAppeal

theorem readmitFlits (h : s.Canonical) : (s.readmitFlits w u).Canonical := by
  unfold State.readmitFlits
  exact h.sendFlit.modView

theorem holdConsent (h : s.Canonical) : (s.holdConsent n u w).Canonical := h.modView

theorem countFresh (h : s.Canonical) : (s.countFresh w u f).Canonical := by
  unfold State.countFresh
  split
  · exact h
  · exact .ite (fun _ => h.refuseAppeal) fun _ => .ite (fun _ => h.modView) fun _ => .ite (fun _ => h.modView) fun _ =>
      .ite (fun _ => h.modView.sendFlit.holdConsent) fun _ => h.modView.sendFlit

theorem endProbation (h : s.Canonical) : (s.endProbation u).Canonical := .ite (fun _ => h.modTile) fun _ => h

theorem cleanVerdict (h : s.Canonical) : (s.cleanVerdict w u).Canonical :=
  .ite (fun _ => h.modView) fun _ => .ite (fun _ => h.modView.sendFlit) fun _ => h

theorem judgeSeq (h : s.Canonical) : (s.judgeSeq w u f).Canonical :=
  .ite (fun _ => h.babble) fun _ => .ite (fun _ => h.modView.cleanVerdict.countFresh.endProbation) fun _ =>
    .ite (fun _ => h.modView.refuseAppeal) fun _ => h.modView

theorem passPort (h : s.Canonical) (ht : s.passPort w u f = some t) : t.Canonical := by
  unfold State.passPort at ht
  dsimp only at ht
  split at ht
  · split at ht <;> cases ht
    exact h.modView
  · cases ht; exact h

theorem execHeartbeatSend (h : s.Canonical) : NextIs State.Canonical (execHeartbeatSend w s) :=
  State.Canonical.ite (fun _ => h) fun _ => h.setTile.sendFlit

theorem judgeFlit (h : s.Canonical) : (s.judgeFlit w u f).Canonical := by
  have arrived {t : State} (h : t.Canonical) :
      (if flitMalformed u f then t.babble w u 3 else t.judgeSeq w u f).Canonical :=
    .ite (fun _ => h.babble) fun _ => h.judgeSeq
  unfold State.judgeFlit
  exact arrived (.ite (fun _ => h.modView.babble) fun _ => h.modView)

theorem heartbeat (h : s.Canonical) : (s.heartbeat w u f).Canonical := by
  unfold State.heartbeat
  dsimp only
  split
  · exact h
  · split
    · next ht => exact (h.takeFlit.passPort ht).judgeFlit
    · exact h.takeFlit

theorem execHeartbeatMiss (h : s.Canonical) : NextIs State.Canonical (execHeartbeatMiss w u s) :=
  State.Canonical.ite (fun _ => h) fun _ => .ite (fun _ => h.setView.refuseAppeal.modView) fun _ =>
    .ite (fun _ => h.setView.refuseAppeal.enterAccuse) fun _ => h.setView.refuseAppeal

theorem execAccuse (h : s.Canonical) : NextIs State.Canonical (execAccuse w f s) :=
  State.Canonical.ite (fun _ => h.takeFlit) fun _ => .ite (fun _ => h.takeFlit.modTile) fun _ =>
    .ite (fun _ => h.takeFlit.modView.noteQuorum) fun _ => h.takeFlit

theorem execAccuseRepeat (h : s.Canonical) : NextIs State.Canonical (execAccuseRepeat w u s) :=
  State.Canonical.ite (fun _ => h.sendAccuse) fun _ => h

theorem settleDoubt (h : s.Canonical) : (s.settleDoubt u).Canonical := h.modTile

theorem dropAccusation (h : s.Canonical) : (s.dropAccusation n u w).Canonical :=
  .ite (fun _ => h.modTile.settleDoubt) fun _ => h.modView

theorem execWithdraw (h : s.Canonical) : NextIs State.Canonical (execWithdraw w f s) :=
  State.Canonical.ite (fun _ => h.takeFlit.dropAccusation) fun _ => h.takeFlit

theorem execAccusationExpiry (h : s.Canonical) : NextIs State.Canonical (execAccusationExpiry w u n s) :=
  State.Canonical.ite (fun _ => h.dropAccusation) fun _ => h

theorem execInjectionAllowance (h : s.Canonical) : NextIs State.Canonical (execInjectionAllowance w u s) := by
  refine State.Canonical.ite (fun _ => h) fun _ => ?_
  dsimp only
  split
  · exact .ite (fun _ => h.modView.babble) fun _ => h.modView
  · exact h.modView

end State.Canonical

end Sys2Proof.Machine
end

section
/-! SUPPORT. Cordons keep the canonical form (R345 to R347, R354 to R367). -/

set_option Elab.async false

namespace Sys2Proof.Machine

open Sys2Proof

namespace State.Canonical

variable {s t : State} {k d g c n : Nat} {r : CordonTally} {w u : TileId} {f : Word64}

/-! ### What a cordon takes away (R346, R347, R356) -/

theorem l2Drop (h : s.Canonical) : (s.l2Drop n).Canonical := h.frame

theorem loseLines {p} (h : s.Canonical) : (s.loseLines p).Canonical :=
  h.foldl fun _ _ h => .ite (fun _ => .ite (fun _ => h.l2Drop.zeroBytes) fun _ => h.l2Drop) fun _ => h.l2Revert

theorem tallyPages {before} (h : s.Canonical) : (s.tallyPages w before).Canonical := h.modTile

theorem loseLink {k} (h : s.Canonical) : (s.loseLink k).Canonical := by
  unfold State.loseLink
  exact .markLostPages (.loseLines (.frame h.flushAll rfl rfl rfl))

theorem handOnGang (h : s.Canonical) : (s.handOnGang k).Canonical := by
  unfold State.handOnGang
  split
  · exact h
  · next hx =>
    have hx := h.gang? hx
    refine .ite (fun _ => h) fun _ => .ite (fun _ => h.setGang hx.frame) fun _ => ?_
    split
    · exact h.enqueueGang hx
    · exact .foldl (.noteCause (putGang h hx.frame rfl rfl rfl)) fun _ _ h => h.endVt

theorem emptyCluster (h : s.Canonical) : (State.emptyCluster w s g).Canonical := h.modTile.setCluster.settleHold

theorem handOnDue (h : s.Canonical) : (s.handOnDue w).Canonical := h.modTile.foldl fun _ _ h => h.handOnGang

theorem freezePort (h : s.Canonical) : (s.freezePort k).Canonical := h.foldl fun _ _ h => h.freezeConn

theorem closeSlice (h : s.Canonical) : (s.closeSlice w d k).Canonical := h.modTile.loseLines

theorem emptyClusters (h : s.Canonical) : (s.emptyClusters w).Canonical := (h.foldl fun _ _ h => h.emptyCluster).handOnDue

theorem dropHeld (h : s.Canonical) : (s.dropHeld w).Canonical := h.frame

theorem setDie {x} (h : s.Canonical) : (s.setDie d x).Canonical := h.frame

theorem closeTile (h : s.Canonical) : (s.closeTile w).Canonical := by
  unfold State.closeTile
  dsimp only
  split
  · exact h.emptyClusters
  · exact h.closeSlice
  · exact h.setDie.loseLines
  · exact .ite (fun _ => h.setDie.loseLines.emptyClusters) fun _ => h.setDie
  · exact h.modTile
  · exact h.freezePort
  · exact h.loseLink.tallyPages
  · exact h

theorem cordonTile {cause} (h : s.Canonical) : (s.cordonTile w cause).Canonical :=
  .ite (fun _ => h) fun _ => h.dropHeld.flushAll.modTile.closeTile.retestQuorums

theorem execPortClosure (h : s.Canonical) : NextIs State.Canonical (execPortClosure w u s) :=
  State.Canonical.ite (fun _ => h) fun _ => h.setView.cordonTile.sendFlit

theorem execCordoned (h : s.Canonical) : NextIs State.Canonical (execCordoned w f s) :=
  State.Canonical.ite (fun _ => h.takeFlit) fun _ => .ite (fun _ => h.takeFlit.modTile) fun _ =>
    .ite (fun _ => h.takeFlit.modView) fun _ => h.takeFlit

/-! ### Gangs, clusters and futures that are lost (R360 to R363) -/

theorem cordonFutures (h : s.Canonical) : (s.cordonFutures n d).1.Canonical := by
  refine foldl_fst h fun r e h => ?_
  split
  · exact h.setFuture.foldl fun _ _ h => h.wakeFault
  · exact h.setFuture
  · exact h

theorem loseGang {x} (h : s.Canonical) : (s.loseGang x r).1.Canonical := by
  have gone {live : List Nat} : ((live.foldl (fun (r : State × Nat) id =>
      let q := r.1.cordonFutures id x.domain
      (q.1, r.2 + q.2)) (live.foldl State.endVt s, 0)).1).Canonical :=
    foldl_fst (h.foldl fun _ _ h => h.endVt) fun _ _ h => h.cordonFutures
  unfold State.loseGang
  dsimp only
  split
  · exact .frame gone
  · exact .noteCause gone

theorem loseCluster (h : s.Canonical) : (s.loseCluster g r).1.Canonical :=
  .frame (foldl_fst (r := (s, r)) h fun _ _ h => h.loseGang)

theorem countLost (h : s.Canonical) : (s.countLost n).Canonical := h.frame

theorem replaceGang {e} (h : s.Canonical) : (s.replaceGang e).Canonical := by
  unfold State.replaceGang
  split
  · exact h
  · refine .ite (fun _ => h.countLost) fun _ => .ite (fun _ => h.countLost.noteCause) fun _ => ?_
    refine mapGangs h.newGang (fun _ x hx => ?_) rfl rfl rfl
    split
    · exact hx
    · split
      · exact hx.frame
      · exact hx

theorem loseSteward (h : s.Canonical) : (s.loseSteward d r).1.Canonical := by
  unfold State.loseSteward
  dsimp only
  refine modTile (foldl ?_ fun _ _ h => h.foldl fun _ _ h => h.wakeFault)
  exact h.frame

theorem reRegister {e} (h : s.Canonical) : (s.reRegister e).Canonical := by
  unfold State.reRegister
  split
  · have checked {x m k} := (h.accessWalk (dom := e.2.domain) (va := x) (k := k)).bind
      (f := fun tr s => s.reach k tr.loc m) fun _ _ h => h.reach
    split
    · next hr => exact (checked.ok hr).notify
    · next hr => exact (checked.fault hr).ctFault
    · exact h.ctViolation
    · next hr => exact checked.wait hr
  · exact h

theorem remapSlice (h : s.Canonical) : (s.remapSlice d k).Canonical := by
  unfold State.remapSlice
  dsimp only
  refine frame (foldl (f := State.reRegister) (modTile ?_) fun _ _ h => h.reRegister) rfl rfl rfl
  exact h.frame

theorem zeroCxl {p} (h : s.Canonical) : (s.zeroCxl p).Canonical := h.filterMem

theorem tallied {f : State → CordonTally → State × CordonTally} (hf : ∀ r, (f s r).1.Canonical) :
    (State.tallied w f s).Canonical := by
  unfold State.tallied
  exact (hf _).modTile

/-! ### The turns of a cordon (R356, log 44) -/

theorem remapTile (h : s.Canonical) : (s.remapTile w).Canonical := by
  unfold State.remapTile
  dsimp only
  split
  · exact h.modTile.remapSlice
  · exact tallied fun _ => h.modTile.loseSteward
  · refine tallied fun _ => ?_
    have h := h.modTile (w := w) (k := fun x => { x with remapped := true })
    split
    · exact h
    · exact h.loseSteward
  · exact h.modTile

theorem markTile (h : s.Canonical) : (s.markTile w).Canonical := by
  unfold State.markTile
  exact .modTile (.tallyPages (.markLostPages (.ite (fun _ => h.zeroCxl) fun _ => h)))

theorem endTile (h : s.Canonical) : (s.endTile w).Canonical := by
  unfold State.endTile
  dsimp only
  split
  · exact tallied fun _ => h.loseCluster
  · exact tallied fun r => foldl_fst (r := (s, r)) h fun _ _ h => h.loseCluster
  · exact h

theorem postCordon {e cause} (h : s.Canonical) : (s.postCordon w e cause r).Canonical := h.postAll

theorem owe {x} (h : s.Canonical) : (s.owe w x).Canonical := h.modTile

theorem finishCordon (h : s.Canonical) : (s.finishCordon w).Canonical := h.modTile.endTile.owe

theorem postNote {x} (h : s.Canonical) : (State.postNote w s x).Canonical := by
  unfold State.postNote
  dsimp only
  split
  · exact .postCordon h.frame
  · exact h.postCordon

theorem postOwed (h : s.Canonical) : (s.postOwed w).Canonical := h.modTile.foldl fun _ _ h => h.postNote

theorem placeAgain (h : s.Canonical) : (s.placeAgain w).Canonical := h.handOnDue.modTile.foldl fun _ _ h => h.replaceGang

theorem zeroFill (h : s.Canonical) : (s.zeroFill k n).Canonical := h.filterMem

theorem reopenTile (h : s.Canonical) : (s.reopenTile w).Canonical := by
  unfold State.reopenTile
  dsimp only
  split
  · exact h.zeroFill.setDie
  · exact .setDie (.ite (fun _ => h.zeroFill) fun _ => h)
  · exact h

theorem settleCordon (h : s.Canonical) : (s.settleCordon w).Canonical := by
  have remapped : (if (s.tile w).remapped then s else s.remapTile w).Canonical := .ite (fun _ => h) fun _ => h.remapTile
  have marked {t : State} (ht : t.Canonical) : (if (t.tile w).marked then t else t.markTile w).Canonical :=
    .ite (fun _ => ht) fun _ => ht.markTile
  exact .ite (fun _ => h) fun _ => (marked remapped).finishCordon

theorem readmitTile (h : s.Canonical) : (s.readmitTile w).Canonical := h.settleCordon.modTile.reopenTile.owe.clearViews

theorem settleConsent (h : s.Canonical) : (s.settleConsent w u).Canonical :=
  .ite (fun _ => h.readmitFlits.readmitTile) fun _ => h

theorem execCordonHandling (h : s.Canonical) : NextIs State.Canonical (execCordonHandling w s) :=
  State.Canonical.ite (fun _ => h) fun _ => .ite (fun _ => h.remapTile) fun _ => .ite (fun _ => h.markTile) fun _ =>
    .ite (fun _ => h.placeAgain) fun _ => .placeAgain (.postOwed (.ite (fun _ => h) fun _ => h.finishCordon))

theorem execHeartbeat (h : s.Canonical) : NextIs State.Canonical (execHeartbeat w u f s) := h.heartbeat.settleConsent

/-! ### Self-test, appeals, readmission, retirement (R357 to R359, R365 to R367) -/

theorem retireTile (h : s.Canonical) : (s.retireTile w).Canonical := h.sendFlit.modTile

theorem clearTile (h : s.Canonical) : (s.clearTile w).Canonical := by
  unfold State.clearTile
  dsimp only
  split
  · exact h.frame
  · exact h.frame
  · exact h.zeroBytes
  · exact h

theorem execSelftest {pass} (h : s.Canonical) : NextIs State.Canonical (execSelftest w pass s) :=
  State.Canonical.ite (fun _ => .ite (fun _ => h.setTile.clearTile) fun _ => h.retireTile) fun _ =>
    .ite (fun _ => .ite (fun _ => h.setTile.sendFlit) fun _ => .ite (fun _ => h.retireTile) fun _ => h) fun _ => h

theorem execAppeal (h : s.Canonical) : NextIs State.Canonical (execAppeal w f s) := by
  refine State.Canonical.ite (fun _ => ?_) fun _ => h.takeFlit
  split
  · exact h.takeFlit
  · next ht =>
    have h := h.takeFlit.passPort ht
    exact .ite (fun _ => h.modView.modView) fun _ => h.modView

theorem execConsent (h : s.Canonical) : NextIs State.Canonical (execConsent w f s) :=
  State.Canonical.ite (fun _ => h.takeFlit.holdConsent.settleConsent) fun _ => h.takeFlit

theorem execRefuse (h : s.Canonical) : NextIs State.Canonical (execRefuse w f s) :=
  State.Canonical.ite (fun _ => h.takeFlit) fun _ => .ite (fun _ => .ite (fun _ => h.takeFlit) fun _ => h.takeFlit.modTile) fun _ =>
    .ite (fun _ => h.takeFlit.modView.sendFlit) fun _ => h.takeFlit

theorem execReadmit (h : s.Canonical) : NextIs State.Canonical (execReadmit w f s) :=
  State.Canonical.ite (fun _ => h.takeFlit) fun _ => .ite (fun _ => h.takeFlit.modTile) fun _ =>
    .ite (fun _ => h.takeFlit.modView) fun _ => h.takeFlit

theorem execRetire (h : s.Canonical) : NextIs State.Canonical (execRetire w f s) := by
  refine State.Canonical.ite (fun _ => ?_) fun _ => h.takeFlit
  split
  · next ht => exact (h.takeFlit.passPort ht).modTile.owe
  · exact h.takeFlit

/-! ### CXL links (R364) -/

theorem execCxlLinkDown {l} (h : s.Canonical) : NextIs State.Canonical (execCxlLinkDown l s) :=
  State.Canonical.ite (fun _ => h.frame) fun _ => h

theorem execCxlLinkRetrained {l width rate} (h : s.Canonical) :
    NextIs State.Canonical (execCxlLinkRetrained l width rate s) := by
  unfold Machine.execCxlLinkRetrained NextIs
  dsimp only
  split
  · exact .ite (fun _ => h.frame) fun _ => h
  · exact h

theorem execCxlLinkLoss {l} (h : s.Canonical) : NextIs State.Canonical (execCxlLinkLoss l s) := by
  unfold Machine.execCxlLinkLoss NextIs
  dsimp only
  split
  · exact .ite (fun _ => h.loseLink) fun _ => h
  · exact h

end State.Canonical

end Sys2Proof.Machine
end

section
/-! SUPPORT. Firmware, the fatal error, soft errors, management requests and the vector operations keep the canonical form (R282, R286
to R293, R311, R323, R345). -/

set_option Elab.async false

namespace Sys2Proof.Machine

open Sys2Proof

namespace State.Canonical

variable {s t : State} {id core line : Nat} {v : VT} {g : Guard} {d a b : Reg}

/-! ### Reset and Slack Waters (R43, R286 to R293, R378 to R380) -/

theorem setKind {k x} (h : s.Canonical) : (s.setKind k x).Canonical := h.frame

theorem execDeviceReset (h : s.Canonical) : NextIs State.Canonical (execDeviceReset s) := by
  unfold Machine.execDeviceReset NextIs
  dsimp only
  refine ⟨?_, rfl, rfl⟩
  dsimp only
  split
  · exact Memory.wf_filter _ h.mem
  · rfl

theorem modInst {k i f} (h : s.Canonical) : (s.modInst k i f).Canonical := h.setKind

theorem execHandOver {kind inst record} (h : s.Canonical) : NextIs State.Canonical (execHandOver kind inst record s) := by
  unfold Machine.execHandOver NextIs
  dsimp only
  split
  · exact h
  · exact .ite (fun _ => h) fun _ => .ite (fun _ => h.modInst) fun _ => .ite (fun _ => h.modInst) fun _ => h

theorem execNewInstanceStart {kind inst} (h : s.Canonical) : NextIs State.Canonical (execNewInstanceStart kind inst s) := by
  unfold Machine.execNewInstanceStart NextIs
  dsimp only
  split
  · exact h
  · exact .ite (fun _ => h) fun _ => h.modInst

theorem execLivenessBeat {kind inst region} (h : s.Canonical) : NextIs State.Canonical (execLivenessBeat kind inst region s) :=
  State.Canonical.ite (fun _ => h) fun _ => .ite (fun _ => h.modInst) fun _ => .ite (fun _ => h.modInst) fun _ => h

theorem closeWindows (h : s.Canonical) : s.closeWindows.Canonical := .ite (fun _ => h.frame) fun _ => h

theorem commitFlash {w} (h : s.Canonical) : (s.commitFlash w).Canonical := .ite (fun _ => h.frame) fun _ => h

theorem execSlackWaterCommit (h : s.Canonical) : NextIs State.Canonical (execSlackWaterCommit s) := by
  unfold Machine.execSlackWaterCommit NextIs
  dsimp only
  split
  · exact h
  · split
    · exact .ite (fun _ => h.commitFlash) fun _ => h
    · exact .ite (fun _ => h) fun _ => .postAll h.frame

theorem execFallBack {inst reason} (h : s.Canonical) : NextIs State.Canonical (execFallBack inst reason s) := by
  unfold Machine.execFallBack NextIs
  dsimp only
  split
  · exact h
  · split
    · exact h
    · split
      · exact h
      · split
        · exact h
        · exact .postAll h.frame

theorem execClockStep {die up power inlet} (h : s.Canonical) : NextIs State.Canonical (execClockStep die up power inlet s) := by
  unfold Machine.execClockStep NextIs
  dsimp only
  split
  · exact h
  · split
    · split
      · exact .postAll h.frame
      · exact h.frame
    · exact h.frame

/-! ### Fatal and soft errors (R311, R323, R345) -/

theorem fatalError {reason} (h : s.Canonical) : (s.fatalError reason).Canonical := by
  refine .ite (fun _ => h) fun _ => h.storage ?_
  exact List.foldlRecOn (motive := fun m => Memory.wf m = true) _ _ h.zeroBytes.mem fun _ hm _ _ => Memory.wf_writeBytes _ _ hm

theorem execFatalDump {reason} (h : s.Canonical) : NextIs State.Canonical (execFatalDump reason s) :=
  State.Canonical.ite (fun _ => h.fatalError) fun _ => h

theorem poisonReg {u} (h : s.Canonical) : (s.poisonReg id u).Canonical :=
  h.modVt fun _ hv => .ite (fun _ => hv) fun _ => hv.frame

theorem refetchL1 (h : s.Canonical) : (s.refetchL1 core line).Canonical := h.setCore

theorem refetchCode (h : s.Canonical) : (s.refetchCode core line).Canonical := h.setCore

theorem setL2 {l} (h : s.Canonical) : (s.setL2 l).Canonical := h.frame

theorem refetchL2 (h : s.Canonical) : (s.refetchL2 line).Canonical := by
  unfold State.refetchL2
  split
  · exact h
  · exact .ite (fun _ => h) fun _ => h.fromStorage.setL2.notify

theorem poisonMem {loc} (h : s.Canonical) : (s.poisonMem loc).Canonical := by
  have marked : (if s.poison.contains (loc / 8) then s else { s with poison := s.poison ++ [loc / 8] } : State).Canonical :=
    .ite (fun _ => h) fun _ => h.frame
  unfold State.poisonMem
  dsimp only
  split
  · exact marked
  · exact .ite (fun _ => marked) fun _ => h.setL2

theorem poisonCsp {gang u} (h : s.Canonical) : (s.poisonCsp gang u).Canonical := by
  unfold State.poisonCsp
  split
  · next hg => exact h.setGang (h.gang? hg).frame
  · exact h

theorem poisonBarrier {gang k} (h : s.Canonical) : (s.poisonBarrier gang k).Canonical := by
  unfold State.poisonBarrier
  split
  · next hg =>
    split
    · exact h.setGang (h.gang? hg).frame
    · exact h
  · exact h

theorem execSoftError {u} (h : s.Canonical) : NextIs State.Canonical (execSoftError u s) := by
  cases u with
  | l1 core line => exact h.refetchL1
  | icache core line => exact h.refetchCode
  | l2clean line => exact h.refetchL2
  | mem loc => exact h.poisonMem
  | csp gang off => exact h.poisonCsp
  | tcm vt off => exact h.modVt fun _ hv => hv.frame
  | reg vt u => exact h.poisonReg
  | future key => exact h.frame
  | barrier gang k => exact h.poisonBarrier
  | firmware => exact h.fatalError

/-! ### Vector operations on registers alone (R158 to R163, R200 to R209) -/

theorem intBinary {f} (h : s.Canonical) : (s.intBinary f g d a b).Canonical := h.shared fun _ hv => hv.writeX

theorem intUnary {f} (h : s.Canonical) : (s.intUnary f g d a).Canonical := h.shared fun _ hv => hv.writeX

theorem predBinary {f fv x y z} (h : s.Canonical) : (s.predBinary f fv g x y z).Canonical := h.shared fun _ hv => hv.writeP

/-! ### Transfers between VPs and wide operations (R187, R211 to R215) -/

theorem pushAbove {parts i x} {w : VT} (hv : v.Canonical) (hw : v.pushAbove parts i x = some w) : w.Canonical := by
  unfold VT.pushAbove at hw
  split at hw
  · dsimp only at hw
    split at hw <;> cases hw
    exact hv.frame
  · split at hw <;> cases hw
    exact hv.frame

theorem execXsend (h : s.Canonical) : NextIs State.Canonical (execXsend g a s) := by
  refine h.vpOnly fun _ _ _ _ hv => ?_
  split
  · exact h
  · dsimp only
    split
    · exact h
    · next hw => exact h.setVt (pushAbove hv hw).vpRetire

theorem execXrecv (h : s.Canonical) : NextIs State.Canonical (execXrecv g d s) := by
  refine h.vpOnly fun _ _ _ _ hv => ?_
  dsimp only
  split
  · exact h
  · split
    · exact h
    · exact .ite (fun _ => h.vpFault) fun _ => h.setVt hv.vpRetire

theorem wideOp {vs ps f flags} (h : s.Canonical) : (s.wideOp g vs ps f flags).Canonical := by
  refine h.vpOnly fun _ _ _ _ hv => ?_
  split
  · exact h
  · split
    · exact h
    · exact h.setVt (VT.Canonical.frame (hv.foldl fun _ _ hw => hw.vpRetire))

theorem reduce {k scan float} (h : s.Canonical) : (s.reduce k scan float g d a).Canonical := by
  unfold State.reduce
  exact h.wideOp

/-! ### Management requests (R282) -/

theorem respond {r code status results tail} (h : s.Canonical) : (s.respond r code status results tail).Canonical :=
  h.sendSequenced

theorem serve {r c legal imageless} {body : State → Reply} (h : s.Canonical) (hb : (body s).state.Canonical) :
    (s.serve r c legal imageless body).Canonical := by
  unfold State.serve
  split
  · exact h
  · exact .ite (fun _ => h) fun _ => .ite (fun _ => h.respond) fun _ => hb.respond

theorem reply_ite {p : Prop} [Decidable p] {x y : Reply} (hx : x.state.Canonical) (hy : y.state.Canonical) :
    (if p then x else y).state.Canonical := by
  split
  · exact hx
  · exact hy

theorem execCreateq {r q ring log2n prio bitmap doorbell} (h : s.Canonical) :
    NextIs State.Canonical (execCreateq r q ring log2n prio bitmap doorbell s) := by
  exact h.serve (reply_ite h.setQueue h)

theorem execDestroyq {r q drain} (h : s.Canonical) : NextIs State.Canonical (execDestroyq r q drain s) := by
  refine h.serve ?_
  split
  · exact h.destroyQueue
  · exact h

theorem openConn {lo key c} (h : s.Canonical) : (s.openConn lo key c).state.Canonical := by
  have fresh : (s.freshConn lo key).2.Canonical := h.frame
  unfold State.openConn
  split
  · next e => exact (of_snd fresh e).setConn
  · next e => exact of_snd fresh e

theorem execOpenhost {r hi lo} (h : s.Canonical) : NextIs State.Canonical (execOpenhost r hi lo s) := h.serve h.openConn

theorem execOpenpeer {r port hi lo remote} (h : s.Canonical) : NextIs State.Canonical (execOpenpeer r port hi lo remote s) := by
  refine h.serve ?_
  split
  · exact h
  · exact h.openConn

theorem execClose {r conn} (h : s.Canonical) : NextIs State.Canonical (execClose r conn s) := by
  refine h.serve ?_
  split
  · exact h.frame
  · exact h

theorem tlbFlush (h : s.Canonical) : s.tlbFlush.Canonical := h.frame

theorem writeLeaf {dom va level w} (h : s.Canonical) : (s.writeLeaf dom va level w).Canonical := h.flushAll.putTables.tlbFlush

theorem execMapleaf {r va level entry} (h : s.Canonical) : NextIs State.Canonical (execMapleaf r va level entry s) := by
  refine h.serve ?_
  dsimp only
  split
  · exact h
  · exact h.writeLeaf

theorem execStage {r kind offset bytes} (h : s.Canonical) : NextIs State.Canonical (execStage r kind offset bytes s) := by
  refine h.serve ?_
  split
  · exact h
  · split
    · exact h
    · split
      · exact h
      · exact h.setKind

theorem execStageend {r kind length} (h : s.Canonical) : NextIs State.Canonical (execStageend r kind length s) := by
  refine h.serve ?_
  split
  · exact h
  · dsimp only
    split
    · exact h.setKind
    · split
      · exact h.setKind
      · exact h.setKind
      · split
        · exact h.frame
        · exact h.frame

theorem execRaisesvn {r kind svn} (h : s.Canonical) : NextIs State.Canonical (execRaisesvn r kind svn s) := by
  refine h.serve ?_
  split
  · exact h
  · split
    · exact h
    · exact h.setKind

theorem execReadreg {r reg index} (h : s.Canonical) : NextIs State.Canonical (execReadreg r reg index s) := by
  refine h.serve ?_
  split <;> exact h

theorem execReaddump {r offset length} (h : s.Canonical) : NextIs State.Canonical (execReaddump r offset length s) := by
  refine h.serve ?_
  split
  · exact h
  · split <;> exact h

theorem execReleasedump {r} (h : s.Canonical) : NextIs State.Canonical (execReleasedump r s) := by
  refine h.serve ?_
  split
  · exact h.frame
  · exact h

theorem execReadctx {r vt offset length} (h : s.Canonical) : NextIs State.Canonical (execReadctx r vt offset length s) := by
  refine h.serve ?_
  split
  · exact h
  · split
    · exact h
    · split <;> exact h

theorem spdm {conn answer} (h : s.Canonical) : (s.spdm conn answer).Canonical := by
  unfold State.spdm
  split
  · exact h
  · exact .ite (fun _ => h) fun _ => h.sendSequenced

end State.Canonical

/-- What the operation does to a state keeps the canonical form. -/
def Meaning.Keeps (f : Meaning) : Prop := ∀ s : State, s.Canonical → NextIs State.Canonical (f s)

/-- Each code of a management request has its request. -/
theorem requestOf_keeps {r code bs f} (e : requestOf r code bs = some f) : Meaning.Keeps f := by
  unfold requestOf at e
  dsimp only at e
  split at e
  case h_2 => split at e <;> cases e; exact fun _ h => h.execDestroyq
  all_goals cases e
  · exact fun _ h => h.execCreateq
  · exact fun _ h => h.execOpenhost
  · exact fun _ h => h.execOpenpeer
  · exact fun _ h => h.execClose
  · exact fun _ h => h.execMapleaf
  · exact fun _ h => h.execStage
  · exact fun _ h => h.execStageend
  · exact fun _ h => h.execRaisesvn
  · exact fun _ h => h.execReadreg
  · exact fun _ h => h.execReaddump
  · exact fun _ h => h.execReleasedump
  · exact fun _ h => h.execReadctx

/-- Every SPDM request is answered and no more. -/
theorem spdmOf_keeps {conn msg f} (e : spdmOf conn msg = some f) : Meaning.Keeps f := by
  unfold spdmOf at e
  split at e <;> cases e
  all_goals exact fun _ h => h.spdm

theorem mgmtAsk_keeps {conn bs f} (e : mgmtAsk conn bs = .run f) : Meaning.Keeps f := by
  unfold mgmtAsk at e
  dsimp only at e
  split at e
  · split at e <;> cases e
    next hf => exact spdmOf_keeps hf
  · split at e
    · cases e
    · split at e
      · cases e
      · split at e <;> cases e
        next hf => exact requestOf_keeps hf

end Sys2Proof.Machine
end

section
/-! SUPPORT. Every instruction and event keeps the canonical form. -/

set_option Elab.async false

namespace Sys2Proof.Machine

open Sys2Proof

theorem State.Canonical.exec {s : State} {i : Instr} (h : s.Canonical) : NextIs State.Canonical (exec i s) := by
  cases i with
  | add | sub | and | or | xor | sll | srl | sra | min | max | minu | maxu | mul | mulh | mulhu | div | divu | rem | remu =>
    exact h.intBinary
  | popc | clz | ctz | addi | andi | ori | xori | slli | srli | srai => exact h.intUnary
  | lui | pgetx => exact h.shared fun _ hv => hv.writeX
  | auipc => exact h.ctRegs fun _ hv => hv.writeX
  | ldb | ldbu | ldh | ldhu | ldw | ldwu | ldd => exact h.ctLoad
  | stb | sth | stw | std => exact h.ctStore
  | cmp | cmpi => exact h.shared fun _ hv => hv.writeCompare
  | pand | por | pxor | pandn => exact h.predBinary
  | psetx => exact h.shared fun _ hv => hv.writeP
  | br => exact h.execBr
  | jal => exact h.execJal
  | jalr => exact h.execJalr
  | amowSwap | amowAdd | amowAnd | amowOr | amowXor | amowMin | amowMax | amowCas | amodSwap | amodAdd | amodAnd | amodOr |
    amodXor | amodMin | amodMax | amodCas => exact h.amo
  | lda => exact h.execLda
  | stl g a b sc => exact h.execStl (sc := sc)
  | fence | fenceSv | fenceVs | fenceE => exact h.fence
  | csrr | csrw | csrs | csrc => exact h.csrAccess
  | trap => exact h.execTrap
  | icinv => exact h.execIcinv
  | park => exact h.execPark
  | yield => exact h.execYield
  | exit => exact h.execExit
  | spawn => exact h.execSpawn
  | vtctlResume => exact h.execVtctlResume
  | vtctlKill => exact h.execVtctlKill
  | vtctlWake => exact h.execVtctlWake
  | bar => exact h.execBar
  | bara => exact h.execBara
  | barw => exact h.execBarw
  | mwait => exact h.execMwait
  | waitd => exact h.execWaitd
  | fnew => exact h.execFnew
  | fput => exact h.execFput
  | fget | ftake => exact h.futureTake
  | ftry => exact h.execFtry
  | ffree => exact h.execFfree
  | enq => exact h.execEnq
  | enqy => exact h.execEnqy
  | deq => exact h.execDeq
  | deqt => exact h.execDeqt
  | setvl => exact h.execSetvl
  | setcfg => exact h.execSetcfg
  | setmt => exact h.execSetmt
  | setem => exact h.execSetem
  | setseg => exact h.execSetseg
  | vjoin => exact h.execVjoin
  | xseed => exact h.execXseed
  | xdrain => exact h.execXdrain
  | vbcast => exact h.execVbcast
  | vextract => exact h.execVextract
  | vf => exact h.execVf
  | vfr => exact h.execVfr
  | vld | vst => exact h.issueMemory
  | fadd | fsub | fmul | fmin | fmax | fdiv | fsqrt | frcp | frsq | fexp2 | flog2 | fabs | fneg | fsgnj | fclass | fma | fms |
    fnma | fnms | fcmp | cvt | cvts | adds | subs | addsu | subsu | avg | avgu | abs | absd | permb | shufb | zipl | ziph | uzpe
    | uzpo | vpid | ltmask | mov | sel => exact h.vpRegs
  | xsend => exact h.execXsend
  | xrecv => exact h.execXrecv
  | vany | vall | vballot | vmatch | vshfl => exact h.wideOp
  | vredAdd | vredMin | vredMax | vscanAdd => exact h.reduce
  | ldv => exact h.execLdv
  | stv => exact h.execStv
  | fetch => exact h.execFetch
  | fetchr => exact h.execFetchr
  | mxon => exact h.execMxon
  | mxoff => exact h.execMxoff
  | mopO | mopR | mopsO | mopsR => exact h.mopIssue
  | mopz => exact h.execMopz
  | mova => exact h.execMova
  | movta => exact h.execMovta
  | blockStart => exact h.execBlockStart
  | threadFetch => exact h.execThreadFetch
  | vectorMemoryPerformed => exact h.execVectorMemoryPerformed
  | retry => exact h.execRetry
  | monitorWake => exact h.execMonitorWake
  | parkTimeout => exact h.execParkTimeout
  | issueAgeing => exact h.execIssueAgeing
  | copy1d | copy2d | fill => exact h.runCopy
  | put | get | putadd | signal => exact h.runLink
  | completionRecord => exact h.execCompletionRecord
  | scan => exact h.execScan
  | launch => exact h.execLaunch
  | copy => exact h.execCopy
  | prefetch => exact h.execPrefetch
  | unpin => exact h.execUnpin
  | discard => exact h.execDiscard
  | signalNode => exact h.execSignalNode
  | waitfut => exact h.execWaitfut
  | nop => exact h.execNop
  | nodeCompletion => exact h.execNodeCompletion
  | placement => exact h.execPlacement
  | gangPreemption => exact h.execGangPreemption
  | gangRestore => exact h.execGangRestore
  | swapIn => exact h.execSwapIn
  | swapOut => exact h.execSwapOut
  | move => exact h.execMove
  | lprWrite => exact h.execLprWrite
  | faultStop => exact h.execFaultStop
  | freeze => exact h.execFreeze
  | fatalDump => exact h.execFatalDump
  | queueDestroyed => exact h.execQueueDestroyed
  | write => exact h.execWrite
  | read => exact h.execRead
  | send => exact h.execSend
  | doorbell => exact h.execDoorbell
  | submit => exact h.execSubmit
  | addw => exact h.execAddw
  | signalMessage => exact h.execSignalMessage
  | readresp => exact h.execReadresp
  | ack => exact h.execAck
  | nak => exact h.execNak
  | status => exact h.execStatus
  | cnp => exact h.execCnp
  | retransmitTimeout => exact h.execRetransmitTimeout
  | rateIncrease => exact h.execRateIncrease
  | createq => exact h.execCreateq
  | destroyq => exact h.execDestroyq
  | openhost => exact h.execOpenhost
  | openpeer => exact h.execOpenpeer
  | close => exact h.execClose
  | mapleaf => exact h.execMapleaf
  | stage => exact h.execStage
  | stageend => exact h.execStageend
  | raisesvn => exact h.execRaisesvn
  | readreg => exact h.execReadreg
  | readdump => exact h.execReaddump
  | releasedump => exact h.execReleasedump
  | readctx => exact h.execReadctx
  | getVersion | getCapabilities | negotiateAlgorithms | getDigests | getCertificate | challenge | getMeasurements => exact
    h.spdm
  | deviceReset => exact h.execDeviceReset
  | handOver => exact h.execHandOver
  | newInstanceStart => exact h.execNewInstanceStart
  | livenessBeat => exact h.execLivenessBeat
  | slackWaterCommit => exact h.execSlackWaterCommit
  | fallBack => exact h.execFallBack
  | clockStep => exact h.execClockStep
  | heartbeatSend => exact h.execHeartbeatSend
  | heartbeat => exact h.execHeartbeat
  | heartbeatMiss => exact h.execHeartbeatMiss
  | accuse => exact h.execAccuse
  | accuseRepeat => exact h.execAccuseRepeat
  | withdraw => exact h.execWithdraw
  | accusationExpiry => exact h.execAccusationExpiry
  | cordoned => exact h.execCordoned
  | portClosure => exact h.execPortClosure
  | cordonHandling => exact h.execCordonHandling
  | selftest => exact h.execSelftest
  | appeal => exact h.execAppeal
  | consent => exact h.execConsent
  | refuse => exact h.execRefuse
  | readmit => exact h.execReadmit
  | retire => exact h.execRetire
  | cxlLinkLoss => exact h.execCxlLinkLoss
  | softError => exact h.execSoftError
  | mopBlockCompletion => exact h.execMopBlockCompletion
  | cxlLinkDown => exact h.execCxlLinkDown
  | cxlLinkRetrained => exact h.execCxlLinkRetrained
  | injectionAllowance => exact h.execInjectionAllowance

end Sys2Proof.Machine
end

section
/-! PROOF. O59: every step keeps the canonical form of every memory. -/

set_option Elab.async false

namespace Sys2Proof.Machine

open Sys2Proof

namespace NextIs

variable {P : State → Prop}

theorem ite {p : Prop} [Decidable p] {x y : Host.Outcome State Fault Refusal} (hx : p → NextIs P x) (hy : ¬ p → NextIs P y) :
    NextIs P (if p then x else y) := by
  split
  · exact hx ‹_›
  · exact hy ‹_›

end NextIs

/-- The instruction fetched finds one of these states, and so does what comes of a fetch that gives none. -/
def CtFetch.Leaves (P : State → Prop) : CtFetch → Prop
  | .run _ t | .stop t => P t

theorem CtFetch.Leaves.run {P : State → Prop} {a : CtFetch} {i : Instr} {t : State} (h : a.Leaves P) (e : a = .run i t) : P t := by
  subst e; exact h

theorem CtFetch.Leaves.stop {P : State → Prop} {a : CtFetch} {t : State} (h : a.Leaves P) (e : a = .stop t) : P t := by
  subst e; exact h

namespace State.Canonical

variable {s t : State} {id : Nat} {v : VT} {p : Packet}

/-! ### Issue (R29, R52, R174) -/

theorem tick {core n} (h : s.Canonical) : (s.tick core n).Canonical := h.setCore

theorem fetchCt (h : s.Canonical) : (s.fetchCt id v).Leaves State.Canonical := by
  unfold State.fetchCt
  split
  · next hr => exact (h.fetchLine.fault hr).ctFault
  · exact h.violate
  · next hr => exact h.fetchLine.wait hr
  · next hr =>
    split
    · exact frame (h.fetchLine.ok hr)
    · exact (h.fetchLine.ok hr).ctFault

theorem noteIssue (h : t.Canonical) : (s.noteIssue t id).Canonical := by
  unfold State.noteIssue
  split
  · next hw => exact .ite (fun _ => h.setVt (h.vt? hw).frame) fun _ => h
  · exact h

theorem beforeCt {i} (h : s.Canonical) : (s.beforeCt id i).Canonical := by
  unfold State.beforeCt
  split
  · exact h
  · refine .ite (fun _ => h) fun _ => .ite (fun _ => h.flushCore) fun _ => ?_
    split
    · exact h
    · dsimp only
      split
      · exact .ite (fun _ => h.flushCore) fun _ => h
      · exact h

theorem vpIllop {i} (h : s.Canonical) : (s.vpIllop id i).Canonical := by
  unfold State.vpIllop
  split
  · exact h
  · split
    · exact h
    · exact h.vpFault

theorem issueFrom {core ids} (h : s.Canonical) : NextIs State.Canonical (issueFrom core ids s) := by
  induction ids generalizing s with
  | nil => exact h
  | cons id ids ih =>
    unfold Machine.issueFrom
    split
    · exact ih h
    · split
      · next e => exact .ite (fun _ => h.fetchCt.stop e) fun _ => ih (h.fetchCt.stop e)
      · next i t e =>
        have ran := ((h.fetchCt.run e).beforeCt (id := id) (i := i)).exec (i := i)
        split
        · next e =>
          have h := ran.next e
          exact .ite (fun _ => h.noteIssue) fun _ => ih h
        · trivial
        · trivial

/-! ### Packets and what is tried again (R90, R274 to R280, R290) -/

theorem answerCe (h : s.Canonical) : (s.answerCe p).Canonical := by
  unfold State.answerCe
  split
  · exact h
  · exact .ite (fun _ => h) fun _ => h.setConn.sendControl

theorem receiveMgmt (h : s.Canonical) : (s.receiveMgmt p).1.Canonical := by
  unfold State.receiveMgmt
  dsimp only
  refine h.receive fun _ _ => ?_
  split
  · exact h
  · trivial

theorem receiveMgmt_keeps {f} (e : s.receiveMgmt p = (t, .run f)) : Meaning.Keeps f := by
  have ask := congrArg Prod.snd e
  obtain ⟨took, hask⟩ : ∃ took : Bool, (s.receiveMgmt p).2 = if took then mgmtAsk p.conn p.payload else .nothing := ⟨_, rfl⟩
  rw [hask] at ask
  cases took with
  | true => exact mgmtAsk_keeps ask
  | false => cases ask

theorem askMgmt (h : s.Canonical) : NextIs State.Canonical (s.askMgmt p) := by
  unfold State.askMgmt
  split
  · next e => exact receiveMgmt_keeps e _ (of_fst h.receiveMgmt e)
  · next e => exact (of_fst h.receiveMgmt e).respond
  · next e => exact of_fst h.receiveMgmt e

theorem takeMgmt (h : s.Canonical) : NextIs State.Canonical (s.takeMgmt p) := .ite (fun _ => h.frame) fun _ => h.askMgmt

theorem takePacket {a} (h : s.Canonical) : NextIs State.Canonical (s.takePacket a) := by
  unfold State.takePacket
  refine .ite (fun _ => h.receive fun _ _ => h) fun _ => .ite (fun _ => State.Canonical.ite (fun _ => h) fun _ => h.drop) fun _ => ?_
  split
  · exact h.execWrite
  · exact h.execRead
  · exact h.execSend
  · exact h.execDoorbell
  · exact h.execSubmit
  · exact h.takeMgmt
  · exact h.execAddw
  · exact h.execSignalMessage
  · exact h.execReadresp
  · exact h.execAck
  · exact h.execNak
  · exact h.execStatus
  · exact h.execCnp
  · exact h.drop

theorem commit {w} (h : s.Canonical) (ht : t.Canonical) : (s.commit w t).Canonical := by
  unfold State.commit
  split
  · exact h.heldLine
  · split
    · next e => exact h.gate.error e
    · exact ht.frame

theorem attempt {w} {f : Meaning} (h : s.Canonical) (hf : f.Keeps) : NextIs State.Canonical (s.attempt w f) := by
  have acted := hf { s with who := .device, wants := [], stalled := none } h.frame
  unfold State.attempt
  split
  · next e => exact h.commit (acted.next e)
  · trivial
  · trivial

theorem serveHeld (h : s.Canonical) : NextIs State.Canonical s.serveHeld := by
  refine .ite (fun _ => h) fun _ => ?_
  refine List.foldlRecOn (motive := NextIs State.Canonical) _ _ (frame h) fun o ho p _ => ?_
  split
  · exact State.Canonical.attempt ho fun _ h => h.askMgmt
  · trivial
  · trivial

theorem takeBytes {port ce bs} (h : s.Canonical) : NextIs State.Canonical (s.takeBytes port ce bs) := by
  unfold State.takeBytes
  split
  · exact h.drop
  · exact .ite (fun _ => h.drop) fun _ =>
      (State.Canonical.ite (fun _ => h.answerCe) fun _ => h).attempt fun _ h => h.takePacket

/-! ### Turns (R17, R18, R45, R85, R179) -/

theorem elapse {c n} (h : s.Canonical) : (s.elapse c n).Canonical := by
  cases c with
  | core k => exact h.tick
  | tile w => exact h.frame
  | fw k => exact h.frame

theorem mapRing {d base n} (h : s.Canonical) : (s.mapRing d base n).Canonical := h.putTables.tlbFlush

theorem setEvring {d x} (h : s.Canonical) : (s.setEvring d x).Canonical := by
  have named (y : Domain) : (s.setDomain d y).Canonical := h.frame
  exact .ite (fun _ => .ite (fun _ => named _) fun _ => (named _).mapRing) fun _ => h

theorem unlessFatal {f : State → State} (h : s.Canonical) (hf : (f s).Canonical) : (s.unlessFatal f).Canonical :=
  .ite (fun _ => h) fun _ => hf

theorem beforeTurn {turn} (h : s.Canonical) : (s.beforeTurn turn).Canonical := .ite (fun _ => h) fun _ => h.closeWindows

theorem settleVt (h : s.Canonical) : (s.settleVt id).Canonical := by
  unfold State.settleVt
  split
  · exact h
  · exact .ite (fun _ => h.settleKill.settleBind.settleSpan) fun _ => h

theorem settle (h : s.Canonical) : s.settle.Canonical := (h.foldl fun _ _ h => h.settleVt).settlePosts

theorem settled {o : Host.Outcome State Fault Refusal} (h : NextIs State.Canonical o) : NextIs State.Canonical (settled o) := by
  cases o with
  | next t => exact State.Canonical.serveHeld (State.Canonical.settle h)
  | fault f => trivial
  | refused r => trivial

theorem takeTurn {turn} (h : s.Canonical) : NextIs State.Canonical (takeTurn turn s) := by
  cases turn with
  | issue core slot => exact .ite (fun _ => h) fun _ => h.tick.issueFrom
  | vp id i =>
    refine .ite (fun _ => h) fun _ => ?_
    split
    · exact h
    · exact exec h.frame
    · exact h.vpIllop
  | op e => exact .ite (fun _ => h.attempt fun _ h => h.exec) fun _ => h
  | packet port ce bs => exact h.takeBytes
  | badPacket port => exact h.drop
  | elapse c n => exact h.elapse
  | setEvring d x => exact h.unlessFatal h.setEvring
  | occupy k n => exact h.unlessFatal h.frame
  | setAllowance k n => exact h.unlessFatal h.frame
  | corrected w n => exact h.unlessFatal h.noteCorrected
  | bist w pass => exact h.unlessFatal h.endBist
  | delayStores id on => exact h.unlessFatal (h.modVt fun _ hv => hv.frame)
  | performStore core k => exact h.unlessFatal h.performStore
  | setPort port x => exact h.unlessFatal h.frame

theorem step (h : s.Canonical) : NextIs State.Canonical (step s) := by
  unfold Machine.step
  split
  · exact settled (beforeTurn h.frame).takeTurn
  · exact .ite (fun _ => trivial) fun _ => settled h.beforeTurn.takeTurn

end State.Canonical

/-- Settles O59: whatever a turn does to storage or to a window is one of the operations of `Memory`, each of which keeps the
canonical form; through every function that a turn runs (`State.Canonical.takeTurn`) the three parts of `State.Canonical` are kept. -/
theorem stepKeepsMemoryCanonical : Obligations.StepKeepsMemoryCanonical := by
  unfold Obligations.StepKeepsMemoryCanonical
  intro s s' h e
  rw [← State.canonical_iff] at h ⊢
  exact h.step.next e

end Sys2Proof.Machine
end

section
/-! PROOF. O14: `State.synced` allows two entries of L2 for one line. Where one is dirty and the others are clean, an `lda` that evicts
a clean one reverts the line to what the dirty one says that storage holds (R94), which `SameButCaches` excludes. -/

set_option Elab.async false

namespace Sys2Proof.Machine

open Sys2Proof

namespace Crowded

/-- A line of another page than that of `fetchLoc`, in the L2 set of the line of address 0x100. -/
def line : Nat := (fetchLoc + 0x300100) / 64

/-- A clean entry of L2 for that line. -/
def clean : L2Line := { line, dirty := false, old := none, pinned := false, first := false }

/-- A VT with x1 = 0x100. -/
def vt : VT := { fetchVt with x := fetchVt.x.set 1 0x100 }

/-- Its CT executes. 16 entries of one line fill the set that a load at 0x100 needs, the first of them dirty over 5 in storage. -/
def state : State :=
  { State.reset.withFetchWord 32 0 with
    who := .ct 0, vts := [(0, vt)], l2 := { clean with dirty := true, old := some 5 } :: List.replicate 15 clean }

/-- `lda` from the address in x1 to x5, at core scope, under the guard that is always 1. -/
def load : Instr := .lda { p := 7, neg := false } 5 1 .core

theorem ctRuns : CtRuns state 0 vt { p := 7, neg := false } [1] [] :=
  ⟨rfl, rfl, by decide +kernel, by decide +kernel, by decide +kernel⟩

/-- What `Passes` asks of the access, as a test. -/
def answers (s : State) : Bool :=
  (match s.gated 0 0 0x100 8 .load .normal with
    | .ok t => t == s
    | .error _ => false)
  && match s.access 0 0 0x100 .load with
    | .ok t u => !((linesOf t.loc 8).any fun l => u.unreachable (l * 64))
        && !(u.linkWaits (cachingOf t.leaf t.loc .normal) .load t.loc 8)
    | _ => false

theorem state_answers : answers state = true := by decide +kernel

theorem passes : ∃ t u, Passes state u vt 0x100 8 .load t := by
  have h := state_answers
  unfold answers at h
  obtain ⟨taken, found⟩ := Bool.and_eq_true_iff.1 h
  split at found
  · next t u translated =>
    simp only [Bool.and_eq_true, Bool.not_eq_true'] at found
    refine ⟨t, u, ?_, translated, found.1, found.2, by decide +kernel, by decide +kernel, ?_, .inl rfl⟩
    · split at taken
      · next g gated => exact gated.trans (congrArg _ (eq_of_beq taken))
      · cases taken
    · unfold State.synced
      decide +kernel
  · cases found

/-- The load brings the 5 back. -/
theorem byteAt_after :
    (match exec load state with
      | .next u => u.byteAt (line * 64) == 5
      | _ => false) = true := by
  decide +kernel

theorem byteAt_before : state.byteAt (line * 64) = 0 := by decide +kernel

end Crowded

/-- An `lda` that its checks pass need not leave storage as it was. -/
theorem not_acquireLoadReleaseStore : ¬ Claim.AcquireLoadReleaseStore := by
  intro claim
  obtain ⟨t, s', passes⟩ := Crowded.passes
  obtain ⟨u, executed, same, -⟩ := (claim _ s' 0 _ _ 5 1 0 .core t (by decide +kernel)).1 Crowded.ctRuns passes
  have unchanged : u.byteAt (Crowded.line * 64) = Crowded.state.byteAt (Crowded.line * 64) := by
    rw [same.1]
    rfl
  have changed := Crowded.byteAt_after
  simp only [Crowded.load, executed, unchanged, Crowded.byteAt_before] at changed
  exact absurd changed (by decide)

/-- Refutes O14: where L2 has a dirty and a clean entry for one line, an `lda` that evicts the clean one takes the bytes of the line
back to storage's. -/
theorem not_acquireReleaseAndFences : ¬ Obligations.AcquireReleaseAndFences := fun h => not_acquireLoadReleaseStore h.1

end Sys2Proof.Machine
end

section
/-! PROOF. O38: accesses to the windows. -/

set_option Elab.async false

namespace Sys2Proof.Machine

open Sys2Proof

/-- The size and the bytes of a VT's window of a space (R73, R74). -/
theorem State.window_eq {s : State} {vt : VT} {x : Gang} {space : Nat} (h : s.gangs.get? vt.gang = some x) :
    s.windowSize vt space = (if space = 1 then x.cspwin * 2048 else vt.tcmwin * 4096)
      ∧ s.window vt space = if space = 1 then x.csp else vt.tcm := by
  simp [State.windowSize, State.window, h]

/-- Windows without poison marks have none at any byte. -/
theorem State.windowPoisoned_of_nil {s : State} {vt : VT} {x : Gang} (h : s.gangs.get? vt.gang = some x) (hx : x.cspPoison = [])
    (hv : vt.tcmPoison = []) (space off n : Nat) : s.windowPoisoned vt space off n = false := by
  simp [State.windowPoisoned, h, hx, hv]

/-- A write to a window that bears no poison marks puts its bytes there and does nothing else. -/
theorem State.windowWrite_of_nil {s : State} {id : Nat} {vt : VT} {x : Gang} (space off : Nat) (bs : List (Byte × Bool))
    (there : s.vt? id = some vt) (h : s.gangs.get? vt.gang = some x) (hx : x.cspPoison = []) (hv : vt.tcmPoison = []) :
    s.windowWrite id vt space off bs =
      if space = 1 then { s with gangs := s.gangs.set vt.gang { x with csp := Memory.writeMasked x.csp off bs } }
      else s.setVt id { vt with tcm := Memory.writeMasked vt.tcm off bs } := by
  simp [State.windowWrite, State.cspWrite, State.tcmWrite, State.modVt_eq there, h, hx, hv, clearUnits]

/-- An access that leaves its window fails with BOUND. -/
theorem State.space_bound {s : State} {vt : VT} {space n : Nat} {addr : Int} (id : Nat) (bs : List (Byte × Bool)) (h : Hint)
    (f : Nat → Option Nat) (hspace : space ≠ 0) (out : addr < 0 ∨ (s.windowSize vt space : Int) < addr + n) :
    s.loadSpace vt space addr n h = .fault .bound s ∧ s.atomicSpace id vt space addr n f = .fault .bound s
      ∧ (bs.length = n → s.storeSpace id vt space addr bs h = .fault .bound s) := by
  refine ⟨?_, ?_, fun hn => ?_⟩
  · rw [State.loadSpace, if_neg hspace, if_pos out]
  · rw [State.atomicSpace, if_neg hspace, if_pos out]
  · rw [State.storeSpace, if_neg hspace, hn, if_pos out]

/-- A load within a window that bears no poison marks. -/
theorem State.loadSpace_window {s : State} {vt : VT} {x : Gang} {space n : Nat} {addr : Int} (h : Hint) (hspace : space ≠ 0)
    (there : s.gangs.get? vt.gang = some x) (hx : x.cspPoison = []) (hv : vt.tcmPoison = [])
    (within : ¬ (addr < 0 ∨ (s.windowSize vt space : Int) < addr + n)) :
    s.loadSpace vt space addr n h = .ok (Memory.readBytes (s.window vt space) addr.toNat n) s := by
  simp [State.loadSpace, hspace, within, State.windowPoisoned_of_nil there hx hv]

/-- A store within a window. -/
theorem State.storeSpace_window {s : State} {vt : VT} {space : Nat} {addr : Int} (id : Nat) (bs : List (Byte × Bool)) (h : Hint)
    (hspace : space ≠ 0) (within : ¬ (addr < 0 ∨ (s.windowSize vt space : Int) < addr + bs.length)) :
    s.storeSpace id vt space addr bs h = .ok () (s.windowWrite id vt space addr.toNat bs) := by
  simp [State.storeSpace, hspace, within]

/-- Settles O38: a window's bounds come first; within them the window's own bytes are read or written. -/
theorem windowAccesses : Obligations.WindowAccesses := by
  intro s id vt space n addr bs h f x hspace hvt hx size cells
  obtain ⟨hsize, hcells⟩ : s.windowSize vt space = size ∧ s.window vt space = cells := State.window_eq hx
  have hne : space ≠ 0 := by omega
  refine ⟨fun out => State.space_bound id bs h f hne (hsize ▸ out), fun low high cspClean tcmClean => ?_⟩
  have within : ¬ (addr < 0 ∨ (s.windowSize vt space : Int) < addr + n) := by omega
  refine ⟨hcells ▸ State.loadSpace_window h hne hx cspClean tcmClean within, fun hn hwf => ?_⟩
  subst hn
  refine ⟨Memory.writeMasked cells addr.toNat bs, ?_, Memory.wf_writeMasked _ _ hwf, fun a => ?_⟩
  · rw [State.storeSpace_window id bs h hne within, State.windowWrite_of_nil space _ bs hvt hx cspClean tcmClean]
    by_cases hs : space = 1 <;> simp [cells, hs]
  · have reached : addr ≤ a ↔ addr.toNat ≤ a := by omega
    simp only [reached]
    exact Memory.read_writeMasked _ _ _ hwf

end Sys2Proof.Machine
end

section
/-! PROOF. O47, first part (R256, R257, R385 to R387): scans and the taking of slots. -/

set_option Elab.async false

namespace Sys2Proof.Machine

open Sys2Proof

/-- The slots that a scan takes are those whose bit of the bitmap is not as SCHED saw it. -/
theorem mem_changedSlots {q : Queue} {bitmap : List Byte} {k : Nat} :
    k ∈ changedSlots q bitmap ↔
      k < 2 ^ q.log2n ∧ ((bitmap[k / 8]?).getD 0).getLsbD (k % 8) ≠ (q.slots.getD k {}).seen := by
  simp [changedSlots]

theorem changedSlots_of_same {q : Queue} {bitmap : List Byte}
    (h : ∀ j, j < 2 ^ q.log2n → ((bitmap[j / 8]?).getD 0).getLsbD (j % 8) = (q.slots.getD j {}).seen) :
    changedSlots q bitmap = [] :=
  List.eq_nil_iff_forall_not_mem.2 fun j hj => (mem_changedSlots.1 hj).2 (h j (mem_changedSlots.1 hj).1)

theorem changedSlots_of_one {q : Queue} {bitmap : List Byte} {k : Nat} (hk : k < 2 ^ q.log2n)
    (h : ∀ j, j < 2 ^ q.log2n → (((bitmap[j / 8]?).getD 0).getLsbD (j % 8) ≠ (q.slots.getD j {}).seen ↔ j = k)) :
    changedSlots q bitmap = [k] := by
  have nodup : (changedSlots q bitmap).Nodup := List.nodup_range.filter _
  have only (j : Nat) : j ∈ changedSlots q bitmap ↔ j = k := by
    rw [mem_changedSlots]
    exact ⟨fun hj => (h j hj.1).1 hj.2, fun hj => ⟨hj ▸ hk, (h j (hj ▸ hk)).2 hj⟩⟩
  exact List.perm_singleton.1 ((List.perm_ext_iff_of_nodup nodup (List.nodup_singleton k)).2 (by simpa using only))

/-- A scan of an ACTIVE queue whose doorbell and bitmap can be read, where no slot has changed (R257). -/
theorem State.scanQueue_of_same {s s1 s2 : State} {dom qn : Nat} {q : Queue} {b0 bm : List Byte} (there : s.queue? dom qn = some q)
    (active : q.st = .active) (runs : s.schedPaused dom = false)
    (bell : (s.setQueue dom qn { q with scan := false }).schedRead dom .atomic q.doorbell.toNat 8 = (.ok b0, s1))
    (map : s1.schedRead dom .atomic q.bitmap.toNat (2 ^ q.log2n / 8) = (.ok bm, s2)) (same : changedSlots q bm = []) :
    s.scanQueue dom qn = s2 := by
  have acts : ¬ (q.st ≠ .active ∨ s.schedPaused dom = true) := by simp [active, runs]
  simp only [State.scanQueue, there, if_neg acts, bell, map, same, List.foldl_nil]

/-- The same where one slot has changed: it is taken, unless the reads have faulted the queue. -/
theorem State.scanQueue_of_one {s s1 s2 : State} {dom qn k : Nat} {q y : Queue} {b0 bm : List Byte}
    (there : s.queue? dom qn = some q) (active : q.st = .active) (runs : s.schedPaused dom = false)
    (bell : (s.setQueue dom qn { q with scan := false }).schedRead dom .atomic q.doorbell.toNat 8 = (.ok b0, s1))
    (map : s1.schedRead dom .atomic q.bitmap.toNat (2 ^ q.log2n / 8) = (.ok bm, s2)) (one : changedSlots q bm = [k])
    (again : s2.queue? dom qn = some y) (active' : y.st = .active) :
    s.scanQueue dom qn = s2.takeSlot { domain := dom, queue := qn, slot := k } := by
  have acts : ¬ (q.st ≠ .active ∨ s.schedPaused dom = true) := by simp [active, runs]
  simp only [State.scanQueue, there, if_neg acts, bell, map, one, List.foldl_cons, List.foldl_nil, again, if_pos active']

theorem scanTakesSlots : Claim.ScanTakesSlots := by
  intro s s1 s2 dom qn k q y x b0 bm body ids r e n bit seen own
  refine ⟨fun there active runs bell map => ⟨fun same => ?_, fun hk one again active' => ?_⟩, fun there => ?_⟩
  · exact congrArg Host.Outcome.next (State.scanQueue_of_same there active runs bell map (changedSlots_of_same same))
  · exact congrArg Host.Outcome.next (State.scanQueue_of_one there active runs bell map (changedSlots_of_one hk one) again active')
  · intro at' taken
    have cause : own e = resultCode e := by cases e <;> rfl
    refine ⟨fun failed => ?_, fun read busy => ?_, fun read idle => ⟨fun bad => ?_, fun good => ?_⟩⟩
    · have read : (s.setSlot n { x with seen := !x.seen }).schedRead n.domain .atomic (slotVa q n.slot) 128 = (.error e, s1) := failed
      simp only [State.takeSlot, there, read, cause]
    · have read : (s.setSlot n { x with seen := !x.seen }).schedRead n.domain .atomic (slotVa q n.slot) 128 = (.ok body, s1) := read
      have busy : Slot.field taken 1 1 ≠ 0 := busy
      simp only [State.takeSlot, there, read]
      rw [if_pos busy]
      rfl
    all_goals
      have read : (s.setSlot n { x with seen := !x.seen }).schedRead n.domain .atomic (slotVa q n.slot) 128 = (.ok body, s1) := read
      have idle : ¬ Slot.field taken 1 1 ≠ 0 := not_not.2 idle
    · have bad : (s1.setSlot n taken).checkNode n.domain taken = (.error r, s2) := bad
      simp only [State.takeSlot, there, read]
      rw [if_neg idle]
      simp only [taken] at bad
      simp only [bad]
    · have good : (s1.setSlot n taken).checkNode n.domain taken = (.ok ids, s2) := good
      have taken_eq : s.takeSlot n =
          if taken.preds < x.cred then (s2.setSlot n { taken with succ := ids }).finishNode n false causeMalformed
          else if x.cred = taken.preds then (s2.setSlot n { taken with succ := ids }).releaseNode n
          else (s2.setSlot n { taken with succ := ids, st := .pending }).publish n 0 := by
        simp only [State.takeSlot, there, read]
        rw [if_neg idle]
        simp only [taken] at good
        simp only [good]
        rfl
      intro y
      have preds : y.preds = taken.preds := rfl
      refine ⟨fun enough => ?_, fun few => ?_, fun many => ?_⟩
      · rw [taken_eq, if_neg (by omega), if_pos (by omega)]
      · rw [taken_eq, if_neg (by omega), if_neg (by omega)]
      · rw [taken_eq, if_pos (by omega)]
        rfl

end Sys2Proof.Machine
end

section
/-! PROOF. O47, second part (R256, R258 to R260, R262, R386): how nodes end, are credited and released, and the nodes that act by
themselves. -/

set_option Elab.async false

namespace Sys2Proof.Machine

open Sys2Proof

/-! ### Completion, credits and release -/

/-- A node that ends becomes DONE or FAILED, and DONE credits its successors (R256, R258). -/
theorem State.finishNode_done {s : State} {n : SlotRef} {q : Queue} {x : Slot} (there : s.slot? n = some (q, x)) (res : Nat) :
    s.finishNode n true res = x.succ.foldl (fun s sid => s.creditNode n.domain sid)
      ((s.setSlot n { x with st := .done, cred := 0, handed := false, outcome := none }).publish n res) := by
  simp [State.finishNode, there]

theorem State.finishNode_failed {s : State} {n : SlotRef} {q : Queue} {x : Slot} (there : s.slot? n = some (q, x)) (res : Nat) :
    s.finishNode n false res
      = (s.setSlot n { x with st := .failed, cred := 0, handed := false, outcome := none }).publish n res := by
  simp [State.finishNode, there]

/-- NODE_COMPLETION of a node whose outcome is known. -/
theorem exec_nodeCompletion {s : State} {n : SlotRef} {q : Queue} {x : Slot} {o : Bool × Nat} (there : s.slot? n = some (q, x))
    (runs : s.schedPaused n.domain = false) (released : x.st = .released) (out : x.outcome = some o) :
    exec (.nodeCompletion n) s = .next (
      if q.st ≠ .active then (if x.kind = 1 ∨ q.offending = some n.slot then s else s.abortNode n)
      else if x.overCredit && !o.1 then s.finishNode n false causeMalformed
      else s.finishNode n (!o.1) o.2) := by
  have acts : ¬ (x.st ≠ .released ∨ s.schedPaused n.domain = true) := by simp [released, runs]
  refine congrArg Host.Outcome.next ?_
  simp only [there, if_neg acts, out]

/-- A release puts the node among the RELEASED ones and publishes it, once a LAUNCH has its image (R256, R262). -/
theorem State.releaseNode_eq {s t : State} {n : SlotRef} {q : Queue} {x y : Slot} (there : s.slot? n = some (q, x))
    (image : s.readImage n x = (y, t)) :
    s.releaseNode n =
      ({ t.setSlot n { y with st := .released, order := t.nextOrder, outcome := none, handed := false, overCredit := false } with
         nextOrder := t.nextOrder + 1 } : State).publish n 0 := by
  simp only [State.releaseNode, there, image]

theorem nodeStates : Claim.NodeStates := by
  intro s s1 s2 n m q x y res sid o h v c
  refine ⟨fun there runs released => ?_, fun there idle => ?_, fun hm there active pending => ?_, fun there => ?_⟩
  · intro ends
    refine ⟨fun active noOver out => ?_, fun active out => ?_, fun active credited out => ?_, fun gone notLaunch spared out => ?_⟩
    · rw [exec_nodeCompletion there runs released out, if_neg (by simp [active]), if_neg (by simp [noOver])]
      exact congrArg Host.Outcome.next (State.finishNode_done there res)
    · rw [exec_nodeCompletion there runs released out, if_neg (by simp [active]), if_neg (by simp)]
      exact congrArg Host.Outcome.next (State.finishNode_failed there res)
    · rw [exec_nodeCompletion there runs released out, if_neg (by simp [active]), if_pos (by simp [credited])]
      exact congrArg Host.Outcome.next (State.finishNode_failed there 0x0C)
    · obtain ⟨o, out⟩ := Option.isSome_iff_exists.1 out
      rw [exec_nodeCompletion there runs released out, if_pos gone, if_neg (by simp [notLaunch, spared])]
  · refine congrArg Host.Outcome.next ?_
    simp only [there]
    rw [if_pos (.inl idle)]
  · subst hm
    simp only [State.creditNode, there, pending]
    rw [if_neg (not_not.2 active)]
    rfl
  · refine ⟨fun other => State.releaseNode_eq there (by rw [State.readImage, if_pos other]), fun launch unread => ?_,
      fun launch header regs => ?_⟩
    · refine State.releaseNode_eq there ?_
      rw [State.readImage, if_neg (not_not.2 launch)]
      simp only [unread]
      rfl
    · refine State.releaseNode_eq there ?_
      rw [State.readImage, if_neg (not_not.2 launch)]
      simp only [header, regs]

/-! ### The nodes that act by themselves -/

/-- A node that is due stands in its queue as SCHED keeps it. -/
theorem State.slot?_of_dueNode {s : State} {n : SlotRef} {kind : Nat} {q : Queue} {x : Slot} (h : s.dueNode n kind = some (q, x)) :
    s.slot? n = some (q, x) := by
  unfold State.dueNode at h
  split at h
  · cases h
  · next q' x' there =>
    obtain ⟨-, h⟩ := Option.ite_none_right_eq_some.1 h
    rw [there, Option.some.inj h]

/-- The outcome of a node is kept until its completion. -/
theorem State.nodeOutcome_eq {s : State} {n : SlotRef} {q : Queue} {x : Slot} (h : s.slot? n = some (q, x)) (failed : Bool) (res : Nat) :
    s.nodeOutcome n failed res = s.setSlot n { x with handed := true, outcome := some (failed, res) } := by
  simp [State.nodeOutcome, h]

theorem nodeActions : Claim.NodeActions := by
  intro s s1 n q x key f d c a ends
  refine ⟨fun due => ?_, fun due => ?_, fun due => ⟨fun stale => ?_, fun entry => ⟨fun st => ?_, fun st => ?_, fun st => ?_⟩⟩,
    fun due ran => ⟨fun stop => ?_, fun stop => ?_, fun stop => ?_⟩, fun there => State.nodeOutcome_eq there true a⟩
  · refine congrArg Host.Outcome.next ?_
    simp only [due]
    exact State.nodeOutcome_eq (State.slot?_of_dueNode due) false 0
  · simp only [List.forall_mem_cons, List.not_mem_nil, false_imp_iff, implies_true, and_true]
    refine ⟨fun put => ?_, fun put => ?_, fun put => ?_, fun put => ?_⟩
    all_goals
      refine congrArg Host.Outcome.next ?_
      simp only [due, put] <;> rfl
  · refine congrArg Host.Outcome.next ?_
    simp only [due, stale]
    rfl
  · refine congrArg Host.Outcome.next ?_
    simp only [due, entry, st]
  · refine congrArg Host.Outcome.next ?_
    simp only [due, entry, st]
    rfl
  · intro va wrote
    have wrote : s.schedWrite n.domain (slotVa q n.slot + 0x30) (leBytes 8 f.value.toNat) = (none, s1) := wrote
    refine congrArg Host.Outcome.next ?_
    simp only [due, entry, st, wrote]
    rfl
  all_goals
    refine congrArg Host.Outcome.next ?_
    simp only [due, ran, stop]

end Sys2Proof.Machine
end

section
/-! PROOF. O47, third part (R92 to R94, R261 to R265): the nodes that act on L2, and LAUNCH of one gang. -/

set_option Elab.async false

namespace Sys2Proof.Machine

open Sys2Proof

/-! ### The nodes that act on L2 -/

/-- A range of at most 64 bytes within a line is that line. -/
theorem rangeLines_of_one {va len : Nat} (hlen : 0 < len) (h : va % 64 + len ≤ 64) : rangeLines va len = [va / 64 * 64] := by
  have one : (va + len - 1) / 64 - va / 64 + 1 = 1 := by omega
  rw [rangeLines, one]
  simp

/-- The homes of a page are L2 slices where it is neither a device page nor uncached, and not in SRAM (R84). -/
theorem cachingOf_atL2 {w : Word64} {loc : Nat} :
    (cachingOf w loc .normal).atL2 = true ↔ entryDevice w = false ∧ entryPolicy w ≠ 2 ∧ isSram loc = false := by
  unfold cachingOf
  split
  · next h =>
    simp only [Bool.or_eq_true, beq_iff_eq] at h
    simp only [Bool.false_eq_true, false_iff]
    rintro ⟨device, policy, -⟩
    simp [device, policy] at h
  · next h => simp_all

/-- A load of a cacheable page without a hint brings its lines in to be evicted first where the page streams (R84). -/
theorem cachingOf_first {w : Word64} {loc : Nat} (h : (cachingOf w loc .normal).atL2 = true) :
    (cachingOf w loc .normal).first = (entryPolicy w == 3) := by
  obtain ⟨device, policy, -⟩ := cachingOf_atL2.1 h
  simp [cachingOf, device, policy]

theorem State.want_ways (s : State) (q : List Nat) (line : Nat) : (s.want q).ways line = s.ways line := by
  unfold State.want; split <;> rfl

theorem State.want_l2 (s : State) (q : List Nat) : (s.want q).l2 = s.l2 := by
  unfold State.want; split <;> rfl

theorem State.want_homeSlice (s : State) (q : List Nat) (loc : Nat) : (s.want q).homeSlice loc = s.homeSlice loc := by
  unfold State.want; split <;> rfl

theorem State.want_victim (s : State) (q : List Nat) (line : Nat) : (s.want q).victim line = s.victim line := by
  simp only [State.victim, State.want_ways]

/-- A line comes into a set with room. -/
theorem State.l2Insert_room {s : State} {l : L2Line} (home : (s.homeSlice (l.line * 64)).isSome = true)
    (room : (s.ways l.line).length < 16) : s.l2Insert l = some { s with l2 := l :: s.l2 } := by
  obtain ⟨k, hk⟩ := Option.isSome_iff_exists.1 home
  simp [State.l2Insert, hk, room]

/-- A line comes into a full set over the line that the set evicts. -/
theorem State.l2Insert_victim {s : State} {l v : L2Line} (home : (s.homeSlice (l.line * 64)).isSome = true)
    (full : 16 ≤ (s.ways l.line).length) (hv : s.victim l.line = some v) :
    s.l2Insert l = some { s.l2Evict v with l2 := l :: (s.l2Evict v).l2 } := by
  obtain ⟨k, hk⟩ := Option.isSome_iff_exists.1 home
  simp [State.l2Insert, hk, Nat.not_lt.2 full, hv]

/-- A full set of pinned lines takes none. -/
theorem State.l2Insert_pinned {s : State} {l : L2Line} (full : 16 ≤ (s.ways l.line).length)
    (pinned : ∀ w ∈ s.ways l.line, w.pinned = true) : s.l2Insert l = none := by
  have none : s.victim l.line = none := by
    have free : (s.ways l.line).filter (fun w => !w.pinned) = [] := List.filter_eq_nil_iff.2 fun w hw => by simp [pinned w hw]
    simp [State.victim, free]
  unfold State.l2Insert
  split
  · rfl
  · rw [if_neg (Nat.not_lt.2 full), none]

/-- A write to a slot that goes through. -/
theorem State.writeBody_of_written {s t : State} {n : SlotRef} {q : Queue} {off : Nat} {bs : List Byte}
    (h : s.schedWrite n.domain (q.ring.toNat + 128 * n.slot + off) bs = (none, t)) : s.writeBody n q off bs = t := by
  have h : s.schedWrite n.domain (slotVa q n.slot + off) bs = (none, t) := h
  simp only [State.writeBody, h]

/-- What a node counts of a line: the machine after it, and whether the line was skipped or refused; none of a reserved region. -/
def LineOutcome.counts : LineOutcome → Option (State × Nat × Nat)
  | .done s => some (s, 0, 0)
  | .skipped s => some (s, 1, 0)
  | .refused s => some (s, 0, 1)
  | .violation => none

theorem State.overLines_one {s u : State} {f : State → Nat → LineOutcome} {va skipped refused : Nat}
    (h : (f s va).counts = some (u, skipped, refused)) : s.overLines f [va] = (u, skipped, refused, false) := by
  unfold State.overLines
  cases hf : f s va with
  | violation => rw [hf] at h; cases h
  | _ => rw [hf] at h; cases h; rfl

section OneLine
variable {s s1 s2 u : State} {n : SlotRef} {q : Queue} {x : Slot} {t : Trans} {l : L2Line} {dom va : Nat} {pin : Bool}

/-- A PREFETCH of one line writes what it counts into its slot. -/
theorem exec_prefetch_one {skipped refused : Nat} (due : s.dueNode n 3 = some (q, x)) (hlen : 0 < x.field 0x30 8)
    (one : x.field 0x28 8 % 64 + x.field 0x30 8 ≤ 64)
    (line : (State.prefetchLine n.domain (x.field 0x38 1 == 1) s (x.field 0x28 8 / 64 * 64)).counts = some (u, skipped, refused))
    (wrote : u.schedWrite n.domain (q.ring.toNat + 128 * n.slot + 0x48) (leBytes 4 skipped ++ leBytes 4 refused) = (none, s2)) :
    exec (.prefetch n) s = .next (s2.nodeOutcome n false 0) := by
  refine congrArg Host.Outcome.next ?_
  simp only [due, rangeLines_of_one hlen one, State.overLines_one line, Bool.false_eq_true, if_false,
    State.writeBody_of_written wrote]

/-- A line that is not cached in L2, or out of reach, is skipped. -/
theorem State.prefetchLine_skipped (walk : s.accessWalk dom va .load = .ok t s1)
    (h : ¬ ((cachingOf t.leaf t.loc .normal).atL2 = true ∧ s1.unreachable t.loc = false)) :
    State.prefetchLine dom pin s va = .skipped s1 := by
  have out : (!(cachingOf t.leaf t.loc .normal).atL2 || s1.unreachable t.loc) = true := by
    rw [Bool.or_eq_true, Bool.not_eq_true']
    by_contra! hc
    exact h ⟨Bool.not_eq_false _ ▸ hc.1, Bool.not_eq_true _ ▸ hc.2⟩
  simp only [State.prefetchLine, walk, if_pos out]

/-- A line that is there becomes the most recently used. -/
theorem State.prefetchLine_present (walk : s.accessWalk dom va .load = .ok t s1)
    (atL2 : (cachingOf t.leaf t.loc .normal).atL2 = true) (reached : s1.unreachable t.loc = false)
    (there : s1.l2Find (t.loc / 64) = some l) :
    State.prefetchLine dom pin s va = .done (s1.l2Front { l with pinned := l.pinned || pin }) := by
  simp [State.prefetchLine, walk, atL2, reached, there]

/-- A line that is missing comes in where its set has or makes room. -/
theorem State.prefetchLine_missing (walk : s.accessWalk dom va .load = .ok t s1)
    (atL2 : (cachingOf t.leaf t.loc .normal).atL2 = true) (reached : s1.unreachable t.loc = false)
    (missing : s1.l2Find (t.loc / 64) = none) (link : s1.linkDown t.loc = false) :
    State.prefetchLine dom pin s va =
      ((s1.want (s1.slicesOf (cachingOf t.leaf t.loc .normal) .load (t.loc / 64 * 64) 64)).l2Insert
        { line := t.loc / 64, dirty := false, old := none, pinned := pin, first := entryPolicy t.leaf == 3 }).elim
        (.refused s1) .done := by
  rw [← cachingOf_first atL2]
  simp only [State.prefetchLine, walk, atL2, reached, missing, link, Bool.not_true, Bool.or_self, Bool.false_eq_true, if_false]
  split
  · next h => rw [h, Option.elim_some]
  · next h => rw [h, Option.elim_none]

/-- UNPIN takes the pin from a line that is there. -/
theorem State.unpinLine_present (walk : s.translate dom va = .ok t s1) (free : s1.isReserved t.loc = false)
    (there : s1.l2Find (t.loc / 64) = some l) :
    State.unpinLine dom s va = .done (s1.l2Front { l with pinned := false, first := false }) := by
  simp [State.unpinLine, walk, free, there]

theorem State.unpinLine_absent (walk : s.translate dom va = .ok t s1) (free : s1.isReserved t.loc = false)
    (gone : s1.l2Find (t.loc / 64) = none) : State.unpinLine dom s va = .done s1 := by
  simp [State.unpinLine, walk, free, gone]

/-- An UNPIN of one line. -/
theorem exec_unpin_one (due : s.dueNode n 4 = some (q, x)) (hlen : 0 < x.field 0x30 8)
    (one : x.field 0x28 8 % 64 + x.field 0x30 8 ≤ 64)
    (line : (State.unpinLine n.domain s (x.field 0x28 8 / 64 * 64)).counts = some (u, 0, 0)) :
    exec (.unpin n) s = .next (u.nodeOutcome n false 0) := by
  refine congrArg Host.Outcome.next ?_
  simp only [due, rangeLines_of_one hlen one, State.overLines_one line, Bool.false_eq_true, if_false]

/-- A DISCARD of one line writes what it counts into its slot. -/
theorem exec_discard_one {skipped : Nat} (due : s.dueNode n 5 = some (q, x)) (hlen : 0 < x.field 0x30 8)
    (one : x.field 0x28 8 % 64 + x.field 0x30 8 ≤ 64)
    (line : (State.discardLine n.domain s (x.field 0x28 8 / 64 * 64)).counts = some (u, skipped, 0))
    (wrote : u.schedWrite n.domain (q.ring.toNat + 128 * n.slot + 0x48) (leBytes 4 skipped) = (none, s2)) :
    exec (.discard n) s = .next (s2.nodeOutcome n false 0) := by
  refine congrArg Host.Outcome.next ?_
  simp only [due, rangeLines_of_one hlen one, State.overLines_one line, Bool.false_eq_true, if_false,
    State.writeBody_of_written wrote]

/-- A DISCARD takes back a line of L2 that may be written and reached, and skips any other. -/
theorem State.discardLine_eq (walk : s.translate dom va = .ok t s1) (free : s1.isReserved t.loc = false) :
    State.discardLine dom s va =
      if entryW t.leaf = true ∧ (cachingOf t.leaf t.loc .normal).atL2 = true ∧ s1.unreachable t.loc = false
      then .done (s1.l2Revert (t.loc / 64)) else .skipped s1 := by
  simp only [State.discardLine, walk, free, Bool.false_eq_true, if_false]
  have same : (!entryW t.leaf || entryDevice t.leaf || entryPolicy t.leaf == 2 || isSram t.loc || s1.unreachable t.loc) = true
      ↔ ¬ (entryW t.leaf = true ∧ (cachingOf t.leaf t.loc .normal).atL2 = true ∧ s1.unreachable t.loc = false) := by
    rw [cachingOf_atL2]
    cases entryW t.leaf <;> cases entryDevice t.leaf <;> cases isSram t.loc <;> cases s1.unreachable t.loc <;> simp
  simp only [same, ite_not]

end OneLine

theorem lineNodes : Claim.LineNodes := by
  intro s s1 s2 n q x t l a line slot pin one wrote counts cached fresh hone
  obtain ⟨hlen, within⟩ := hone
  have cachedIff (u : State) : cached u ↔ (cachingOf t.leaf t.loc .normal).atL2 = true ∧ u.unreachable t.loc = false := by
    rw [cachingOf_atL2]
    simp only [cached, and_assoc]
  refine ⟨fun due walk => ?_, fun due walk free => ⟨fun there => ?_, fun gone => ?_⟩, fun due walk free => ?_⟩
  · intro ends asked missing
    have toEnd {u : State} {skipped refused : Nat} (h : (State.prefetchLine n.domain pin s a).counts = some (u, skipped, refused)) :
        ends u skipped refused := exec_prefetch_one due hlen within h
    have insert (h : missing) : State.prefetchLine n.domain pin s a =
        (asked.l2Insert fresh).elim (.refused s1) .done := by
      obtain ⟨reach, absent, link⟩ := h
      obtain ⟨atL2, reached⟩ := (cachedIff s1).1 reach
      exact State.prefetchLine_missing walk atL2 reached absent link
    refine ⟨fun out => toEnd ?_, fun miss home room => toEnd ?_, fun miss home full evicts => toEnd ?_,
      fun miss full pinned => toEnd ?_, fun reach there => toEnd ?_⟩
    · rw [State.prefetchLine_skipped walk (mt (cachedIff s1).2 out)]
      rfl
    · rw [insert miss, State.l2Insert_room (by rwa [State.want_homeSlice]) (by rwa [State.want_ways]), State.want_l2]
      rfl
    · rw [insert miss, State.l2Insert_victim (by rwa [State.want_homeSlice]) (by rwa [State.want_ways])
        (by rwa [State.want_victim])]
      rfl
    · rw [insert miss, State.l2Insert_pinned (by rwa [State.want_ways]) (by rwa [State.want_ways])]
      rfl
    · obtain ⟨atL2, reached⟩ := (cachedIff s1).1 reach
      rw [State.prefetchLine_present walk atL2 reached there, State.l2Front, State.l2Drop, State.line_of_l2Find there]
      rfl
  · refine exec_unpin_one due hlen within ?_
    rw [State.unpinLine_present walk free there, State.l2Front, State.l2Drop, State.line_of_l2Find there]
    rfl
  · refine exec_unpin_one due hlen within ?_
    rw [State.unpinLine_absent walk free gone]
    rfl
  · intro rest back
    have discard := State.discardLine_eq walk free
    have reverted : s1.l2Revert line = back := by
      simp only [State.l2Revert, back]
      cases there : s1.l2Find line with
      | none => rfl
      | some k =>
        simp only [State.fromStorage, State.l2Drop, State.line_of_l2Find there]
        cases k.old <;> rfl
    refine ⟨fun writable reach counted => ?_, fun out counted => ?_⟩
    · refine exec_discard_one due hlen within ?_ counted
      rw [discard, if_pos ⟨writable, (cachedIff s1).1 reach⟩]
      exact congrArg (fun u => some (u, 0, 0)) reverted
    · refine exec_discard_one due hlen within ?_ counted
      rw [discard, if_neg fun h => out ⟨h.1, (cachedIff s1).2 h.2⟩]
      rfl

/-! ### LAUNCH -/

/-- The cluster chosen depends on the tiles, dies and the queues of the clusters alone. -/
theorem State.pickCluster_congr {s t : State} (mask : BitVec 32) (hc : t.clusters = s.clusters) (ht : t.tiles = s.tiles)
    (hd : t.dies = s.dies) : t.pickCluster mask = s.pickCluster mask := by
  have cluster (g : Nat) : t.cluster g = s.cluster g := by unfold State.cluster; rw [hc]
  have service (g : Nat) : t.inService g = s.inService g := by unfold State.inService State.tile State.die; rw [ht, hd]
  simp only [State.pickCluster, cluster, service]

/-- A new gang waits at the end of its cluster's queue, under a GANGID of its own. -/
theorem State.newGang_eq {s : State} {l : Launch} {c : Nat} (index : Nat) (h : s.pickCluster l.clusters = some c) :
    ∃ gid picks, s.newGang l index = ({ s with picks } : State).enqueueGang (gangKey l.slot.domain gid)
      { domain := l.slot.domain, id := gid, size := l.gang + 1, frames := 2 ^ l.wsel.val, tcmwin := l.tcmwin
        launch := some l.slot, launchNo := l.no, index, clusters := l.clusters, prio := l.prio, cspwin := l.cspwin } c := by
  simp only [State.newGang, h]
  exact ⟨_, _, rfl⟩

/-- The launch that an image becomes is of its node, under the number given. -/
theorem launchImage_slot {n : SlotRef} {no : Nat} {x : Slot} {prio : Nat} {h v : List Byte} {l : Launch}
    (hl : launchImage n no x prio h v = some l) : l.slot = n := by
  unfold launchImage at hl
  obtain ⟨-, hl⟩ := Option.ite_none_right_eq_some.1 hl
  exact Option.some.inj hl ▸ rfl

/-- A LAUNCH that is handed on, of a legal image that some cluster can hold: its gangs follow one another. -/
theorem exec_launch {s : State} {n : SlotRef} {q : Queue} {x : Slot} {l : Launch} (due : s.dueNode n 1 = some (q, x))
    (active : q.st = .active) (read : x.imageFail = none)
    (good : launchImage n (s.nextOrder + 1) x q.prio x.image.1 x.image.2 = some l) (fits : l.unplaceable = false)
    (cluster : (s.pickCluster l.clusters).isNone = false) :
    exec (.launch n) s = .next ((List.range l.gangs).foldl (fun s k => s.newGang l k)
      { s.setSlot n { x with handed := true } with launches := s.launches ++ [l], nextOrder := s.nextOrder + 1 }) := by
  refine congrArg Host.Outcome.next ?_
  simp only [due, if_neg (not_not.2 active)]
  split
  · next failed => rw [read] at failed; cases failed
  · next bad => rw [good] at bad; cases bad
  · next good' =>
    rw [good] at good'
    cases good'
    rw [if_neg (by simp [fits, cluster])]

/-- Only a queue's slots differ after a slot is set. -/
theorem State.setSlot_queues (s : State) (n : SlotRef) (y : Slot) :
    s.setSlot n y = { s with queues := (s.setSlot n y).queues } := by
  unfold State.setSlot
  split <;> rfl

theorem launchNode : Claim.LaunchNode := by
  intro s n q x l c e due active image
  have acts : ¬ q.st ≠ .active := not_not.2 active
  refine ⟨fun failed => ?_, fun read bad => ?_, fun read good => ⟨fun nowhere => ?_, fun fits cluster single => ?_⟩⟩
  · refine congrArg Host.Outcome.next ?_
    simp only [due, if_neg acts, failed]
  · refine congrArg Host.Outcome.next ?_
    simp only [image] at bad
    simp only [due, if_neg acts, read, bad]
    rfl
  · refine congrArg Host.Outcome.next ?_
    simp only [image] at good
    simp only [due, if_neg acts, read, good]
    rw [if_pos (by simpa using nowhere)]
  · have slot : l.slot = n := launchImage_slot good
    have handed := State.slot?_setSlot_self s n { x with handed := true } (State.slot?_of_dueNode due)
    let taken : State :=
      { s with queues := (s.setSlot n { x with handed := true }).queues, launches := s.launches ++ [l]
               nextOrder := s.nextOrder + 1 }
    have launched : exec (.launch n) s = .next (taken.newGang l 0) := by
      rw [exec_launch due active read good fits (by simp [cluster]), single, State.setSlot_queues]
      rfl
    have chosen : taken.pickCluster l.clusters = some c := (State.pickCluster_congr (s := s) l.clusters rfl rfl rfl).trans cluster
    obtain ⟨gid, picks, gang⟩ := State.newGang_eq 0 chosen
    refine ⟨_, _, gangKey l.slot.domain gid, _, launched.trans (congrArg Host.Outcome.next gang), rfl, rfl, handed, rfl,
      SMap.get?_set_self _ _ _, rfl, rfl, rfl, congrArg some slot, rfl, rfl, rfl, rfl, rfl, rfl, congrArg SlotRef.domain slot,
      congrArg Cluster.queue (State.cluster_setCluster_self _ _ _)⟩

/-- Settles O47: scans, the states of nodes, the nodes that act by themselves or on L2, and LAUNCH. -/
theorem queuesAndNodes : Obligations.QueuesAndNodes :=
  ⟨scanTakesSlots, nodeStates, nodeActions, lineNodes, launchNode⟩

end Sys2Proof.Machine
end

section
/-! SUPPORT. Messages on a connection, and how MGMT serves a request (R282, R382). -/

set_option Elab.async false

namespace Sys2Proof.Machine

open Sys2Proof

/-- A message on a connection whose window takes it goes out under the next PSN and waits for its acknowledgement (R382). -/
theorem State.sendSequenced_open {s : State} {key : ConnKey} {c : Conn} (there : s.conn? key = some c) (hkey : key < 0x10000)
    (clear : c.backlog = []) (room : c.unacked.length < 1024) (kind flags : Nat) (addr : Word64) (payload : List Byte) :
    ∃ m c', s.sendSequenced key kind flags addr payload.length payload none 0 = { s.setConn key c' with outbox := s.outbox ++ [m] }
      ∧ c'.unacked = c.unacked ++ [m] ∧ c'.nextPsn = (c.nextPsn + 1) % 2 ^ 24 ∧ m.key = key ∧ m.conn = key ∧ m.kind = kind
      ∧ m.psn = c.nextPsn ∧ m.addr = addr ∧ m.payload = payload := by
  have near : isPeer key = false := by simpa [isPeer] using hkey
  have sends : c.backlog = [] ∧ c.unacked.length < sendWindow := ⟨clear, room⟩
  have far : s.farNumber key = key := by simp [State.farNumber, near]
  simp only [State.sendSequenced, there, if_pos sends, State.putOut, far]
  exact ⟨_, _, rfl, rfl, rfl, rfl, rfl, rfl, rfl, rfl, rfl⟩

section Serve
variable {s : State} {r : Request} {k : Conn} {c : Code} {legal imageless : Bool} {body : State → Reply}

/-- A request waits while MGMT takes none (R290, log 40). -/
theorem State.serve_waiting (there : s.conn? r.conn = some k) (waits : s.mgmtServes = false) :
    s.serve r c legal imageless body = s := by
  simp [State.serve, there, waits]

/-- On an open host connection a request is turned away as `screen` says, or acts. -/
theorem State.serve_eq (there : s.conn? r.conn = some k) (works : k.frozen = false) (host : r.conn < 0x10000)
    (serves : s.mgmtServes = true) :
    s.serve r c legal imageless body = if s.screen r k.domain c legal imageless ≠ 0
      then s.respond r c.n (s.screen r k.domain c legal imageless) [] []
      else (body s).state.respond r c.n (body s).status (body s).results (body s).tail := by
  have near : isPeer r.conn = false := by simpa [isPeer] using host
  simp only [State.serve, there, works, near, serves, Bool.not_true, Bool.or_self, Bool.false_eq_true, if_false]
  rfl

end Serve

/-! ### Turning a request away -/

/-- The requests listed in the statement are served under their code, limits and needs. -/
theorem exec_request {r : Request} {a b c d : Nat} {x y z : Word64} {drain : Bool} {bytes : List Byte}
    {p : Instr × Code × Bool × Bool} (hp : p ∈ Claim.requests r a b c d x y z drain bytes) (s : State) :
    ∃ body, exec p.1 s = .next (s.serve r p.2.1 p.2.2.2 p.2.2.1 body) := by
  have kind : (kindOf a).isSome = (decide (1 ≤ a) && decide (a ≤ 3)) := by
    rw [Bool.eq_iff_iff]
    by_cases h : 1 ≤ a ∧ a ≤ 3 <;> simp [kindOf, h]
  have size : (2 ≤ c && c ≤ 4 && decide (x.toNat < 2 ^ 48) && x.toNat % leafBytes c == 0 && (!(entryV y) || entryIsLeaf c y))
      = (2 ≤ c && c ≤ 4 && decide (x.toNat < 2 ^ 48) && x.toNat % (if c = 2 then 2 ^ 30 else if c = 3 then 2 ^ 21 else 2 ^ 12) == 0
        && (!(y.getLsbD 0) || (c == 4 || y.getLsbD 1))) := by
    unfold leafBytes levelShift
    split
    · rfl
    · split <;> rfl
  simp only [Claim.requests, List.mem_cons, List.not_mem_nil, or_false] at hp
  rcases hp with rfl | rfl | rfl | rfl | rfl | rfl | rfl | rfl | rfl | rfl | rfl | rfl | rfl
  iterate 5 exact ⟨_, rfl⟩
  · exact ⟨_, by dsimp only; rw [← size]; rfl⟩
  iterate 3 exact ⟨_, by dsimp only; rw [← kind]; rfl⟩
  iterate 4 exact ⟨_, rfl⟩

theorem requestsAreScreened : Claim.RequestsAreScreened := by
  intro s r k a b c d x y z drain bytes st results tail there works host up
  refine ⟨fun waits p hp => ?_, fun serves p hp => ?_, fun clear room => ?_⟩
  · obtain ⟨body, executed⟩ := exec_request hp s
    rw [executed, State.serve_waiting there waits]
  · obtain ⟨body, executed⟩ := exec_request hp s
    rw [State.serve_eq there works host serves] at executed
    intro n answers malformed denied noImage
    have turned {status : Nat} (h : s.screen r k.domain p.2.1 p.2.2.2 p.2.2.1 = status) (hs : status ≠ 0) : answers status := by
      subst h
      exact executed.trans (by rw [if_pos hs])
    have lacking : ((!(up 0) && !p.2.2.1) || ((!(up 1) || !(up 2)) && (n == 1 || n == 3 || n == 4))) = true ↔ noImage := by
      simp only [Bool.or_eq_true, Bool.and_eq_true, Bool.not_eq_true', beq_iff_eq, or_assoc, noImage]
    refine ⟨fun bad => turned ?_ (by decide), fun good theirs => turned ?_ (by decide), fun good ours none => turned ?_ (by decide),
      fun good ours some fatal alive early => turned ?_ (by decide)⟩
    · rw [State.screen, if_pos bad]
      rfl
    · rw [State.screen, if_neg good, if_pos theirs]
      rfl
    · rw [State.screen, if_neg good, if_neg ours]
      exact if_pos (lacking.2 none)
    · rw [State.screen, if_neg good, if_neg ours]
      refine (if_neg (mt lacking.1 some)).trans (if_pos ?_)
      have dead : s.fatal.isSome = true := Option.isSome_iff_ne_none.2 fatal
      simp only [dead, alive, n] at early ⊢
      simpa using early
  · obtain ⟨m, k', sent, unacked, psn, key, conn, kind, mpsn, addr, payload⟩ :=
      State.sendSequenced_open there host clear room 0x06 0 0 (leBytes 1 2 ++ leBytes 2 (c ||| 0x8000) ++ leBytes 1 st
        ++ leBytes 4 r.rtag ++ leBytes 8 r.domain ++ results.flatMap (leBytes 8) ++ tail)
    exact ⟨m, k', sent, unacked, psn, key, conn, kind, mpsn, addr, payload.trans (by simp [leBytes])⟩

end Sys2Proof.Machine
end

section
/-! PROOF. O52, second part (R254, R272, R275, R282, R86): the requests that change queues, connections and translations. -/

set_option Elab.async false

namespace Sys2Proof.Machine

open Sys2Proof

section Passed
variable {s : State} {r : Request} {k : Conn} {c : Code} {legal imageless : Bool} {body : State → Reply}

/-- A request that passes acts, and is answered with what it comes to. -/
theorem State.serve_passed (there : s.conn? r.conn = some k) (works : k.frozen = false) (host : r.conn < 0x10000)
    (serves : s.mgmtServes = true) (passes : s.screen r k.domain c true imageless = 0) (hlegal : legal = true) :
    s.serve r c legal imageless body
      = (body s).state.respond r c.n (body s).status (body s).results (body s).tail := by
  rw [State.serve_eq there works host serves, hlegal, passes, if_neg (by decide)]

end Passed

/-! ### Queues -/

/-- A queue without nodes to stop and without launches is only marked (R272, R273). -/
theorem State.destroyQueue_idle {s : State} {dom a : Nat} {q : Queue} (b : Nat) (there : s.queue? dom a = some q)
    (none : s.launchesOf dom a = []) (idle : ∀ e ∈ q.slots, e.2.st ≠ .pending ∧ e.2.st ≠ .released) :
    s.destroyQueue dom a b = s.setQueue dom a { q with st := .destroying, drain := b, ended := 0, stopDue := s.schedPaused dom } := by
  have marked : (s.setQueue dom a { q with st := .destroying, drain := b, stopDue := true, ended := 0 }).queue? dom a
      = some { q with st := .destroying, drain := b, stopDue := true, ended := 0 } := State.queue?_setQueue_self ..
  have paused (v : Queue) : (s.setQueue dom a v).schedPaused dom = s.schedPaused dom := rfl
  have stop : (q.slots.filter fun e => ({ q with st := .destroying, drain := b, stopDue := true, ended := 0 } : Queue).offending
      != some e.1 && (e.2.st == .pending || (e.2.st == .released && (e.2.body.head?.map BitVec.toNat) == some 7))) = [] :=
    List.filter_eq_nil_iff.2 fun e he => by simp [(idle e he).1, (idle e he).2]
  simp only [State.destroyQueue, there, none, List.flatMap_nil, List.length_nil, List.foldl_nil, ite_self, State.stopNodes, marked,
    paused, Bool.not_true, Bool.false_or, stop]
  cases s.schedPaused dom
  · simp [State.setQueue]
  · simp

/-! ### Connections -/

/-- Where a number is free, opening a connection takes a free one. -/
theorem State.openConn_free {s : State} {lo : Nat} {key : Nat → ConnKey} (c : Conn)
    (free : ∃ n, lo ≤ n ∧ n ≤ 4095 ∧ s.conn? (key n) = none) :
    ∃ n, lo ≤ n ∧ n ≤ 4095 ∧ s.conn? (key n) = none ∧ s.openConn lo key c
      = { status := 0, results := [n], state := ({ s with picks := s.picks + 1 } : State).setConn (key n) c } := by
  obtain ⟨n0, low, high, closed⟩ := free
  have size : 0 < 4096 - lo := by omega
  have found := findFrom_isSome (p := fun n => (s.conn? (key (lo + n % (4096 - lo)))).isNone) (fuel := 4096 - lo)
    (n := Config.choice s.picks % (4096 - lo)) (i := (n0 - lo + (4096 - lo) - Config.choice s.picks % (4096 - lo)) % (4096 - lo))
    (Nat.mod_lt _ size) (by
      have below := Nat.mod_lt (Config.choice s.picks) size
      have back : (Config.choice s.picks % (4096 - lo) + (n0 - lo + (4096 - lo) - Config.choice s.picks % (4096 - lo))
          % (4096 - lo)) % (4096 - lo) = n0 - lo := by
        rw [Nat.add_mod_mod, Nat.add_sub_cancel' (by omega), Nat.add_mod_right, Nat.mod_eq_of_lt (by omega)]
      simp only [back, Nat.add_sub_cancel' low, closed, Option.isNone_none])
  obtain ⟨n, hn⟩ := Option.isSome_iff_exists.1 found
  have spec := findFrom_spec hn
  have below := Nat.mod_lt n size
  refine ⟨lo + n % (4096 - lo), by omega, by omega, by simpa using spec, ?_⟩
  have hn : findFrom (fun n => (({ s with picks := s.picks + 1 } : State).conn? (key (lo + n % (4096 - lo)))).isNone)
    (Config.choice s.picks % (4096 - lo)) (4096 - lo) = some n := hn
  simp only [State.openConn, State.freshConn, State.draw, hn, Option.map_some]
  rfl

/-- A connection that no running command uses is closed without ending one. -/
theorem State.endLinks_unused {s : State} {key : ConnKey} (c : Conn)
    (unused : ∀ k ∈ s.commands, k.eng = 1 → k.phase = .running → 0x10000 + cmdPeer k.words ≠ key) : s.endLinks key c = s := by
  have same : ∀ k ∈ s.commands, (if k.eng = 1 ∧ k.phase = .running ∧ peerKey (cmdPeer k.words) = key ∧ s.engineLost k = false then
        { k with phase := .ended statusLink (k.cutBytes [c]) } else k) = k := fun k hk =>
    if_neg fun ⟨eng, running, peer, _⟩ => unused k hk eng running peer
  rw [State.endLinks, List.map_congr_left same, List.map_id']

theorem queueAndConnectionRequests : Claim.QueueAndConnectionRequests := by
  intro s r k a b c x y z q o there works host serves passes refused drawn
  have passed {c : Code} {legal imageless : Bool} {body : State → Reply} (h : s.screen r k.domain c true imageless = 0)
      (hl : legal = true) := State.serve_passed (body := body) there works host serves h hl
  refine ⟨fun pass ha hb hb' hc hx hy hz => ?_, fun pass ha drain => ?_, State.destroyQueue_idle b, fun pass free => ?_,
    fun pass ha hb => ?_, fun pass ha => ?_, fun pass hc hc' hx hx' hleaf => ?_⟩
  · intro e usable
    have executed : exec e s = .next _ := congrArg Host.Outcome.next (passed pass (by simp [ha, hb, hb', hc, hx, hy, hz]))
    refine ⟨fun use free => executed.trans ?_, fun unfit => executed.trans ?_⟩
    · obtain ⟨u1, u2, u3⟩ := use
      rcases free with free | ⟨free, gone⟩
      · simp [free, u1, u2, u3, okReply, stOk]
      · simp [free, gone, u1, u2, u3, okReply, stOk]
    · rw [if_neg]
      · rfl
      · rcases unfit with unfit | ⟨free, gone⟩
        · intro fit
          simp only [Bool.and_eq_true] at fit
          exact unfit ⟨fit.1.1.2, fit.1.2, fit.2⟩
        · simp [free, gone]
  · have executed : exec (.destroyq r a drain) s = .next _ := congrArg Host.Outcome.next (passed pass (by simp [ha]))
    refine ⟨fun free active => executed.trans ?_, fun idle => executed.trans ?_⟩
    · simp [free, active, okReply, stOk]
    · rcases idle with idle | ⟨idle, gone⟩
      · simp [idle, refuse, stRefused]
      · simp [idle, gone, refuse, stRefused]
  · have executed : exec (.openhost r x y) s = .next _ := congrArg Host.Outcome.next (passed pass rfl)
    obtain ⟨n, low, high, closed, opened⟩ := State.openConn_free (key := id) { domain := r.domain, addrHi := x, addrLo := y } free
    exact ⟨n, low, high, closed, executed.trans (by rw [opened]; rfl)⟩
  · have executed : exec (.openpeer r a x y b) s = .next _ := congrArg Host.Outcome.next (passed pass (by simp [ha, hb]))
    refine ⟨fun shut => executed.trans (by rw [if_pos shut]; rfl), fun works free => ?_⟩
    obtain ⟨n, -, high, closed, opened⟩ := State.openConn_free (lo := 0) (key := peerKey)
      { domain := r.domain, port := a, addrHi := x, addrLo := y, remote := b } (free.imp fun _ h => ⟨Nat.zero_le _, h⟩)
    exact ⟨n, high, closed, executed.trans (by rw [if_neg (by simp [works]), opened]; rfl)⟩
  · have executed : exec (.close r a) s = .next _ := congrArg Host.Outcome.next (passed pass (by simpa using ha))
    refine ⟨fun closed => executed.trans ?_, fun open' unused => executed.trans ?_⟩
    · simp only [closed]
      rfl
    · simp only [open', State.endLinks_unused o unused]
      rfl
  · have executed : exec (.mapleaf r x c y) s = .next _ := congrArg Host.Outcome.next (passed pass (by
      simp only [hc, hc', hx, hx', decide_true, Bool.true_and, beq_self_eq_true]
      simpa [entryV, entryIsLeaf, entryLeafBit, or_iff_not_imp_left] using hleaf))
    intro bad
    have judged : ((s.leafPages c y).any s.pageReserved || s.harmsRing (s.writeLeaf r.domain x.toNat c y) r.domain
        || s.clearsDead c y) = true ↔ bad := by
      simp only [Bool.or_eq_true, bad]
      tauto
    refine ⟨fun h => executed.trans ?_, fun h => executed.trans ?_⟩
    · rw [if_pos (judged.2 h)]
      rfl
    · rw [if_neg (mt judged.1 h)]
      rfl

end Sys2Proof.Machine
end

section
/-! SUPPORT. Sparse tables: an entry beyond the others goes to the end. -/

set_option Elab.async false

namespace Sys2Proof

theorem SMap.set_of_lt {α : Type} {m : SMap α} {k : Nat} (a : α) (h : ∀ e ∈ m, e.1 < k) : m.set k a = m ++ [(k, a)] := by
  induction m with
  | nil => rfl
  | cons e t ih =>
    have he := h e (List.mem_cons_self ..)
    rw [SMap.set, if_neg (by omega), if_neg (by omega), ih fun x hx => h x (List.mem_cons_of_mem _ hx)]
    rfl

theorem SMap.get?_of_lt {α : Type} {m : SMap α} {k : Nat} (h : ∀ e ∈ m, e.1 < k) : m.get? k = none := by
  induction m with
  | nil => rfl
  | cons e t ih =>
    have he := h e (List.mem_cons_self ..)
    rw [SMap.get?, if_neg (by omega), ih fun x hx => h x (List.mem_cons_of_mem _ hx)]

theorem SMap.mapVals_eq_map {α : Type} (f : Nat → α → α) (m : SMap α) : m.mapVals f = m.map fun e => (e.1, f e.1 e.2) := by
  induction m with
  | nil => rfl
  | cons e t ih => rw [SMap.mapVals, ih]; rfl

end Sys2Proof
end

section
/-! PROOF. O52, third part (R81, R82, R85, R86): walks through tables in storage, and the leaf that MGMT writes. -/

set_option Elab.async false

namespace Sys2Proof.Machine

open Sys2Proof

/-! ### Walks -/

section Walk
variable {s : State} {va p l : Nat} {ls : List Nat} {w : Word64}

/-- The location of the entry of a level for an address, in the table of a page. -/
def entryAt (page va l : Nat) : Nat := page * 4096 + 8 * (va / 2 ^ (48 - 9 * l) % 512)

/-- The entry that names the table of a page. -/
theorem bits_tableEntry {page : Nat} (h : page < 2 ^ 36) :
    let w : Word64 := BitVec.ofNat 64 (page * 4096 + 1)
    entryV w = true ∧ entryLeafBit w = false ∧ bits64 w 48 16 = 0 ∧ bits64 w 10 2 = 0 ∧ bits64 w 12 36 = page := by
  intro w
  have value : w.toNat = page * 4096 + 1 := by
    rw [BitVec.toNat_ofNat, Nat.mod_eq_of_lt (by omega)]
  simp only [entryV, entryLeafBit, bits64, BitVec.getLsbD, Nat.testBit_eq_decide_div_mod_eq, decide_eq_true_eq,
    decide_eq_false_iff_not, value]
  omega

/-- A walk goes on through an entry that names a table. -/
theorem State.walkLevels_table {page : Nat} (whole : s.poison = []) (reached : s.unreachable (entryAt p va l) = false)
    (entry : leNat (Memory.readBytes s.mem (entryAt p va l) 8) = page * 4096 + 1) (small : page < 2 ^ 36) (hl : l < 4) :
    s.walkLevels va p (l :: ls) = s.walkLevels va page ls := by
  obtain ⟨valid, table, top, reserved, page'⟩ := bits_tableEntry small
  unfold entryAt at reached entry
  have sound : s.lineBroken (p * 4096 + 8 * (va / 2 ^ (48 - 9 * l) % 512)) = false := by simp [State.lineBroken, whole]
  have other : (l == 4) = false := by simpa using Nat.ne_of_lt hl
  simp [State.walkLevels, reached, sound, entry, valid, entryMalformed, entryIsLeaf, table, top, reserved, page', other]

/-- A walk ends at a leaf. -/
theorem State.walkLevels_leaf (whole : s.poison = []) (reached : s.unreachable (entryAt p va l) = false)
    (entry : leNat (Memory.readBytes s.mem (entryAt p va l) 8) = w.toNat) (valid : entryV w = true)
    (leaf : entryIsLeaf l w = true) (good : entryMalformed l w = false) : s.walkLevels va p (l :: ls) = .leaf l w := by
  unfold entryAt at reached entry
  have sound : s.lineBroken (p * 4096 + 8 * (va / 2 ^ (48 - 9 * l) % 512)) = false := by simp [State.lineBroken, whole]
  simp [State.walkLevels, reached, sound, entry, valid, leaf, good]

/-- A walk from the root page of a domain through the pages that its tables name finds the leaf at the end (R81, R85). -/
theorem State.walk_of_tables {dom level : Nat} {page : Nat → Nat} (low : 2 ≤ level) (high : level ≤ 4) (valid : entryV w = true)
    (leaf : entryIsLeaf level w = true) (good : entryMalformed level w = false) (whole : s.poison = [])
    (root : page 1 = 0x40000 + dom) (reached : ∀ l, 1 ≤ l → l ≤ level → s.unreachable (entryAt (page l) va l) = false)
    (tables : ∀ l, 1 ≤ l → l < level →
      leNat (Memory.readBytes s.mem (entryAt (page l) va l) 8) = page (l + 1) * 4096 + 1 ∧ page (l + 1) < 2 ^ 36)
    (entry : leNat (Memory.readBytes s.mem (entryAt (page level) va level) 8) = w.toNat) : s.walk dom va = some (level, w) := by
  have table (l : Nat) (ls : List Nat) (h1 : 1 ≤ l) (h2 : l < level) :
      s.walkLevels va (page l) (l :: ls) = s.walkLevels va (page (l + 1)) ls :=
    State.walkLevels_table whole (reached l h1 h2.le) (tables l h1 h2).1 (tables l h1 h2).2 (by omega)
  have last (ls : List Nat) : s.walkLevels va (page level) (level :: ls) = .leaf level w :=
    State.walkLevels_leaf whole (reached level (by omega) le_rfl) entry valid leaf good
  have start : rootPage dom = page 1 := root ▸ rfl
  have found : s.walkAll dom va = .leaf level w := by
    rw [State.walkAll, start, table 1 _ le_rfl (by omega)]
    obtain rfl | rfl | rfl : level = 2 ∨ level = 3 ∨ level = 4 := by omega
    · exact last _
    · rw [table 2 _ (by omega) (by omega)]
      exact last _
    · rw [table 2 _ (by omega) (by omega), table 3 _ (by omega) (by omega)]
      exact last _
  simp only [State.walk, found]

end Walk

/-! ### The tables of one leaf -/

section Path
variable {dom va level l n : Nat} {w : Word64}

theorem tableKey_split (h : va < 2 ^ 48) (hl : l ≤ 4) : tableKey dom l va / 2 ^ 36 = dom * 8 + l
    ∧ tableKey dom l va % 2 ^ 36 = va / 2 ^ (48 - 9 * l) := by
  have small : va / 2 ^ (48 - 9 * l) < 2 ^ 36 := by
    refine Nat.div_lt_of_lt_mul (h.trans_le ?_)
    rw [← Nat.pow_add]
    exact Nat.pow_le_pow_right (by decide) (by omega)
  unfold tableKey
  generalize va / 2 ^ (48 - 9 * l) = d at small
  exact ⟨by rw [Nat.mul_comm, Nat.mul_add_div (by decide), Nat.div_eq_of_lt small, Nat.add_zero], by
    rw [Nat.mul_comm, Nat.mul_add_mod, Nat.mod_eq_of_lt small]⟩

theorem keyLevel_tableKey (h : va < 2 ^ 48) (hl : l ≤ 4) : keyLevel (tableKey dom l va) = l := by
  rw [keyLevel, (tableKey_split h hl).1]
  omega

theorem tableKey_lt (h : va < 2 ^ 48) {i j : Nat} (hij : i < j) (hj : j ≤ 4) : tableKey dom i va < tableKey dom j va := by
  have hi := (tableKey_split (dom := dom) h (hij.le.trans hj)).1
  have hj := (tableKey_split (dom := dom) h hj).1
  omega

/-- The table that an entry of level l + 1 is in is the one that the entry of level l leads to. -/
theorem tableOf_tableKey (h : va < 2 ^ 48) (hl : l < 4) : tableOf (tableKey dom (l + 1) va) = childTable (tableKey dom l va) := by
  obtain ⟨q, r⟩ := tableKey_split (dom := dom) h hl.le
  obtain ⟨q', r'⟩ := tableKey_split (dom := dom) (l := l + 1) h hl
  have width : 2 ^ (48 - 9 * (l + 1)) * 512 = 2 ^ (48 - 9 * l) := by
    rw [show 48 - 9 * l = 48 - 9 * (l + 1) + 9 by omega, Nat.pow_add]
  rw [tableOf, childTable, q, r, q', r', Nat.div_div_eq_div_mul, width, Nat.add_assoc]

/-- The non-leaf entries of the levels up to `n` on the way to an address, as `openLevel` sets them. -/
def pathTables (dom va n : Nat) : SMap Word64 := (List.range n).map fun i => (tableKey dom (i + 1) va, 1)

theorem pathTables_lt (h : va < 2 ^ 48) (hl : l ≤ 4) (hn : n < l) : ∀ e ∈ pathTables dom va n, e.1 < tableKey dom l va := by
  simp only [pathTables, List.mem_map, List.mem_range]
  rintro _ ⟨i, hi, rfl⟩
  exact tableKey_lt h (by omega) hl

/-- The levels above are opened one after another. -/
theorem foldl_openLevel (h : va < 2 ^ 48) (hn : n ≤ 3) :
    ((List.range n).map fun k => k + 1).foldl (openLevel dom va) [] = pathTables dom va n := by
  induction n with
  | zero => rfl
  | succ n ih =>
    have below := pathTables_lt (dom := dom) h (l := n + 1) (by omega) (Nat.lt_succ_self n)
    rw [List.range_succ, List.map_append, List.foldl_append, ih (by omega)]
    simp only [List.map_cons, List.map_nil, List.foldl_cons, List.foldl_nil, openLevel, SMap.getD, SMap.get?_of_lt below]
    have absent : (entryV 0 && !entryMalformed (n + 1) 0) = false := rfl
    rw [Option.getD_none, absent, if_neg (by decide), SMap.set_of_lt _ below, pathTables, pathTables, List.range_succ, List.map_append]
    rfl

/-- The tables for one leaf are the path to it and the leaf (R81, R282). -/
theorem leafTables_nil (h : va < 2 ^ 48) (hl : level ≤ 4) (low : 2 ≤ level) (valid : entryV w = true) :
    leafTables [] dom va level w = pathTables dom va (level - 1) ++ [(tableKey dom level va, w)] := by
  have kept : (pathTables dom va (level - 1)).filter (fun e => !(keyInside dom level va e.1)) = pathTables dom va (level - 1) := by
    refine List.filter_eq_self.2 fun e he => ?_
    simp only [pathTables, List.mem_map, List.mem_range] at he
    obtain ⟨i, hi, rfl⟩ := he
    simp only [keyInside, keyLevel_tableKey h (show i + 1 ≤ 4 by omega)]
    simp
    omega
  simp only [leafTables, valid, if_true, foldl_openLevel h (show level - 1 ≤ 3 by omega), kept]
  exact SMap.set_of_lt _ (pathTables_lt h hl (by omega))

/-- The page of the table of a level on the path, where MGMT has just made them: the root's, then those after the roots in turn. -/
def pathPage (dom l : Nat) : Nat := if l = 1 then rootPage dom else rootPage 64 + (l - 2)

/-- The pages of the tables that the first `n` entries of the path lead to. -/
def pathPages (dom va n : Nat) : SMap Nat := (List.range n).map fun i => (childTable (tableKey dom (i + 1) va), pathPage dom (i + 2))

theorem childTable_div (h : va < 2 ^ 48) (hl : l ≤ 4) : childTable (tableKey dom l va) / 2 ^ 36 = dom * 8 + l + 1 := by
  obtain ⟨q, r⟩ := tableKey_split (dom := dom) h hl
  have small : tableKey dom l va % 2 ^ 36 < 2 ^ 36 := Nat.mod_lt _ (by decide)
  rw [childTable, q]
  omega

theorem pathPages_lt (h : va < 2 ^ 48) (hl : l ≤ 4) (hn : n < l) :
    ∀ e ∈ pathPages dom va n, e.1 < childTable (tableKey dom l va) := by
  simp only [pathPages, List.mem_map, List.mem_range]
  rintro _ ⟨i, hi, rfl⟩
  have left := childTable_div (dom := dom) h (show i + 1 ≤ 4 by omega)
  have right := childTable_div (dom := dom) h hl
  dsimp only
  omega

theorem pathPages_succ (h : va < 2 ^ 48) (hn : n ≤ 3) :
    pathPages dom va (n + 1) = (pathPages dom va n).set (childTable (tableKey dom (n + 1) va)) (pathPage dom (n + 2)) := by
  rw [SMap.set_of_lt _ (pathPages_lt h (l := n + 1) (by omega) (Nat.lt_succ_self n)), pathPages, pathPages, List.range_succ,
    List.map_append]
  rfl

theorem get?_pathPages (h : va < 2 ^ 48) (hn : n ≤ 4) (low : 1 ≤ l) (hl : l ≤ n) :
    (pathPages dom va n).get? (childTable (tableKey dom l va)) = some (pathPage dom (l + 1)) := by
  induction n with
  | zero => omega
  | succ n ih =>
    rw [pathPages_succ h (by omega)]
    rcases Nat.eq_or_lt_of_le hl with rfl | lt
    · exact SMap.get?_set_self ..
    · have left := childTable_div (dom := dom) h (show l ≤ 4 by omega)
      have right := childTable_div (dom := dom) h hn
      rw [SMap.get?_set_ne _ _ (by intro same; rw [same] at left; omega), ih (by omega) (by omega)]

/-- The next page that is free is the next after the roots. -/
theorem freshPage_pathPages (hn : n ≤ 3) : freshPage (pathPages dom va n) = pathPage dom (n + 2) := by
  have used : (pathPages dom va n).map Prod.snd = (List.range n).map fun i => rootPage 64 + i := by
    simp [pathPages, pathPage]
  have length : (pathPages dom va n).length = n := by simp [pathPages]
  rw [freshPage, used, length, pathPage, if_neg (by omega)]
  interval_cases n <;> decide

theorem foldl_freshPage (h : va < 2 ^ 48) (hn : n ≤ 3) :
    ((List.range n).map fun i => childTable (tableKey dom (i + 1) va)).foldl
      (fun (m : SMap Nat) k => if (m.get? k).isSome then m else m.set k (freshPage m)) [] = pathPages dom va n := by
  induction n with
  | zero => rfl
  | succ n ih =>
    have below := pathPages_lt (dom := dom) h (l := n + 1) (by omega) (Nat.lt_succ_self n)
    rw [List.range_succ, List.map_append, List.foldl_append, ih (by omega)]
    simp only [List.map_cons, List.map_nil, List.foldl_cons, List.foldl_nil]
    rw [SMap.get?_of_lt below, if_neg (by decide), freshPage_pathPages (by omega), pathPages_succ h (by omega)]

/-- The page of the table that an entry of the path is in. -/
theorem pageOfTable_path (h : va < 2 ^ 48) (low : 1 ≤ l) (few : n ≤ 3) (hn : l ≤ n + 1) :
    pageOfTable (pathPages dom va n) (tableOf (tableKey dom l va)) = some (pathPage dom l) := by
  obtain rfl | ⟨k, rfl, hk⟩ : l = 1 ∨ ∃ k, l = k + 1 ∧ 1 ≤ k := by
    rcases Nat.eq_or_lt_of_le low with rfl | lt
    · exact .inl rfl
    · exact .inr ⟨l - 1, by omega, by omega⟩
  · have q : tableOf (tableKey dom 1 va) / 2 ^ 36 = dom * 8 + 1 := by
      obtain ⟨q, r⟩ := tableKey_split (dom := dom) (l := 1) h (by decide)
      have small : tableKey dom 1 va % 2 ^ 36 < 2 ^ 36 := Nat.mod_lt _ (by decide)
      rw [tableOf, q]
      omega
    rw [pageOfTable, q, if_pos (by omega)]
    congr 2
    omega
  · have q := childTable_div (dom := dom) h (show k ≤ 4 by omega)
    rw [tableOf_tableKey h (by omega), pageOfTable, q, if_neg (by omega), get?_pathPages h (by omega) hk (by omega)]

theorem entryLoc_path (h : va < 2 ^ 48) (low : 1 ≤ l) (few : n ≤ 3) (hn : l ≤ n + 1) :
    entryLoc (pathPages dom va n) (tableKey dom l va) = some (entryAt (pathPage dom l) va l) := by
  have digits : tableKey dom l va % 512 = va / 2 ^ (48 - 9 * l) % 512 := by
    rw [← (tableKey_split (dom := dom) h (show l ≤ 4 by omega)).2, Nat.mod_mod_of_dvd _ (by decide)]
  rw [entryLoc, pageOfTable_path h low few hn, Option.map_some, digits]
  rfl

/-- The entry of a path as it stands in storage. -/
def pathWord (dom level : Nat) (w : Word64) (l : Nat) : Word64 :=
  if l = level then w else BitVec.ofNat 64 (pathPage dom (l + 1) * 4096 + 1)

end Path

/-! ### Entries written to storage -/

/-- An entry is written at its location, where it has one. -/
def putEntry (loc : Nat → Option Nat) (m : List Host.Cell) (e : Nat × Word64) : List Host.Cell :=
  (loc e.1).elim m fun a => Memory.writeBytes m a (leBytes 8 e.2.toNat)

section Written
variable {loc : Nat → Option Nat} {m : List Host.Cell} {t : List (Nat × Word64)}

theorem wf_putEntry (hm : Memory.wf m = true) (e : Nat × Word64) : Memory.wf (putEntry loc m e) = true := by
  unfold putEntry
  cases loc e.1 with
  | none => exact hm
  | some a => exact Memory.wf_writeBytes _ _ hm

/-- Entries elsewhere leave the 8 bytes from `a` as they are. -/
theorem readBytes_foldl_putEntry_of_apart {a : Nat} (hm : Memory.wf m = true)
    (apart : ∀ e ∈ t, ∀ b, loc e.1 = some b → a + 8 ≤ b ∨ b + 8 ≤ a) :
    Memory.readBytes (t.foldl (putEntry loc) m) a 8 = Memory.readBytes m a 8 := by
  induction t generalizing m with
  | nil => rfl
  | cons e t ih =>
    rw [List.foldl_cons, ih (wf_putEntry hm e) fun x hx => apart x (List.mem_cons_of_mem _ hx), putEntry]
    cases he : loc e.1 with
    | none => rfl
    | some b =>
      have far := apart e (List.mem_cons_self ..) b he
      refine List.ext_getElem? fun k => ?_
      rw [Option.elim_some, Memory.getElem?_readBytes, Memory.getElem?_readBytes]
      split
      · rw [Memory.read_writeBytes_outside hm (by rw [length_leBytes]; omega)]
      · rfl

/-- Of entries that lie apart each is read back. -/
theorem readBytes_foldl_putEntry {a : Nat} {e : Nat × Word64} (hm : Memory.wf m = true)
    (apart : t.Pairwise fun x y => ∀ a b, loc x.1 = some a → loc y.1 = some b → a + 8 ≤ b ∨ b + 8 ≤ a) (he : e ∈ t)
    (ha : loc e.1 = some a) : leNat (Memory.readBytes (t.foldl (putEntry loc) m) a 8) = e.2.toNat := by
  induction t generalizing m with
  | nil => cases he
  | cons x t ih =>
    obtain ⟨first, rest⟩ := List.pairwise_cons.1 apart
    rcases List.mem_cons.1 he with rfl | he
    · rw [List.foldl_cons, readBytes_foldl_putEntry_of_apart (wf_putEntry hm _) fun y hy b hb => first y hy a b ha hb, putEntry, ha,
        Option.elim_some]
      have read := Memory.readBytes_writeBytes hm a (leBytes 8 e.2.toNat)
      rw [length_leBytes] at read
      rw [read, leNat_leBytes, Nat.mod_eq_of_lt e.2.isLt]
    · exact ih (wf_putEntry hm x) rest he

end Written

/-! ### The leaf that MGMT writes where there were no tables -/

section Leaf
variable {s : State} {dom va level : Nat} {w : Word64}

/-- An entry of the path leads on, and the leaf does not. -/
theorem leadsOn_path (h : va < 2 ^ 48) {i : Nat} (hi : i < 3) : leadsOn (tableKey dom (i + 1) va) 1 = true := by
  rw [leadsOn, keyLevel_tableKey h (by omega)]
  interval_cases i <;> decide

theorem leadsOn_leaf (h : va < 2 ^ 48) (high : level ≤ 4) (leaf : entryIsLeaf level w = true) :
    leadsOn (tableKey dom level va) w = false := by
  simp [leadsOn, keyLevel_tableKey h high, leaf]

/-- The entries of the path with the pages that they name, and the leaf. -/
def pathEntries (dom va level : Nat) (w : Word64) : List (Nat × Word64) :=
  (List.range level).map fun i => (tableKey dom (i + 1) va, pathWord dom level w (i + 1))

/-- An entry with the page of the table that it leads to. -/
def namePage (pages : SMap Nat) (e : Nat × Word64) : Nat × Word64 :=
  (e.1, if leadsOn e.1 e.2 then
      (pageOfTable pages (childTable e.1)).elim e.2 fun p => BitVec.ofNat 64 (p * 2 ^ 12 + e.2.toNat % 2 ^ 12)
    else e.2)

/-- Every entry of the new tables names the page of its table. -/
theorem State.putTables_tables (s : State) (t : SMap Word64) :
    (s.putTables t).tables = t.map (namePage (s.putTables t).tablePages) := by
  refine (SMap.mapVals_eq_map _ t).trans (List.map_congr_left fun e _ => Prod.ext rfl ?_)
  by_cases leads : leadsOn e.1 e.2 = true
  · refine (if_pos leads).trans (Eq.trans ?_ (if_pos leads).symm)
    split
    · next p found =>
      have found : pageOfTable (s.putTables t).tablePages (childTable e.1) = some p := found
      rw [found]
      rfl
    · next found =>
      have found : pageOfTable (s.putTables t).tablePages (childTable e.1) = none := found
      rw [found]
      rfl
  · exact (if_neg leads).trans (if_neg leads).symm

/-- Where there were no tables, the new ones go to storage entry by entry. -/
theorem State.putTables_mem (tables : s.tables = []) (t : SMap Word64) :
    (s.putTables t).mem = (s.putTables t).tables.foldl (putEntry (entryLoc (s.putTables t).tablePages)) s.mem := by
  refine (List.foldl_ext _ (putEntry (entryLoc (s.putTables t).tablePages)) _ fun m e _ => ?_).trans ?_
  · refine (if_neg fun h => ?_).trans ?_
    · have absent := h.1
      rw [tables] at absent
      cases absent
    · unfold putEntry
      split
      · next a found =>
        have found : entryLoc (s.putTables t).tablePages e.1 = some a := found
        rw [found]
        rfl
      · next found =>
        have found : entryLoc (s.putTables t).tablePages e.1 = none := found
        rw [found]
        rfl
  · exact congrArg (fun m => List.foldl _ m _) (by rw [tables, List.foldl_nil])

/-- Pages are kept for the tables that stay, and found for the new ones. -/
theorem State.putTables_tablePages_eq (s : State) (t : SMap Word64) : (s.putTables t).tablePages
    = ((t.filter fun e => leadsOn e.1 e.2).map fun e => childTable e.1).foldl
      (fun (m : SMap Nat) k => if (m.get? k).isSome then m else m.set k (freshPage m))
      (s.tablePages.filter fun e => ((t.filter fun e => leadsOn e.1 e.2).map fun e => childTable e.1).contains e.1) := rfl

/-- The pages of the tables for one leaf. -/
theorem State.putTables_tablePages (pages : s.tablePages = []) (h : va < 2 ^ 48) (low : 2 ≤ level) (high : level ≤ 4)
    (leaf : entryIsLeaf level w = true) :
    (s.putTables (pathTables dom va (level - 1) ++ [(tableKey dom level va, w)])).tablePages = pathPages dom va (level - 1) := by
  have need : (pathTables dom va (level - 1) ++ [(tableKey dom level va, w)]).filter (fun e => leadsOn e.1 e.2)
      = pathTables dom va (level - 1) := by
    rw [List.filter_append, List.filter_eq_self.2, List.filter_eq_nil_iff.2, List.append_nil]
    · simp [leadsOn_leaf h high leaf]
    · simp only [pathTables, List.mem_map, List.mem_range]
      rintro _ ⟨i, hi, rfl⟩
      exact leadsOn_path h (by omega)
  have children : (pathTables dom va (level - 1)).map (fun e => childTable e.1)
      = (List.range (level - 1)).map fun i => childTable (tableKey dom (i + 1) va) := by
    rw [pathTables, List.map_map]
    rfl
  rw [State.putTables_tablePages_eq, need, children, pages, List.filter_nil]
  exact foldl_freshPage h (by omega)

/-- The entry of a level of the path, as it is written. -/
theorem namePage_path (h : va < 2 ^ 48) (high : level ≤ 4) {i : Nat} (hi : i + 1 < level) :
    namePage (pathPages dom va (level - 1)) (tableKey dom (i + 1) va, 1)
      = (tableKey dom (i + 1) va, pathWord dom level w (i + 1)) := by
  have page : pageOfTable (pathPages dom va (level - 1)) (childTable (tableKey dom (i + 1) va)) = some (pathPage dom (i + 2)) := by
    rw [← tableOf_tableKey h (by omega)]
    exact pageOfTable_path h (by omega) (by omega) (by omega)
  rw [namePage, if_pos (leadsOn_path h (by omega)), page, pathWord, if_neg (by omega)]
  rfl

/-- The tables of one leaf are the entries of its path. -/
theorem State.putTables_path (pages : s.tablePages = []) (h : va < 2 ^ 48) (low : 2 ≤ level) (high : level ≤ 4)
    (leaf : entryIsLeaf level w = true) :
    (s.putTables (pathTables dom va (level - 1) ++ [(tableKey dom level va, w)])).tables = pathEntries dom va level w := by
  rw [State.putTables_tables, State.putTables_tablePages pages h low high leaf, List.map_append]
  have last : namePage (pathPages dom va (level - 1)) (tableKey dom level va, w) = (tableKey dom level va, pathWord dom level w level) := by
    rw [namePage, if_neg (by simp [leadsOn_leaf h high leaf]), pathWord, if_pos rfl]
  obtain ⟨k, rfl⟩ : ∃ k, level = k + 1 := ⟨level - 1, by omega⟩
  rw [pathEntries, List.range_succ, List.map_append, List.map_singleton, List.map_singleton, last, pathTables, List.map_map]
  congr 1
  refine List.map_congr_left fun i hi => ?_
  exact namePage_path h high (by simpa using hi)

/-- The entries of a path lie apart, each in a page of its own. -/
theorem pathEntries_apart (h : va < 2 ^ 48) (low : 2 ≤ level) (high : level ≤ 4) (hdom : dom < 64) :
    (pathEntries dom va level w).Pairwise fun x y => ∀ a b, entryLoc (pathPages dom va (level - 1)) x.1 = some a →
      entryLoc (pathPages dom va (level - 1)) y.1 = some b → a + 8 ≤ b ∨ b + 8 ≤ a := by
  refine List.pairwise_map.2 (List.Pairwise.imp_of_mem ?_ List.pairwise_lt_range)
  intro i j hi hj hij a b ha hb
  rw [List.mem_range] at hi hj
  rw [entryLoc_path h (by omega) (by omega) (by omega)] at ha hb
  obtain rfl := Option.some.inj ha
  obtain rfl := Option.some.inj hb
  have left : va / 2 ^ (48 - 9 * (i + 1)) % 512 < 512 := Nat.mod_lt _ (by decide)
  have right : va / 2 ^ (48 - 9 * (j + 1)) % 512 < 512 := Nat.mod_lt _ (by decide)
  have pages : pathPage dom (i + 1) + 1 ≤ pathPage dom (j + 1) := by
    unfold pathPage rootPage
    split <;> split <;> omega
  unfold entryAt
  omega

/-- After the leaf is written each entry of its path stands at its place (R81, R282). -/
theorem State.putTables_path_read (tables : s.tables = []) (pages : s.tablePages = []) (wf : Memory.wf s.mem = true)
    (h : va < 2 ^ 48) (low : 2 ≤ level) (high : level ≤ 4) (hdom : dom < 64) (leaf : entryIsLeaf level w = true) {l : Nat}
    (one : 1 ≤ l) (hl : l ≤ level) :
    leNat (Memory.readBytes (s.putTables (pathTables dom va (level - 1) ++ [(tableKey dom level va, w)])).mem
      (entryAt (pathPage dom l) va l) 8) = (pathWord dom level w l).toNat := by
  rw [State.putTables_mem tables, State.putTables_path pages h low high leaf, State.putTables_tablePages pages h low high leaf]
  refine readBytes_foldl_putEntry (e := (tableKey dom l va, pathWord dom level w l)) wf (pathEntries_apart h low high hdom)
    (List.mem_map.2 ⟨l - 1, List.mem_range.2 (by omega), ?_⟩) (entryLoc_path h one (by omega) (by omega))
  rw [Nat.sub_add_cancel one]

/-- No store is held, so that none is performed. -/
theorem State.flushAll_of_empty (empty : ∀ c, (s.core c).pend = []) : s.flushAll = s :=
  List.foldl_fixed' (fun e => by rw [State.flushCore, if_pos (empty e.1)]) _

/-- No TLB holds a translation after a flush (R86). -/
theorem State.core_tlbFlush (s : State) (c : Nat) : (s.tlbFlush.core c).tlb = [] := by
  rw [State.core, State.tlbFlush, SMap.getD, SMap.get?_mapVals]
  cases s.cores.get? c <;> rfl

theorem State.cluster_tlbFlush (s : State) (g : Nat) : (s.tlbFlush.cluster g).tlb = [] := by
  rw [State.cluster, State.tlbFlush, SMap.getD, SMap.get?_mapVals]
  cases s.clusters.get? g <;> rfl

/-- Addresses that a leaf maps have the same entries down to its level. -/
theorem entryAt_offset {page off l : Nat} (low : 2 ≤ level) (high : level ≤ 4) (hl : l ≤ level) (aligned : va % leafBytes level = 0)
    (hoff : off < leafBytes level) : entryAt page (va + off) l = entryAt page va l := by
  have bytes : leafBytes level = 2 ^ (48 - 9 * level) := by
    obtain rfl | rfl | rfl : level = 2 ∨ level = 3 ∨ level = 4 := by omega
    all_goals rfl
  have width : 2 ^ (48 - 9 * l) = leafBytes level * 2 ^ (9 * (level - l)) := by
    rw [bytes, ← Nat.pow_add]
    congr 1
    omega
  have same : (va + off) / leafBytes level = va / leafBytes level := by
    rw [← Nat.div_add_mod va (leafBytes level), aligned, Nat.add_zero, Nat.mul_add_div (by rw [bytes]; positivity),
      Nat.div_eq_of_lt hoff, Nat.mul_div_cancel_left _ (by rw [bytes]; positivity), Nat.add_zero]
  rw [entryAt, entryAt, width, ← Nat.div_div_eq_div_mul, ← Nat.div_div_eq_div_mul, same]

theorem leafIsFound : Claim.LeafIsFound := by
  intro s dom va level core w page low high h hdom valid leaf good whole
  refine ⟨fun root reached tables entry => State.walk_of_tables low high valid leaf good whole root reached tables entry,
    fun aligned tables pages wf empty reached off hoff => ?_⟩
  have written : s.writeLeaf dom va level w
      = (s.putTables (pathTables dom va (level - 1) ++ [(tableKey dom level va, w)])).tlbFlush := by
    rw [State.writeLeaf, State.flushAll_of_empty empty, tables, leafTables_nil h high low valid]
  have inTables {l : Nat} (one : 1 ≤ l) (hl : l ≤ level) : isTableLoc (entryAt (pathPage dom l) va l) = true := by
    have digit : va / 2 ^ (48 - 9 * l) % 512 < 512 := Nat.mod_lt _ (by decide)
    have page : 0x40000 ≤ pathPage dom l ∧ pathPage dom l < 0x40100 := by
      unfold pathPage rootPage tableBase
      split <;> omega
    rw [isTableLoc, Bool.and_eq_true]
    refine ⟨decide_eq_true ?_, decide_eq_true ?_⟩
    · unfold tableBase entryAt
      omega
    · unfold tableBase tableSize entryAt
      omega
  have found : (s.writeLeaf dom va level w).walk dom (va + off) = some (level, w) := by
    rw [written]
    refine State.walk_of_tables (page := pathPage dom) low high valid leaf good whole rfl (fun l one hl => ?_) (fun l one hl => ?_) ?_
    · rw [entryAt_offset low high hl aligned hoff]
      exact reached _ (inTables one hl)
    · rw [entryAt_offset low high hl.le aligned hoff]
      refine ⟨(State.putTables_path_read tables pages wf h low high hdom leaf one hl.le).trans ?_, ?_⟩
      · have small : pathPage dom (l + 1) < 2 ^ 36 := by
          unfold pathPage rootPage tableBase
          split <;> omega
        rw [pathWord, if_neg (by omega), BitVec.toNat_ofNat, Nat.mod_eq_of_lt (by omega)]
      · unfold pathPage rootPage tableBase
        split <;> omega
    · rw [entryAt_offset low high le_rfl aligned hoff]
      refine (State.putTables_path_read tables pages wf h low high hdom leaf (by omega) le_rfl).trans ?_
      rw [pathWord, if_pos rfl]
  refine ⟨found, ?_⟩
  have core' := State.core_tlbFlush (s.putTables (pathTables dom va (level - 1) ++ [(tableKey dom level va, w)])) core
  have cluster' := State.cluster_tlbFlush (s.putTables (pathTables dom va (level - 1) ++ [(tableKey dom level va, w)]))
    (clusterOfCore core)
  rw [← written] at core' cluster'
  rw [State.leafFor, core', cluster']
  exact found

end Leaf

end Sys2Proof.Machine
end

section
/-! PROOF. O52, fourth part (R286, R290, R298, R299, R322, R376, R377): the requests about images, registers and dumps. -/

set_option Elab.async false

namespace Sys2Proof.Machine

open Sys2Proof

/-! ### Staged bytes -/

/-- Bytes padded with zeros to a length that they do not exceed. -/
theorem getElem?_padTo {n : Nat} {bs : List Byte} (h : bs.length ≤ n) (j : Nat) :
    (padTo n bs)[j]? = if bs.length ≤ j ∧ j < n then some 0 else bs[j]? := by
  rw [padTo, List.getElem?_take, List.getElem?_append, List.getElem?_replicate]
  split
  · split
    · rw [if_neg (by omega)]
    · rw [if_pos (by omega), if_pos (by omega)]
  · rw [if_neg (by omega), List.getElem?_eq_none (by omega)]

/-- Bytes put at an offset within others. -/
theorem getElem?_putBytes {bs xs : List Byte} {off : Nat} (h : off ≤ bs.length) (j : Nat) :
    (putBytes bs off xs)[j]? = if off ≤ j ∧ j < off + xs.length then xs[j - off]? else bs[j]? := by
  have front : (bs.take off).length = off := by simp [h]
  rw [putBytes, List.append_assoc, List.getElem?_append, front, List.getElem?_append, List.getElem?_drop, List.getElem?_take]
  by_cases hj : j < off
  · rw [if_pos hj, if_pos hj, if_neg (by omega)]
  · rw [if_neg hj]
    by_cases inside : j - off < xs.length
    · rw [if_pos inside, if_pos (by omega)]
    · rw [if_neg inside, if_neg (by omega)]
      congr 1
      omega

/-- What STAGE leaves in the idle bank (R290). -/
theorem getElem?_staged (bank bytes : List Byte) (off j : Nat) :
    (putBytes (padTo (max bank.length off) bank) off bytes)[j]? = if off ≤ j ∧ j < off + bytes.length then bytes[j - off]?
      else if j < off ∧ bank.length ≤ j then some 0 else bank[j]? := by
  have long : off ≤ (padTo (max bank.length off) bank).length := by
    simp [padTo]
  rw [getElem?_putBytes long, getElem?_padTo (le_max_left ..)]
  split
  · rfl
  · by_cases zero : j < off ∧ bank.length ≤ j
    · rw [if_pos zero, if_pos (by omega)]
    · rw [if_neg zero, if_neg (by omega)]

/-- Below the firmware's part the dump is storage (R299). -/
theorem State.dumpBytes_eq (s : State) (pick : Nat) {off n : Nat} (h : off + n ≤ 0x01000000) :
    ((List.range n).map fun j => s.dumpByte pick (off + j)) = Memory.readBytes s.mem off n := by
  refine List.ext_getElem? fun j => ?_
  rw [Memory.getElem?_readBytes, List.getElem?_map]
  split
  · next hj =>
    rw [List.getElem?_range hj, Option.map_some, State.dumpByte, if_neg (by omega)]
  · next hj => rw [List.getElem?_eq_none (by simpa using hj), Option.map_none]

/-! ### A kind that does not run -/

section Missing
variable {f : Firmware} {k : Fin 3} {image : List Byte} {links : Vector Link 4}

/-- A kind that has its image in bank A runs from it, and its boot flash takes the image over (R287, R376). -/
theorem FwKind.settleFlash_run {y : FwKind} (placed : y.bankA = image) (bankA : y.active = false) (due : y.flashDue = true)
    (full : image ≠ []) :
    let z := (y.run k).settleFlash
    z.inForce = image ∧ z.cur = y.cur ∧ z.insts[(0 : Fin 6)].running = true ∧ z.copies.1 = image := by
  have runs : (instances k).contains 0 = true := by fin_cases k <;> rfl
  have run : y.run k = { y with insts := Vector.ofFn fun (i : Fin 6) => ({ running := (instances k).contains i } : FwInst) } := by
    rw [FwKind.run, if_neg (placed ▸ full)]
  intro z
  have settled : z = { (y.run k).flash y.bankA with flashDue := false } := by
    simp only [z, run, FwKind.settleFlash, due, if_true]
  rw [settled, run, FwKind.flash]
  split
  all_goals simp_all [FwKind.inForce, FwKind.copies]

/-- A kind of image that is started in place of the flash copies: measured, in force, written to the flash (R376). -/
theorem Firmware.stageMissing_up (up : f.mgmtUp = true) (full : image ≠ []) :
    let t := f.stageMissing k image links false
    t.slack = f.slack ∧ t.kinds[k].inForce = image ∧ t.kinds[k].cur = imageDigest image
      ∧ t.kinds[k].insts[(0 : Fin 6)].running = true ∧ t.ms = extendSlot f.ms (slotOfKind k) (imageDigest image)
      ∧ t.kinds[k].copies.1 = image := by
  let y : FwKind := { f.kinds[k].setIdle [] with
    found := [], flashDue := true, bankA := image, bankB := [], active := false, cur := imageDigest image }
  obtain ⟨force, cur, runs, copies⟩ := FwKind.settleFlash_run (k := k) (y := y) rfl rfl rfl full
  have started : (f.stageMissing k image links false).kinds[k] = (y.run k).settleFlash
      ∧ (f.stageMissing k image links false).slack = f.slack
      ∧ (f.stageMissing k image links false).ms = extendSlot f.ms (slotOfKind k) (imageDigest image) := by
    simp [Firmware.stageMissing, up, Firmware.startKind, full, y]
  obtain ⟨kind, slack, ms⟩ := started
  intro t
  rw [kind]
  exact ⟨slack, force, cur, runs, ms, copies⟩

end Missing

theorem kindOf_val (k : Fin 3) : kindOf (k.val + 1) = some k := by
  fin_cases k <;> rfl

theorem State.idle_setKind (s : State) (k : Fin 3) (x : FwKind) (bank : List Byte) :
    ((s.setKind k (x.setIdle bank)).kind k).idle = bank := by
  rw [State.kind_setKind_self, FwKind.idle_setIdle]

theorem imageAndReadRequests : Claim.ImageAndReadRequests := by
  intro s r c k a b v p bytes there works host serves passes answers x image cleared
  have passed {c' : Code} {legal imageless : Bool} {body : State → Reply} (h : s.screen r c.domain c' true imageless = 0)
      (hl : legal = true) := State.serve_passed (body := body) there works host serves h hl
  have kind := kindOf_val k
  refine ⟨fun pass hlen => ?_, fun pass busy => ?_, fun pass idle long => ?_, fun pass idle short => ?_, fun pass hb => ?_,
    fun pass legal n hn => ?_, fun pass low high => ?_, fun pass => ?_, fun pass low high id => ?_⟩
  · refine ⟨fun slack => ?_, fun slack long => ?_, fun slack short => ?_⟩
    all_goals have executed : exec (.stage r (k.val + 1) a bytes) s = .next _ :=
      congrArg Host.Outcome.next (passed pass (by simp [kind, hlen]))
    all_goals simp only [kind, State.staging] at executed
    · rw [if_pos (Option.isSome_iff_ne_none.2 slack)] at executed
      exact executed
    · rw [if_neg (by simp [slack]), if_pos long] at executed
      exact executed
    · rw [if_neg (by simp [slack]), if_neg (by omega)] at executed
      have idle := State.idle_setKind s k x (putBytes (padTo (max x.idle.length a) x.idle) a bytes)
      refine ⟨s.setKind k (x.setIdle _), executed, by rw [idle], fun j => ?_⟩
      rw [idle, getElem?_staged]
  · have executed : exec (.stageend r (k.val + 1) b) s = .next _ := congrArg Host.Outcome.next (passed pass (by simp [kind]))
    simp only [kind, State.staging] at executed
    rw [if_pos (Option.isSome_iff_ne_none.2 busy)] at executed
    exact executed
  · have executed : exec (.stageend r (k.val + 1) b) s = .next _ := congrArg Host.Outcome.next (passed pass (by simp [kind]))
    simp only [kind, State.staging] at executed
    rw [if_neg (by simp [idle]), if_pos long] at executed
    exact executed
  · have executed : exec (.stageend r (k.val + 1) b) s = .next _ := congrArg Host.Outcome.next (passed pass (by simp [kind]))
    simp only [kind, State.staging] at executed
    rw [if_neg (by simp [idle]), if_neg (by omega)] at executed
    refine ⟨fun bad => ?_, fun low => ?_, fun good runs => ?_, fun good stopped up alive full => ?_⟩
    · have bad : verify k (s.kind k) (padTo b (s.kind k).idle) = .badImage := bad
      simp only [bad] at executed
      exact executed
    · have low : verify k (s.kind k) (padTo b (s.kind k).idle) = .svnLow := low
      simp only [low] at executed
      exact executed
    · have good : verify k (s.kind k) (padTo b (s.kind k).idle) = .accepted := good
      have runs : (s.kind k).insts[(0 : Fin 6)].running = true := runs
      simp only [good] at executed
      rw [if_pos runs] at executed
      have placed := State.kind_setKind_self s k (x.setIdle image)
      exact ⟨_, executed, rfl, (congrArg FwKind.idle placed).trans (FwKind.idle_setIdle x image),
        (congrArg FwKind.cur placed).trans (FwKind.setIdle_cur x image),
        (congrArg FwKind.active placed).trans (FwKind.setIdle_active x image)⟩
    · have good : verify k (s.kind k) (padTo b (s.kind k).idle) = .accepted := good
      have stopped : (s.kind k).insts[(0 : Fin 6)].running = false := stopped
      simp only [good] at executed
      rw [if_neg (ne_true_of_eq_false stopped), alive] at executed
      obtain ⟨slack, force, cur, runs, ms, copies⟩ := Firmware.stageMissing_up (k := k) (links := s.links) up full
      exact ⟨_, executed, slack.trans idle, force, cur, runs, ms, copies⟩
  · have executed : exec (.raisesvn r (k.val + 1) b) s = .next _ := congrArg Host.Outcome.next (passed pass (by simp [kind, hb]))
    simp only [kind] at executed
    refine ⟨fun below => ?_, fun raised => ?_⟩
    · rw [if_pos below] at executed
      exact executed
    · rw [if_neg (Nat.not_lt.2 raised)] at executed
      exact executed
  · have executed : exec (.readreg r a b) s = .next _ := congrArg Host.Outcome.next (passed pass legal)
    simp only [hn] at executed
    exact executed
  · have executed : exec (.readdump r a b) s = .next _ := congrArg Host.Outcome.next (passed pass (by simp [low, high]))
    refine ⟨fun none => ?_, fun dump inside => ?_⟩
    · cases dump : s.dump with
      | none =>
        simp only [dump] at executed
        exact executed
      | some d =>
        simp only [dump, reduceCtorEq, false_or] at none executed
        rw [if_pos none] at executed
        exact executed
    · simp only [dump] at executed
      rw [if_neg (by omega)] at executed
      rw [State.dumpBytes_eq s p.2 inside] at executed
      exact executed
  · have executed : exec (.releasedump r) s = .next _ := congrArg Host.Outcome.next (passed pass rfl)
    refine ⟨fun none => ?_, fun dump => ?_⟩
    · rw [if_neg (by simp [none])] at executed
      exact executed
    · rw [if_pos (Option.isSome_iff_ne_none.2 dump)] at executed
      exact executed
  · have executed : exec (.readctx r id a b) s = .next _ := congrArg Host.Outcome.next (passed pass (by simp [low, high]))
    refine ⟨fun none => ?_, fun there frozen record reached => ⟨fun inside => ?_, fun beyond => ?_⟩⟩
    · rcases none with none | ⟨there, awake⟩
      · simp only [none] at executed
        exact executed
      · simp only [there] at executed
        cases record : v.ctx with
        | none =>
          simp only [record] at executed
          exact executed
        | some p =>
          simp only [record] at executed
          rw [if_pos (.inl awake)] at executed
          exact executed
    · simp only [there, record] at executed
      rw [if_neg (by simp [frozen, reached]; omega)] at executed
      exact executed
    · simp only [there, record] at executed
      rw [if_pos (.inr (.inl beyond))] at executed
      exact executed

end Sys2Proof.Machine
end

section
/-! PROOF. O52, last part (R282, R289): SPDM. -/

set_option Elab.async false

namespace Sys2Proof.Machine

open Sys2Proof

/-- The measurement blocks with their numbers, in order (R289). -/
def State.numberedBlocks (s : State) : List (Nat × BitVec 384) := blockNumbers.zip s.blocks

theorem length_blocks (s : State) : s.blocks.length = 11 := by
  simp [State.blocks]

/-- The records of an answer to GET_MEASUREMENTS. -/
def State.spdmRecords (s : State) (msg : List Byte) (bs : List (Nat × BitVec 384)) : List Byte :=
  bs.flatMap (spdmBlock s.blocks msg)

/-- A record is 55 bytes long. -/
theorem length_spdmBlock (values : List (BitVec 384)) (msg : List Byte) (b : Nat × BitVec 384) :
    (spdmBlock values msg b).length = 55 := by
  simp [spdmBlock, length_leBytes, digestBytes]

theorem length_spdmRecords (s : State) (msg : List Byte) (bs : List (Nat × BitVec 384)) :
    (s.spdmRecords msg bs).length = 55 * bs.length := by
  rw [State.spdmRecords, List.length_flatMap]
  simp [length_spdmBlock]
  omega

/-- The k-th record starts 55 k bytes into the records. -/
theorem drop_spdmRecords {s : State} {msg : List Byte} {bs : List (Nat × BitVec 384)} {k : Nat} {b : Nat × BitVec 384}
    (h : bs[k]? = some b) (rest : List Byte) :
    (s.spdmRecords msg bs ++ rest).drop (55 * k) = spdmBlock s.blocks msg b ++ (s.spdmRecords msg (bs.drop (k + 1)) ++ rest) := by
  induction bs generalizing k with
  | nil => simp at h
  | cons x bs ih =>
    cases k with
    | zero =>
      obtain rfl : x = b := by simpa using h
      simp [State.spdmRecords]
    | succ k =>
      have skip : s.spdmRecords msg (x :: bs) = spdmBlock s.blocks msg x ++ s.spdmRecords msg bs := by simp [State.spdmRecords]
      rw [skip, List.append_assoc, show 55 * (k + 1) = (spdmBlock s.blocks msg x).length + 55 * k by rw [length_spdmBlock]; omega,
        ← List.drop_drop, List.drop_left, ih (by simpa using h)]
      rfl

/-- In a list of numbered things no number stands twice, so that a number picks one. -/
theorem filter_number {α : Type} {l : List (Nat × α)} {b : Nat × α} (distinct : (l.map Prod.fst).Nodup) (h : b ∈ l) :
    l.filter (fun x => x.1 == b.1) = [b] := by
  induction l with
  | nil => cases h
  | cons x l ih =>
    obtain ⟨fresh, rest⟩ := List.nodup_cons.1 distinct
    rcases List.mem_cons.1 h with rfl | h
    · rw [List.filter_cons_of_pos (by simp), List.filter_eq_nil_iff.2]
      exact fun y hy same => fresh (List.mem_map.2 ⟨y, hy, by simpa using same⟩)
    · rw [List.filter_cons_of_neg, ih rest h]
      intro same
      exact fresh (List.mem_map.2 ⟨b, h, by simpa using Eq.symm (by simpa using same)⟩)

theorem numberedBlocks_fst (s : State) : s.numberedBlocks.map Prod.fst = blockNumbers :=
  List.map_fst_zip (by simp [length_blocks, blockNumbers])

theorem length_numberedBlocks (s : State) : s.numberedBlocks.length = 11 := by
  rw [← List.length_map (f := Prod.fst), numberedBlocks_fst]
  rfl

/-- The digests in force follow the measurement slots (R289). -/
theorem blocks_eq (s : State) : s.blocks = s.fw.ms.toList ++ [s.fw.kinds[0].cur, s.fw.kinds[1].cur, s.fw.kinds[2].cur] := by
  rw [State.blocks]
  congr 1
  refine List.ext_getElem (by simp) fun i h _ => ?_
  simp only [List.length_map, Vector.length_toList] at h
  interval_cases i <;> simp

/-- The operation of a GET_MEASUREMENTS. -/
theorem leNat_operation (msg : List Byte) : leNat ((msg.drop 3).take 1) = ((msg[3]?).getD 0).toNat := by
  rw [← List.head?_drop]
  cases msg.drop 3 with
  | nil => rfl
  | cons x t => simp [leNat]

/-- An answer to GET_MEASUREMENTS with these blocks (R289). -/
def State.measurements (s : State) (msg : List Byte) (p1 : Nat) (bs : List (Nat × BitVec 384)) : List Byte :=
  spdmMessage 0x13 0x60 p1 0 (leBytes 1 bs.length ++ leBytes 3 (s.spdmRecords msg bs).length ++ s.spdmRecords msg bs
    ++ (Config.spdmAnswer s.blocks msg).drop 32)

theorem exec_getMeasurements (s : State) (conn : Nat) (msg : List Byte) :
    let op := ((msg[3]?).getD 0).toNat
    exec (.getMeasurements conn msg) s = .next (s.spdm conn (s.measurements msg (if op = 0 then 11 else 0)
      (if op = 0 then [] else s.numberedBlocks.filter fun b => op == 0xFF || b.1 == op))) := by
  intro op
  have same : op = leNat ((msg.drop 3).take 1) := (leNat_operation msg).symm
  rw [same]
  rfl

/-- The head of such an answer, and the records behind it. -/
theorem measurements_eq (s : State) (msg : List Byte) (p1 : Nat) (bs : List (Nat × BitVec 384)) :
    s.measurements msg p1 bs = ([0x13, 0x60, BitVec.ofNat 8 p1, 0] ++ leBytes 1 bs.length ++ leBytes 3 (55 * bs.length))
      ++ (s.spdmRecords msg bs ++ (Config.spdmAnswer s.blocks msg).drop 32) := by
  rw [State.measurements, spdmMessage, length_spdmRecords]
  simp [leBytes]

/-- The first 8 bytes of the answer say how many records follow, and how long they are together. -/
theorem take_measurements (s : State) (msg : List Byte) (p1 : Nat) (bs : List (Nat × BitVec 384)) :
    (s.measurements msg p1 bs).take 8 = [0x13, 0x60, BitVec.ofNat 8 p1, 0] ++ leBytes 1 bs.length ++ leBytes 3 (55 * bs.length) := by
  rw [measurements_eq]
  exact List.take_left' rfl

/-- The k-th record of the answer. -/
theorem drop_measurements {s : State} {msg : List Byte} {bs : List (Nat × BitVec 384)} {k : Nat} {b : Nat × BitVec 384} (p1 : Nat)
    (h : bs[k]? = some b) :
    ∃ rest, (s.measurements msg p1 bs).drop (8 + 55 * k) = spdmBlock s.blocks msg b ++ rest := by
  have skip : (s.measurements msg p1 bs).drop 8 = s.spdmRecords msg bs ++ (Config.spdmAnswer s.blocks msg).drop 32 := by
    rw [measurements_eq]
    exact List.drop_left' rfl
  rw [← List.drop_drop, skip, drop_spdmRecords h]
  exact ⟨_, rfl⟩

/-- A record but for its type, which the spec leaves open (log 35). -/
theorem spdmBlock_eq (values : List (BitVec 384)) (msg : List Byte) (b : Nat × BitVec 384) :
    ∃ t, spdmBlock values msg b = [BitVec.ofNat 8 b.1, 1, 51, 0, t, 48, 0] ++ digestBytes b.2 :=
  ⟨_, rfl⟩

section Spdm
variable {s : State} {conn : Nat} {c : Conn}

/-- An SPDM answer goes out as one message (R282). -/
theorem State.spdm_open (there : s.conn? conn = some c) (works : c.frozen = false) (host : conn < 0x10000) (clear : c.backlog = [])
    (room : c.unacked.length < 1024) (answer : List Byte) :
    ∃ m c', s.spdm conn answer = { s.setConn conn c' with outbox := s.outbox ++ [m] } ∧ m.key = conn ∧ m.conn = conn
      ∧ m.kind = 0x06 ∧ m.psn = c.nextPsn ∧ m.payload = 1 :: answer ∧ c'.unacked = c.unacked ++ [m]
      ∧ c'.nextPsn = (c.nextPsn + 1) % 2 ^ 24 := by
  have near : isPeer conn = false := by simpa [isPeer] using host
  obtain ⟨m, c', sent, unacked, psn, key, far, kind, mpsn, -, payload⟩ :=
    State.sendSequenced_open there host clear room 0x06 0 0 (1 :: answer)
  refine ⟨m, c', ?_, key, far, kind, mpsn, payload, unacked, psn⟩
  simp only [State.spdm, there, works, near, Bool.or_self, Bool.false_eq_true, if_false]
  exact sent

end Spdm

theorem spdmAnswers : Claim.SpdmAnswers := by
  intro s conn msg c there works host clear room measured blocks op sends free record
  have send {e : Instr} {ok : List Byte → Prop} (answer : List Byte) (h : exec e s = .next (s.spdm conn answer)) (fits : ok answer) :
      sends e ok := by
    obtain ⟨m, c', sent, key, far, kind, psn, payload, unacked, next⟩ := State.spdm_open there works host clear room answer
    exact ⟨m, c', answer, h.trans (congrArg _ sent), key, far, kind, psn, payload, fits, unacked, next⟩
  have values : s.blocks = measured := blocks_eq s
  have numbered : s.numberedBlocks = blocks := by
    rw [State.numberedBlocks, values]
    rfl
  refine ⟨send _ rfl rfl, send _ rfl ⟨?_, ?_, ?_⟩, send _ rfl rfl, send _ rfl rfl, send _ rfl rfl, send _ rfl ?_, fun none => ?_,
    fun b hb named => ?_, fun all => ?_⟩
  · simp [spdmMessage, length_leBytes, spdmOpen, padTo]
  · simp [spdmMessage, leBytes]
  · obtain ⟨t, ht⟩ := List.length_eq_one_iff.1 (show (spdmOpen [] msg 0 1).length = 1 by simp [spdmOpen, padTo])
    rw [ht]
    rfl
  · rw [values]
    rfl
  · refine send (s.measurements msg 11 []) ?_ (take_measurements s msg 11 [])
    have executed := exec_getMeasurements s conn msg
    simp only [show ((msg[3]?).getD 0).toNat = 0 from none, if_true] at executed
    exact executed
  · rw [← numbered] at hb
    have number : b.1 ∈ blockNumbers := numberedBlocks_fst s ▸ List.mem_map_of_mem hb
    have small : b.1 ≠ 0 ∧ (b.1 == 0xFF) = false := by
      generalize b.1 = n at number
      revert n
      decide
    have picked : s.numberedBlocks.filter (fun x => b.1 == 0xFF || x.1 == b.1) = [b] := by
      simp only [small.2, Bool.false_or]
      exact filter_number (numberedBlocks_fst s ▸ by decide) hb
    refine send (s.measurements msg 0 [b]) ?_ ⟨(take_measurements s msg 0 [b]).trans (by simp [leBytes]), ?_⟩
    · have executed := exec_getMeasurements s conn msg
      simp only [show ((msg[3]?).getD 0).toNat = b.1 from named, if_neg small.1, picked] at executed
      exact executed
    · obtain ⟨rest, hrest⟩ := drop_measurements (s := s) (msg := msg) (bs := [b]) (k := 0) 0 rfl
      obtain ⟨t, ht⟩ := spdmBlock_eq s.blocks msg b
      have hrest : (s.measurements msg 0 [b]).drop 8 = spdmBlock s.blocks msg b ++ rest := hrest
      have type : ((s.measurements msg 0 [b]).drop 12).take 1 = [t] := by
        rw [show 12 = 8 + 4 from rfl, ← List.drop_drop, hrest, ht]
        rfl
      rw [hrest, List.take_left' (length_spdmBlock ..), ht]
      simp only [record, type]
      rfl
  · have every : s.numberedBlocks.filter (fun x => (0xFF : Nat) == 0xFF || x.1 == 0xFF) = s.numberedBlocks :=
      List.filter_eq_self.2 fun _ _ => rfl
    have head := take_measurements s msg 0 s.numberedBlocks
    rw [length_numberedBlocks] at head
    refine send (s.measurements msg 0 s.numberedBlocks) ?_ ⟨?_, ?_, fun k b hb => ?_⟩
    · have executed := exec_getMeasurements s conn msg
      simp only [show ((msg[3]?).getD 0).toNat = 0xFF from all, if_neg (show (0xFF : Nat) ≠ 0 by decide), every] at executed
      exact executed
    · rw [show 5 = min 5 8 from rfl, ← List.take_take, head]
      rfl
    · rw [show (3 : Nat) = 8 - 5 from rfl, ← List.drop_take, head]
      rfl
    · obtain ⟨rest, hrest⟩ := drop_measurements (s := s) (msg := msg) 0 (numbered ▸ hb)
      obtain ⟨t, ht⟩ := spdmBlock_eq s.blocks msg b
      refine ⟨?_, ?_⟩
      · rw [hrest, ht]
        rfl
      · rw [← List.drop_drop, hrest, ht]
        refine (List.take_left' (l₁ := leBytes 2 48 ++ digestBytes b.2) (l₂ := rest) ?_)
        simp [length_leBytes, digestBytes]

/-- Settles O52: requests are screened and answered, tables hold what MGMT writes, and SPDM answers. -/
theorem managementRequests : Obligations.ManagementRequests :=
  ⟨requestsAreScreened, queueAndConnectionRequests, leafIsFound, imageAndReadRequests, spdmAnswers⟩

end Sys2Proof.Machine
end

section
/-! PROOF. O32 (R120, R123): a representable value is its own rounding. -/

set_option Elab.async false

namespace Sys2Proof.Machine

open Sys2Proof

/-- The form in which a format holds a finite magnitude m * 2^x (R120): a subnormal at the lowest quantum, or a normal significand
of `mb + 1` bits at its own quantum. -/
def FloatFormat.Holds (f : FloatFormat) (m : Nat) (x : Int) : Prop :=
  (m < 2 ^ f.mb ∧ x = f.minQuantum) ∨ (2 ^ f.mb ≤ m ∧ m < 2 ^ (f.mb + 1) ∧ f.minQuantum ≤ x)

/-- The magnitude's encoding: what lies above the lowest quantum counts in the exponent field. -/
def FloatFormat.magOf (f : FloatFormat) (m : Nat) (x : Int) : Nat := m + (x - f.minQuantum).toNat * 2 ^ f.mb

section Representable

variable {f : FloatFormat} {enc m : Nat} {neg : Bool} {x : Int}

theorem FloatFormat.withSign_of_decode (h : enc < 2 ^ f.bits) :
    f.withSign (enc / f.signBit % 2 == 1) (enc % f.signBit) = enc := by
  have top : enc / f.signBit < 2 := by
    refine Nat.div_lt_of_lt_mul (lt_of_lt_of_eq h ?_)
    rw [FloatFormat.bits, FloatFormat.signBit, ← Nat.pow_succ]
    congr 1
    omega
  have split := Nat.div_add_mod enc f.signBit
  obtain zero | one := Nat.le_one_iff_eq_zero_or_eq_one.1 (Nat.lt_succ_iff.1 top)
  · simpa [FloatFormat.withSign, zero] using split
  · simpa [FloatFormat.withSign, one] using split

/-- A finite value is decoded from its sign and its magnitude, and in the form that the format holds. -/
theorem FloatFormat.decode_eq_fin (h : f.decode enc = .fin neg m x) :
    neg = (enc / f.signBit % 2 == 1) ∧ enc % f.signBit ≤ f.maxEnc ∧ f.Holds m x ∧ f.magOf m x = enc % f.signBit := by
  have split := Nat.div_add_mod' (enc % f.signBit) (2 ^ f.mb)
  have fraction := Nat.mod_lt (enc % f.signBit) (Nat.two_pow_pos f.mb)
  simp only [FloatFormat.decode] at h
  split_ifs at h with beyond _ subnormal
  all_goals
    obtain ⟨rfl, rfl, rfl⟩ := FValue.fin.inj h
  · refine ⟨rfl, not_lt.1 beyond, .inl ⟨fraction, rfl⟩, ?_⟩
    rw [subnormal] at split
    simpa [FloatFormat.magOf] using split
  · refine ⟨rfl, not_lt.1 beyond, .inr ⟨Nat.le_add_right .., by rw [Nat.pow_succ]; omega, by omega⟩, ?_⟩
    obtain ⟨k, hk⟩ := Nat.exists_eq_succ_of_ne_zero subnormal
    rw [hk, Nat.succ_mul] at split
    simp only [FloatFormat.magOf, hk, Nat.succ_sub_one, add_sub_cancel_left, Int.toNat_natCast]
    omega

/-- The quantum to which a value is rounded is its own, where the format holds it. -/
theorem FloatFormat.Holds.quantum (h : f.Holds m x) (nonzero : m ≠ 0) :
    max ((Nat.log2 m : Int) + x - f.mb) f.minQuantum = x := by
  obtain ⟨small, rfl⟩ | ⟨low, high, above⟩ := h
  · have := (Nat.log2_lt nonzero).2 small
    omega
  · have := (Nat.log2_eq_iff nonzero).2 ⟨low, high⟩
    omega

theorem FloatFormat.round_of_quantum (r : Rounding) (ov : Overflow)
    (own : max ((Nat.log2 m : Int) + x - f.mb) f.minQuantum = x) (fits : f.magOf m x ≤ f.maxEnc) :
    f.round r ov neg m x false = (f.withSign neg (f.magOf m x), 0) := by
  have exact : roundAt r neg m x x false = (m, false) := by simp [roundAt]
  have fits : ¬ f.maxEnc < m + (x - f.minQuantum).toNat * 2 ^ f.mb := not_lt.2 fits
  simp [FloatFormat.round, own, exact, fits, FloatFormat.magOf]

theorem FloatFormat.roundFin_of_holds (r : Rounding) (ov : Overflow) (h : f.Holds m x) (fits : f.magOf m x ≤ f.maxEnc) :
    f.roundFin r ov neg m x = (f.withSign neg (f.magOf m x), 0) := by
  by_cases zero : m = 0
  · obtain ⟨-, rfl⟩ | ⟨low, -, -⟩ := h
    · simp [FloatFormat.roundFin, FloatFormat.magOf, zero]
    · exact absurd low (zero ▸ not_le.2 (Nat.two_pow_pos _))
  · rw [FloatFormat.roundFin, if_neg zero]
    exact round_of_quantum r ov (h.quantum zero) fits

end Representable

/-- Settles O32: a decoded value is rounded at its own quantum, so that nothing is discarded, and its magnitude is the one that
was decoded. -/
theorem representableValuesAreExact : Obligations.RepresentableValuesAreExact := by
  intro f r ov enc m neg x _ bound decoded
  obtain ⟨rfl, finite, holds, mag⟩ := FloatFormat.decode_eq_fin decoded
  rw [FloatFormat.roundFin_of_holds r ov holds (mag ▸ finite), mag, FloatFormat.withSign_of_decode bound]

end Sys2Proof.Machine
end

section
/-! PROOF. O33 (R126, R127, R201, R202): operands that are NaNs, infinities or zeros. -/

set_option Elab.async false

namespace Sys2Proof.Machine

open Sys2Proof

section NanOperand

variable {v w : FValue} (f : FloatFormat) (r : Rounding)

theorem signallingFlags_pair (v w : FValue) :
    signallingFlags [v, w] = if v = .nan true ∨ w = .nan true then flagNV else 0 := by
  simp [signallingFlags]

theorem FValue.isNan_iff : v.isNan = true ↔ ∃ s, v = .nan s := by
  cases v <;> simp [FValue.isNan]

/-- Either operand a NaN: the canonical NaN, with NV for a signalling one (R126, R127). -/
theorem FloatFormat.nan_operand (h : v.isNan = true ∨ w.isNan = true) :
    let result := (f.canonicalNan, signallingFlags [v, w])
    f.add r v w = result ∧ f.mul r v w = result ∧ f.div r v w = result := by
  simp only [FValue.isNan_iff] at h
  obtain ⟨s, rfl⟩ | ⟨s, rfl⟩ := h
  · exact ⟨rfl, rfl, rfl⟩
  · cases v <;> exact ⟨rfl, rfl, rfl⟩

end NanOperand

section Cases

variable (f : FloatFormat) (r : Rounding) (m n : Bool) {k j : Nat} (x y : Int)

theorem FloatFormat.add_inf_inf_same : f.add r (.inf m) (.inf m) = (f.infinity m, 0) := by
  simp [FloatFormat.add]

theorem FloatFormat.mul_inf_fin (h : k ≠ 0) : f.mul r (.inf m) (.fin n k x) = (f.infinity (m ^^ n), 0) := if_neg h

theorem FloatFormat.div_fin_zero (h : k ≠ 0) : f.div r (.fin m k x) (.fin n 0 y) = (f.infinity (m ^^ n), flagDZ) := if_neg h

/-- A root or a logarithm of a negative number is invalid. -/
theorem FloatFormat.negative_invalid (h : k ≠ 0) :
    f.sqrt r (.fin true k x) = f.invalid ∧ f.rsq r (.fin true k x) = f.invalid ∧ f.log2 r (.fin true k x) = f.invalid :=
  ⟨if_neg h, if_neg h, if_neg h⟩

/-- An exact zero sum of finite values that are not both zeros is +0, under RDN -0 (R124). -/
theorem FloatFormat.add_cancel (h : k ≠ 0 ∨ j ≠ 0) (sum : (exactSum m k x n j y).1 = 0) :
    f.add r (.fin m k x) (.fin n j y) = (f.withSign (r == .rdn) 0, 0) := by
  have both : ¬ (k = 0 ∧ j = 0) := by omega
  simp [FloatFormat.add, FloatFormat.addFin, sum, both]

end Cases

/-- Settles O33: each operation's result at NaNs, infinities, zeros and negative numbers, and the sign of a zero sum. -/
theorem floatSpecialCases : Obligations.FloatSpecialCases := by
  intro f r v w m n k j x y _ nv
  refine ⟨fun nan => ?_, rfl, f.add_inf_inf_same r m, rfl, rfl, rfl, rfl, rfl, fun nonzero => ?_,
    rfl, rfl, rfl, rfl, rfl, rfl, fun nonzero sum => ?_⟩
  · rw [← signallingFlags_pair]
    exact f.nan_operand r nan
  · exact ⟨f.div_fin_zero r m n x y nonzero, f.mul_inf_fin r m n x nonzero, f.negative_invalid r x nonzero⟩
  · exact f.add_cancel r m n x y nonzero (congrArg Prod.fst sum)

end Sys2Proof.Machine
end

section
/-! PROOF. O37 (R133, R134): the reduction tree over integers. -/

set_option Elab.async false

namespace Sys2Proof.Machine

open Sys2Proof

section Tree

variable {c : Nat → Nat → Nat × FFlags} {l : List Nat}

theorem length_treeLevel (c : Nat → Nat → Nat × FFlags) : ∀ l, (treeLevel c l).1.length = (l.length + 1) / 2
  | [] => rfl
  | [_] => by simp [treeLevel]
  | a :: b :: t => by
    have := length_treeLevel c t
    simp only [treeLevel, List.length_cons]
    omega

theorem treeLevel_flags (silent : ∀ a b, (c a b).2 = 0) : ∀ l, (treeLevel c l).2 = 0
  | [] | [_] => rfl
  | a :: b :: t => by simp [treeLevel, silent, treeLevel_flags silent t]

theorem treeLevels_flags (silent : ∀ a b, (c a b).2 = 0) : ∀ n l, (treeLevels c n l).2 = 0
  | 0, _ => rfl
  | n + 1, l => by simp [treeLevels, treeLevel_flags silent, treeLevels_flags silent n]

/-- `R l l'` says what a list `l'` of partial results still has of the list `l` of operands. It is kept where a pair is combined
and where an entry moves up. -/
structure KeptByPairs (c : Nat → Nat → Nat × FFlags) (R : List Nat → List Nat → Prop) : Prop where
  refl (l : List Nat) : R l l
  trans {l l' l'' : List Nat} : R l l' → R l' l'' → R l l''
  pair (a b : Nat) {t t' : List Nat} : R t t' → R (a :: b :: t) ((c a b).1 :: t')

variable {R : List Nat → List Nat → Prop}

theorem KeptByPairs.level (h : KeptByPairs c R) : ∀ l, R l (treeLevel c l).1
  | [] | [_] => h.refl _
  | a :: b :: t => h.pair a b (h.level t)

/-- After `n` levels a list of up to 2^n entries is one entry, the tree's value. -/
theorem KeptByPairs.levels (h : KeptByPairs c R) :
    ∀ (n : Nat) (l : List Nat), l ≠ [] → l.length ≤ 2 ^ n → R l [(treeLevels c n l).1]
  | 0, l, nonempty, short => by
    obtain ⟨x, rfl⟩ := List.length_eq_one_iff.1 (le_antisymm short (List.length_pos_iff.2 nonempty))
    exact h.refl _
  | n + 1, l, nonempty, short => by
    have len := length_treeLevel c l
    have pos := List.length_pos_iff.2 nonempty
    rw [Nat.pow_succ] at short
    exact h.trans (h.level l) (h.levels n _ (List.length_pos_iff.1 (by omega)) (by omega))

theorem KeptByPairs.tree (h : KeptByPairs c R) (nonempty : l ≠ []) (short : l.length ≤ 32) : R l [(tree c l).1] :=
  h.levels 5 l nonempty short

end Tree

/-! ### Sums -/

section Sum

variable {c : Nat → Nat → Nat × FFlags} {N : Nat} {l : List Nat}

/-- Entries below `N`, replaced by entries below `N` with the same sum modulo `N`. -/
def SameSum (N : Nat) (l l' : List Nat) : Prop :=
  (∀ x ∈ l, x < N) → (∀ x ∈ l', x < N) ∧ l'.sum ≡ l.sum [MOD N]

theorem keptByPairs_sameSum (add : ∀ a b, (c a b).1 = (a + b) % N) : KeptByPairs c (SameSum N) where
  refl _ below := ⟨below, rfl⟩
  trans first second below := by
    obtain ⟨below, sum⟩ := first below
    obtain ⟨below, sum'⟩ := second below
    exact ⟨below, sum'.trans sum⟩
  pair a b t t' rest below := by
    simp only [List.forall_mem_cons, List.sum_cons] at below ⊢
    obtain ⟨ha, -, ht⟩ := below
    obtain ⟨below, sum⟩ := rest ht
    rw [add a b, ← Nat.add_assoc]
    exact ⟨⟨Nat.mod_lt _ (Nat.zero_lt_of_lt ha), below⟩, (Nat.mod_modEq _ _).add sum⟩

theorem tree_sum (add : ∀ a b, (c a b).1 = (a + b) % N) (nonempty : l ≠ []) (short : l.length ≤ 32)
    (below : ∀ x ∈ l, x < N) : (tree c l).1 = l.sum % N := by
  obtain ⟨small, sum⟩ := (keptByPairs_sameSum add).tree nonempty short below
  rw [← sum, List.sum_singleton, Nat.mod_eq_of_lt (small _ (List.mem_singleton_self _))]

end Sum

/-! ### Least and greatest -/

section Select

variable {c : Nat → Nat → Nat × FFlags} {N : Nat} {val : Nat → Int} {l : List Nat}

/-- `c` takes one of two entries below `N`, with a value not above that of either. -/
def TakesLeast (c : Nat → Nat → Nat × FFlags) (N : Nat) (val : Nat → Int) : Prop :=
  ∀ a b, a < N → b < N → ((c a b).1 = a ∨ (c a b).1 = b) ∧ val (c a b).1 ≤ val a ∧ val (c a b).1 ≤ val b

/-- Of entries below `N` some are left, and for every entry one that is not above it. -/
def LeastLeft (N : Nat) (val : Nat → Int) (l l' : List Nat) : Prop :=
  (∀ x ∈ l, x < N) → l' ⊆ l ∧ ∀ x ∈ l, ∃ y ∈ l', val y ≤ val x

theorem keptByPairs_leastLeft (least : TakesLeast c N val) : KeptByPairs c (LeastLeft N val) where
  refl l _ := ⟨List.Subset.refl l, fun x hx => ⟨x, hx, le_rfl⟩⟩
  trans first second below := by
    obtain ⟨sub, le⟩ := first below
    obtain ⟨sub', le'⟩ := second fun x hx => below x (sub hx)
    refine ⟨List.Subset.trans sub' sub, fun x hx => ?_⟩
    obtain ⟨y, hy, hyx⟩ := le x hx
    obtain ⟨z, hz, hzy⟩ := le' y hy
    exact ⟨z, hz, hzy.trans hyx⟩
  pair a b t t' rest below := by
    simp only [List.forall_mem_cons] at below
    obtain ⟨ha, hb, ht⟩ := below
    obtain ⟨sub, le⟩ := rest ht
    obtain ⟨one, leA, leB⟩ := least a b ha hb
    refine ⟨List.cons_subset.2 ⟨by simpa [or_assoc] using one.imp_right Or.inl, fun x hx => by simp [sub hx]⟩, ?_⟩
    simp only [List.forall_mem_cons, List.exists_mem_cons_iff]
    exact ⟨.inl leA, .inl leB, fun x hx => .inr (le x hx)⟩

theorem tree_least (least : TakesLeast c N val) (nonempty : l ≠ []) (short : l.length ≤ 32) (below : ∀ x ∈ l, x < N) :
    (tree c l).1 ∈ l ∧ ∀ x ∈ l, val (tree c l).1 ≤ val x := by
  simpa [LeastLeft] using (keptByPairs_leastLeft least).tree nonempty short below

end Select

/-! ### The combinations of a reduction -/

section Combine

variable (k : RedKind) (e : VpEnv) {a b : Nat}

/-- The integer that an entry stands for under the signedness of the element type (R59). -/
def VpEnv.intValue (e : VpEnv) (x : Nat) : Int := if itSigned e.it then (BitVec.ofNat e.eInt x).toInt else x

theorem redCombine_flags (a b : Nat) : (redCombine k false e a b).2 = 0 := rfl

theorem redCombine_add (a b : Nat) : (redCombine .add false e a b).1 = (a + b) % 2 ^ e.eInt := by
  simp [redCombine]

theorem redCombine_min (ha : a < 2 ^ e.eInt) (hb : b < 2 ^ e.eInt) :
    (redCombine .min false e a b).1 = if e.intValue a ≤ e.intValue b then a else b := by
  by_cases sgn : itSigned e.it <;>
    simp [redCombine, VpEnv.intValue, sgn, intMin, intMinu, apply_ite BitVec.toNat, Nat.mod_eq_of_lt, ha, hb]

theorem redCombine_max (ha : a < 2 ^ e.eInt) (hb : b < 2 ^ e.eInt) :
    (redCombine .max false e a b).1 = if e.intValue b ≤ e.intValue a then a else b := by
  by_cases sgn : itSigned e.it <;>
    simp [redCombine, VpEnv.intValue, sgn, intMax, intMaxu, apply_ite BitVec.toNat, Nat.mod_eq_of_lt, ha, hb]

theorem redCombine_min_takesLeast : TakesLeast (redCombine .min false e) (2 ^ e.eInt) e.intValue := by
  intro a b ha hb
  rw [redCombine_min e ha hb]
  split_ifs with le
  · exact ⟨.inl rfl, le_rfl, le⟩
  · exact ⟨.inr rfl, (not_le.1 le).le, le_rfl⟩

theorem redCombine_max_takesLeast : TakesLeast (redCombine .max false e) (2 ^ e.eInt) fun x => -e.intValue x := by
  intro a b ha hb
  rw [redCombine_max e ha hb]
  split_ifs with le
  · exact ⟨.inl rfl, le_rfl, neg_le_neg le⟩
  · exact ⟨.inr rfl, neg_le_neg (not_le.1 le).le, le_rfl⟩

end Combine

/-- Settles O37: each level of the tree keeps the sum modulo 2^e, a least entry or a greatest one, and five levels leave one
entry. -/
theorem integerReductionValue : Obligations.IntegerReductionValue := by
  intro e l nonempty short below val
  refine ⟨Prod.ext ?_ (treeLevels_flags (redCombine_flags .add e) 5 l),
    tree_least (redCombine_min_takesLeast e) nonempty short below, ?_⟩
  · exact tree_sum (redCombine_add e) nonempty short below
  · obtain ⟨mem, greatest⟩ := tree_least (redCombine_max_takesLeast e) nonempty short below
    exact ⟨mem, fun x hx => neg_le_neg_iff.1 (greatest x hx)⟩

end Sys2Proof.Machine
end

section
/-! PROOF. O58 and O57: words and the instructions that they stand for (R136 to R151). -/

namespace Sys2Proof

/-- R136 to R150: an instruction with a word is given back by the decoder, operand by operand; an operation of the device has no word. -/
theorem Instr.roundTrip (i : Instr) : Laws.RoundTrip.Statement i := by
  cases i with
  | add => exact Laws.RoundTrip.add _ _ _ _
  | sub => exact Laws.RoundTrip.sub _ _ _ _
  | and => exact Laws.RoundTrip.and _ _ _ _
  | or => exact Laws.RoundTrip.or _ _ _ _
  | xor => exact Laws.RoundTrip.xor _ _ _ _
  | sll => exact Laws.RoundTrip.sll _ _ _ _
  | srl => exact Laws.RoundTrip.srl _ _ _ _
  | sra => exact Laws.RoundTrip.sra _ _ _ _
  | min => exact Laws.RoundTrip.min _ _ _ _
  | max => exact Laws.RoundTrip.max _ _ _ _
  | minu => exact Laws.RoundTrip.minu _ _ _ _
  | maxu => exact Laws.RoundTrip.maxu _ _ _ _
  | popc => exact Laws.RoundTrip.popc _ _ _
  | clz => exact Laws.RoundTrip.clz _ _ _
  | ctz => exact Laws.RoundTrip.ctz _ _ _
  | addi => exact Laws.RoundTrip.addi _ _ _ _
  | andi => exact Laws.RoundTrip.andi _ _ _ _
  | ori => exact Laws.RoundTrip.ori _ _ _ _
  | xori => exact Laws.RoundTrip.xori _ _ _ _
  | slli => exact Laws.RoundTrip.slli _ _ _ _
  | srli => exact Laws.RoundTrip.srli _ _ _ _
  | srai => exact Laws.RoundTrip.srai _ _ _ _
  | mul => exact Laws.RoundTrip.mul _ _ _ _
  | mulh => exact Laws.RoundTrip.mulh _ _ _ _
  | mulhu => exact Laws.RoundTrip.mulhu _ _ _ _
  | div => exact Laws.RoundTrip.div _ _ _ _
  | divu => exact Laws.RoundTrip.divu _ _ _ _
  | rem => exact Laws.RoundTrip.rem _ _ _ _
  | remu => exact Laws.RoundTrip.remu _ _ _ _
  | lui => exact Laws.RoundTrip.lui _ _ _
  | auipc => exact Laws.RoundTrip.auipc _ _ _
  | ldb => exact Laws.RoundTrip.ldb _ _ _ _
  | ldbu => exact Laws.RoundTrip.ldbu _ _ _ _
  | ldh => exact Laws.RoundTrip.ldh _ _ _ _
  | ldhu => exact Laws.RoundTrip.ldhu _ _ _ _
  | ldw => exact Laws.RoundTrip.ldw _ _ _ _
  | ldwu => exact Laws.RoundTrip.ldwu _ _ _ _
  | ldd => exact Laws.RoundTrip.ldd _ _ _ _
  | stb => exact Laws.RoundTrip.stb _ _ _ _
  | sth => exact Laws.RoundTrip.sth _ _ _ _
  | stw => exact Laws.RoundTrip.stw _ _ _ _
  | std => exact Laws.RoundTrip.std _ _ _ _
  | cmp => exact Laws.RoundTrip.cmp _ _ _ _ _ _ _
  | cmpi => exact Laws.RoundTrip.cmpi _ _ _ _ _ _
  | pand => exact Laws.RoundTrip.pand _ _ _ _
  | por => exact Laws.RoundTrip.por _ _ _ _
  | pxor => exact Laws.RoundTrip.pxor _ _ _ _
  | pandn => exact Laws.RoundTrip.pandn _ _ _ _
  | pgetx => exact Laws.RoundTrip.pgetx _ _ _
  | psetx => exact Laws.RoundTrip.psetx _ _ _
  | br => exact Laws.RoundTrip.br _ _
  | jal => exact Laws.RoundTrip.jal _ _ _
  | jalr => exact Laws.RoundTrip.jalr _ _ _ _
  | amowSwap => exact Laws.RoundTrip.amowSwap _ _ _ _ _ _
  | amowAdd => exact Laws.RoundTrip.amowAdd _ _ _ _ _ _
  | amowAnd => exact Laws.RoundTrip.amowAnd _ _ _ _ _ _
  | amowOr => exact Laws.RoundTrip.amowOr _ _ _ _ _ _
  | amowXor => exact Laws.RoundTrip.amowXor _ _ _ _ _ _
  | amowMin => exact Laws.RoundTrip.amowMin _ _ _ _ _ _
  | amowMax => exact Laws.RoundTrip.amowMax _ _ _ _ _ _
  | amowCas => exact Laws.RoundTrip.amowCas _ _ _ _ _ _
  | amodSwap => exact Laws.RoundTrip.amodSwap _ _ _ _ _ _
  | amodAdd => exact Laws.RoundTrip.amodAdd _ _ _ _ _ _
  | amodAnd => exact Laws.RoundTrip.amodAnd _ _ _ _ _ _
  | amodOr => exact Laws.RoundTrip.amodOr _ _ _ _ _ _
  | amodXor => exact Laws.RoundTrip.amodXor _ _ _ _ _ _
  | amodMin => exact Laws.RoundTrip.amodMin _ _ _ _ _ _
  | amodMax => exact Laws.RoundTrip.amodMax _ _ _ _ _ _
  | amodCas => exact Laws.RoundTrip.amodCas _ _ _ _ _ _
  | lda => exact Laws.RoundTrip.lda _ _ _ _
  | stl => exact Laws.RoundTrip.stl _ _ _ _
  | fence => exact Laws.RoundTrip.fence _ _
  | fenceSv => exact Laws.RoundTrip.fenceSv _ _
  | fenceVs => exact Laws.RoundTrip.fenceVs _ _
  | fenceE => exact Laws.RoundTrip.fenceE _ _
  | csrr => exact Laws.RoundTrip.csrr _ _ _
  | csrw => exact Laws.RoundTrip.csrw _ _ _ _
  | csrs => exact Laws.RoundTrip.csrs _ _ _ _
  | csrc => exact Laws.RoundTrip.csrc _ _ _ _
  | trap => exact Laws.RoundTrip.trap _ _
  | icinv => exact Laws.RoundTrip.icinv _ _
  | park => exact Laws.RoundTrip.park _ _
  | yield => exact Laws.RoundTrip.yield _
  | exit => exact Laws.RoundTrip.exit _
  | spawn => exact Laws.RoundTrip.spawn _ _ _
  | vtctlResume => exact Laws.RoundTrip.vtctlResume _ _ _
  | vtctlKill => exact Laws.RoundTrip.vtctlKill _ _ _
  | vtctlWake => exact Laws.RoundTrip.vtctlWake _ _ _
  | bar => exact Laws.RoundTrip.bar _ _
  | bara => exact Laws.RoundTrip.bara _ _
  | barw => exact Laws.RoundTrip.barw _ _
  | mwait => exact Laws.RoundTrip.mwait _ _ _ _ _ _
  | waitd => exact Laws.RoundTrip.waitd _ _ _
  | fnew => exact Laws.RoundTrip.fnew _ _
  | fput => exact Laws.RoundTrip.fput _ _ _ _
  | fget => exact Laws.RoundTrip.fget _ _ _
  | ftake => exact Laws.RoundTrip.ftake _ _ _
  | ftry => exact Laws.RoundTrip.ftry _ _ _ _
  | ffree => exact Laws.RoundTrip.ffree _ _
  | enq => exact Laws.RoundTrip.enq _ _ _ _
  | enqy => exact Laws.RoundTrip.enqy _ _ _ _ _
  | deq => exact Laws.RoundTrip.deq _ _ _ _
  | deqt => exact Laws.RoundTrip.deqt _ _ _ _
  | setvl => exact Laws.RoundTrip.setvl _ _ _ _
  | setcfg => exact Laws.RoundTrip.setcfg _ _ _
  | setmt => exact Laws.RoundTrip.setmt _ _
  | setem => exact Laws.RoundTrip.setem _ _
  | setseg => exact Laws.RoundTrip.setseg _ _ _
  | vjoin => exact Laws.RoundTrip.vjoin _
  | xseed => exact Laws.RoundTrip.xseed _ _
  | xdrain => exact Laws.RoundTrip.xdrain _ _
  | vbcast => exact Laws.RoundTrip.vbcast _ _ _
  | vextract => exact Laws.RoundTrip.vextract _ _ _ _
  | vf => exact Laws.RoundTrip.vf _ _
  | vfr => exact Laws.RoundTrip.vfr _ _ _
  | vld => exact Laws.RoundTrip.vld _ _ _ _ _ _ _ _
  | vst => exact Laws.RoundTrip.vst _ _ _ _ _ _ _ _
  | fadd => exact Laws.RoundTrip.fadd _ _ _ _
  | fsub => exact Laws.RoundTrip.fsub _ _ _ _
  | fmul => exact Laws.RoundTrip.fmul _ _ _ _
  | fmin => exact Laws.RoundTrip.fmin _ _ _ _
  | fmax => exact Laws.RoundTrip.fmax _ _ _ _
  | fdiv => exact Laws.RoundTrip.fdiv _ _ _ _
  | fsqrt => exact Laws.RoundTrip.fsqrt _ _ _
  | frcp => exact Laws.RoundTrip.frcp _ _ _
  | frsq => exact Laws.RoundTrip.frsq _ _ _
  | fexp2 => exact Laws.RoundTrip.fexp2 _ _ _
  | flog2 => exact Laws.RoundTrip.flog2 _ _ _
  | fabs => exact Laws.RoundTrip.fabs _ _ _
  | fneg => exact Laws.RoundTrip.fneg _ _ _
  | fsgnj => exact Laws.RoundTrip.fsgnj _ _ _ _
  | fclass => exact Laws.RoundTrip.fclass _ _ _
  | fma => exact Laws.RoundTrip.fma _ _ _ _ _
  | fms => exact Laws.RoundTrip.fms _ _ _ _ _
  | fnma => exact Laws.RoundTrip.fnma _ _ _ _ _
  | fnms => exact Laws.RoundTrip.fnms _ _ _ _ _
  | fcmp => exact Laws.RoundTrip.fcmp _ _ _ _ _ _ _
  | cvt => exact Laws.RoundTrip.cvt _ _ _ _ _
  | cvts => exact Laws.RoundTrip.cvts _ _ _ _ _
  | adds => exact Laws.RoundTrip.adds _ _ _ _
  | subs => exact Laws.RoundTrip.subs _ _ _ _
  | addsu => exact Laws.RoundTrip.addsu _ _ _ _
  | subsu => exact Laws.RoundTrip.subsu _ _ _ _
  | avg => exact Laws.RoundTrip.avg _ _ _ _
  | avgu => exact Laws.RoundTrip.avgu _ _ _ _
  | abs => exact Laws.RoundTrip.abs _ _ _
  | absd => exact Laws.RoundTrip.absd _ _ _ _
  | permb => exact Laws.RoundTrip.permb _ _ _ _
  | shufb => exact Laws.RoundTrip.shufb _ _ _ _
  | zipl => exact Laws.RoundTrip.zipl _ _ _ _
  | ziph => exact Laws.RoundTrip.ziph _ _ _ _
  | uzpe => exact Laws.RoundTrip.uzpe _ _ _ _
  | uzpo => exact Laws.RoundTrip.uzpo _ _ _ _
  | xsend => exact Laws.RoundTrip.xsend _ _
  | xrecv => exact Laws.RoundTrip.xrecv _ _
  | vany => exact Laws.RoundTrip.vany _ _ _
  | vall => exact Laws.RoundTrip.vall _ _ _
  | vballot => exact Laws.RoundTrip.vballot _ _ _
  | vmatch => exact Laws.RoundTrip.vmatch _ _ _
  | vshfl => exact Laws.RoundTrip.vshfl _ _ _ _
  | vredAdd => exact Laws.RoundTrip.vredAdd _ _ _ _
  | vredMin => exact Laws.RoundTrip.vredMin _ _ _ _
  | vredMax => exact Laws.RoundTrip.vredMax _ _ _ _
  | vscanAdd => exact Laws.RoundTrip.vscanAdd _ _ _ _
  | ldv => exact Laws.RoundTrip.ldv _ _ _ _ _ _
  | stv => exact Laws.RoundTrip.stv _ _ _ _ _ _
  | fetch => exact Laws.RoundTrip.fetch _ _
  | fetchr => exact Laws.RoundTrip.fetchr _ _
  | vpid => exact Laws.RoundTrip.vpid _ _
  | ltmask => exact Laws.RoundTrip.ltmask _ _
  | mov => exact Laws.RoundTrip.mov _ _ _
  | sel => exact Laws.RoundTrip.sel _ _ _ _
  | mxon => exact Laws.RoundTrip.mxon _ _
  | mxoff => exact Laws.RoundTrip.mxoff _
  | mopO => exact Laws.RoundTrip.mopO _ _ _ _
  | mopR => exact Laws.RoundTrip.mopR _ _ _ _
  | mopsO => exact Laws.RoundTrip.mopsO _ _ _ _ _
  | mopsR => exact Laws.RoundTrip.mopsR _ _ _ _ _
  | mopz => exact Laws.RoundTrip.mopz _ _
  | mova => exact Laws.RoundTrip.mova _ _ _ _
  | movta => exact Laws.RoundTrip.movta _ _ _ _
  | _ => exact fun _ _ h => nomatch h

/-- R142, R151: OP 0x37 and above stand for no instruction. -/
theorem decodeNat_reserved {w : Nat} (h : 0x37 ≤ wordField w 26 6) : decodeNat w = .error .reservedOpcode := by
  have below : wordField w 26 6 < 0x40 := Nat.mod_lt _ (by decide)
  interval_cases op : wordField w 26 6 <;> simp only [decodeNat, op]

/-- Settles O58, by the round trip of each instruction. -/
theorem decodeAfterEncode : Obligations.DecodeAfterEncode :=
  fun i w wf h => i.roundTrip wf w h

/-- Settles O57: five words are computed; those with OP 0x37 to 0x3F are reserved. -/
theorem decodingWords : Obligations.DecodingWords := by
  refine ⟨rfl, rfl, rfl, rfl, rfl, fun k below reserved => decodeNat_reserved ?_⟩
  rwa [wordField_mul k 26 6 below]

end Sys2Proof
end

section
/-! PROOF. O2: in the CT a false guard leaves an instruction nothing but its issue (R137), and a VP-only
instruction is none (R140). -/

namespace Sys2Proof.Machine

open Sys2Proof

/-- The CT of VT `id` executes an instruction under a false guard `g`, whose predicate is not poisoned (R137, R346). -/
structure CtSkips (s : State) (id : Nat) (vt : VT) (g : Guard) : Prop where
  who : s.who = .ct id
  here : s.vt? id = some vt
  guard : vt.guardHolds g = false
  clean : vt.ctPoisoned g [] [] = false

namespace CtSkips

variable {s : State} {id : Nat} {vt : VT} {g : Guard} {xs : List Reg} {ps : List (Fin 8)}

theorem ctOnly (h : CtSkips s id vt g) {body : Nat → VT → State} : s.ctOnly g xs ps body = s.setVt id vt.retire :=
  State.ctOnly_skips h.who h.here h.guard h.clean body

theorem shared (h : CtSkips s id vt g) {ct : VT → VT} {vp : VpEnv → VP → Option VP} :
    s.shared g xs ps ct vp = s.setVt id vt.retire :=
  State.shared_skips h.who h.here h.guard h.clean ct vp

/-- The checks that come before an instruction's waits are made under a true guard only. -/
theorem ctOnlyIf (h : CtSkips s id vt g) {pre : VT → Option Cause} {body : Nat → VT → State} :
    s.ctOnlyIf pre g xs ps body = s.setVt id vt.retire := by
  have none_found : s.preFault id g pre = none := by simp [State.preFault, h.here, h.guard]
  simp only [State.ctOnlyIf, h.who, none_found, Option.getD_none, h.ctOnly]

theorem ctEarly (h : CtSkips s id vt g) {as : List Reg} {early : Nat → VT → Option State} {k : State} :
    s.ctEarly g as xs early k = k := by
  simp [State.ctEarly, h.who, h.here, h.guard]

theorem amo (h : CtSkips s id vt g) {m : Nat} {k : AmoKind} {d a b : Reg} {ord : Order} {sc : Fin 4} :
    s.amo m k g d a b ord sc = s.setVt id vt.retire := by
  simp only [State.amo, h.who, h.ctEarly, State.ctIssue_skips h.here h.guard h.clean]

theorem accMove (h : CtSkips s id vt g) {acc : Fin 2} {va blk : Reg} {toVp : Bool} {body : Nat → VT → Claim → State}
    (fits : blk.val < 128 / vt.w) : s.accMove g acc va blk toVp body = s.setVt id vt.retire := by
  simp only [State.accMove, h.who, h.here, if_neg (not_le.2 fits)]
  exact h.ctOnlyIf

end CtSkips

/-- The block that a `mova` or `movta` names exists at width `w` (R326). -/
def BlockFits (e : Instr) (w : Nat) : Prop :=
  ∀ g acc va blk, e = .mova g acc va blk ∨ e = .movta g acc va blk → blk.val < 128 / w

/-- What the CT makes of an instruction with the word `w`, by its opcode: it obeys its guard, or it is none (R137, R140). -/
inductive InCt (e : Instr) (w : Nat) : Prop where
  | obeysGuard (ct : contextOfOp (wordField w 26 6) ≠ .vpOnly)
      (skips : ∀ {s id vt}, CtSkips s id vt (guardField w) → BlockFits e vt.w → exec e s = .next (s.setVt id vt.retire))
  | isNone (vp : contextOfOp (wordField w 26 6) = .vpOnly)
      (faults : ∀ {s id vt}, s.who = .ct id → s.vt? id = some vt → exec e s = .next (s.ctFault id vt .illop 0))

section
variable {e : Instr} {v w op low : Nat} {g : Guard}
variable (word : some v = some w) (head : v = encHead op g + low) (fits : low < 4194304)
include word head fits

/-- A word with the opcode `op` and the guard `g`, of an instruction that obeys `g`. -/
theorem InCt.of_skips
    (skips : ∀ {s id vt}, CtSkips s id vt g → BlockFits e vt.w → exec e s = .next (s.setVt id vt.retire))
    (ct : op < 64 ∧ contextOfOp op ≠ .vpOnly := by decide) : InCt e w := by
  cases word
  subst head
  refine .obeysGuard ?_ ?_
  · rw [wordField_op op g low ct.1 fits]
    exact ct.2
  · rw [guardField_head op g low fits]
    exact skips

/-- A word with a VP-only opcode. -/
theorem InCt.of_faults
    (faults : ∀ {s id vt}, s.who = .ct id → s.vt? id = some vt → exec e s = .next (s.ctFault id vt .illop 0))
    (vp : op < 64 ∧ contextOfOp op = .vpOnly := by decide) : InCt e w := by
  cases word
  subst head
  refine .isNone ?_ faults
  rw [wordField_op op g low vp.1 fits]
  exact vp.2

end

/-- Each instruction with a word obeys its guard in the CT, or is none there. -/
theorem inCt_of_word {e : Instr} {w : Nat} (h : encodeNat e = some w) : InCt e w := by
  cases e with
  | add | sub | and | or | xor | sll | srl | sra | min | max | minu | maxu | popc | clz | ctz | mul | mulh | mulhu | div | divu
    | rem | remu | pand | por | pxor | pandn | pgetx | psetx =>
    exact .of_skips h (encR_low ..) (by omega) fun k _ => congrArg _ k.shared
  | addi | andi | ori | xori | slli | srli | srai =>
    exact .of_skips h (encI_low ..) (by omega) fun k _ => congrArg _ k.shared
  | lui => exact .of_skips h (encU_low ..) (by omega) fun k _ => congrArg _ k.shared
  | cmp _ _ _ c _ _ f =>
    have := c.code_lt
    have := f.code_lt
    exact .of_skips h (encP_low ..) (by omega) fun k _ => congrArg _ k.shared
  | cmpi _ _ _ c =>
    have := c.code_lt
    exact .of_skips h (encP_low ..) (by omega) fun k _ => congrArg _ k.shared
  | amowSwap _ _ _ _ ord sc | amowAdd _ _ _ _ ord sc | amowAnd _ _ _ _ ord sc | amowOr _ _ _ _ ord sc | amowXor _ _ _ _ ord sc
    | amowMin _ _ _ _ ord sc | amowMax _ _ _ _ ord sc | amowCas _ _ _ _ ord sc | amodSwap _ _ _ _ ord sc
    | amodAdd _ _ _ _ ord sc | amodAnd _ _ _ _ ord sc | amodOr _ _ _ _ ord sc | amodXor _ _ _ _ ord sc
    | amodMin _ _ _ _ ord sc | amodMax _ _ _ _ ord sc | amodCas _ _ _ _ ord sc =>
    have := ord.code_lt
    exact .of_skips h (encR_low ..) (by simp only [encAtomF]; omega) fun k _ => congrArg _ k.amo
  | auipc | jal => exact .of_skips h (encU_low ..) (by omega) fun k _ => congrArg _ k.ctOnly
  | br => exact .of_skips h (encJ_low ..) (by omega) fun k _ => congrArg _ k.ctOnly
  | ldb | ldbu | ldh | ldhu | ldw | ldwu | ldd | jalr | csrr | csrw | csrs | csrc | trap | icinv | park | yield | exit | spawn
    | vtctlResume | vtctlKill | vtctlWake =>
    exact .of_skips h (encI_low ..) (by omega) fun k _ => congrArg _ k.ctOnly
  | stb | sth | stw | std =>
    exact .of_skips h (encS_low ..) (by omega) fun k _ => congrArg _ (k.ctEarly.trans k.ctOnly)
  | lda _ _ _ sc | fence _ sc | fenceSv _ sc | fenceVs _ sc | fenceE _ sc =>
    have := sc.code_lt
    exact .of_skips h (encR_low ..) (by omega) fun k _ => congrArg _ k.ctOnly
  | stl _ _ _ sc =>
    have := sc.code_lt
    exact .of_skips h (encR_low ..) (by omega) fun k _ => congrArg _ (k.ctEarly.trans k.ctOnly)
  | mwait _ _ _ _ word c =>
    have := c.code_lt
    have := toNat_lt_two word
    exact .of_skips h (encR_low ..) (by omega) fun k _ => congrArg _ (k.ctEarly.trans k.ctOnly)
  | bar | bara | barw | waitd | fnew | fput | fget | ftake | ftry | ffree | setcfg | setmt | setem | setseg | vjoin =>
    exact .of_skips h (encR_low ..) (by omega) fun k _ => congrArg _ k.ctOnly
  | setvl | xseed | xdrain | vbcast | vextract =>
    exact .of_skips h (encR_low ..) (by omega) fun k _ => congrArg _ k.ctOnlyIf
  | enq => exact .of_skips h (encX_low ..) (by omega) fun k _ => congrArg _ k.ctOnlyIf
  | enqy => exact .of_skips h (encX_low ..) (by omega) fun k _ => congrArg _ (k.ctEarly.trans k.ctOnly)
  | deq | deqt => exact .of_skips h (encX_low ..) (by omega) fun k _ => congrArg _ k.ctOnly
  | vf => exact .of_skips h (encJ_low ..) (by omega) fun k _ => congrArg _ k.ctOnlyIf
  | vfr => exact .of_skips h (encI_low ..) (by omega) fun k _ => congrArg _ k.ctOnlyIf
  | vld _ _ _ _ mode _ q hint | vst _ _ _ _ mode _ q hint =>
    have := mode.code_lt
    have := toNat_lt_two q
    have := hint.code_lt
    exact .of_skips h (encV_low ..) (by omega) fun k _ => congrArg _ k.ctOnlyIf
  | mxon | mxoff | mopz => exact .of_skips h (encM_low ..) (by omega) fun k _ => congrArg _ k.ctOnly
  | mopO | mopR | mopsO | mopsR => exact .of_skips h (encM_low ..) (by omega) fun k _ => congrArg _ k.ctOnlyIf
  | mova => exact .of_skips h (encM_low ..) (by omega) fun k fits => congrArg _ (k.accMove (fits _ _ _ _ (.inl rfl)))
  | movta => exact .of_skips h (encM_low ..) (by omega) fun k fits => congrArg _ (k.accMove (fits _ _ _ _ (.inr rfl)))
  | fadd | fsub | fmul | fmin | fmax | fdiv | fsqrt | frcp | frsq | fexp2 | flog2 | fabs | fneg | fsgnj | fclass | adds | subs
    | addsu | subsu | avg | avgu | abs | absd | permb | shufb | zipl | ziph | uzpe | uzpo | xsend | xrecv | vany | vall | vballot
    | vmatch | vshfl =>
    exact .of_faults h (encR_low ..) (by omega) fun who here => congrArg _ (State.vpOnly_ct who here _)
  | cvt _ _ _ src dst | cvts _ _ _ src dst =>
    have := src.code_lt
    have := dst.code_lt
    exact .of_faults h (encR_low ..) (by omega) fun who here => congrArg _ (State.vpOnly_ct who here _)
  | vredAdd _ _ _ float | vredMin _ _ _ float | vredMax _ _ _ float | vscanAdd _ _ _ float =>
    have := toNat_lt_two float
    exact .of_faults h (encR_low ..) (by omega) fun who here => congrArg _ (State.vpOnly_ct who here _)
  | fma | fms | fnma | fnms =>
    exact .of_faults h (encRC_low ..) (by omega) fun who here => congrArg _ (State.vpOnly_ct who here _)
  | fcmp _ _ _ c _ _ f =>
    have := c.code_lt
    have := f.code_lt
    exact .of_faults h (encP_low ..) (by omega) fun who here => congrArg _ (State.vpOnly_ct who here _)
  | ldv | stv => exact .of_faults h (encL_low ..) (by omega) fun who here => congrArg _ (State.vpOnly_ct who here _)
  | fetch | fetchr | vpid | ltmask | mov | sel =>
    exact .of_faults h (encC_low ..) (by omega) fun who here => congrArg _ (State.vpOnly_ct who here _)
  | _ => exact nomatch h

theorem context_of_word {e : Instr} {w : Nat} (h : encodeNat e = some w) :
    e.context = contextOfOp (wordField w 26 6) := by
  simp only [Instr.context, h]

/-- An instruction of the blocks has a word; an operation of the device has none, and is not VP-only. -/
theorem word_of_vpOnly {e : Instr} (h : e.context = .vpOnly) : ∃ w, encodeNat e = some w := by
  cases word : encodeNat e with
  | some w => exact ⟨w, rfl⟩
  | none => simp [Instr.context, word] at h

theorem falseGuardHasNoEffect : Claim.FalseGuardHasNoEffect := by
  intro s id vt e w _ word notVp fits who here guard clean
  cases inCt_of_word word with
  | obeysGuard _ skips => exact skips ⟨who, here, guard, clean⟩ fits
  | isNone vp _ => exact absurd (context_of_word word ▸ vp) notVp

theorem vpInstructionInCtIsIllegal : Claim.VpInstructionInCtIsIllegal := by
  intro s id vt e vp who here
  obtain ⟨w, word⟩ := word_of_vpOnly vp
  cases inCt_of_word word with
  | obeysGuard ct _ => exact absurd (context_of_word word ▸ vp) ct
  | isNone _ faults => exact (faults who here).trans (congrArg _ (State.ctFault_eq here _ _))

/-- Settles O2: by its opcode, each instruction obeys its guard in the CT or is none there. -/
theorem guardsAndContexts : Obligations.GuardsAndContexts :=
  ⟨falseGuardHasNoEffect, vpInstructionInCtIsIllegal⟩

end Sys2Proof.Machine
end

section
/-! PROOF. O3 and O4, arithmetic (R159 to R161): what the model computes on words of `e` bits is what the operations of words say. -/

set_option Elab.async false

namespace Sys2Proof.Machine

open Sys2Proof

variable {e : Nat}

/-! ### Order -/

theorem intMin_eq (x y : BitVec e) : intMin x y = if x.slt y then x else y := by
  simp only [intMin, BitVec.slt_eq_decide, decide_eq_true_eq]
  rcases lt_trichotomy x.toInt y.toInt with h | h | h
  · rw [if_pos h.le, if_pos h]
  · rw [BitVec.toInt_inj.1 h, ite_self, ite_self]
  · rw [if_neg (by omega), if_neg (by omega)]

theorem intMax_eq (x y : BitVec e) : intMax x y = if x.slt y then y else x := by
  simp only [intMax, BitVec.slt_iff_toInt_lt, ← not_lt, ite_not]

theorem intMinu_eq (x y : BitVec e) : intMinu x y = if x.ult y then x else y := by
  simp only [intMinu, BitVec.ult_iff_toNat_lt]
  rcases lt_trichotomy x.toNat y.toNat with h | h | h
  · rw [if_pos h.le, if_pos h]
  · rw [BitVec.eq_of_toNat_eq h, ite_self, ite_self]
  · rw [if_neg (by omega), if_neg (by omega)]

theorem intMaxu_eq (x y : BitVec e) : intMaxu x y = if x.ult y then y else x := by
  simp only [intMaxu, BitVec.ult_iff_toNat_lt, ← not_lt, ite_not]

/-! ### Products and quotients -/

theorem mul_eq_ofInt (x y : BitVec e) : x * y = BitVec.ofInt e (x.toInt * y.toInt) := by
  rw [BitVec.ofInt_mul, BitVec.ofInt_toInt, BitVec.ofInt_toInt]

theorem natCast_two_mul_pow (e : Nat) : ((2 ^ (2 * e) : Nat) : Int) = (2 ^ e : Nat) * (2 ^ e : Nat) := by
  rw [← Nat.cast_mul, ← pow_add, two_mul]

theorem natCast_toNat_ofInt (n : Nat) (v : Int) : ((BitVec.ofInt n v).toNat : Int) = v % (2 ^ n : Nat) := by
  rw [BitVec.toNat_ofInt, Int.toNat_of_nonneg (Int.emod_nonneg _ (by simp))]

/-- The high half of a 2e-bit number that stands for an integer. -/
theorem extractLsb'_ofInt_high (v : Int) :
    (BitVec.ofInt (2 * e) v).extractLsb' e e = BitVec.ofInt e (v / (2 ^ e : Nat)) := by
  refine BitVec.eq_of_toNat_eq ?_
  have quotient : (v / (2 ^ e : Nat)) % (2 ^ e : Nat) = v % (2 ^ (2 * e) : Nat) / (2 ^ e : Nat) % (2 ^ e : Nat) := by
    conv_lhs => rw [← Int.emod_add_mul_ediv v (2 ^ (2 * e) : Nat)]
    rw [natCast_two_mul_pow, mul_assoc, Int.add_mul_ediv_left _ _ (by simp), Int.add_mul_emod_self_left]
  rw [BitVec.extractLsb'_toNat, Nat.shiftRight_eq_div_pow]
  refine Int.ofNat_inj.1 ?_
  rw [natCast_toNat_ofInt, quotient, Int.natCast_emod, Int.natCast_ediv, natCast_toNat_ofInt]

theorem intMulh_eq (x y : BitVec e) :
    intMulh x y = (x.signExtend (2 * e) * y.signExtend (2 * e)).extractLsb' e e := by
  rw [mul_eq_ofInt, extractLsb'_ofInt_high, BitVec.toInt_signExtend_of_le (by omega), BitVec.toInt_signExtend_of_le (by omega)]
  rfl

theorem intMulhu_eq (x y : BitVec e) :
    intMulhu x y = (x.zeroExtend (2 * e) * y.zeroExtend (2 * e)).extractLsb' e e := by
  refine BitVec.eq_of_toNat_eq ?_
  have wide : x.toNat * y.toNat < 2 ^ (2 * e) := by
    rw [two_mul, pow_add]
    exact Nat.mul_lt_mul'' x.isLt y.isLt
  have hx : x.toNat < 2 ^ (2 * e) := x.isLt.trans_le (Nat.pow_le_pow_right (by decide) (by omega))
  have hy : y.toNat < 2 ^ (2 * e) := y.isLt.trans_le (Nat.pow_le_pow_right (by decide) (by omega))
  simp [intMulhu, Nat.mod_eq_of_lt, hx, hy, wide, Nat.shiftRight_eq_div_pow]

theorem intDiv_eq (x y : BitVec e) : intDiv x y = if y = 0 then BitVec.allOnes e else x.sdiv y := by
  rw [intDiv]
  congr 1
  refine BitVec.eq_of_toInt_eq ?_
  rw [BitVec.toInt_ofInt, BitVec.toInt_sdiv]

theorem intDivu_eq (x y : BitVec e) : intDivu x y = if y = 0 then BitVec.allOnes e else x.udiv y := by
  rw [intDivu]
  congr 1
  refine BitVec.eq_of_toNat_eq ?_
  rw [BitVec.toNat_ofNat, BitVec.udiv_eq, BitVec.toNat_udiv, Nat.mod_eq_of_lt ((Nat.div_le_self _ _).trans_lt x.isLt)]

theorem intRem_eq (x y : BitVec e) : intRem x y = if y = 0 then x else x.srem y := by
  rw [intRem, ← BitVec.toInt_srem, BitVec.ofInt_toInt]

theorem intRemu_eq (x y : BitVec e) : intRemu x y = if y = 0 then x else x.umod y := by
  rw [intRemu]
  congr 1
  refine BitVec.eq_of_toNat_eq ?_
  rw [BitVec.toNat_ofNat, BitVec.umod_eq, BitVec.toNat_umod, Nat.mod_eq_of_lt ((Nat.mod_le _ _).trans_lt x.isLt)]

/-! ### Saturation and averages -/

/-- The clamp of R208, as the statements write it. -/
theorem satS_eq (t : Int) : satS e t =
    if (2 ^ (e - 1) : Nat) ≤ t then BitVec.intMax e
    else if t < -(2 ^ (e - 1) : Nat) then BitVec.intMin e else BitVec.ofInt e t := by
  have low : BitVec.intMin e = BitVec.ofInt e (-(2 ^ (e - 1) : Nat)) := by
    rw [BitVec.intMin_eq_neg_two_pow, Nat.cast_pow, Nat.cast_ofNat]
  have high : BitVec.intMax e = BitVec.ofInt e ((2 ^ (e - 1) : Nat) - 1) := by
    rw [← BitVec.ofInt_toInt (x := BitVec.intMax e), BitVec.toInt_intMax, Nat.cast_pow, Nat.cast_ofNat]
  rw [satS, low, high]
  have : 0 < 2 ^ (e - 1) := Nat.two_pow_pos _
  split
  · rw [min_eq_right (by omega), max_eq_right (by omega)]
  · split
    · rw [min_eq_left (by omega), max_eq_left (by omega)]
    · rw [min_eq_left (by omega), max_eq_right (by omega)]

theorem satU_natCast (n : Nat) : satU e (n : Int) = if 2 ^ e ≤ n then BitVec.allOnes e else BitVec.ofNat e n := by
  have : 0 < 2 ^ e := Nat.two_pow_pos e
  rw [satU]
  split
  · rw [min_eq_right (by omega), max_eq_right (by omega), ← Nat.cast_pred this, BitVec.ofInt_natCast]
    exact BitVec.eq_of_toNat_eq (by simp)
  · rw [min_eq_left (by omega), max_eq_right (by omega), BitVec.ofInt_natCast]

theorem satU_of_neg {v : Int} (h : v < 0) : satU e v = 0 := by
  rw [satU, max_eq_left (by omega)]
  rfl

theorem intAddsu_eq (x y : BitVec e) :
    intAddsu x y = if 2 ^ e ≤ x.toNat + y.toNat then BitVec.allOnes e else x + y := by
  rw [intAddsu, ← Nat.cast_add, satU_natCast, BitVec.ofNat_add, BitVec.ofNat_toNat, BitVec.ofNat_toNat]
  simp

theorem intSubsu_eq (x y : BitVec e) : intSubsu x y = if x.ult y then 0 else x - y := by
  have := x.isLt
  rw [intSubsu]
  split
  · next h => rw [satU_of_neg (by rw [BitVec.ult_iff_toNat_lt] at h; omega)]
  · next h =>
    rw [BitVec.ult_iff_toNat_lt, not_lt] at h
    rw [← Nat.cast_sub h, satU_natCast, if_neg (by omega)]
    exact BitVec.eq_of_toNat_eq (by rw [BitVec.toNat_sub_of_le h, BitVec.toNat_ofNat, Nat.mod_eq_of_lt (by omega)])

theorem setWidth_ofInt {n : Nat} (h : e ≤ n) (v : Int) : (BitVec.ofInt n v).setWidth e = BitVec.ofInt e v := by
  refine BitVec.eq_of_toNat_eq ?_
  refine Int.ofNat_inj.1 ?_
  rw [BitVec.toNat_setWidth, Int.natCast_emod, natCast_toNat_ofInt, natCast_toNat_ofInt]
  exact Int.emod_emod_of_dvd v (by exact_mod_cast pow_dvd_pow 2 h)

/-- A sum with a carry, in one bit more. -/
theorem toInt_add_signExtend (x y : BitVec (e + 1)) :
    (x.signExtend (e + 2) + y.signExtend (e + 2) + 1).toInt = x.toInt + y.toInt + 1 := by
  have hx := BitVec.two_mul_toInt_lt (x := x)
  have hy := BitVec.two_mul_toInt_lt (x := y)
  have lx := BitVec.le_two_mul_toInt (x := x)
  have ly := BitVec.le_two_mul_toInt (x := y)
  have one : (1 : BitVec (e + 2)).toInt = 1 := BitVec.toInt_one (by omega)
  have wider : ((2 ^ (e + 2) : Nat) : Int) = 2 * 2 ^ (e + 1) := by
    push_cast
    ring
  rw [BitVec.toInt_add, BitVec.toInt_add, BitVec.toInt_signExtend_of_le (Nat.le_succ _),
    BitVec.toInt_signExtend_of_le (Nat.le_succ _), one, Int.bmod_add_bmod]
  exact Int.bmod_eq_of_le_mul_two (by omega) (by omega)

theorem intAvg_eq (x y : BitVec e) :
    intAvg x y = ((x.signExtend (e + 1) + y.signExtend (e + 1) + 1).sshiftRight 1).setWidth e := by
  cases e with
  | zero => exact Subsingleton.elim _ _
  | succ e =>
    rw [BitVec.sshiftRight_eq, toInt_add_signExtend, setWidth_ofInt (Nat.le_succ _), Int.shiftRight_eq_div_pow]
    rfl

theorem intAvgu_eq (x y : BitVec e) :
    intAvgu x y = ((x.zeroExtend (e + 1) + y.zeroExtend (e + 1) + 1) >>> 1).setWidth e := by
  cases e with
  | zero => exact Subsingleton.elim _ _
  | succ e =>
    have hx := x.isLt
    have hy := y.isLt
    have wider : 2 ^ (e + 2) = 2 * 2 ^ (e + 1) := by ring
    have wide (z : BitVec (e + 1)) : (z.zeroExtend (e + 2)).toNat = z.toNat := BitVec.toNat_setWidth_of_le (Nat.le_succ _)
    have sum : (x.zeroExtend (e + 2) + y.zeroExtend (e + 2) + 1).toNat = x.toNat + y.toNat + 1 := by
      have one : (1 : BitVec (e + 2)).toNat = 1 := BitVec.toNat_one (by omega)
      rw [BitVec.toNat_add, BitVec.toNat_add, wide, wide, one, Nat.mod_add_mod, Nat.mod_eq_of_lt (by omega)]
    refine BitVec.eq_of_toNat_eq ?_
    rw [intAvgu, BitVec.toNat_ofNat, BitVec.toNat_setWidth, BitVec.toNat_ushiftRight, sum]
    rfl

theorem intAbsd_eq (signed : Bool) (x y : BitVec e) : intAbsd signed x y =
    if signed then (if x.slt y then BitVec.ofInt e (y.toInt - x.toInt) else BitVec.ofInt e (x.toInt - y.toInt))
    else if x.ult y then y - x else x - y := by
  have := x.isLt
  have := y.isLt
  cases signed with
  | true =>
    simp only [intAbsd, if_true, BitVec.slt_iff_toInt_lt]
    split
    · rw [max_eq_right (by omega)]
    · rw [max_eq_left (by omega)]
  | false =>
    simp only [intAbsd, Bool.false_eq_true, if_false, BitVec.ult_iff_toNat_lt]
    split
    · next h =>
      rw [max_eq_right h.le, min_eq_left h.le]
      exact BitVec.eq_of_toNat_eq (by rw [BitVec.toNat_sub_of_le h.le, BitVec.toNat_ofNat, Nat.mod_eq_of_lt (by omega)])
    · next h =>
      rw [not_lt] at h
      rw [max_eq_left h, min_eq_right h]
      exact BitVec.eq_of_toNat_eq (by rw [BitVec.toNat_sub_of_le h, BitVec.toNat_ofNat, Nat.mod_eq_of_lt (by omega)])

theorem intAbs_eq (x : BitVec e) : intAbs x = absolute e x := by
  cases e with
  | zero => exact Subsingleton.elim _ _
  | succ e =>
    have high := BitVec.toInt_lt (x := x)
    have low := BitVec.le_toInt x
    have least := BitVec.toInt_intMin_of_pos (Nat.succ_pos e)
    have sign := BitVec.msb_eq_toInt (x := x)
    simp only [Nat.succ_eq_add_one, Nat.add_sub_cancel] at high low least
    rw [intAbs, satS_eq, absolute, Nat.add_sub_cancel, Nat.cast_pow, Nat.cast_ofNat]
    have atLeast : 2 ^ e ≤ max x.toInt (-x.toInt) ↔ x = BitVec.intMin (e + 1) := by
      rw [← BitVec.toInt_inj, least]
      omega
    simp only [atLeast, sign, decide_eq_true_eq]
    split
    · rfl
    · rw [if_neg (by omega)]
      split
      · rw [max_eq_right (by omega), BitVec.ofInt_neg, BitVec.ofInt_toInt]
      · rw [max_eq_left (by omega), BitVec.ofInt_toInt]

/-! ### Bit counts -/

theorem countOnes_eq (v n : Nat) : countOnes v n = (List.range n).countP v.testBit := by
  induction n generalizing v with
  | zero => rfl
  | succ n ih =>
    rw [countOnes, ih, List.range_succ_eq_map, List.countP_cons, List.countP_map]
    have shifted : v.testBit ∘ Nat.succ = (v / 2).testBit := funext fun k => Nat.testBit_succ v k
    rw [shifted, Nat.testBit_zero]
    rcases Nat.mod_two_eq_zero_or_one v with h | h
    · simp [h]
    · simp [h, Nat.add_comm]

/-- Leading zeros, counted from bit n down. -/
theorem clzAuxRec_eq (x : BitVec e) {n : Nat} (h : n < e) :
    x.clzAuxRec n = BitVec.ofNat e (e - 1 - n + countLeading x.toNat (n + 1)) := by
  have bit (k : Nat) : (x.toNat / 2 ^ k % 2 = 1) ↔ x.getLsbD k = true := by
    rw [BitVec.getLsbD, Nat.testBit_eq_decide_div_mod_eq, decide_eq_true_eq]
  induction n with
  | zero =>
    simp only [BitVec.clzAuxRec_zero, countLeading, bit]
    split <;> congr 1; omega
  | succ n ih =>
    rw [BitVec.clzAuxRec_succ, countLeading, ih (by omega)]
    simp only [bit]
    split <;> congr 1; omega

/-- Trailing zeros, counted from bit e - 1 - n up. -/
theorem clzAuxRec_reverse_eq (x : BitVec e) {n : Nat} (h : n < e) :
    x.reverse.clzAuxRec n = BitVec.ofNat e (e - 1 - n + countTrailing (x.toNat / 2 ^ (e - 1 - n)) (n + 1)) := by
  have bit (k : Nat) (hk : k < e) : (x.toNat / 2 ^ (e - 1 - k) % 2 = 1) ↔ x.reverse.getLsbD k = true := by
    rw [BitVec.getLsbD_reverse, BitVec.getMsbD_eq_getLsbD, BitVec.getLsbD, Nat.testBit_eq_decide_div_mod_eq]
    simp [hk]
  induction n with
  | zero =>
    simp only [BitVec.clzAuxRec_zero, countTrailing, bit 0 h]
    split <;> congr 1; omega
  | succ n ih =>
    rw [BitVec.clzAuxRec_succ, countTrailing, ih (by omega), Nat.div_div_eq_div_mul, ← pow_succ,
      show e - 1 - (n + 1) + 1 = e - 1 - n by omega]
    simp only [bit (n + 1) h]
    split <;> congr 1; omega

theorem intPopc_eq (x : BitVec e) :
    intPopc x = BitVec.ofNat e ((List.range e).countP fun k => x.getLsbD k) := by
  rw [intPopc, countOnes_eq]
  rfl

theorem intClz_eq (x : BitVec e) : intClz x = x.clz := by
  cases e with
  | zero => exact Subsingleton.elim _ _
  | succ e => simp [intClz, BitVec.clz, clzAuxRec_eq x (Nat.lt_succ_self e)]

theorem intCtz_eq (x : BitVec e) : intCtz x = x.reverse.clz := by
  cases e with
  | zero => exact Subsingleton.elim _ _
  | succ e => simp [intCtz, BitVec.clz, clzAuxRec_reverse_eq x (Nat.lt_succ_self e)]

/-! ### Immediates -/

theorem toInt_ofNat {n v : Nat} (hv : v < 2 ^ n) (hn : 0 < n) : (BitVec.ofNat n v).toInt = sext n v := by
  have half : 2 ^ n = 2 * 2 ^ (n - 1) := by rw [← pow_succ', Nat.sub_add_cancel hn]
  rw [BitVec.toInt_eq_toNat_cond, BitVec.toNat_ofNat, Nat.mod_eq_of_lt hv, sext]
  exact if_congr (by omega) rfl rfl

theorem ofInt_sext {n v : Nat} (e : Nat) (hv : v < 2 ^ n) (hn : 0 < n) :
    BitVec.ofInt e (sext n v) = (BitVec.ofNat n v).signExtend e := by
  rw [BitVec.signExtend, toInt_ofNat hv hn]

end Sys2Proof.Machine
end

section
/-! PROOF. O3 and O4: the integer instructions of the CT and of a VP (R158 to R161, R208). -/

set_option Elab.async false

namespace Sys2Proof.Machine

open Sys2Proof

variable {s : State} {id : Nat} {vt : VT} {i : Fin 32} {r : Run} {g : Guard} {d a b : Reg}

/-! ### What each instruction computes -/

/-- Two functions that agree on words of every width give one operation. -/
theorem State.intBinary_congr {f h : (e : Nat) → BitVec e → BitVec e → BitVec e} (same : ∀ e x y, f e x y = h e x y) (s : State)
    (g : Guard) (d a b : Reg) :
    Host.Outcome.next (φ := Fault) (ρ := Refusal) (s.intBinary f g d a b) = .next (s.intBinary h g d a b) := by
  rw [funext fun e => funext₂ (same e)]

theorem State.intUnary_congr {f h : (e : Nat) → BitVec e → BitVec e} (same : ∀ e x, f e x = h e x) (s : State) (g : Guard)
    (d a : Reg) : Host.Outcome.next (φ := Fault) (ρ := Refusal) (s.intUnary f g d a) = .next (s.intUnary h g d a) := by
  rw [funext fun e => funext (same e)]

theorem exec_integerBinary : ∀ p ∈ integerBinaries, ∀ (s : State) (g : Guard) (d a b : Reg),
    exec (p.instr g d a b) s = .next (s.intBinary p.result g d a b) := by
  simp only [integerBinaries, List.forall_mem_cons, List.not_mem_nil, false_implies, implies_true, and_true]
  exact ⟨fun _ _ _ _ _ => rfl, fun _ _ _ _ _ => rfl, fun _ _ _ _ _ => rfl, fun _ _ _ _ _ => rfl, fun _ _ _ _ _ => rfl,
    fun _ _ _ _ _ => rfl, fun _ _ _ _ _ => rfl, fun _ _ _ _ _ => rfl,
    State.intBinary_congr fun _ => intMin_eq, State.intBinary_congr fun _ => intMax_eq,
    State.intBinary_congr fun _ => intMinu_eq, State.intBinary_congr fun _ => intMaxu_eq,
    State.intBinary_congr fun _ => mul_eq_ofInt, State.intBinary_congr fun _ => intMulh_eq,
    State.intBinary_congr fun _ => intMulhu_eq, State.intBinary_congr fun _ => intDiv_eq,
    State.intBinary_congr fun _ => intDivu_eq, State.intBinary_congr fun _ => intRem_eq,
    State.intBinary_congr fun _ => intRemu_eq⟩

theorem exec_integerUnary : ∀ p ∈ integerUnaries, ∀ (s : State) (g : Guard) (d a : Reg),
    exec (p.instr g d a) s = .next (s.intUnary p.result g d a) := by
  simp only [integerUnaries, List.forall_mem_cons, List.not_mem_nil, false_implies, implies_true, and_true]
  exact ⟨State.intUnary_congr fun _ => intPopc_eq, State.intUnary_congr fun _ => intClz_eq,
    State.intUnary_congr fun _ => intCtz_eq⟩

theorem imm12_eq (e : Nat) (imm : Fin 4096) : imm12 e imm = (BitVec.ofNat 12 imm.val).signExtend e :=
  ofInt_sext e imm.isLt (by decide)

theorem exec_integerImmediate (imm : Fin 4096) (amt : Fin 64) : ∀ p ∈ integerImmediates imm amt,
    ∀ (s : State) (g : Guard) (d a : Reg), exec (p.instr g d a) s = .next (s.intUnary p.result g d a) := by
  simp only [integerImmediates, List.forall_mem_cons, List.not_mem_nil, false_implies, implies_true, and_true, ← imm12_eq]
  exact ⟨fun _ _ _ _ => rfl, fun _ _ _ _ => rfl, fun _ _ _ _ => rfl, fun _ _ _ _ => rfl, fun _ _ _ _ => rfl,
    fun _ _ _ _ => rfl, fun _ _ _ _ => rfl⟩

theorem exec_integerOfOne (imm : Fin 4096) (amt : Fin 64) : ∀ p ∈ integerUnaries ++ integerImmediates imm amt,
    ∀ (s : State) (g : Guard) (d a : Reg), exec (p.instr g d a) s = .next (s.intUnary p.result g d a) :=
  List.forall_mem_append.2 ⟨exec_integerUnary, exec_integerImmediate imm amt⟩

/-! ### In the CT -/

theorem State.intBinary_ct (h : CtRuns s id vt g [a, b] []) (f : (e : Nat) → BitVec e → BitVec e → BitVec e) :
    s.intBinary f g d a b = s.setVt id (vt.writeX d (f 64 (vt.readX a) (vt.readX b))).retire := State.shared_ct h _ _

theorem State.intUnary_ct (h : CtRuns s id vt g [a] []) (f : (e : Nat) → BitVec e → BitVec e) :
    s.intUnary f g d a = s.setVt id (vt.writeX d (f 64 (vt.readX a))).retire := State.shared_ct h _ _

theorem scalarRegisterResults : Claim.ScalarRegisterResults := by
  intro s id vt g d a b runs p hp
  rw [CtDone, exec_integerBinary p hp, State.intBinary_ct runs]

/-- The immediate of `lui` and `auipc` in 64 bits. -/
theorem imm17Upper_eq (up : Fin 131072) : imm17Upper 64 up = (BitVec.ofNat 17 up.val).signExtend 64 <<< 12 := by
  rw [imm17Upper, BitVec.ofInt_mul, ofInt_sext 64 up.isLt (by decide), BitVec.shiftLeft_eq_mul_twoPow]
  rfl

theorem scalarUnaryResults : Claim.ScalarUnaryResults := by
  intro s id vt g d a imm amt up
  refine ⟨fun runs p hp => ?_, fun runs => ⟨?_, ?_⟩⟩
  · rw [CtDone, exec_integerOfOne imm amt p hp, State.intUnary_ct runs]
  · exact congrArg _ ((State.shared_ct runs _ _).trans (by rw [imm17Upper_eq]))
  · exact congrArg _ ((State.ctRegs_runs runs _).trans (by rw [imm17Upper_eq]))

/-! ### In a VP -/

/-- A shared instruction on a VP whose operands can be read and whose result can be written completes; else nothing happens. -/
theorem State.shared_vpDone {rs : List Reg} {ps : List (Fin 8)} {e : Instr} {ct : VT → VT} {vp : VpEnv → VP → Option VP}
    (he : exec e s = .next (s.shared g rs ps ct vp)) (h : VpRuns s id vt i r g (wholeRegs rs) ps) :
    (∀ v, vp (vt.env r i) vt.vps[i] = some v → VpDone e s id vt i r v 0)
      ∧ (vp (vt.env r i) vt.vps[i] = none → exec e s = .next s) := by
  rw [State.shared_vp h] at he
  exact ⟨fun v hv => by rw [VpDone, he, hv], fun hv => by rw [he, hv]⟩

/-- A VP-only instruction on registers that raises no flags. -/
theorem State.vpRegs_vpDone {rs : List Reg} {ps : List (Fin 8)} {e : Instr} {f : VpEnv → Run → VP → Option VP}
    (he : exec e s = .next (s.vpRegs g rs ps fun x y v => (f x y v).map fun v => (v, 0)))
    (h : VpRuns s id vt i r g (wholeRegs rs) ps) :
    (∀ v, f (vt.env r i) r vt.vps[i] = some v → VpDone e s id vt i r v 0)
      ∧ (f (vt.env r i) r vt.vps[i] = none → exec e s = .next s) := by
  rw [State.vpRegs_runs h] at he
  exact ⟨fun v hv => by rw [VpDone, he, hv]; rfl, fun hv => by rw [he, hv]; rfl⟩

theorem exec_saturatingBinary (signed : Bool) : ∀ p ∈ saturatingBinaries signed, ∀ (s : State) (g : Guard) (d a b : Reg),
    ∃ f : VpEnv → (e : Nat) → BitVec e → BitVec e → BitVec e, (∀ v e, itSigned v.it = signed → f v e = p.result e)
      ∧ exec (p.instr g d a b) s = .next (s.vpIntBinary f g d a b) := by
  simp only [saturatingBinaries, List.forall_mem_cons, List.not_mem_nil, false_implies, implies_true, and_true]
  exact ⟨fun _ _ _ _ _ => ⟨_, fun _ _ _ => funext₂ fun _ _ => satS_eq _, rfl⟩,
    fun _ _ _ _ _ => ⟨_, fun _ _ _ => funext₂ fun _ _ => satS_eq _, rfl⟩,
    fun _ _ _ _ _ => ⟨_, fun _ _ _ => funext₂ intAddsu_eq, rfl⟩, fun _ _ _ _ _ => ⟨_, fun _ _ _ => funext₂ intSubsu_eq, rfl⟩,
    fun _ _ _ _ _ => ⟨_, fun _ _ _ => funext₂ intAvg_eq, rfl⟩, fun _ _ _ _ _ => ⟨_, fun _ _ _ => funext₂ intAvgu_eq, rfl⟩,
    fun _ _ _ _ _ => ⟨_, fun _ _ h => funext₂ fun x y => h ▸ intAbsd_eq _ x y, rfl⟩⟩

theorem vpRegisterResults : Claim.VpRegisterResults := by
  intro s id vt i r g d a b runs e
  refine List.forall_mem_append.2 ⟨fun p hp => State.shared_vpDone (exec_integerBinary p hp s g d a b) runs, fun p hp => ?_⟩
  obtain ⟨f, hf, he⟩ := exec_saturatingBinary _ p hp s g d a b
  have done := State.vpRegs_vpDone he runs
  rw [hf _ _ rfl] at done
  exact done

theorem vpUnaryResults : Claim.VpUnaryResults := by
  intro s id vt i r g d a imm amt up e
  refine ⟨fun runs => List.forall_mem_append.2 ⟨fun p hp => State.shared_vpDone (exec_integerOfOne imm amt p hp s g d a) runs, ?_⟩,
    fun runs vp written => ?_⟩
  · have done := State.vpRegs_vpDone (f := fun e _ vp => vp.unary e.w e.eInt e.nInt (predBit (vp.guardOf g)) d a intAbs)
      (e := .abs g d a) rfl runs
    rw [funext intAbs_eq] at done
    exact List.forall_mem_singleton.2 done
  · refine (State.shared_vpDone (rs := []) rfl runs).1 vp ?_
    rw [toInt_ofNat up.isLt (by decide)] at written
    exact written

/-- Settles O3: the operations of two sources, by the list of them, in the CT and in a VP. -/
theorem integerRegisterResults : Obligations.IntegerRegisterResults := ⟨scalarRegisterResults, vpRegisterResults⟩

/-- Settles O4: the operations of one source, by the list of them, in the CT and in a VP. -/
theorem integerUnaryResults : Obligations.IntegerUnaryResults := ⟨scalarUnaryResults, vpUnaryResults⟩

end Sys2Proof.Machine
end

section
/-! PROOF. O5: the bits that a write of elements sets (R116, R158, R200), in a register and in an entry of the store queue. -/

set_option Elab.async false

namespace Sys2Proof

/-! ### Elements side by side -/

theorem packElems_lt {e : Nat} (xs : List (BitVec e)) : packElems xs < 2 ^ (e * xs.length) := by
  induction xs with
  | nil => simp [packElems]
  | cons x xs ih =>
    rw [packElems, List.length_cons, Nat.mul_succ, Nat.add_comm (e * _), pow_add]
    calc
      x.toNat + 2 ^ e * packElems xs < 2 ^ e + 2 ^ e * packElems xs := Nat.add_lt_add_right x.isLt _
      _ = 2 ^ e * (packElems xs + 1) := by ring
      _ ≤ 2 ^ e * 2 ^ (e * xs.length) := Nat.mul_le_mul_left _ ih

/-- Bit j of element k. -/
theorem testBit_packElems {e j : Nat} (hj : j < e) (xs : List (BitVec e)) (k : Nat) :
    (packElems xs).testBit (e * k + j) = (xs[k]?.getD 0).getLsbD j := by
  induction xs generalizing k with
  | nil => simp [packElems]
  | cons x xs ih =>
    rw [packElems, Nat.add_comm x.toNat, Nat.testBit_two_pow_mul_add _ x.isLt]
    cases k with
    | zero => simp [hj, BitVec.getLsbD]
    | succ k =>
      rw [if_neg (by rw [Nat.mul_succ]; omega), show e * (k + 1) + j - e = e * k + j by rw [Nat.mul_succ]; omega, ih]
      rfl

/-- The lowest bits are those of the elements; every other bit is that of `old`. -/
theorem getLsbD_packElems_over {e w : Nat} (old : BitVec w) (xs : List (BitVec e)) (fits : e * xs.length ≤ w) (p : Nat) :
    (BitVec.ofNat w (packElems xs + 2 ^ (e * xs.length) * (old.toNat / 2 ^ (e * xs.length)))).getLsbD p
      = if p < e * xs.length then (packElems xs).testBit p else old.getLsbD p := by
  rw [BitVec.getLsbD_ofNat, Nat.add_comm (packElems xs), Nat.testBit_two_pow_mul_add _ (packElems_lt xs)]
  split
  · next h => simp [Nat.lt_of_lt_of_le h fits]
  · next h =>
    rw [Nat.testBit_div_two_pow, Nat.sub_add_cancel (not_lt.1 h)]
    by_cases hp : p < w
    · simp [hp, BitVec.getLsbD]
    · simp [hp, BitVec.getLsbD_of_ge old p (not_lt.1 hp)]

/-! ### Registers -/

theorem getLsbD_elem {e j : Nat} (hj : j < e) (v : VReg) (k : Nat) : (elem e v k).getLsbD j = v.getLsbD (e * k + j) := by
  simp [elem, hj]

/-- An element that was written. -/
theorem elem_writeElems {e k : Nat} (old : VReg) (xs : List (BitVec e)) (fits : e * xs.length ≤ 1024) (hk : k < xs.length) :
    elem e (writeElems old xs) k = xs[k] := by
  refine BitVec.eq_of_getLsbD_eq fun j hj => ?_
  have within : e * k + j < e * xs.length :=
    calc
      e * k + j < e * (k + 1) := by rw [Nat.mul_succ]; omega
      _ ≤ e * xs.length := Nat.mul_le_mul_left e hk
  rw [getLsbD_elem hj, writeElems, getLsbD_packElems_over old xs fits, if_pos within, testBit_packElems hj,
    List.getElem?_eq_getElem hk]
  rfl

/-- The bits above the elements that are written. -/
theorem getLsbD_writeElems_above {e p : Nat} (old : VReg) (xs : List (BitVec e)) (fits : e * xs.length ≤ 1024)
    (hp : e * xs.length ≤ p) : (writeElems old xs).getLsbD p = old.getLsbD p := by
  rw [writeElems, getLsbD_packElems_over old xs fits, if_neg (not_lt.2 hp)]

/-! ### Bits -/

/-- A list of single bits. -/
theorem testBit_packElems_bits (f : Nat → Bool) {n k : Nat} (h : k < n) :
    (packElems ((List.range n).map fun k => BitVec.ofBool (f k))).testBit k = f k := by
  have bit := testBit_packElems Nat.zero_lt_one ((List.range n).map fun k => BitVec.ofBool (f k)) k
  rw [Nat.one_mul, Nat.add_zero] at bit
  rw [bit]
  simp [h]

theorem predBit_writePred {n : Nat} (old : Pred) (f : Nat → Bool) (fits : n ≤ 256) (k : Nat) :
    predBit (writePred n old f) k = if k < n then f k else predBit old k := by
  have bits := getLsbD_packElems_over old ((List.range n).map fun k => BitVec.ofBool (f k)) (by simpa using fits) k
  simp only [List.length_map, List.length_range, Nat.one_mul] at bits
  rw [predBit, writePred, bits]
  exact ite_congr rfl (testBit_packElems_bits f) fun _ => rfl

end Sys2Proof

namespace Sys2Proof.Machine

open Sys2Proof

variable {vp vp' : VP} {w e n : Nat} {guard : Nat → Bool} {d : Reg} {f : Nat → BitVec e}

/-- The elements that a write leaves, guarded or not. -/
def framed (old : VReg) (n : Nat) (guard : Nat → Bool) (f : Nat → BitVec e) : List (BitVec e) :=
  (List.range n).map fun k => if guard k then f k else elem e old k

theorem VP.writeFrame_eq : vp.writeFrame w e n guard d f =
    vp.dest d (writeElems (vp.destOld d) (framed (vp.destOld d) n guard f)) (entryMask e n w guard) := rfl

theorem elem_framed {old : VReg} (fits : e * n ≤ 1024) {k : Nat} (hk : k < n) :
    elem e (writeElems old (framed old n guard f)) k = if guard k then f k else elem e old k := by
  rw [elem_writeElems _ _ (by simpa [framed] using fits) (by simpa [framed] using hk)]
  simp [framed]

/-- The mask bits of an element's bytes are its guard (R40). -/
theorem getLsbD_entryMask {b k j : Nat} (hw : w ≤ 128) (size : 8 * b * n = 8 * w) (hk : k < n) (hj : j < b) :
    (entryMask (8 * b) n w guard).getLsbD (b * k + j) = guard k := by
  have within : b * k + j < w :=
    calc
      b * k + j < b * (k + 1) := by rw [Nat.mul_succ]; omega
      _ ≤ b * n := Nat.mul_le_mul_left b hk
      _ = w := by rw [Nat.mul_assoc] at size; omega
  have covers (l : Nat) : (8 * b * l / 8 ≤ b * k + j ∧ b * k + j ≤ (8 * b * l + 8 * b - 1) / 8) ↔ l = k := by
    rw [Nat.mul_assoc]
    refine ⟨fun ⟨low, high⟩ => ?_, fun h => by subst h; omega⟩
    have below : b * l < b * (k + 1) := by rw [Nat.mul_succ]; omega
    have above : b * k < b * (l + 1) := by rw [Nat.mul_succ]; omega
    have := Nat.lt_of_mul_lt_mul_left below
    have := Nat.lt_of_mul_lt_mul_left above
    omega
  rw [entryMask, BitVec.getLsbD_ofNat, testBit_packElems_bits _ within, decide_eq_true (within.trans_le hw), Bool.true_and,
    Bool.eq_iff_iff]
  simp only [List.any_eq_true, List.mem_range, Bool.and_eq_true, decide_eq_true_eq, and_assoc, covers]
  exact ⟨fun ⟨l, _, hl, same⟩ => same ▸ hl, fun h => ⟨k, hk, h, rfl⟩⟩

/-- Settles O5: a write of elements sets the bits of the guarded ones, in the register or in a new entry of the store queue. -/
theorem elementFrame : Obligations.ElementFrame := by
  intro vp vp' w e n guard d f hw he size written
  have narrow : w ≤ 128 := by simp at hw; omega
  have fits : e * n ≤ 1024 := by omega
  rw [VP.writeFrame_eq] at written
  refine ⟨fun hd => ?_, fun hd => ?_⟩
  · rw [VP.dest_register hd, VP.destOld, if_neg hd] at written
    cases written
    simp only [Fin.getElem_fin, Vector.getElem_set_self]
    exact ⟨fun k hk => elem_framed fits hk,
      fun j hj => getLsbD_writeElems_above _ _ (by simpa [framed] using fits) (by simpa [framed, size] using hj), trivial⟩
  · subst hd
    rw [VP.dest_queue] at written
    split at written
    · cases written
      refine ⟨_, _, rfl, fun k hk => ?_, fun k j hk hj => ?_⟩
      · refine (elem_framed fits hk).trans ?_
        simp [VP.destOld, elem]
      · obtain ⟨b, rfl⟩ : ∃ b, e = 8 * b := ⟨e / 8, by simp at he; omega⟩
        rw [Nat.mul_div_cancel_left b (by decide)] at hj ⊢
        exact getLsbD_entryMask narrow size hk hj
    · cases written

end Sys2Proof.Machine
end

section
/-! PROOF. O7 and O8: compares and predicate operations (R162, R163). -/

set_option Elab.async false

namespace Sys2Proof.Machine

open Sys2Proof

variable {s : State} {id : Nat} {vt : VT} {i : Fin 32} {r : Run} {g : Guard} {vp vp' : VP} {x : VReg}

/-! ### What reading a source leaves -/

/-- A source is a register, which changes nothing, or a pop, which shortens the load queue (R40). -/
theorem VP.source_cases {a : Reg} (h : vp.source a = some (x, vp')) :
    (a ≠ 31 ∧ x = vp.v[a] ∧ vp' = vp)
      ∨ a = 31 ∧ ∃ rest, vp.loadQ = .filled x :: rest ∧ vp' = { vp with loadQ := rest } := by
  by_cases ha : a = 31
  · subst ha
    rw [VP.source_queue] at h
    split at h
    · next y rest hq => cases h; exact .inr ⟨rfl, rest, hq, rfl⟩
    · cases h
  · rw [VP.source_register ha] at h
    cases h
    exact .inl ⟨ha, rfl, rfl⟩

theorem VP.source_p {a : Reg} (h : vp.source a = some (x, vp')) : vp'.p = vp.p := by
  obtain ⟨_, _, rfl⟩ | ⟨_, _, _, rfl⟩ := VP.source_cases h <;> rfl

theorem VP.readP_congr (h : vp'.p = vp.p) (q : Fin 8) : vp'.readP q = vp.readP q := by
  rw [VP.readP, VP.readP, h]

theorem VP.guardOf_congr (h : vp'.p = vp.p) (g : Guard) : vp'.guardOf g = vp.guardOf g := by
  rw [VP.guardOf, VP.guardOf, VP.readP_congr h]

/-! ### Compares -/

theorem condHolds_eq {e : Nat} (c : Cond) (x y : BitVec e) : condHolds c x y = condMeans c x y := by
  cases c with
  | eq | ntst => exact beq_eq_decide _ _
  | ne | tst => exact (congrArg not (beq_eq_decide _ _)).trans (decide_not ..).symm
  | lt | le | gt | ge | ltu | leu | gtu | geu => rfl

theorem VT.w_le (vt : VT) : vt.w ≤ 128 := by
  have : vt.wsel.val ≤ 5 := Nat.le_of_lt_succ vt.wsel.isLt
  calc
    vt.w = 4 * 2 ^ vt.wsel.val := rfl
    _ ≤ 4 * 2 ^ 5 := Nat.mul_le_mul_left 4 (Nat.pow_le_pow_right (by decide) this)

theorem VT.env_nInt_le (vt : VT) (r : Run) (i : Fin 32) : (vt.env r i).nInt ≤ 256 := by
  have := vt.w_le
  have : 0 < 2 ^ (vcfgIt r.cap.vcfg / 2) := Nat.two_pow_pos _
  calc
    8 * vt.w / (8 * 2 ^ (vcfgIt r.cap.vcfg / 2)) ≤ 8 * vt.w / 8 := Nat.div_le_div_left (by omega) (by decide)
    _ ≤ 256 := by omega

/-- The new bits of p[PD1] (R162). -/
def VP.compared (vp : VP) (pd1 : Fin 8) (f : Comb) (c : Nat → Bool) (k : Nat) : Bool :=
  combine f (predBit (vp.readP pd1) k) (c k)

section
variable (vp) {n : Nat} {guard : Nat → Bool} {pd1 pd2 : Fin 8} {f : Comb} {c : Nat → Bool}

/-- A compare writes PD1 last, over what it has written to PD2 (R162). -/
theorem VP.writeCompare_eq : vp.writeCompare n guard pd1 pd2 f c =
    let mid := vp.writeP pd2
      (writePred n (vp.readP pd2) fun k => if guard k then !(vp.compared pd1 f c k) else predBit (vp.readP pd2) k)
    mid.writeP pd1
      (writePred n (mid.readP pd1) fun k => if guard k then vp.compared pd1 f c k else predBit (mid.readP pd1) k) := rfl

theorem VP.predBit_writeCompare_fst (hn : n ≤ 256) (h : pd1 ≠ 7) (k : Nat) :
    predBit ((vp.writeCompare n guard pd1 pd2 f c).readP pd1) k
      = if decide (k < n) && guard k then vp.compared pd1 f c k else predBit (vp.readP pd1) k := by
  have unguarded (off : ¬ (k < n ∧ guard k = true)) (u : Nat → Bool) : predBit ((vp.writeP pd2
      (writePred n (vp.readP pd2) fun k => if guard k then u k else predBit (vp.readP pd2) k)).readP pd1) k
        = predBit (vp.readP pd1) k := by
    by_cases same : pd1 = pd2
    · subst same
      rw [VP.readP_writeP_self h, predBit_writePred _ _ hn]
      split
      · next hk => exact if_neg fun hg => off ⟨hk, hg⟩
      · rfl
    · rw [VP.readP_writeP_ne same]
  rw [VP.writeCompare_eq]
  simp only [VP.readP_writeP_self h, predBit_writePred _ _ hn, Bool.and_eq_true, decide_eq_true_eq]
  by_cases on : k < n ∧ guard k = true
  · rw [if_pos on, if_pos on.1, if_pos on.2]
  · rw [if_neg on, unguarded on]
    split
    · next hk => exact if_neg fun hg => on ⟨hk, hg⟩
    · rfl

theorem VP.predBit_writeCompare_snd (hn : n ≤ 256) (h : pd2 ≠ 7) (hne : pd2 ≠ pd1) (k : Nat) :
    predBit ((vp.writeCompare n guard pd1 pd2 f c).readP pd2) k
      = if decide (k < n) && guard k then !(vp.compared pd1 f c k) else predBit (vp.readP pd2) k := by
  rw [VP.writeCompare_eq]
  simp only [VP.readP_writeP_ne hne, VP.readP_writeP_self h, predBit_writePred _ _ hn]
  by_cases hk : k < n <;> simp [hk]

/-- A write of a predicate leaves all else of a VP. -/
theorem VP.writeP_frame (vp : VP) (d : Fin 8) (u : Pred) :
    ∃ p, vp.writeP d u = { vp with p } ∧ ∀ q : Fin 8, q ≠ d → p[q] = vp.p[q] := by
  rw [VP.writeP]
  split
  · exact ⟨vp.p, rfl, fun _ _ => rfl⟩
  · exact ⟨_, rfl, fun q hq => registerFile_set_ne _ hq _⟩

theorem VP.writeCompare_frame : ∃ p, vp.writeCompare n guard pd1 pd2 f c = { vp with p }
    ∧ ∀ q : Fin 8, q ≠ pd1 → q ≠ pd2 → p[q] = vp.p[q] := by
  rw [VP.writeCompare_eq]
  obtain ⟨p, eq, kept⟩ := vp.writeP_frame pd2 _
  rw [eq]
  obtain ⟨p', eq', kept'⟩ := VP.writeP_frame { vp with p } pd1 _
  exact ⟨p', eq', fun q h1 h2 => (kept' q h1).trans (kept q h2)⟩

end

theorem scalarCompareResults : Claim.ScalarCompareResults := by
  intro s id vt g pd1 pd2 c a b f imm new
  have combined (f : Comb) (t : Bool) : combine f (vt.readP pd1) t = new f t := by cases f <;> rfl
  refine ⟨fun runs => ?_, fun runs => ?_⟩
  · refine congrArg _ ((State.shared_ct runs _ _).trans ?_)
    rw [VT.writeCompare, combined, condHolds_eq]
  · refine congrArg _ ((State.shared_ct runs _ _).trans ?_)
    rw [VT.writeCompare, combined, condHolds_eq, word64, ofInt_sext 64 imm.isLt (by decide)]

theorem vpCompareResults : Claim.VpCompareResults := by
  intro s id vt i r g pd1 pd2 c a b f imm x y vp1 vp2 ha e vp wrote kept
  have written {from' : VP} (preds : from'.p = vp.p) (f : Comb) (cond : Nat → Bool) :
      kept from' (from'.compare e.nInt g pd1 pd2 f cond) ∧ wrote cond f (from'.compare e.nInt g pd1 pd2 f cond) := by
    have narrow : e.nInt ≤ 256 := vt.env_nInt_le r i
    rw [VP.compare, VP.guardOf_congr preds]
    obtain ⟨p, eq, others⟩ := from'.writeCompare_frame (n := e.nInt) (guard := vt.bits i g) (pd1 := pd1) (pd2 := pd2) (f := f)
      (c := cond)
    refine ⟨⟨p, eq, fun q h1 h2 => by rw [others q h1 h2, preds]⟩, fun k _ => ?_⟩
    have fst (h : pd1 ≠ 7) := from'.predBit_writeCompare_fst (guard := vt.bits i g) (pd2 := pd2) (f := f) (c := cond) narrow h k
    have snd (h : pd2 ≠ 7) (hne : pd2 ≠ pd1) := from'.predBit_writeCompare_snd (guard := vt.bits i g) (f := f) (c := cond)
      narrow h hne k
    simp only [VP.compared, VP.readP_congr preds] at fst snd
    cases f <;> exact ⟨fst, snd⟩
  refine ⟨fun runs hb => ?_, fun runs => ?_⟩
  · obtain ⟨keeps, writes⟩ := written ((VP.source_p hb).trans (VP.source_p ha)) f
      fun k => condMeans c (elem e.eInt x k) (elem e.eInt y k)
    refine ⟨_, (State.shared_vpDone rfl runs).1 _ ?_, keeps, writes⟩
    simp only [ha, hb, condHolds_eq]
    rfl
  · obtain ⟨keeps, writes⟩ := written (VP.source_p ha) .plain
      fun k => condMeans c (elem e.eInt x k) ((BitVec.ofNat 7 imm.val).signExtend e.eInt)
    refine ⟨_, (State.shared_vpDone rfl runs).1 _ ?_, keeps, writes⟩
    simp only [ha, condHolds_eq, ofInt_sext (n := 7) _ imm.isLt (by decide)]
    rfl

/-- Settles O7: the condition is that of the words, and PD1 is written over PD2. -/
theorem compareResults : Obligations.CompareResults := ⟨scalarCompareResults, vpCompareResults⟩

/-! ### Predicate operations -/

theorem scalarPredicateResults : Claim.ScalarPredicateResults := by
  intro s id vt g d a b x y
  exact ⟨fun runs => ⟨congrArg _ (State.shared_ct runs _ _), congrArg _ (State.shared_ct runs _ _),
      congrArg _ (State.shared_ct runs _ _), congrArg _ (State.shared_ct runs _ _)⟩,
    fun runs => congrArg _ (State.shared_ct runs _ _), fun runs => congrArg _ (State.shared_ct runs _ _)⟩

theorem VP.writeWhole_register {d : Reg} (h : d ≠ 31) (w : Nat) (on : Bool) (value : VReg) :
    vp.writeWhole w on d value = some (if on then { vp with v := vp.v.set d value } else vp) := by
  rw [VP.writeWhole, if_neg h, VP.dest_register h]
  cases on <;> rfl

/-- A push of a whole register carries its guard in every mask bit (R40). -/
theorem VP.writeWhole_queue (room : vp.storeQ.length < 8) (w : Nat) (on : Bool) (value : VReg) :
    vp.writeWhole w on 31 value = some { vp with
      storeQ := vp.storeQ ++ [if on then { data := value, mask := lowOnes 128 w } else { data := 0, mask := 0 }] } := by
  rw [VP.writeWhole, if_pos rfl, VP.dest_queue, if_pos room]
  cases on <;> rfl

theorem vpPredicateResults : Claim.VpPredicateResults := by
  intro s id vt i r g d a b x y u vp1 vp low p q on wrote
  refine ⟨fun runs => ?_, fun runs => ⟨fun hx => ?_, fun hx room => ?_⟩, fun runs hy => ?_⟩
  · have done {e : Instr} {ct : VT → VT} {vp' : VpEnv → VP → Option VP} (he : exec e s = .next (s.shared g [] [a, b] ct vp')) :=
      (State.shared_vpDone (rs := []) he runs).1
    exact ⟨done rfl _ rfl, done rfl _ rfl, done rfl _ rfl, done rfl _ rfl⟩
  · exact (State.shared_vpDone (rs := []) rfl runs).1 _ (VP.writeWhole_register hx _ _ _)
  · subst hx
    exact (State.shared_vpDone (rs := []) rfl runs).1 _ (VP.writeWhole_queue room _ _ _)
  · have read : vt.vps[i].source y = some (u, vp1) := hy
    refine (State.shared_vpDone rfl runs).1 _ ?_
    simp only [read, VP.guardOf_congr (VP.source_p read)]
    rfl

/-- Settles O8: one bit in the CT; in a VP all bits under bit 0 of the guard. -/
theorem predicateResults : Obligations.PredicateResults := ⟨scalarPredicateResults, vpPredicateResults⟩

end Sys2Proof.Machine
end

section
/-! PROOF. O9 to O12 and O15: `State.synced` allows two entries of L2 for one line. Where one is dirty and the others are clean, an
access that evicts a clean one reverts the line to what the dirty one says that storage holds (R94): a byte beyond the access
changes, be it a load, a store, an atomic, or the walk of an `icinv`. -/

set_option Elab.async false

namespace Sys2Proof.Machine

open Sys2Proof

namespace Crowded

/-- What `Passes` asks of an access of `n` bytes at 0x100 by VT 0, as a test, with the location that it finds. -/
def passesAs (s : State) (k : AccessKind) (n : Nat) : Bool :=
  (match s.gated 0 0 0x100 n k .normal with
    | .ok t => t == s
    | .error _ => false)
  && match s.access 0 0 0x100 k with
    | .ok t u => !((linesOf t.loc n).any fun l => u.unreachable (l * 64))
        && !(u.linkWaits (cachingOf t.leaf t.loc .normal) k t.loc n) && t.loc == fetchLoc + 0x100
    | _ => false

theorem passes_of {s : State} {v : VT} {k : AccessKind} {n : Nat} (h : passesAs s k n = true) (core : v.core = 0)
    (domain : v.domain = 0) (clean : s.poison = []) (empty : (s.core 0).l1 = [] ∧ (s.core 0).pend = []) (synced : s.synced) :
    ∃ t u, Passes s u v 0x100 n k t ∧ t.loc = fetchLoc + 0x100 := by
  unfold passesAs at h
  obtain ⟨taken, found⟩ := Bool.and_eq_true_iff.1 h
  split at found
  · next t u translated =>
    simp only [Bool.and_eq_true, Bool.not_eq_true', beq_iff_eq] at found
    obtain ⟨⟨reached, link⟩, loc⟩ := found
    refine ⟨t, u, ⟨?_, by rw [core, domain]; exact translated, reached, link, clean, ?_, synced, .inr ?_⟩, loc⟩
    · rw [core, domain]
      split at taken
      · next g gated => exact gated.trans (congrArg _ (eq_of_beq taken))
      · cases taken
    · rw [core, empty.1]; exact fun _ h => absurd h List.not_mem_nil
    · rw [core, empty.2]; exact fun _ h => absurd h List.not_mem_nil
  · cases found

/-- The instruction takes a byte at a location from 0 to 5. -/
def changes (e : Instr) (s : State) (loc : Nat) : Bool :=
  s.byteAt loc == 0 && match exec e s with
    | .next u => u.byteAt loc == 5
    | _ => false

theorem changes_byteAt {e : Instr} {s u : State} {loc : Nat} (h : changes e s loc = true) (executed : exec e s = .next u) :
    u.byteAt loc ≠ s.byteAt loc := by
  simp only [changes, executed, Bool.and_eq_true, beq_iff_eq] at h
  rw [h.1, h.2]
  decide

theorem byteAt_line_above {loc n : Nat} (h : loc = fetchLoc + 0x100) (hn : n ≤ 8) : loc + n ≤ line * 64 := by
  have : fetchLoc + 0x100 + 8 ≤ line * 64 := by decide
  omega

/-- The guard that is always 1. -/
def always : Guard := { p := 7, neg := false }

theorem ctRuns_both : CtRuns state 0 vt always [1, 2] [] :=
  ⟨rfl, rfl, by decide +kernel, by decide +kernel, by decide +kernel⟩

theorem state_empty : (state.core 0).l1 = [] ∧ (state.core 0).pend = [] := by decide +kernel

theorem state_synced : state.synced := by
  unfold State.synced
  decide +kernel

theorem state_passes {k : AccessKind} {n : Nat} (h : passesAs state k n = true) :
    ∃ t u, Passes state u vt 0x100 n k t ∧ t.loc = fetchLoc + 0x100 :=
  passes_of h rfl rfl (by decide +kernel) state_empty state_synced

/-- The address that x1 and an offset of 0 give. -/
theorem offset_zero : (vt.readX 1 + (BitVec.ofNat 12 (0 : Fin 4096).val).signExtend 64).toNat = 0x100 := by decide +kernel

theorem readX_one : (vt.readX 1).toNat = 0x100 := by decide +kernel

/-- A VP at an instruction of a block, with segment 0 in global space from 0x100 on. -/
def run : Run := { fetchRun 0 with cap := { vcfg := fetchVt.vcfg, seg := #v[0x100, 0, 0, 0] } }
def vpVt : VT := { fetchVt with vps := fetchVt.vps.set 0 { run := some run } }
def vpState : State := { state with who := .vp 0 0, vts := [(0, vpVt)] }

/-- The VP itself: its registers are 0. -/
def vp : VP := { run := some run }

theorem vp_source : vpVt.vps[(0 : Fin 32)].source 1 = some (0, vp) ∧ vp.source 2 = some (0, vp) := by decide +kernel

theorem vp_space : (run.cap.seg[(0 : Fin 4)] >>> 62).toNat = 0 := by decide +kernel

/-- The address of an atomic there. -/
theorem vp_address : (if (run.cap.seg[(0 : Fin 4)] >>> 62).toNat = 0
      then ((run.cap.seg[(0 : Fin 4)] &&& 0xFFFFFFFFFFFF).toNat + (elem 32 0 0).toNat) % 2 ^ 64
      else (run.cap.seg[(0 : Fin 4)] &&& 0xFFFFFFFFFFFF).toNat + (elem 32 0 0).toNat) = 0x100 := by decide +kernel

theorem vpRuns : VpRuns vpState 0 vpVt 0 run always [(1, 4), (2, 4)] [] :=
  ⟨rfl, rfl, by decide +kernel, by decide +kernel, by decide +kernel⟩

theorem vpState_passes : ∃ t u, Passes vpState u vpVt 0x100 4 .atomic t ∧ t.loc = fetchLoc + 0x100 :=
  passes_of (by decide +kernel) rfl rfl (by decide +kernel) (by decide +kernel) state_synced

/-- A line in the L2 set of the first entry of the root table of domain 0, which a walk reads. -/
def walkLine : Nat := 0x80200000 / 64

/-- The set of `walkLine` is full of entries for that one line. -/
def walkState : State :=
  { state with l2 := { clean with line := walkLine, dirty := true, old := some 5 } ::
                     List.replicate 15 { clean with line := walkLine } }

theorem walk_ctRuns : CtRuns walkState 0 vt always [1] [] :=
  ⟨rfl, rfl, by decide +kernel, by decide +kernel, by decide +kernel⟩

theorem walkState_synced : walkState.synced := by
  unfold State.synced
  decide +kernel

/-- The slices take the requests of the walk, and it finds a page. -/
theorem walkState_translates : (match walkState.gate (.agent walkState.who) (walkState.missSlices 0 0 0x100) with
      | .ok t => t == walkState
      | .error _ => false) = true
    ∧ (match walkState.translateAt 0 0 0x100 with
      | .ok _ _ => true
      | _ => false) = true := by
  decide +kernel

end Crowded

open Crowded

/-- Refutes O9: an `ldd` that evicts the clean entry changes a byte of storage. -/
theorem not_scalarLoads : ¬ Obligations.ScalarLoads := by
  intro claim
  obtain ⟨t, s', passes, -⟩ := state_passes (k := .load) (n := 8) (by decide +kernel)
  obtain ⟨u, executed, same, -⟩ := claim state s' 0 vt always 5 1 0 t (.ldd, 8, true) (by simp [scalarLoads]) Crowded.ctRuns
    (by rw [offset_zero]; rfl) (by rw [offset_zero]; exact passes)
  have unchanged : u.byteAt (line * 64) = state.byteAt (line * 64) := by rw [same]; rfl
  exact changes_byteAt (e := .ldd always 5 1 0) (by decide +kernel) executed unchanged

/-- Refutes O10: an `std` that evicts the clean entry changes a byte beyond those that it stores. -/
theorem not_scalarStores : ¬ Obligations.ScalarStores := by
  intro claim
  obtain ⟨t, s', passes, loc⟩ := state_passes (k := .store) (n := 8) (by decide +kernel)
  obtain ⟨u, executed, ⟨-, -, unchanged⟩, -⟩ := (claim state s' 0 vt always 1 2 0 t (.std, 8) (by simp [scalarStores])
    ctRuns_both (by rw [offset_zero]; rfl) (by rw [offset_zero]; exact passes) (by decide +kernel)).1 (.inl rfl)
  exact changes_byteAt (e := .std always 1 2 0) (by decide +kernel) executed
    (unchanged _ (.inr (byteAt_line_above loc (le_refl 8))))

/-- Refutes O11: an atomic that evicts the clean entry changes a byte beyond its own. -/
theorem not_scalarAtomics : ¬ Obligations.ScalarAtomics := by
  intro claim
  obtain ⟨t, s', passes, loc⟩ := state_passes (k := .atomic) (n := 4) (by decide +kernel)
  obtain ⟨u, executed, ⟨-, -, unchanged⟩, -⟩ := claim state s' 0 vt always 5 1 2 .rlx 0 t
    ⟨.amowSwap, 4, false, fun _ _ b _ => some b⟩ (by simp [atomicOps]) ctRuns_both (by rw [readX_one]; rfl)
    (by rw [readX_one]; exact passes) (by decide +kernel)
  exact changes_byteAt (e := .amowSwap always 5 1 2 .rlx 0) (by decide +kernel) executed
    (unchanged _ (.inr (byteAt_line_above loc (by decide))))

/-- Refutes O12: so does an atomic of a VP. -/
theorem not_vpAtomics : ¬ Obligations.VpAtomics := by
  intro claim
  obtain ⟨t, s', passes, loc⟩ := vpState_passes
  obtain ⟨-, acts⟩ := claim vpState s' 0 vpVt 0 run always 3 1 2 .rlx 0 vp vp vp 0 0 0 t fetchGang
    ⟨.amowSwap, 4, false, fun _ _ b _ => some b⟩ (by simp [atomicOps]) vpRuns (by decide +kernel) vp_source.1 vp_source.2 rfl
    nofun
  obtain ⟨u, -, executed, ⟨-, -, unchanged⟩, -⟩ := (acts (by decide +kernel) rfl (by rw [vp_address]; rfl)
    (by decide +kernel)).1 vp_space (by rw [vp_address]; exact passes)
  exact changes_byteAt (e := .amowSwap always 3 1 2 .rlx 0) (by decide +kernel) executed
    (unchanged _ (.inr (byteAt_line_above loc (by decide))))

/-- The walk of an `icinv` changes a byte of storage. -/
theorem not_trapAndIcinv : ¬ Claim.TrapAndIcinv := by
  intro claim
  obtain ⟨taken, found⟩ := walkState_translates
  rw [← readX_one] at taken found
  split at found
  · next t s' translated =>
    obtain ⟨u, executed, ⟨same, -⟩, -⟩ := (claim walkState s' 0 vt always 0 1 t).2 walk_ctRuns (by decide +kernel)
      walkState_synced (.inr (by
        split at taken
        · next g gated => exact gated.trans (congrArg _ (eq_of_beq taken))
        · cases taken)) translated
    have unchanged : u.byteAt (walkLine * 64) = walkState.byteAt (walkLine * 64) := by rw [same]; rfl
    exact changes_byteAt (e := .icinv always 1) (by decide +kernel) executed unchanged
  · cases found

/-- Refutes O15: the walk for the address of an `icinv` evicts the clean entry. -/
theorem not_controlResults : ¬ Obligations.ControlResults := fun h => not_trapAndIcinv h.2.1

end Sys2Proof.Machine
end

section
/-! PROOF. O42: wakes by a monitor and by a timeout, ageing, and the stored record that a wake rewrites (R52, R66, R175, R236, R237). -/

set_option Elab.async false

namespace Sys2Proof.Machine

open Sys2Proof

variable {s : State} {id : Nat} {vt : VT}

/-! ### Wakes -/

/-- A VT whose instruction has no fault held wakes with its result. -/
theorem VT.awake_eq (hv : vt.violation = none) (hd : vt.detected = []) (now : Nat) (f : VT → VT) : vt.awake now f =
    { f vt with park := none, st := if vt.resident then .ready else .readyOut, readyAt := now, aged := false } := by
  have woken : vt.woken f = f vt := by
    unfold VT.woken
    split <;> simp [hd]
  simp [VT.awake, hv, woken]

theorem State.wake_eq (there : s.vt? id = some vt) (hv : vt.violation = none) (hd : vt.detected = []) (f : VT → VT) :
    s.wake id f =
      let w : VT := { f vt with
        park := none, st := if vt.resident then .ready else .readyOut, readyAt := s.vtNow vt, aged := false }
      (if vt.resident then s else s.rewriteRecord w).setVt id w := by
  simp only [State.wake, there, VT.awake_eq hv hd]

/-- A wake that acquires empties the L1 of the VT's core, where it has one (R110). -/
theorem State.wakeAcquire_eq (there : s.vt? id = some vt) (hv : vt.violation = none) (hd : vt.detected = []) (f : VT → VT) :
    s.wakeAcquire id f =
      let w : VT := { f vt with
        park := none, st := if vt.resident then .ready else .readyOut, readyAt := s.vtNow vt, aged := false }
      (if vt.resident then s.setCore vt.core { s.core vt.core with l1 := [] } else s.rewriteRecord w).setVt id w := by
  have now : (s.acquire vt).vtNow vt = s.vtNow vt := by
    simp only [State.vtNow, State.coreCycle, State.acquire, State.l1Invalidate, State.core_setCore_self]
  simp only [State.wakeAcquire, there]
  split
  · next resident =>
    rw [State.wake_eq (s := s.acquire vt) there hv hd, now]
    simp only [resident, if_true]
    rfl
  · next away =>
    rw [State.wake_eq there hv hd]
    simp only [away, Bool.false_eq_true, if_false]

theorem State.settleKill_of_not_killed (there : s.vt? id = some vt) (h : vt.killed = false) : s.settleKill id = s := by
  simp only [State.settleKill, there, h, Bool.false_and, Bool.false_eq_true, if_false]

/-! ### The stored record -/

/-- The registers x1 to x31 in a record (R66). -/
def VT.recordRegs (vt : VT) : List Byte := (vt.x.toList.drop 1).flatMap fun v => leBytes 8 v.toNat

theorem length_flatMap_leBytes (l : List Word64) : (l.flatMap fun v => leBytes 8 v.toNat).length = 8 * l.length := by
  simp [length_leBytes, Nat.mul_comm]

theorem take_drop_flatMap_leBytes (l : List Word64) {k : Nat} (h : k < l.length) :
    ((l.flatMap fun v => leBytes 8 v.toNat).drop (8 * k)).take 8 = leBytes 8 l[k].toNat := by
  induction l generalizing k with
  | nil => cases h
  | cons x l ih =>
    have full := length_leBytes 8 x.toNat
    cases k with
    | zero => rw [List.flatMap_cons]; exact List.take_left' full
    | succ k =>
      rw [List.flatMap_cons, show 8 * (k + 1) = 8 + 8 * k by ring, ← List.drop_drop, List.drop_left' full]
      exact ih (Nat.lt_of_succ_lt_succ h)

theorem VT.length_recordRegs (vt : VT) : vt.recordRegs.length = 0xF8 := by
  rw [VT.recordRegs, length_flatMap_leBytes]
  simp

theorem State.rewriteRecord_eq {c : Nat × Nat} (hc : vt.ctx = some c) : s.rewriteRecord vt =
    { s with mem := Memory.writeBytes (Memory.writeBytes s.mem (c.1 + 0x06) (leBytes 1 (if vt.st = .readyOut then 2 else 3)))
               (c.1 + 0x40) (leBytes 8 vt.pc.toNat ++ vt.recordRegs) } := by
  simp only [State.rewriteRecord, hc, VT.recordRegs]

/-- A part of the bytes written is read back. -/
theorem readBytes_writeBytes_part {m : List Host.Cell} (hm : Memory.wf m = true) (a : Nat) {bs : List Byte} {k n : Nat}
    (h : k + n ≤ bs.length) : Memory.readBytes (Memory.writeBytes m a bs) (a + k) n = (bs.drop k).take n := by
  refine List.ext_getElem? fun j => ?_
  rw [Memory.getElem?_readBytes, List.getElem?_take, List.getElem?_drop]
  split
  · rw [Memory.read_writeBytes _ _ _ hm, if_pos (by omega), show a + k + j - a = k + j by omega,
      List.getElem?_eq_getElem (by omega)]
    rfl
  · rfl

/-- Register x[k], k > 0, in a record. -/
theorem VT.take_drop_recordRegs {k : Reg} (hk : k ≠ 0) :
    (vt.recordRegs.drop (8 * (k.val - 1))).take 8 = leBytes 8 (vt.readX k).toNat := by
  have pos : k.val ≠ 0 := fun h => hk (Fin.ext h)
  have within : k.val - 1 < (vt.x.toList.drop 1).length := by simp; omega
  rw [VT.recordRegs, take_drop_flatMap_leBytes _ within, VT.readX, if_neg hk]
  congr 2
  simp [show k.val - 1 + 1 = k.val by omega]

/-- The stored record after a wake: its state, its PC and its registers are rewritten, and no other byte (R66). -/
theorem State.rewriteRecord_bytes {c : Nat × Nat} (hc : vt.ctx = some c) (wf : s.wf = true) :
    let u := s.rewriteRecord vt
    u = { s with mem := u.mem } ∧ u.byteAt (c.1 + 0x06) = (if vt.st = .readyOut then 2 else 3)
    ∧ Memory.readBytes u.mem (c.1 + 0x40) 8 = leBytes 8 vt.pc.toNat
    ∧ (∀ k : Reg, k ≠ 0 → Memory.readBytes u.mem (c.1 + 0x40 + 8 * k.val) 8 = leBytes 8 (vt.readX k).toNat)
    ∧ ∀ a, a ≠ c.1 + 0x06 → (a < c.1 + 0x40 ∨ c.1 + 0x140 ≤ a) → u.byteAt a = s.byteAt a := by
  have wf0 : Memory.wf s.mem = true := by
    simp only [State.wf, Bool.and_eq_true] at wf
    exact wf.1.1
  have wf1 := Memory.wf_writeBytes (c.1 + 0x06) (leBytes 1 (if vt.st = .readyOut then 2 else 3)) wf0
  have hpc := length_leBytes 8 vt.pc.toNat
  have hregs := VT.length_recordRegs vt
  have len : (leBytes 8 vt.pc.toNat ++ vt.recordRegs).length = 0x100 := by rw [List.length_append, hpc, hregs]
  simp only [State.rewriteRecord_eq hc, State.byteAt]
  refine ⟨trivial, ?_, ?_, fun k hk => ?_, fun a state rest => ?_⟩
  · rw [Memory.read_writeBytes_outside wf1 (Or.inl (by omega)), Memory.read_writeBytes _ _ _ wf0, if_pos (Nat.le_refl _),
      Nat.sub_self]
    split <;> rfl
  · have pc := readBytes_writeBytes_part wf1 (c.1 + 0x40) (k := 0) (n := 8) (bs := leBytes 8 vt.pc.toNat ++ vt.recordRegs) (by omega)
    rwa [List.drop_zero, List.take_left' hpc] at pc
  · have pos : k.val ≠ 0 := fun h => hk (Fin.ext h)
    rw [readBytes_writeBytes_part wf1 _ (by omega), show 8 * k.val = 8 + 8 * (k.val - 1) by omega, ← List.drop_drop,
      List.drop_left' hpc, VT.take_drop_recordRegs hk]
  · rw [Memory.read_writeBytes_outside wf1 (by omega),
      Memory.read_writeBytes_outside wf0 (by rw [length_leBytes]; omega)]

/-- Settles O42: a wake writes its result and makes the VT ready, in its frame or in its stored record; ageing marks it. -/
theorem wakesAndAgeing : Obligations.WakesAndAgeing := by
  unfold Obligations.WakesAndAgeing
  intro s id vt there alive hv hd
  have settled (u : State) (w : VT) (h : w.killed = false) : (u.setVt id w).settleKill id = u.setVt id w :=
    State.settleKill_of_not_killed (State.vt?_setVt_self ..) h
  refine ⟨?monitor, ?timeout, ?ageing, fun c hc wf => State.rewriteRecord_bytes hc wf⟩
  case monitor =>
    intro a l past w c y d v pc parked uncut
    have wakes : exec (.monitorWake id) s = .next ((s.wakeAcquire id fun w => w.writeX d v).settleKill id) := by
      simp only [exec, execMonitorWake, there, parked, uncut, Bool.false_eq_true, if_false]
    rw [wakes, State.wakeAcquire_eq there hv hd, settled _ _ (by simpa using alive)]
  case timeout =>
    intro since limit pc parked
    refine ⟨fun asked elapsed => ?_, fun early => ?_⟩
    · have wakes : exec (.parkTimeout id) s = .next ((s.wake id fun v => v).settleKill id) := by
        simp only [exec, execParkTimeout, there, parked]
        rw [if_neg (by omega)]
      rw [wakes, State.wake_eq there hv hd, settled _ _ (by simpa using alive)]
    · simp only [exec, execParkTimeout, there, parked]
      rw [if_pos early]
  case ageing =>
    intro ready resident normal old
    simp only [exec, execIssueAgeing]
    rw [State.modVt_eq there, if_pos ⟨ready, resident, normal, old⟩]

end Sys2Proof.Machine
end

section
/-! SUPPORT. The end of a VT leaves a VT that waits for nothing as it stands: stores that a core held are performed, phases of
barriers complete, and neither reaches it (R102, R177, R234, R235, R237). -/

set_option Elab.async false

namespace Sys2Proof

/-! ### Bytes beyond a write -/

theorem Memory.read_write_ne (m : List Host.Cell) {a k : Nat} (b : Byte) (h : k ≠ a) :
    Memory.read (Memory.write m a b) k = Memory.read m k := by
  induction m with
  | nil => unfold Memory.write; split <;> simp [Memory.read, Ne.symm h]
  | cons c m ih =>
    unfold Memory.write
    split
    · split
      · rfl
      · simp [Memory.read, Ne.symm h]
    · split
      · next same =>
        have other : ¬ c.1 = k := fun e => h (e.symm.trans same.symm)
        split <;> simp [Memory.read, Ne.symm h, other]
      · simp [Memory.read, ih]

theorem Memory.read_writeBytes_beyond (m : List Host.Cell) {a k : Nat} {bs : List Byte} (h : k < a ∨ a + bs.length ≤ k) :
    Memory.read (Memory.writeBytes m a bs) k = Memory.read m k := by
  induction bs generalizing m a with
  | nil => rfl
  | cons b bs ih =>
    rw [List.length_cons] at h
    rw [Memory.writeBytes, ih _ (by omega), Memory.read_write_ne _ _ (by omega)]

/-- An entry of a map after a write at a key: the one written, or one that stood there. -/
theorem SMap.mem_set {α : Type} {m : SMap α} {n : Nat} {a : α} {e : Nat × α} (h : e ∈ m.set n a) : e = (n, a) ∨ e ∈ m := by
  induction m with
  | nil => exact .inl (List.mem_singleton.mp h)
  | cons c m ih =>
    unfold SMap.set at h
    split at h
    · exact List.mem_cons.mp h
    · split at h
      · exact (List.mem_cons.mp h).imp_right (List.mem_cons_of_mem c)
      · rcases List.mem_cons.mp h with rfl | h
        · exact .inr List.mem_cons_self
        · exact (ih h).imp_right (List.mem_cons_of_mem c)

end Sys2Proof

namespace Sys2Proof.Machine

open Sys2Proof

/-! ### A VT that is parked nowhere -/

/-- A VT of `s` that is parked nowhere stands in `t` as it was. -/
def State.KeepsIdle (s t : State) : Prop := ∀ id v, s.vt? id = some v → v.park = none → t.vt? id = some v

namespace State.KeepsIdle

variable {s t u : State}

theorem of_vts (h : t.vts = s.vts) : s.KeepsIdle t := fun id v hv _ => by rw [State.vt?, h]; exact hv

theorem refl (s : State) : s.KeepsIdle s := of_vts rfl

theorem trans (h : s.KeepsIdle t) (h' : t.KeepsIdle u) : s.KeepsIdle u := fun id v hv idle => h' id v (h id v hv idle) idle

theorem foldl {α : Type} {f : State → α → State} (h : ∀ (s : State) a, s.KeepsIdle (f s a)) (l : List α) (s : State) :
    s.KeepsIdle (l.foldl f s) := by
  induction l generalizing s with
  | nil => exact refl s
  | cons a l ih => exact (h s a).trans (ih _)

theorem ite {p : Prop} [Decidable p] (ht : p → s.KeepsIdle t) (hu : ¬ p → s.KeepsIdle u) : s.KeepsIdle (if p then t else u) := by
  split
  · exact ht ‹_›
  · exact hu ‹_›

end State.KeepsIdle

/-! ### The stores that a core held -/

theorem State.notify_keepsIdle (s : State) (loc n : Nat) : s.KeepsIdle (s.notify loc n) := by
  intro id v hv idle
  unfold State.notify State.vt?
  rw [SMap.get?_mapVals, show s.vts.get? id = some v from hv]
  simp [idle]

theorem State.l2Revert_keepsIdle (s : State) (line : Nat) : s.KeepsIdle (s.l2Revert line) := by
  unfold State.l2Revert
  split
  · split
    · exact .trans (.of_vts ((s.l2Drop line).fromStorage_vts _)) (State.notify_keepsIdle _ _ _)
    · exact .of_vts rfl
  · exact .refl s

theorem State.l2Insert_keepsIdle {s t : State} {l : L2Line} (h : s.l2Insert l = some t) : s.KeepsIdle t := by
  have evicted (v : L2Line) : s.KeepsIdle (s.l2Evict v) :=
    .ite (fun _ => .trans (State.notify_keepsIdle (s.l2Drop v.line) (v.line * 64) 64)
      (.ite (fun _ => .of_vts rfl) fun _ => .refl _)) fun _ => s.l2Revert_keepsIdle v.line
  unfold State.l2Insert at h
  split at h
  · cases h
  · split at h
    · cases h; exact .of_vts rfl
    · split at h
      · cases h
      · next v _ => cases h; exact (evicted v).trans (.of_vts rfl)

theorem State.l2Touch_keepsIdle (s : State) (k : Caching) (line : Nat) (write : Bool) : s.KeepsIdle (s.l2Touch k line write) := by
  unfold State.l2Touch
  refine .ite (fun _ => .refl s) fun _ => ?_
  split
  · exact .of_vts rfl
  · refine .ite (fun _ => ?_) fun _ => .refl s
    cases h : s.l2Insert _ with
    | none => exact .refl s
    | some t => exact State.l2Insert_keepsIdle h

theorem State.homeWrite_keepsIdle (s : State) (k : Caching) (loc : Nat) (bs : List (Byte × Bool)) :
    s.KeepsIdle (s.homeWrite k loc bs) := by
  unfold State.homeWrite
  refine .trans ?_ (State.notify_keepsIdle _ loc bs.length)
  split
  · exact .of_vts rfl
  · exact (State.KeepsIdle.foldl (fun s l => s.l2Touch_keepsIdle k l true) _ s).trans (.of_vts rfl)

theorem State.performPend_keepsIdle (s : State) (c : Nat) (p : PendStore) : s.KeepsIdle (s.performPend c p) := by
  have reached : (s.reach .store p.loc p.data.length).Leaves s.KeepsIdle := by
    unfold State.reach
    split
    · exact .of_vts (s.cordonLoss_vts _ _ _)
    · exact .refl s
  unfold State.performPend
  split
  · next h =>
    rw [h] at reached
    exact State.KeepsIdle.trans reached (.trans (State.homeWrite_keepsIdle _ _ _ _) (.of_vts rfl))
  · next h => rw [h] at reached; exact reached
  · next h => rw [h] at reached; exact reached
  · exact .refl s

theorem State.flushVt_keepsIdle (s : State) (id : Nat) : s.KeepsIdle (s.flushVt id) := by
  unfold State.flushVt State.flushCore
  split
  · exact .refl s
  · next v _ =>
    exact .ite (fun _ => .refl s) fun _ => .trans (.foldl (fun s p => s.performPend_keepsIdle v.core p) _ s) (.of_vts rfl)

/-! ### What wakes do beyond the VTs that wake -/

/-- The location lies in no part of the record of a stored parked VT that its wake rewrites (R66). -/
def State.offWakes (s : State) (a : Nat) : Prop :=
  ∀ e ∈ s.vts, e.2.park ≠ none → e.2.resident = false → ∀ c, e.2.ctx = some c → a < c.1 ∨ c.1 + 0x140 ≤ a

/-- `t` comes from `s` by wakes: VTs that wait for nothing and the futures are what they were, and of storage no byte changes
but in the records of stored VTs that were parked (R66). -/
structure State.Wakes (s t : State) : Prop where
  idle : s.KeepsIdle t
  futures : t.futures = s.futures
  bytes : ∀ a, s.offWakes a → t.offWakes a ∧ t.byteAt a = s.byteAt a

namespace State.Wakes

variable {s t u : State}

theorem of_same (vts : t.vts = s.vts) (mem : t.mem = s.mem) (futures : t.futures = s.futures) : s.Wakes t where
  idle := .of_vts vts
  futures := futures
  bytes a h := by
    refine ⟨?_, by rw [State.byteAt, mem]; rfl⟩
    unfold State.offWakes; rw [vts]; exact h

theorem refl (s : State) : s.Wakes s := of_same rfl rfl rfl

theorem trans (h : s.Wakes t) (h' : t.Wakes u) : s.Wakes u where
  idle := h.idle.trans h'.idle
  futures := h'.futures.trans h.futures
  bytes a out := by
    obtain ⟨out1, same1⟩ := h.bytes a out
    obtain ⟨out2, same2⟩ := h'.bytes a out1
    exact ⟨out2, same2.trans same1⟩

theorem foldl {α : Type} {f : State → α → State} (h : ∀ (s : State) a, s.Wakes (f s a)) (l : List α) (s : State) :
    s.Wakes (l.foldl f s) := by
  induction l generalizing s with
  | nil => exact refl s
  | cons a l ih => exact (h s a).trans (ih _)

end State.Wakes

/-- A record is rewritten within its first 0x140 bytes (R66). -/
theorem State.byteAt_rewriteRecord (s : State) {v : VT} {a : Nat} (h : ∀ c, v.ctx = some c → a < c.1 ∨ c.1 + 0x140 ≤ a) :
    (s.rewriteRecord v).byteAt a = s.byteAt a := by
  cases hc : v.ctx with
  | none => simp only [State.rewriteRecord, hc]
  | some c =>
    have out := h c hc
    rw [State.rewriteRecord_eq hc, State.byteAt]
    dsimp only
    have len : (leBytes 8 v.pc.toNat ++ v.recordRegs).length = 0x100 := by
      rw [List.length_append, length_leBytes, VT.length_recordRegs]
    rw [Memory.read_writeBytes_beyond _ (by omega), Memory.read_writeBytes_beyond _ (by rw [length_leBytes]; omega)]
    rfl

theorem State.rewriteRecord_vts (s : State) (v : VT) : (s.rewriteRecord v).vts = s.vts := by
  unfold State.rewriteRecord
  split <;> rfl

theorem State.rewriteRecord_futures (s : State) (v : VT) : (s.rewriteRecord v).futures = s.futures := by
  unfold State.rewriteRecord
  split <;> rfl

/-- A wake that writes no result leaves a VT on or off its core, with its record where it lies. -/
theorem VT.awake_place (v : VT) (now : Nat) :
    (v.awake now fun w => w).resident = v.resident ∧ (v.awake now fun w => w).ctx = v.ctx := by
  have woken : (v.woken fun w => w).resident = v.resident ∧ (v.woken fun w => w).ctx = v.ctx := by
    unfold VT.woken
    split
    · split <;> exact ⟨rfl, rfl⟩
    · exact ⟨rfl, rfl⟩
  unfold VT.awake
  split
  · exact ⟨rfl, rfl⟩
  · exact woken

theorem State.wake_wakes {s : State} {id : Nat} {v : VT} (hv : s.vt? id = some v) (parked : v.park ≠ none) :
    s.Wakes (s.wake id fun w => w) := by
  obtain ⟨resident, ctx⟩ := v.awake_place (s.vtNow v)
  obtain ⟨w, hw⟩ : ∃ w, w = v.awake (s.vtNow v) fun w => w := ⟨_, rfl⟩
  rw [← hw] at resident ctx
  have woken : s.wake id (fun w => w) = (if v.resident then s else s.rewriteRecord w).setVt id w := by
    simp only [State.wake, hv, hw]
  have vts : (if v.resident then s else s.rewriteRecord w).vts = s.vts := by
    split
    · rfl
    · exact s.rewriteRecord_vts w
  have stood : (id, v) ∈ s.vts := SMap.mem_of_get? hv
  rw [woken]
  refine ⟨fun n u hu idle => ?_, ?_, fun a out => ⟨fun e he waits away c hc => ?_, ?_⟩⟩
  · have other : n ≠ id := fun h => parked (by rw [h] at hu; cases hu.symm.trans hv; exact idle)
    rw [State.vt?_setVt_ne _ _ other, State.vt?, vts]
    exact hu
  · split
    · rfl
    · exact s.rewriteRecord_futures w
  · rcases SMap.mem_set he with rfl | he
    · exact out (id, v) stood parked (resident.symm.trans away) c (ctx.symm.trans hc)
    · rw [vts] at he
      exact out e he waits away c hc
  · show State.byteAt (if v.resident then s else s.rewriteRecord w) a = s.byteAt a
    split
    · rfl
    · next away => exact s.byteAt_rewriteRecord fun c hc => out (id, v) stood parked (by simpa using away) c (ctx.symm.trans hc)

/-! ### Barriers -/

theorem State.endBarrierWait_wakes (s : State) (gang : Nat) (b : Fin 16) (id : Nat) : s.Wakes (s.endBarrierWait gang b id) := by
  have gangs (gs : SMap Gang) : s.Wakes { s with gangs := gs } := .of_same rfl rfl rfl
  have acquired (t : State) {v : VT} (hv : t.vt? id = some v) (parked : v.park ≠ none) : t.Wakes (t.wakeAcquire id fun v => v) := by
    simp only [State.wakeAcquire, hv]
    split
    · exact .trans (t := t.acquire v) (.of_same rfl rfl rfl) (State.wake_wakes (s := t.acquire v) hv parked)
    · exact State.wake_wakes hv parked
  unfold State.endBarrierWait
  split
  · exact .refl s
  · next v hv =>
    split
    · next hp _ =>
      split
      · exact (gangs _).trans (acquired _ (v := v) hv (by simp [hp]))
      · exact .refl s
    · exact .refl s

theorem State.leaveBarriers_wakes (s : State) (gang rank : Nat) : s.Wakes (s.leaveBarriers gang rank) := by
  have gangs (s : State) (gs : SMap Gang) : s.Wakes { s with gangs := gs } := .of_same rfl rfl rfl
  have completes (s : State) (b : Fin 16) : s.Wakes (s.completeBarrier gang b) := by
    unfold State.completeBarrier
    split
    · exact .refl s
    · exact (gangs s _).trans (.foldl (fun s id => s.endBarrierWait_wakes gang b id) _ _)
  have settles (s : State) (b : Fin 16) : s.Wakes (s.settleBarrier gang b) := by
    unfold State.settleBarrier
    split
    · split
      · exact completes s b
      · exact .refl s
    · exact .refl s
  unfold State.leaveBarriers
  split
  · exact .refl s
  · exact (gangs s _).trans (.foldl settles _ _)

/-! ### The end of a VT, step by step -/

/-- The gang's end touches no VT, no future and no byte. -/
theorem State.settleGang_kept (s : State) (gang : Nat) :
    (s.settleGang gang).vts = s.vts ∧ (s.settleGang gang).mem = s.mem ∧ (s.settleGang gang).futures = s.futures := by
  have held (s : State) (x : Gang) : (s.holdCsp x).vts = s.vts ∧ (s.holdCsp x).mem = s.mem ∧ (s.holdCsp x).futures = s.futures := by
    unfold State.holdCsp; split <;> exact ⟨rfl, rfl, rfl⟩
  have settled (s : State) (c : Nat) :
      (s.settleHold c).vts = s.vts ∧ (s.settleHold c).mem = s.mem ∧ (s.settleHold c).futures = s.futures := by
    unfold State.settleHold; split <;> exact ⟨rfl, rfl, rfl⟩
  unfold State.settleGang
  split
  · exact ⟨rfl, rfl, rfl⟩
  · next x _ =>
    split
    · split
      · obtain ⟨vts, mem, futures⟩ := settled _ x.cluster
        rw [vts, mem, futures]
        exact held s x
      · exact held s x
    · exact ⟨rfl, rfl, rfl⟩

/-- A VT once it has been told of the ends of its targets: a status of 0 for each (R179). -/
def VT.told (v : VT) (ended : Nat) : VT := (v.waitStatus.filter fun p => p.2 == ended).foldl (fun v p => v.writeX p.1 0) v

theorem State.vt?_tellKillers {s : State} {id : Nat} {v : VT} (hv : s.vt? id = some v) (ended : Nat) :
    (s.tellKillers ended).vt? id = some (v.told ended) := by
  unfold State.tellKillers State.vt?
  rw [SMap.get?_mapVals, show s.vts.get? id = some v from hv]
  rfl

/-- The end of a VT that has not ENDED: its core's stores, the VT at its end, its registrations and its barriers, those that
its KILL made wait, and its gang. -/
theorem State.endVt_eq {s : State} {id : Nat} {v : VT} (hv : s.vt? id = some v) (he : v.st ≠ .ended) :
    ∃ rejected commands,
      let t : State := { ((s.flushVt id).holdFreed v).setVt id v.atEnd with rejected, commands }
      s.endVt id = ((((t.leaveFutures id).leaveFifo id).leaveBarriers v.gang v.rank).tellKillers id).settleGang v.gang := by
  unfold State.endVt
  rw [hv]
  dsimp only
  rw [if_neg he]
  exact ⟨_, _, rfl⟩

theorem State.holdFreed_kept (s : State) (v : VT) :
    (s.holdFreed v).vts = s.vts ∧ (s.holdFreed v).mem = s.mem ∧ (s.holdFreed v).futures = s.futures := by
  unfold State.holdFreed
  split <;> exact ⟨rfl, rfl, rfl⟩

/-- The end of a VT reaches another one that is parked nowhere by its status alone (R179). -/
theorem State.endVt_other {s : State} {id t : Nat} {v w : VT} (hv : s.vt? t = some v) (he : v.st ≠ .ended)
    (hw : s.vt? id = some w) (idle : w.park = none) (other : id ≠ t) : (s.endVt t).vt? id = some (w.told t) := by
  obtain ⟨rejected, commands, ends⟩ := State.endVt_eq hv he
  have flushed : ((s.flushVt t).holdFreed v).vt? id = some w := by
    rw [State.vt?, (State.holdFreed_kept _ v).1]
    exact s.flushVt_keepsIdle t id w hw idle
  have stands : (((s.flushVt t).holdFreed v).setVt t v.atEnd).vt? id = some w := (State.vt?_setVt_ne _ _ other).trans flushed
  rw [ends, State.vt?, (State.settleGang_kept _ _).1]
  refine State.vt?_tellKillers ((State.leaveBarriers_wakes _ _ _).idle id w ?_ idle) t
  exact stands

end Sys2Proof.Machine
end

section
/-! PROOF. O18: `vtctl` resumes, kills and wakes a VT of the issuer's domain, and says what it found (R175, R179, R320). -/

set_option Elab.async false

namespace Sys2Proof.Machine

open Sys2Proof

/-! ### The mark of a KILL moves no pre-emption point -/

/-- The VT, marked by a KILL (R179). -/
def VT.marked (v : VT) : VT := { v with killed := true }

theorem VT.stuck_marked (v : VT) (e : InFlight) : v.marked.stuck e = v.stuck e := by
  have from_marked (l : List InFlight) (older : List (InFlight × List (Fin 32))) :
      v.marked.stuckFrom older l = v.stuckFrom older l := by
    induction l generalizing older with
    | nil => rfl
    | cons e l ih => exact ih _
  unfold VT.stuck
  rw [from_marked]
  rfl

theorem VT.atBoundary_marked (v : VT) (e : InFlight) : v.marked.atBoundary e = v.atBoundary e := by
  unfold VT.atBoundary
  rw [VT.stuck_marked]
  rfl

theorem VT.withLeft_marked (v : VT) (i : Fin 32) : v.marked.withLeft i = (v.withLeft i).marked := by
  have left : (fun e => v.marked.leftAt e i) = fun e => v.leftAt e i := funext fun e => by
    unfold VT.leftAt
    rw [VT.stuck_marked]
    rfl
  unfold VT.withLeft
  rw [left]
  rfl

theorem VT.lagging_marked (v : VT) (i : Fin 32) : v.marked.lagging i = v.lagging i := by
  unfold VT.lagging
  rw [VT.withLeft_marked]
  rfl

theorem VT.blocked_marked (v : VT) (halted : Fin 32 → Bool) (i : Fin 32) : v.marked.blocked halted i = v.blocked halted i := by
  unfold VT.blocked
  simp only [VT.withLeft_marked, VT.lagging_marked]
  rfl

theorem VT.atPoint_marked (v : VT) : v.marked.atPoint = v.atPoint := by
  have halted : v.marked.haltedVps = v.haltedVps := by
    unfold VT.haltedVps
    simp only [VT.blocked_marked]
    rfl
  have boundary : v.marked.atBoundary = v.atBoundary := funext v.atBoundary_marked
  unfold VT.atPoint VT.blocksSettled
  rw [halted, boundary]
  rfl

variable {s : State} {id t : Nat} {vt v : VT} {g : Guard} {d a : Reg}

/-! ### The three operations -/

theorem State.vtTarget_some (h : s.vtTarget vt a = some (t, v)) : s.vt? t = some v ∧ v.st ≠ .ended := by
  unfold State.vtTarget at h
  dsimp only at h
  split at h
  · next w hw =>
    split at h
    · next ok =>
      obtain ⟨_, alive, _⟩ := ok
      simp only [Option.some.injEq, Prod.mk.injEq] at h
      obtain ⟨rfl, rfl⟩ := h
      exact ⟨hw, alive⟩
    · cases h
  · cases h

theorem State.vtctl_none (h : CtRuns s id vt g [a] []) (done : vt.accessesDone = true) (target : s.vtTarget vt a = none)
    (f : Nat → VT → Nat → VT → State) : s.vtctl g d a f = s.setVt id (vt.writeX d 1).retire := by
  rw [State.vtctl, State.ctOnly_runs h]
  simp [done, target]

theorem State.vtctl_some (h : CtRuns s id vt g [a] []) (done : vt.accessesDone = true) (target : s.vtTarget vt a = some (t, v))
    (f : Nat → VT → Nat → VT → State) : s.vtctl g d a f = f id vt t v := by
  rw [State.vtctl, State.ctOnly_runs h]
  simp [done, target]

theorem State.vtctlStatus_eq (there : s.vt? id = some vt) (n : Word64) :
    s.vtctlStatus id d n = s.setVt id (vt.writeX d n).retire := State.modVt_eq there _

/-- The issuer of a KILL whose target has yet to end. -/
def VT.awaitsEnd (vt : VT) (d : Reg) (t : Nat) : VT :=
  let w := (vt.writeX d 0).retire
  { w with waitStatus := if d = 0 then w.waitStatus else (d, t) :: w.waitStatus }

theorem exec_vtctlResume (h : CtRuns s id vt g [a] []) (done : vt.accessesDone = true) (target : s.vtTarget vt a = some (t, v)) :
    exec (.vtctlResume g d a) s = .next (if v.st = .faulted
      then (s.setVt t { v.resume with readyAt := s.vtNow v }).vtctlStatus id d 0 else s.vtctlStatus id d 2) := by
  simp only [exec, execVtctlResume, State.vtctl_some h done target]

theorem exec_vtctlKill_other (h : CtRuns s id vt g [a] []) (done : vt.accessesDone = true)
    (target : s.vtTarget vt a = some (t, v)) (other : t ≠ id) : exec (.vtctlKill g d a) s =
      .next (((s.setVt id (vt.awaitsEnd d t)).setVt t v.marked).settleKill t) := by
  simp only [exec, execVtctlKill, State.vtctl_some h done target, if_neg other]
  unfold VT.awaitsEnd
  split <;> rfl

theorem exec_vtctlKill_self (h : CtRuns s id vt g [a] []) (done : vt.accessesDone = true)
    (target : s.vtTarget vt a = some (id, v)) :
    exec (.vtctlKill g d a) s = .next ((s.setVt id vt.marked).settleKill id) := by
  simp only [exec, execVtctlKill, State.vtctl_some h done target, if_true]
  rfl

/-! ### A killed VT -/

theorem State.settleKill_marked (s : State) (t : Nat) (v : VT) : (s.setVt t v.marked).settleKill t =
    if !v.resident || v.atPoint then (s.setVt t v.marked).endVt t else s.setVt t v.marked := by
  simp only [State.settleKill, State.vt?_setVt_self, VT.atPoint_marked]
  rfl

theorem State.settleKill_kept (s : State) (on : v.resident = true) (within : v.atPoint = false) :
    (s.setVt t v.marked).settleKill t = s.setVt t v.marked := by
  simp [State.settleKill_marked, on, within]

theorem State.settleKill_ends (s : State) (off : v.resident = false ∨ v.atPoint = true) :
    (s.setVt t v.marked).settleKill t = (s.setVt t v.marked).endVt t := by
  rcases off with off | off <;> simp [State.settleKill_marked, off]

theorem State.endVt_ended (there : s.vt? t = some v) (alive : v.st ≠ .ended) : ∃ w, (s.endVt t).vt? t = some w ∧ w.st = .ended := by
  obtain ⟨w, hw, ended, _⟩ := State.endVt_gone (id := t) ⟨v, there, fun e => absurd e alive⟩
  exact ⟨w, hw, ended⟩

/-! ### The status of a KILL (R179) -/

/-- Writes of zeros leave a zero register zero, and of the awaited statuses those alone that no write replaces. -/
theorem VT.foldl_writeX_zero (l : List (Reg × Nat)) (w : VT) (hd : w.readX d = 0) :
    let u := l.foldl (fun v p => v.writeX p.1 0) w
    u.readX d = 0 ∧ u.pc = w.pc ∧ ∀ p ∈ u.waitStatus, p ∈ w.waitStatus ∧ ∀ q ∈ l, q.1 ≠ 0 → p.1 ≠ q.1 := by
  induction l generalizing w with
  | nil => exact ⟨hd, rfl, fun p hp => ⟨hp, fun _ hq => absurd hq List.not_mem_nil⟩⟩
  | cons q l ih =>
    have zero : (w.writeX q.1 0).readX d = 0 := by
      by_cases hq : q.1 = 0
      · rw [hq, VT.writeX_zero]; exact hd
      · by_cases same : d = q.1
        · rw [same, VT.readX_writeX_self hq]
        · rw [VT.readX_writeX_ne same]; exact hd
    obtain ⟨reads, pc, statuses⟩ := ih (w.writeX q.1 0) zero
    refine ⟨reads, pc.trans (VT.writeX_pc _ _ _), fun p hp => ?_⟩
    obtain ⟨stood, replaced⟩ := statuses p hp
    have kept : p ∈ w.waitStatus ∧ (q.1 ≠ 0 → p.1 ≠ q.1) := by
      unfold VT.writeX at stood
      split at stood
      · next hq => exact ⟨stood, fun h => absurd hq h⟩
      · obtain ⟨stood, ne⟩ := List.mem_filter.mp stood
        exact ⟨stood, fun _ => by simpa using ne⟩
    exact ⟨kept.1, fun r hr => (List.mem_cons.mp hr).elim (fun e => e ▸ kept.2) (replaced r)⟩

/-- Once its target has ended the issuer of a KILL holds the status 0, and waits for none there. -/
theorem VT.told_awaitsEnd (vt : VT) (d : Reg) (t : Nat) :
    let w := (vt.awaitsEnd d t).told t
    w.readX d = 0 ∧ (d ≠ 0 → w.awaitsStatus [d] = false) ∧ w.pc = vt.pc + 4 := by
  have zero : (vt.awaitsEnd d t).readX d = 0 := by
    show (vt.writeX d 0).readX d = 0
    by_cases hd : d = 0
    · rw [hd]; rfl
    · exact VT.readX_writeX_self hd 0
  have pc : (vt.awaitsEnd d t).pc = vt.pc + 4 := congrArg (· + 4) (VT.writeX_pc vt d 0)
  obtain ⟨reads, pc', statuses⟩ := VT.foldl_writeX_zero ((vt.awaitsEnd d t).waitStatus.filter fun p => p.2 == t) _ zero
  refine ⟨reads, fun hd => ?_, pc'.trans pc⟩
  have own : (d, t) ∈ (vt.awaitsEnd d t).waitStatus.filter fun p => p.2 == t := by
    simp [VT.awaitsEnd, hd]
  have none : ∀ p ∈ ((vt.awaitsEnd d t).told t).waitStatus, (p.1 == d) = false := fun p hp =>
    beq_eq_false_iff_ne.mpr ((statuses p hp).2 (d, t) own hd)
  simp only [VT.awaitsStatus, List.any_cons, List.any_nil, Bool.or_false]
  exact List.any_eq_false.mpr fun p hp => by simp [none p hp]

/-! ### The cases of R179 -/

theorem vtctl_untargeted (h : CtRuns s id vt g [a] []) (done : vt.accessesDone = true) (target : s.vtTarget vt a = none) :
    exec (.vtctlResume g d a) s = .next (s.setVt id (vt.writeX d 1).retire)
    ∧ exec (.vtctlKill g d a) s = .next (s.setVt id (vt.writeX d 1).retire)
    ∧ exec (.vtctlWake g d a) s = .next (s.setVt id (vt.writeX d 1).retire) := by
  simp only [exec, execVtctlResume, execVtctlKill, execVtctlWake, State.vtctl_none h done target]
  exact ⟨trivial, trivial, trivial⟩

theorem vtctlResume_refused (h : CtRuns s id vt g [a] []) (done : vt.accessesDone = true)
    (target : s.vtTarget vt a = some (t, v)) (st : v.st ≠ .faulted) :
    exec (.vtctlResume g d a) s = .next (s.setVt id (vt.writeX d 2).retire) := by
  rw [exec_vtctlResume h done target, if_neg st, State.vtctlStatus_eq h.here]

theorem vtctlWake_refused (h : CtRuns s id vt g [a] []) (done : vt.accessesDone = true)
    (target : s.vtTarget vt a = some (t, v)) (st : v.st ≠ .parked ∨ ∀ since limit pc, v.park ≠ some (.park since limit, pc)) :
    exec (.vtctlWake g d a) s = .next (s.setVt id (vt.writeX d 2).retire) := by
  rw [← State.vtctlStatus_eq h.here]
  simp only [exec, execVtctlWake, State.vtctl_some h done target]
  split
  · next since limit pc parked waits =>
    split at waits
    · cases waits
    · exact st.elim (absurd parked) fun never => absurd waits (never _ _ _)
  · rfl

theorem vtctlResume_resumes (h : CtRuns s id vt g [a] []) (done : vt.accessesDone = true)
    (target : s.vtTarget vt a = some (t, v)) (other : t ≠ id) (st : v.st = .faulted) :
    exec (.vtctlResume g d a) s = .next ((s.setVt t { v with
      st := .readyOut, vps := v.vps.map VP.unsuspend, aged := false, readyAt := s.vtNow v }).setVt id
        (vt.writeX d 0).retire) := by
  rw [exec_vtctlResume h done target, if_pos st, State.vtctlStatus_eq ((State.vt?_setVt_ne _ _ other.symm).trans h.here)]
  rfl

theorem vtctlWake_wakes (h : CtRuns s id vt g [a] []) (done : vt.accessesDone = true)
    (target : s.vtTarget vt a = some (t, v)) (other : t ≠ id) {since limit : Nat} {pc : Word64} (st : v.st = .parked)
    (parked : v.park = some (.park since limit, pc)) (hv : v.violation = none) (hd : v.detected = []) :
    let w : VT := { v with
      park := none, st := if v.resident then .ready else .readyOut, readyAt := s.vtNow v, aged := false }
    let told := if v.resident then s.setCore v.core { s.core v.core with l1 := [] } else s.rewriteRecord w
    exec (.vtctlWake g d a) s = .next ((told.setVt t w).setVt id (vt.writeX d 0).retire) := by
  intro w told
  have wakes : exec (.vtctlWake g d a) s = .next ((s.wakeAcquire t fun v => v).vtctlStatus id d 0) := by
    simp only [exec, execVtctlWake, State.vtctl_some h done target, st, hv, parked]
    rfl
  have vts : told.vts = s.vts := by
    dsimp only [told]
    split
    · rfl
    · exact s.rewriteRecord_vts w
  have issuer : (told.setVt t w).vt? id = some vt := by
    rw [State.vt?_setVt_ne _ _ other.symm, State.vt?, vts]
    exact h.here
  rw [wakes, State.wakeAcquire_eq (State.vtTarget_some target).1 hv hd]
  exact congrArg _ (State.vtctlStatus_eq issuer 0)

theorem vtctlKill_ends (h : CtRuns s id vt g [a] []) (done : vt.accessesDone = true)
    (target : s.vtTarget vt a = some (t, v)) (other : t ≠ id) (off : v.resident = false ∨ v.atPoint = true)
    (idle : vt.park = none) :
    ∃ u v' w, exec (.vtctlKill g d a) s = .next u ∧ u.vt? t = some v' ∧ v'.st = .ended
      ∧ u.vt? id = some w ∧ w.readX d = 0 ∧ (d ≠ 0 → w.awaitsStatus [d] = false) ∧ w.pc = vt.pc + 4 := by
  have killed := (s.setVt id (vt.awaitsEnd d t)).vt?_setVt_self t v.marked
  have alive := (State.vtTarget_some target).2
  have issuer : ((s.setVt id (vt.awaitsEnd d t)).setVt t v.marked).vt? id = some (vt.awaitsEnd d t) :=
    (State.vt?_setVt_ne _ _ other.symm).trans (s.vt?_setVt_self id _)
  have waits : (vt.awaitsEnd d t).park = none := (VT.writeX_park vt d 0).trans idle
  obtain ⟨v', hv', ended⟩ := State.endVt_ended killed alive
  rw [exec_vtctlKill_other h done target other, State.settleKill_ends _ off]
  exact ⟨_, v', _, rfl, hv', ended, State.endVt_other killed alive issuer waits other.symm, vt.told_awaitsEnd d t⟩

/-- Settles O18: each operation by the target's state; a KILL that ends its target gives its status at once. -/
theorem threadControl : Obligations.ThreadControl := by
  unfold Obligations.ThreadControl
  intro s id t vt v g d a h done
  refine ⟨vtctl_untargeted h done, fun target => ⟨vtctlResume_refused h done target, vtctlWake_refused h done target⟩,
    fun target other => ⟨vtctlResume_resumes h done target other, fun on within => ?_, vtctlKill_ends h done target other,
      fun since limit pc st parked hv hd => vtctlWake_wakes h done target other st parked hv hd⟩,
    fun target => ⟨fun on within => ?_, fun off => ?_⟩⟩
  · rw [exec_vtctlKill_other h done target other, State.settleKill_kept _ on within]
    rfl
  · rw [exec_vtctlKill_self h done target, State.settleKill_kept _ on within]
    rfl
  · obtain ⟨w, hw, ended⟩ :=
      State.endVt_ended (s.vt?_setVt_self id vt.marked) (State.vtTarget_some target).2
    rw [exec_vtctlKill_self h done target, State.settleKill_ends _ off]
    exact ⟨_, w, rfl, hw, ended⟩

end Sys2Proof.Machine
end

section
/-! PROOF. O16: `exit` writes the spill record and ends the VT (R177, R263). -/

set_option Elab.async false

namespace Sys2Proof

theorem SMap.mem_mapVals {α : Type} {f : Nat → α → α} {m : SMap α} {e : Nat × α} (h : e ∈ m.mapVals f) :
    ∃ a, e.2 = f e.1 a := by
  induction m with
  | nil => cases h
  | cons c m ih =>
    rcases List.mem_cons.mp h with rfl | h
    · exact ⟨c.2, rfl⟩
    · exact ih h

end Sys2Proof

namespace Sys2Proof.Machine

open Sys2Proof

variable {s s' : State} {id : Nat} {v vt : VT} {g : Guard}

/-- The end of a VT whose core holds no store (R177): the VT at its end, registered in no future, and no byte changed but in the
records of stored VTs. -/
theorem State.endVt_own (hv : s.vt? id = some v) (he : v.st ≠ .ended) (pend : (s.core v.core).pend = []) :
    (s.endVt id).vt? id = some v.atEnd
    ∧ (∀ a, s.offWakes a → (s.endVt id).byteAt a = s.byteAt a)
    ∧ ∀ f ∈ (s.endVt id).futures, ∀ w ∈ f.2.waiters, w.1 ≠ id := by
  obtain ⟨rejected, commands, ends⟩ := State.endVt_eq hv he
  rw [State.flushVt_none hv pend] at ends
  obtain ⟨freedVts, freedMem, _⟩ := s.holdFreed_kept v
  let atEnd : State := { (s.holdFreed v).setVt id v.atEnd with rejected, commands }
  obtain ⟨t, ht⟩ : ∃ t, t = (atEnd.leaveFutures id).leaveFifo id := ⟨_, rfl⟩
  have vts : t.vts = s.vts.set id v.atEnd := by rw [ht, ← freedVts]; rfl
  have mem : t.mem = s.mem := by rw [ht, ← freedMem]; rfl
  obtain ⟨idle, futures, bytes⟩ := t.leaveBarriers_wakes v.gang v.rank
  have ended : s.endVt id = (((t.leaveBarriers v.gang v.rank).tellKillers id).settleGang v.gang) := by rw [ht]; exact ends
  obtain ⟨gangVts, gangMem, gangFutures⟩ := ((t.leaveBarriers v.gang v.rank).tellKillers id).settleGang_kept v.gang
  rw [ended]
  refine ⟨?_, fun a out => ?_, fun f hf w hw => ?_⟩
  · have stands : t.vt? id = some v.atEnd := by rw [State.vt?, vts]; exact SMap.get?_set_self _ _ _
    rw [State.vt?, gangVts]
    exact State.vt?_tellKillers (idle id _ stands rfl) id
  · have off : t.offWakes a := fun e h parked => by
      rw [vts] at h
      rcases SMap.mem_set h with rfl | h
      · exact absurd rfl parked
      · exact out e h parked
    calc (((t.leaveBarriers v.gang v.rank).tellKillers id).settleGang v.gang).byteAt a
        = (t.leaveBarriers v.gang v.rank).byteAt a := by rw [State.byteAt, gangMem]; rfl
      _ = t.byteAt a := (bytes a off).2
      _ = s.byteAt a := by rw [State.byteAt, mem]; rfl
  · rw [gangFutures] at hf
    replace hf : f ∈ t.futures := futures ▸ hf
    rw [ht] at hf
    obtain ⟨x, hx⟩ := SMap.mem_mapVals hf
    rw [hx] at hw
    simpa using (List.mem_filter.mp hw).2

theorem exec_exit_stalls (h : CtRuns s id vt g [] []) (busy : vt.accessesDone = false ∨ vt.matrixBusy = true) :
    exec (.exit g) s = .next s := by
  simp only [exec, execExit, State.ctOnly_runs h]
  rw [if_pos (by simpa using busy)]

theorem exec_exit (h : CtRuns s id vt g [] []) (done : vt.accessesDone = true) (idle : vt.matrixBusy = false) :
    let parts := if vt.spillx = 0 ∧ vt.spillv = 0 then [] else vt.spillParts
    s.gateSpill vt parts = .ok s → s.spill vt parts = .ok s' →
      exec (.exit g) s = .next ((s'.modVt id VT.retire).endVt id) := by
  intro parts gated spilt
  simp only [exec, execExit, State.ctOnly_runs h]
  rw [if_neg (by simp [done, idle]), gated]
  dsimp only
  rw [spilt]

/-- Settles O16: the VT stalls until its work is done; then its record is written and it ends. -/
theorem exitEndsTheThread : Obligations.ExitEndsTheThread := by
  unfold Obligations.ExitEndsTheThread
  intro s s' id vt g h alive
  refine ⟨exec_exit_stalls h, fun done idle gated spilt there pend => ?_⟩
  have retired := s'.vt?_setVt_self id vt.retire
  obtain ⟨ended, bytes, futures⟩ := State.endVt_own retired alive pend
  rw [exec_exit h done idle gated spilt, State.modVt_eq there]
  refine ⟨_, _, rfl, ended, rfl, rfl, rfl, rfl, rfl, fun a out => bytes a fun e he _ away c hc => ?_, futures⟩
  rcases SMap.mem_set he with rfl | he
  · exact out (id, vt) (SMap.mem_of_get? there) away c hc
  · exact out e he away c hc

end Sys2Proof.Machine
end

section
/-! PROOF. O17: `spawn` creates a VT from a legal descriptor, and refuses another (R55, R59, R62, R178, R324). -/

set_option Elab.async false

namespace Sys2Proof.Machine

open Sys2Proof

variable {s s' : State} {id : Nat} {vt : VT} {g : Guard} {d a : Reg} {bs : List Byte}

/-! ### Descriptors (R178) -/

/-- The fields of a descriptor have legal values. -/
def LegalDescriptor (bs : List Byte) : Prop :=
  let field (off n : Nat) : Nat := leNat ((bs.drop off).take n)
  field 0 8 % 4 = 0 ∧ field 8 8 % 128 = 0 ∧ field 0x10 1 ≤ 5 ∧ field 0x11 1 ≤ 64 ∧ field 0x12 6 = 0 ∧ field 0x38 8 = 0

/-- What a legal descriptor says. -/
def descriptorOf (bs : List Byte) : SpawnDesc where
  entry := dword bs 0
  codebase := dword bs 8
  wsel := leNat ((bs.drop 0x10).take 1)
  tcmwin := leNat ((bs.drop 0x11).take 1)
  x := #v[dword bs 0x18, dword bs 0x20, dword bs 0x28, dword bs 0x30]

theorem toNat_dword (bs : List Byte) (off : Nat) : (dword bs off).toNat = leNat ((bs.drop off).take 8) := by
  have short : ((bs.drop off).take 8).length ≤ 8 := List.length_take_le _ _
  have bound : leNat ((bs.drop off).take 8) < 2 ^ 64 :=
    (leNat_lt _).trans_le (Nat.pow_le_pow_right (by decide) (by omega))
  rw [dword, BitVec.toNat_ofNat, Nat.mod_eq_of_lt bound]

theorem dword_eq_zero_iff (bs : List Byte) (off : Nat) : dword bs off = 0 ↔ leNat ((bs.drop off).take 8) = 0 := by
  rw [← toNat_dword, ← BitVec.toNat_inj]
  rfl

theorem spawnDesc_illegal (h : ¬ LegalDescriptor bs) : spawnDesc bs = none := by
  refine if_pos ?_
  by_contra legal
  simp only [not_or, not_not, not_lt, bits64, toNat_dword, dword_eq_zero_iff, Nat.pow_zero, Nat.div_one] at legal
  exact h legal

theorem spawnDesc_legal (h : LegalDescriptor bs) : spawnDesc bs = some (descriptorOf bs) := by
  refine if_neg ?_
  simp only [not_or, not_not, not_lt, bits64, toNat_dword, dword_eq_zero_iff, Nat.pow_zero, Nat.div_one]
  exact h

/-! ### The VT that a `spawn` creates -/

/-- The arguments of the descriptor stand in x1 to x4. -/
theorem SpawnDesc.readX_vt (bs : List Byte) (vt : VT) (gid : Nat) (j : Fin 32) : (((descriptorOf bs).vt vt gid).readX j).toNat =
    if 1 ≤ j.val ∧ j.val ≤ 4 then leNat ((bs.drop (0x10 + 8 * j.val)).take 8) else 0 := by
  by_cases args : 1 ≤ j.val ∧ j.val ≤ 4
  · rw [if_pos args, ← toNat_dword]
    obtain rfl | rfl | rfl | rfl : j = 1 ∨ j = 2 ∨ j = 3 ∨ j = 4 := by omega
    all_goals rfl
  · rw [if_neg args]
    by_cases zero : j = 0
    · rw [zero]; rfl
    · have beyond : 4 < j.val := by omega
      simp [VT.readX, zero, SpawnDesc.vt, show ¬ 4 = j.val by omega, show ¬ 3 = j.val by omega,
        show ¬ 2 = j.val by omega, show ¬ 1 = j.val by omega]

/-- A `spawn` draws a VTID and a GANGID; the new VT is the one member of its gang, which waits last in the cluster's queue. -/
theorem State.spawnVt_eq (s : State) (vt : VT) (p : SpawnDesc) : ∃ gid picks, ∃ x : Gang,
    x.members = [s.freshVt.1] ∧ x.size = 1 ∧ x.hasBarriers = false ∧ x.cspwin = 0 ∧
    let k := gangKey vt.domain gid
    let c := clusterOfCore vt.core
    s.spawnVt vt p = (s.freshVt.1, (({ s with picks, gangs := s.gangs.set k x } : State).setVt s.freshVt.1 (p.vt vt gid)).setCluster c
      { s.cluster c with queue := (s.cluster c).queue ++ [k] }) :=
  ⟨_, _, _, rfl, rfl, rfl, rfl, rfl⟩

/-! ### The instruction -/

theorem exec_spawn_stalls (h : CtRuns s id vt g [a] []) (aligned : (vt.readX a).toNat % 64 = 0) {t : Trans} {s1 : State}
    (passes : s.gatedAccess vt.core vt.domain (vt.readX a).toNat .load = .ok t s1) (busy : vt.accessesDone = false) :
    exec (.spawn g d a) s = .next s := by
  simp [exec, execSpawn, State.ctOnly_runs h, busy, State.earlyFault, aligned, passes]

theorem exec_spawn_refuses (h : CtRuns s id vt g [a] []) (aligned : (vt.readX a).toNat % 64 = 0)
    (gated : s.gated vt.core vt.domain (vt.readX a).toNat 64 .load .normal = .ok s)
    (loaded : s.loadGlobal vt.core vt.domain (vt.readX a).toNat 64 .normal = .ok bs s') (done : vt.accessesDone = true)
    (illegal : spawnDesc bs = none) :
    exec (.spawn g d a) s = .next (s'.modVt id fun v => (v.writeX d (BitVec.allOnes 64)).retire) := by
  simp [exec, execSpawn, State.ctOnly_runs h, done, aligned, State.ctGated, gated, State.ctAccess, loaded, illegal]

theorem exec_spawn_creates (h : CtRuns s id vt g [a] []) (aligned : (vt.readX a).toNat % 64 = 0)
    (gated : s.gated vt.core vt.domain (vt.readX a).toNat 64 .load .normal = .ok s)
    (loaded : s.loadGlobal vt.core vt.domain (vt.readX a).toNat 64 .normal = .ok bs s') (done : vt.accessesDone = true)
    {p : SpawnDesc} (legal : spawnDesc bs = some p) : exec (.spawn g d a) s =
      .next ((s'.spawnVt vt p).2.modVt id fun v => (v.writeX d (BitVec.ofNat 64 (s'.spawnVt vt p).1)).retire) := by
  simp [exec, execSpawn, State.ctOnly_runs h, done, aligned, State.ctGated, gated, State.ctAccess, loaded, legal]

/-- Settles O17: a `spawn` stalls, refuses its descriptor, or creates a VT of its own gang. -/
theorem spawnCreatesAThread : Obligations.SpawnCreatesAThread := by
  unfold Obligations.SpawnCreatesAThread
  intro s s' id vt g d a bs h aligned gated loaded alive there few
  refine ⟨fun t s1 => exec_spawn_stalls h aligned, fun done illegal => ?_, fun done legal => ?_⟩
  · rw [exec_spawn_refuses h aligned gated loaded done (spawnDesc_illegal illegal)]
    exact congrArg _ (State.modVt_eq there _)
  · obtain ⟨gid, picks, x, members, size, barriers, csp, spawned⟩ := s'.spawnVt_eq vt (descriptorOf bs)
    have fresh (w : VT) (hw : s'.vt? s'.freshVt.1 = some w) : w.st = .ended := State.freshVt_free (by omega) hw
    have other : id ≠ s'.freshVt.1 := fun e => alive (fresh vt (e ▸ there))
    obtain ⟨n, hn⟩ : ∃ n, n = s'.freshVt.1 := ⟨_, rfl⟩
    have small : n < 2 ^ 32 := hn ▸ Nat.mod_lt _ (by decide)
    rw [← hn] at members spawned fresh other
    rw [exec_spawn_creates h aligned gated loaded done (spawnDesc_legal legal)]
    have issuer : (s'.spawnVt vt (descriptorOf bs)).2.vt? id = some vt := by
      rw [spawned]
      exact (State.vt?_setVt_ne _ _ other).trans there
    rw [State.modVt_eq issuer, spawned]
    obtain ⟨_, _, width, _, _, _⟩ := legal
    have wsel : (Fin.ofNat 6 (leNat ((bs.drop 0x10).take 1))).val = leNat ((bs.drop 0x10).take 1) :=
      Nat.mod_eq_of_lt (Nat.lt_succ_of_le width)
    refine ⟨_, n, gangKey vt.domain gid, (descriptorOf bs).vt vt gid, rfl, small, fresh, State.vt?_setVt_self _ _ _,
      (State.vt?_setVt_ne _ _ other.symm).trans (State.vt?_setVt_self _ _ _), rfl, toNat_dword bs 0, toNat_dword bs 8, wsel, rfl, rfl,
      rfl, rfl, rfl, rfl, rfl, rfl, rfl, SpawnDesc.readX_vt bs vt gid, ?_, ?_, rfl, ?_, rfl, rfl, rfl, rfl, rfl, rfl, rfl, rfl, rfl,
      rfl, ?_, ?_, ⟨x, SMap.get?_set_self _ _ _, members, size, barriers, csp⟩, rfl⟩
    · intro j hj
      simp [VT.readP, hj, SpawnDesc.vt]
    · intro j
      simp [SpawnDesc.vt]
    · show BitVec.ofNat 64 (0x20 + (Fin.ofNat 6 (leNat ((bs.drop 0x10).take 1))).val) = _
      rw [wsel]
    · intro i
      have blank : ((descriptorOf bs).vt vt gid).vps[i] = {} := by simp [SpawnDesc.vt]
      rw [blank]
      exact ⟨fun j => by simp, fun j hj => by simp [VP.readP, hj], rfl, rfl, rfl, rfl, rfl, rfl, rfl, rfl⟩
    · exact congrArg Cluster.queue (State.cluster_setCluster_self _ _ _)

end Sys2Proof.Machine
end


section
/-! SUPPORT. The issue of an instruction whose checks come before its waits (R183, R313, R324). -/

namespace Sys2Proof.Machine

open Sys2Proof

variable {s : State} {id : Nat} {vt : VT} {e : Instr} {g : Guard} {xs ys : List Reg} {ps : List (Fin 8)} {c : Cause} {daddr : Word64}

/-- An instruction that detects a fault and does nothing else. -/
theorem CtRuns.ctFaults (h : CtRuns s id vt g xs ps) (detects : exec e s = .next (s.ctFault id vt c daddr)) :
    CtFaults e s id vt c daddr :=
  detects.trans (congrArg _ (State.ctFault_eq h.here c daddr))

/-- A check that no register settles is made under a true guard whose predicate is whole. -/
theorem State.preFault_runs (h : CtRuns s id vt g xs ps) (pre : VT → Option Cause) :
    s.preFault id g pre = (pre vt).map fun c => s.ctFault id vt c 0 := by
  simp [State.preFault, h.here, h.guard, VT.ctPoisoned_guard h.clean]

theorem State.ctOnlyIf_runs (h : CtRuns s id vt g xs ps) {pre : VT → Option Cause} (passes : pre vt = none)
    (body : Nat → VT → State) : s.ctOnlyIf pre g xs ps body = body id vt := by
  simp only [State.ctOnlyIf, h.who, State.preFault_runs h, passes, Option.map_none, Option.getD_none, State.ctOnly_runs h]

theorem State.ctOnlyIf_fails (h : CtRuns s id vt g xs ps) {pre : VT → Option Cause} (fails : pre vt = some c)
    (body : Nat → VT → State) : s.ctOnlyIf pre g xs ps body = s.ctFault id vt c 0 := by
  simp only [State.ctOnlyIf, h.who, State.preFault_runs h, fails, Option.map_some, Option.getD_some]

theorem State.ctVector_runs (h : CtRuns s id vt g xs []) (legal : vcfgIll vt.vcfg = false) (body : Nat → VT → State) :
    s.ctVector g xs body = body id vt :=
  State.ctOnlyIf_runs h (by simp [legal]) body

/-- R183: nothing of an instruction that depends on VCFG takes place while VCFG.ILL is 1. -/
theorem State.ctVector_illegal (h : CtRuns s id vt g xs []) (ill : vcfgIll vt.vcfg = true) (body : Nat → VT → State) :
    s.ctVector g xs body = s.ctFault id vt .illcfg 0 :=
  State.ctOnlyIf_fails h (by simp [ill]) body

/-- The checks before a stall are made where there is a stall. -/
theorem State.ctEarly_ready (h : CtRuns s id vt g xs ps) (ready : vt.awaitsStatus ys = false) {as : List Reg}
    (early : Nat → VT → Option State) (k : State) : s.ctEarly g as ys early k = k := by
  simp [State.ctEarly, h.who, h.here, ready]

/-- What waits for no status of a list of registers waits for none of a part of it. -/
theorem VT.awaitsStatus_mono (h : vt.awaitsStatus xs = false) (sub : ys ⊆ xs) : vt.awaitsStatus ys = false := by
  rw [VT.awaitsStatus, List.any_eq_false] at h ⊢
  exact fun r hr => h r (sub hr)

theorem VT.offsetAddr_eq (vt : VT) (a : Reg) (imm : Fin 4096) :
    vt.offsetAddr a imm = vt.readX a + (BitVec.ofNat 12 imm.val).signExtend 64 := by
  rw [VT.offsetAddr, word64, sext_eq_toInt (by decide) imm.isLt, BitVec.signExtend]

theorem VT.relative_eq (vt : VT) (imm : Fin 4194304) :
    vt.relative 22 imm.val = vt.pc + 4 * (BitVec.ofNat 22 imm.val).signExtend 64 :=
  congrArg (vt.pc + ·) (word64_mul_sext 4 (by decide) imm.isLt)

end Sys2Proof.Machine
end

section
/-! PROOF. O25: `setvl`, `setcfg`, `setmt`, `setem` and `setseg` (R181, R182, R184, R228, R268). -/

namespace Sys2Proof.Machine

open Sys2Proof

variable {s : State} {id : Nat} {vt : VT} {g : Guard} {d a b : Reg}

/-! ### `setvl` -/

/-- The VT after a `setvl` of `n` VPs without a span request (R181). -/
def VT.withLength (vt : VT) (d : Reg) (n : Nat) : VT :=
  { (vt.writeX d (BitVec.ofNat 64 n)).retire with vl := n, strip := vt.strip + 1 }

theorem exec_setvl (h : CtRuns s id vt g [a] []) (legal : vcfgIll vt.vcfg = false) : exec (.setvl g d a b) s =
    .next (let w := vt.withLength d (min (vt.readX a).toNat 32)
      if b = 0 then s.setVt id w else (s.setVt id w).requestSpan id w b.val) :=
  congrArg _ (State.ctVector_runs h legal _)

@[simp] theorem VT.withLength_core (d : Reg) (n : Nat) : (vt.withLength d n).core = vt.core := vt.writeX_core d _
@[simp] theorem VT.withLength_interval (d : Reg) (n : Nat) : (vt.withLength d n).interval = vt.interval := vt.writeX_interval d _
@[simp] theorem VT.withLength_admitted (d : Reg) (n : Nat) : (vt.withLength d n).admitted = vt.admitted := vt.writeX_admitted d _
@[simp] theorem VT.withLength_matrixBusy (d : Reg) (n : Nat) : (vt.withLength d n).matrixBusy = vt.matrixBusy :=
  congrArg (Option.any _) (vt.writeX_mop d _)

/-- The slot that a span request finds (R181, R268). -/
def State.spanSlot (s : State) (id : Nat) (vt : VT) (span : Nat) : Option Nat :=
  s.leastBound vt.core ((s.slotsOf vt.core span).filter fun k => !vt.admitted || s.admits vt.core k id vt.interval)

/-- A span request that finds no slot changes nothing. -/
theorem State.requestSpan_none {span : Nat} (found : s.spanSlot id vt span = none) : s.requestSpan id vt span = s := by
  unfold State.spanSlot at found
  simp only [State.requestSpan, found]

/-- A span request that finds a slot is kept while a `mop` of the VT runs (R228). -/
theorem State.requestSpan_busy (there : s.vt? id = some vt) {span k : Nat} (found : s.spanSlot id vt span = some k)
    (busy : vt.matrixBusy = true) : s.requestSpan id vt span = s.setVt id { vt with wantSpan := span } := by
  unfold State.spanSlot at found
  simp only [State.requestSpan, found, busy, if_true, State.modVt_eq there]

/-- A VT without a service interval is bound to the slot found (R46, R181). -/
theorem State.requestSpan_binds (there : s.vt? id = some vt) {span k : Nat} (found : s.spanSlot id vt span = some k)
    (idle : vt.matrixBusy = false) (normal : vt.interval = 0) : s.requestSpan id vt span =
      s.setVt id { vt with slot := k, span := s.slotSpan vt.core k, quad0 := s.firstQuad vt.core k } := by
  unfold State.spanSlot at found
  simp only [State.requestSpan, found, idle, Bool.false_eq_true, if_false, State.bindTo, there]
  exact if_pos (.inl normal)

/-- Every slot is open to a VT that is not admitted. -/
theorem State.spanSlot_of_not_admitted (out : vt.admitted = false) (span : Nat) :
    s.spanSlot id vt span = s.leastBound vt.core (s.slotsOf vt.core span) := by
  simp [State.spanSlot, out]

/-! ### `setcfg` -/

/-- FT is at most 2 (R59, R182). -/
theorem vcfgFt_le_two_iff (x : Word64) : x &&& 0x1C0 ≤ 0x080 ↔ x.toNat / 64 % 8 < 3 := by
  have high : (x.toNat &&& 448) / 2 ^ 6 = x.toNat / 64 % 8 := by
    rw [Nat.and_div_two_pow]
    exact Nat.and_two_pow_sub_one_eq_mod _ 3
  have low : (x.toNat &&& 448) % 2 ^ 6 = 0 := by
    rw [Nat.and_mod_two_pow]
    exact Nat.and_zero _
  rw [BitVec.le_def, BitVec.toNat_and]
  show x.toNat &&& 448 ≤ 128 ↔ _
  omega

/-- What VCFG must hold for a VT of this width to apply it (R182). -/
def VT.cfgLegal (vt : VT) (x : Word64) : Prop :=
  x &&& 0x1C0 ≤ 0x080 ∧ 2 ^ (x.toNat / 8 % 8 / 2) ≤ vt.w ∧ x.toNat % 8 = vt.wsel.val

theorem VT.cfgLegal_iff (x : Word64) : vt.cfgLegal x ↔
    ¬ (3 ≤ bits64 x 0 11 / 64 % 8 ∨ vt.w < 2 ^ (bits64 x 0 11 / 8 % 8 / 2) ∨ bits64 x 0 11 % 8 ≠ vt.wsel.val) := by
  have wsel : bits64 x 0 11 % 8 = x.toNat % 8 := by unfold bits64; omega
  have it : bits64 x 0 11 / 8 % 8 = x.toNat / 8 % 8 := by unfold bits64; omega
  have ft : bits64 x 0 11 / 64 % 8 = x.toNat / 64 % 8 := by unfold bits64; omega
  rw [VT.cfgLegal, vcfgFt_le_two_iff, wsel, it, ft, not_or, not_or, not_le, not_lt, not_not]

theorem VT.applyCfg_legal {x : Word64} (legal : vt.cfgLegal x) : vt.applyCfg (bits64 x 0 11) = { vt with vcfg := x &&& 0x7FF } := by
  have low : BitVec.ofNat 64 (bits64 x 0 11 % 2048) = x &&& 0x7FF := by
    have : bits64 x 0 11 % 2048 = (x.setWidth 11).toNat := by simp [bits64]
    rw [this, BitVec.ofNat_toNat]
    exact setWidth_setWidth_eq_and (n := 11) (by decide) x
  rw [← low]
  exact if_neg (VT.cfgLegal_iff x |>.1 legal)

theorem VT.applyCfg_illegal {x : Word64} (illegal : ¬ vt.cfgLegal x) : vt.applyCfg (bits64 x 0 11) =
    { vt with vcfg := vt.vcfg ||| 0x8000000000000000, vl := 0 } :=
  if_pos (not_not.1 (mt (VT.cfgLegal_iff x).2 illegal))

theorem exec_setcfg (h : CtRuns s id vt g [a] []) : CtDone (.setcfg g d a) s id
    (let w := vt.applyCfg (bits64 (vt.readX a) 0 11); (w.writeX d w.vcfg).retire) :=
  congrArg _ (State.ctRegs_runs h _)

/-! ### VMT, EM, segments -/

/-- VMT takes the low two bits of a value, unless they are 3 (R184). -/
theorem VT.writeVmt_eq (vt : VT) (x : Word64) : vt.writeVmt x = if x &&& 3 = 3 then vt else { vt with vmt := (x &&& 3).toNat } := by
  have low : (x &&& 3).toNat = bits64 x 0 2 := by
    rw [← ofNat_bits64_low]
    exact Nat.mod_eq_of_lt (lt_of_lt_of_le (Nat.mod_lt _ (by decide)) (by decide : 2 ^ 2 ≤ 2 ^ 64))
  simp only [VT.writeVmt, bits64_low_eq_three_iff, low]

theorem VT.writeSeg_eq (vt : VT) (k : Fin 4) (x : Word64) :
    vt.writeSeg k x = if x >>> 62 = 3 then vt else { vt with seg := vt.seg.set k (x &&& 0xC000FFFFFFFFFFFF) } := by
  simp only [VT.writeSeg, segTag_eq_three_iff]

/-- Settles O25: each instruction by what it writes; a span request by whether it finds a slot. -/
theorem vectorConfiguration : Obligations.VectorConfiguration := by
  unfold Obligations.VectorConfiguration
  intro s id vt g d a b k h x n set
  have plain (legal : vcfgIll vt.vcfg = false) : CtDone (.setvl g d a 0) s id set := exec_setvl h legal
  have request (legal : vcfgIll vt.vcfg = false) (hb : b ≠ 0) :
      exec (.setvl g d a b) s = .next ((s.setVt id set).requestSpan id set b.val) :=
    (exec_setvl h legal).trans (congrArg _ (if_neg hb))
  have core : set.core = vt.core := VT.withLength_core d n
  have interval : set.interval = vt.interval := VT.withLength_interval d n
  have admitted : set.admitted = vt.admitted := VT.withLength_admitted d n
  have busy : set.matrixBusy = vt.matrixBusy := VT.withLength_matrixBusy d n
  have there : (s.setVt id set).vt? id = some set := s.vt?_setVt_self id set
  clear_value set
  refine ⟨fun legal => ⟨plain legal, ?_, ?_⟩, ⟨fun legal => ?_, fun illegal => ?_⟩, ?_, congrArg _ (State.ctRegs_runs h _), ?_⟩
  · rw [← core, ← admitted, ← interval, ← busy]
    intro found hb
    refine ⟨fun hnone => ?_, fun hsome mop => ?_⟩
    · exact (request legal hb).trans (congrArg _ (State.requestSpan_none hnone))
    · obtain ⟨j, hj⟩ := Option.ne_none_iff_exists'.1 hsome
      rw [CtDone, request legal hb, State.requestSpan_busy there hj mop, State.setVt_setVt]
  · rw [← core, ← admitted, ← interval, ← busy]
    intro j hb idle normal out least
    rw [request legal hb, State.requestSpan_binds there ((State.spanSlot_of_not_admitted out _).trans least) idle normal]
  · have applied := VT.applyCfg_legal (vt := vt) legal
    have done := exec_setcfg (d := d) h
    rwa [applied] at done
  · have applied := VT.applyCfg_illegal (vt := vt) illegal
    have done := exec_setcfg (d := d) h
    rwa [applied] at done
  · rw [← VT.writeVmt_eq]
    exact congrArg _ (State.ctRegs_runs h _)
  · rw [← VT.writeSeg_eq]
    exact congrArg _ (State.ctRegs_runs h _)

end Sys2Proof.Machine
end

section
/-! PROOF. O26: misaligned addresses and illegal configurations are found at issue (R183, R313, R324, R325, R332). -/

namespace Sys2Proof.Machine

open Sys2Proof

variable {s : State} {id : Nat} {vt : VT} {g : Guard} {d a b : Reg} {imm : Fin 4096}

/-! ### Misaligned addresses (R313) -/

theorem State.ctLoad_misaligned (h : CtRuns s id vt g [a] []) {n : Nat} (off : (vt.offsetAddr a imm).toNat % n ≠ 0) (signed : Bool) :
    s.ctLoad n signed g d a imm = s.ctFault id vt .misalign (vt.offsetAddr a imm) :=
  (State.ctOnly_runs h _).trans (if_pos off)

theorem State.ctStore_misaligned (h : CtRuns s id vt g [a, b] []) {n : Nat} (off : (vt.offsetAddr a imm).toNat % n ≠ 0) :
    s.ctStore n g a b imm = s.ctFault id vt .misalign (vt.offsetAddr a imm) :=
  (State.ctEarly_ready h (VT.awaitsStatus_mono h.status (by simp)) _ _).trans
    ((State.ctOnly_runs h _).trans (if_pos off))

theorem State.amo_misaligned {m : Nat} {k : AmoKind} (h : CtRuns s id vt g (if k = .cas then [a, b, d] else [a, b]) [])
    (off : (vt.readX a).toNat % m ≠ 0) (ord : Order) (sc : Fin 4) :
    s.amo m k g d a b ord sc = s.ctFault id vt .misalign (vt.readX a) := by
  have ready : vt.awaitsStatus ((if k = .cas then [a, b, d] else [a, b]).drop 1) = false :=
    VT.awaitsStatus_mono h.status (List.drop_subset _ _)
  simp only [State.amo, h.who]
  rw [State.ctEarly_ready h ready, State.ctIssue_runs h]
  exact if_pos off

theorem exec_mwait_misaligned (h : CtRuns s id vt g [a, b] []) {word : Bool} (off : (vt.readX a).toNat % (if word then 4 else 8) ≠ 0)
    (c : MCond) : exec (.mwait g d a b word c) s = .next (s.ctFault id vt .misalign (vt.readX a)) :=
  congrArg _ ((State.ctEarly_ready h (VT.awaitsStatus_mono h.status (by simp)) _ _).trans
    ((State.ctOnly_runs h _).trans (if_pos off)))

theorem exec_stl_misaligned (h : CtRuns s id vt g [a, b] []) (off : (vt.readX a).toNat % 8 ≠ 0) (sc : Scope) :
    exec (.stl g a b sc) s = .next (s.ctFault id vt .misalign (vt.readX a)) :=
  congrArg _ ((State.ctEarly_ready h (VT.awaitsStatus_mono h.status (by simp)) _ _).trans
    ((State.ctOnly_runs h _).trans (if_pos off)))

theorem exec_lda_misaligned (h : CtRuns s id vt g [a] []) (off : (vt.readX a).toNat % 8 ≠ 0) (sc : Scope) :
    exec (.lda g d a sc) s = .next (s.ctFault id vt .misalign (vt.readX a)) :=
  congrArg _ ((State.ctOnly_runs h _).trans (if_pos off))

theorem exec_jalr_misaligned (h : CtRuns s id vt g [a] []) (off : (vt.offsetAddr a imm).toNat % 4 ≠ 0) :
    exec (.jalr g d a imm) s = .next (s.ctFault id vt .misalign (vt.offsetAddr a imm)) :=
  congrArg _ ((State.ctOnly_runs h _).trans (if_pos off))

/-- A misaligned descriptor is found whether the VT's accesses are performed or not (R324). -/
theorem exec_spawn_misaligned (h : CtRuns s id vt g [a] []) (off : (vt.readX a).toNat % 64 ≠ 0) :
    exec (.spawn g d a) s = .next (s.ctFault id vt .misalign (vt.readX a)) := by
  have early : s.earlyFault id vt (vt.readX a) 64 .load = some (s.ctFault id vt .misalign (vt.readX a)) := if_pos off
  refine congrArg _ ((State.ctOnly_runs h _).trans ?_)
  simp only [early, Option.getD_some, if_pos off, ite_self]

theorem exec_enqy_misaligned (h : CtRuns s id vt g (b :: cmdRegs a) []) (off : bits64 (vt.readX b) 0 2 ≠ 0) (eng : Fin 8) :
    exec (.enqy g d a b eng) s = .next (s.ctFault id vt .misalign (vt.readX b)) :=
  congrArg _ ((State.ctEarly_ready h (VT.awaitsStatus_mono h.status (List.subset_cons_self _ _)) _ _).trans
    ((State.ctOnly_runs h _).trans (if_pos off)))

theorem scalarLoads_misaligned (h : CtRuns s id vt g [a] []) : ∀ p ∈ scalarLoads, (vt.offsetAddr a imm).toNat % p.2.1 ≠ 0 →
    exec (p.1 g d a imm) s = .next (s.ctFault id vt .misalign (vt.offsetAddr a imm)) := by
  simp only [scalarLoads, List.forall_mem_cons, List.not_mem_nil, false_implies, implies_true, and_true]
  refine ⟨?_, ?_, ?_, ?_, ?_, ?_, ?_⟩ <;> exact fun off => congrArg _ (State.ctLoad_misaligned h off _)

theorem scalarStores_misaligned (h : CtRuns s id vt g [a, b] []) : ∀ p ∈ scalarStores, (vt.offsetAddr a imm).toNat % p.2 ≠ 0 →
    exec (p.1 g a b imm) s = .next (s.ctFault id vt .misalign (vt.offsetAddr a imm)) := by
  simp only [scalarStores, List.forall_mem_cons, List.not_mem_nil, false_implies, implies_true, and_true]
  refine ⟨?_, ?_, ?_, ?_⟩ <;> exact fun off => congrArg _ (State.ctStore_misaligned h off)

theorem atomics_misaligned (ord : Order) (sc : Fin 4) : ∀ p ∈ atomicOps, CtRuns s id vt g (if p.cas then [a, b, d] else [a, b]) [] →
    (vt.readX a).toNat % p.bytes ≠ 0 → exec (p.instr g d a b ord sc) s = .next (s.ctFault id vt .misalign (vt.readX a)) := by
  simp only [atomicOps, List.forall_mem_cons, List.not_mem_nil, false_implies, implies_true, and_true]
  refine ⟨?_, ?_, ?_, ?_, ?_, ?_, ?_, ?_, ?_, ?_, ?_, ?_, ?_, ?_, ?_, ?_⟩ <;>
    exact fun h off => congrArg _ (State.amo_misaligned h off ord sc)

theorem misalignedAddressFaults : Claim.MisalignedAddressFaults := by
  intro s id vt g d a b imm ord sc scope word c eng
  rw [← VT.offsetAddr_eq]
  exact ⟨fun p hp h off => h.ctFaults (scalarLoads_misaligned h p hp off),
    fun p hp h off => h.ctFaults (scalarStores_misaligned h p hp off),
    fun p hp h off => h.ctFaults (atomics_misaligned ord sc p hp h off),
    fun h off => h.ctFaults (exec_lda_misaligned h off scope),
    fun h off => h.ctFaults (exec_stl_misaligned h off scope),
    fun h off => h.ctFaults (exec_mwait_misaligned h off c),
    fun h off => h.ctFaults (exec_jalr_misaligned h off),
    fun h off => h.ctFaults (exec_spawn_misaligned h off),
    fun h off => h.ctFaults (exec_enqy_misaligned h off eng)⟩

/-! ### Illegal configurations (R183) -/

/-- VCFG.ILL comes after the check of the block number alone (R230, R326). -/
theorem State.accMove_illegal (h : CtRuns s id vt g [] []) (ill : vcfgIll vt.vcfg = true) {blk : Reg} (within : blk.val < 128 / vt.w)
    (acc : Fin 2) (va : Reg) (toVp : Bool) (body : Nat → VT → Claim → State) :
    s.accMove g acc va blk toVp body = s.ctFault id vt .illcfg 0 := by
  simp only [State.accMove, h.who, h.here, if_neg (not_le.2 within)]
  exact State.ctVector_illegal h ill _

theorem State.issueMemory_illegal {mode : VMode} (h : CtRuns s id vt g (if mode = .s then [a, b] else [a]) [])
    (ill : vcfgIll vt.vcfg = true) (isStore : Bool) (v : Reg) (dc : Fin 4) (q : Bool) (hint : Hint) :
    s.issueMemory isStore g v a b mode dc q hint = s.ctFault id vt .illcfg 0 :=
  State.ctOnlyIf_fails h (if_pos ill) _

theorem illegalConfigurationFaults : Claim.IllegalConfigurationFaults := by
  intro s id vt g d a b v imm off mode dc q hint acc blk ill
  refine ⟨fun h => ?_, fun h within => ?_, fun h => ?_, fun h => ?_⟩
  all_goals simp only [List.forall_mem_cons, List.not_mem_nil, false_implies, implies_true, and_true]
  · refine ⟨?_, ?_, ?_, ?_, ?_, ?_⟩ <;> exact h.ctFaults (congrArg _ (State.ctVector_illegal h ill _))
  · exact ⟨h.ctFaults (congrArg _ (State.accMove_illegal h ill within acc a true _)),
      h.ctFaults (congrArg _ (State.accMove_illegal h ill within acc a false _))⟩
  · refine ⟨?_, ?_, ?_, ?_, ?_⟩ <;> exact h.ctFaults (congrArg _ (State.ctVector_illegal h ill _))
  · exact ⟨h.ctFaults (congrArg _ (State.issueMemory_illegal h ill false v dc q hint)),
      h.ctFaults (congrArg _ (State.issueMemory_illegal h ill true v dc q hint))⟩

/-- Settles O26: an instruction whose address is misaligned, or that depends on an illegal VCFG, detects that alone. -/
theorem checksAtIssue : Obligations.ChecksAtIssue := ⟨misalignedAddressFaults, illegalConfigurationFaults⟩

end Sys2Proof.Machine
end

section
/-! SUPPORT. Updates of the VPs of a mask, and what a VP that goes through the head of its sequence changes (R24, R25, R188). -/

namespace Sys2Proof

theorem mem_maskIndices {m : BitVec 32} {i : Fin 32} : i ∈ maskIndices m ↔ m.getLsbD i.val = true := by
  simp [maskIndices]

theorem nodup_maskIndices (m : BitVec 32) : (maskIndices m).Nodup := (List.nodup_finRange 32).filter _

theorem maskIndices_eq_nil_iff {m : BitVec 32} : maskIndices m = [] ↔ m = 0 := by
  refine ⟨fun h => BitVec.eq_of_getLsbD_eq fun j hj => ?_, fun h => by subst h; decide⟩
  have out : (⟨j, hj⟩ : Fin 32) ∉ maskIndices m := by simp [h]
  simpa [mem_maskIndices] using out

end Sys2Proof

namespace Sys2Proof.Machine

open Sys2Proof

variable {vt w u : VT} {i j : Fin 32} {n : Nat}

/-! ### The VPs of a list -/

/-- `f` applied to the VPs of a list. -/
def setEach (f : VP → VP) (l : List (Fin 32)) (vps : Vector VP 32) : Vector VP 32 :=
  l.foldl (fun (vps : Vector VP 32) (i : Fin 32) => vps.set i (f vps[i])) vps

theorem getElem_setEach {f : VP → VP} {l : List (Fin 32)} (nodup : l.Nodup) (vps : Vector VP 32) (i : Fin 32) :
    (setEach f l vps)[i] = if i ∈ l then f vps[i] else vps[i] := by
  induction l generalizing vps with
  | nil => simp [setEach]
  | cons k l ih =>
    obtain ⟨out, nodup⟩ := List.nodup_cons.1 nodup
    refine (ih nodup _).trans ?_
    by_cases hi : i = k
    · subst hi
      simp [out]
    · rw [registerFile_set_ne vps hi]
      simp only [List.mem_cons, hi, false_or]

/-- An update of the VPs of a list, one after another, changes the VT nowhere else. -/
theorem foldl_vps (f : VP → VP) (l : List (Fin 32)) (vt : VT) :
    l.foldl (fun (vt : VT) (i : Fin 32) => { vt with vps := vt.vps.set i (f vt.vps[i]) }) vt = { vt with vps := setEach f l vt.vps } := by
  induction l generalizing vt with
  | nil => rfl
  | cons k l ih => exact ih _

theorem getElem_setEach_maskIndices (f : VP → VP) (m : BitVec 32) (vps : Vector VP 32) (i : Fin 32) :
    (setEach f (maskIndices m) vps)[i] = if m.getLsbD i.val then f vps[i] else vps[i] := by
  rw [getElem_setEach (nodup_maskIndices m)]
  exact if_congr mem_maskIndices rfl rfl

/-! ### The head of a sequence -/

/-- `w` differs from `vt` at most in the values of v registers and in the operations that wait. -/
def VT.GoesOn (vt w : VT) : Prop :=
  w = { vt with vps := w.vps, waiting := w.waiting } ∧ ∀ j : Fin 32, w.vps[j] = { vt.vps[j] with v := w.vps[j].v }

namespace VT.GoesOn

theorem refl (vt : VT) : vt.GoesOn vt := ⟨rfl, fun _ => rfl⟩

theorem trans (h : vt.GoesOn w) (h' : w.GoesOn u) : vt.GoesOn u := by
  obtain ⟨vt', vps⟩ := h
  obtain ⟨w', vps'⟩ := h'
  refine ⟨?_, fun j => ?_⟩
  · rw [w', vt']
  · rw [vps' j, vps j]

/-- An operation leaves the sequence of a VP. -/
theorem pop (vt : VT) (l : List WaitOp) : vt.GoesOn { vt with waiting := l } := ⟨rfl, fun _ => rfl⟩

/-- A broadcast writes a register of a VP. -/
theorem write (vt : VT) (i : Fin 32) (v : Vector VReg 32) (l : List WaitOp) :
    vt.GoesOn { vt with vps := vt.vps.set i { vt.vps[i] with v }, waiting := l } := by
  refine ⟨rfl, fun j => ?_⟩
  by_cases hj : j = i
  · subst hj
    simp
  · simp [registerFile_set_ne vt.vps hj]

theorem settleFrom (vt : VT) (i : Fin 32) (n : Nat) : vt.GoesOn (vt.settleFrom i n) := by
  induction n generalizing vt with
  | zero => exact refl vt
  | succ n ih =>
    unfold VT.settleFrom
    split
    · exact refl vt
    · split
      · split
        · exact refl vt
        · exact (write vt i _ _).trans (ih _)
      · split
        · exact (pop vt _).trans (ih _)
        · exact refl vt
      · exact refl vt

theorem settleAll (vt : VT) (m : BitVec 32) : vt.GoesOn (vt.settleAll m) := by
  unfold VT.settleAll
  induction maskIndices m generalizing vt with
  | nil => exact refl vt
  | cons i is ih => exact (settleFrom vt i 9).trans (ih _)

end VT.GoesOn

/-- A VP for which no operation waits has nothing to go through. -/
theorem VT.settleFrom_none (h : vt.seqHead i = none) (n : Nat) : vt.settleFrom i n = vt := by
  cases n with
  | zero => rfl
  | succ n =>
    unfold VT.settleFrom
    simp [h]

end Sys2Proof.Machine
end

section
/-! PROOF. O28: `vf` and `vfr` check a block and send it to the active VPs (R25, R42, R139, R141, R185). -/

namespace Sys2Proof.Machine

open Sys2Proof

variable {s s' : State} {id : Nat} {vt : VT} {target : Word64} {ins : Instr} {l : BitVec 1024} {h : Header}

/-- The count changes of a block (R42). -/
def VP.count (lqn sqn : Nat) (vp : VP) : VP := { vp with cntL := vp.cntL - lqn, cntS := vp.cntS + sqn }

theorem VT.takeCounts_eq (vt : VT) (lqn sqn : Nat) :
    vt.takeCounts lqn sqn = { vt with vps := setEach (VP.count lqn sqn) (maskIndices vt.active) vt.vps } :=
  foldl_vps (VP.count lqn sqn) _ vt

/-- An operation enters the sequences of a mask that is not empty (R25). -/
theorem VT.enqueue_eq {m : BitVec 32} (some : m ≠ 0) (vt : VT) (o : SeqOp) (ins : Instr) :
    vt.enqueue o m ins = { vt with waiting := vt.waiting ++ [{ op := o, mask := m, instr := ins }] } := if_neg some

theorem State.sendBlock_misaligned (off : target.toNat % 128 ≠ 0) :
    s.sendBlock id vt target ins = s.ctFault id vt .misalign target := if_pos off

section
variable (aligned : target.toNat % 128 = 0)
  (fetched : s.fetchLine vt.core vt.domain target.toNat (headerSpan (vt.active != 0)) = .ok l s')
  (header : decodeHeader (l.extractLsb' 0 32) = .ok h) (plain : h.wide = false)
include aligned fetched header plain

/-- A block whose queue counts no VP can give (R42, R185). -/
theorem State.sendBlock_refused (refused : vt.blockCountsOk h.lqn h.sqn = false) :
    s.sendBlock id vt target ins = s'.vfFault id vt .queue target := by
  simp only [State.sendBlock, aligned, fetched, head?_wordsOfLine, header, plain, refused]
  simp

/-- A block that passes its checks (R185). -/
theorem State.sendBlock_sends (counts : vt.blockCountsOk h.lqn h.sqn = true) (some : vt.active ≠ 0)
    (words : wordsCheck vt.w (vcfgIt vt.vcfg) h (blockWords h l).tail = none) (room : vt.seqFull vt.active = false)
    (captures : vt.captureFull = false) : s.sendBlock id vt target ins = s'.setVt id { vt.retire with
      vps := setEach (VP.count h.lqn h.sqn) (maskIndices vt.active) vt.vps
      waiting := vt.waiting ++ [{ op := .block target vt.pc vt.capture false vt.active vt.lane, mask := vt.active, instr := ins }] } := by
  simp only [State.sendBlock, aligned, fetched, head?_wordsOfLine, header, plain, counts, some, words, room, captures,
    VT.takeCounts_eq, VT.enqueue_eq some]
  simp [VT.retire]

end

/-- Both forms send the block at their target (R185). -/
theorem exec_sends {g : Guard} {a : Reg} {imm : Fin 4194304} {off : Fin 4096} :
    ∀ p ∈ [(Instr.vf g imm, ([] : List Reg), vt.pc + 4 * (BitVec.ofNat 22 imm.val).signExtend 64),
        (.vfr g a off, [a], vt.readX a + (BitVec.ofNat 12 off.val).signExtend 64)],
      CtRuns s id vt g p.2.1 [] → vcfgIll vt.vcfg = false → exec p.1 s = .next (s.sendBlock id vt p.2.2 p.1) := by
  rw [← VT.relative_eq, ← VT.offsetAddr_eq]
  simp only [List.forall_mem_cons, List.not_mem_nil, false_implies, implies_true, and_true]
  exact ⟨fun h legal => congrArg _ (State.ctVector_runs h legal _), fun h legal => congrArg _ (State.ctVector_runs h legal _)⟩

/-- Settles O28: the two forms send the block at their target, each check of it in its turn. -/
theorem blockIssue : Obligations.BlockIssue := by
  unfold Obligations.BlockIssue
  intro s s' id vt g a imm off l h p hp target runs legal
  have sends := exec_sends p hp runs legal
  refine ⟨fun misaligned => ?_, fun aligned fetched header plain => ⟨fun refused => ?_, fun counts some words room captures => ?_⟩⟩
  · exact runs.ctFaults (sends.trans (congrArg _ (State.sendBlock_misaligned misaligned)))
  · exact sends.trans (congrArg _ (State.sendBlock_refused aligned fetched header plain refused))
  · refine ⟨_, sends.trans (congrArg _ (State.sendBlock_sends aligned fetched header plain counts some words room captures)), ?_⟩
    exact getElem_setEach_maskIndices _ _ _

end Sys2Proof.Machine
end

section
/-! PROOF. O27: `vjoin`, and single values between the CT and its VPs (R186 to R189). -/

namespace Sys2Proof.Machine

open Sys2Proof

variable {s : State} {id : Nat} {vt : VT} {g : Guard} {d a b : Reg}

/-! ### `vjoin`, `xseed`, `xdrain`, `vextract` -/

theorem exec_vjoin (h : CtRuns s id vt g [] []) :
    exec (.vjoin g) s = .next (if vt.reconverged then s.setVt id vt.retire else s) :=
  congrArg _ (State.ctOnly_runs h _)

/-- min(W, 8) bytes are 4 at the narrowest width, else 8 (R187). -/
theorem lowEight_w (vt : VT) (v : Nat) : lowEight vt.w v = if vt.w = 4 then v % 2 ^ 32 else v % 2 ^ 64 := by
  unfold lowEight
  by_cases narrow : vt.w = 4
  · rw [if_pos narrow, narrow]
    rfl
  · have wide : 8 ≤ vt.w := by
      have width : vt.w = 4 * 2 ^ vt.wsel.val := rfl
      have : vt.wsel.val ≠ 0 := fun zero => narrow (by rw [width, zero]; rfl)
      have := Nat.pow_le_pow_right (n := 2) (by decide) (Nat.one_le_iff_ne_zero.2 this)
      omega
    rw [if_neg narrow, Nat.min_eq_right wide]

section
variable (h : CtRuns s id vt g [] []) (legal : vcfgIll vt.vcfg = false) (joined : vt.reconverged = true)
include h legal joined

theorem exec_xdrain_pops {y : VReg} {ys : List VReg} (drain : vt.drain = y :: ys) (clean : vt.poison = []) :
    exec (.xdrain g d) s
      = .next (s.setVt id { (vt.writeX d (BitVec.ofNat 64 (lowEight vt.w y.toNat))).retire with drain := ys }) := by
  refine congrArg _ ((State.ctVector_runs h legal _).trans ?_)
  have whole : vt.isPoisoned (.drain 0) = false := by simp [VT.isPoisoned, clean]
  have left : popDrain vt.poison = (vt.writeX d (BitVec.ofNat 64 (lowEight vt.w y.toNat))).poison := by
    rw [VT.writeX_poison, clean]
    rfl
  simp only [joined, drain, whole, left, Bool.not_true, Bool.false_eq_true, if_false]
  rfl

theorem exec_xdrain_empty (drain : vt.drain = []) : exec (.xdrain g d) s = .next (s.ctFault id vt .queue 0) := by
  refine congrArg _ ((State.ctVector_runs h legal _).trans ?_)
  simp only [joined, drain, Bool.not_true, Bool.false_eq_true, if_false]

end

section
variable (h : CtRuns s id vt g [a] []) (legal : vcfgIll vt.vcfg = false) (joined : vt.reconverged = true)
include h legal joined

/-- `xseed` concerns the lowest active VP alone (R187). -/
theorem exec_xseed : exec (.xseed g a) s = .next (match (maskIndices vt.active).head? with
    | none => s.setVt id vt.retire
    | some i =>
      if 4 ≤ vt.vps[i].inbound.length then s.ctFault id vt .queue 0
      else s.setVt id { vt.retire with
        vps := vt.vps.set i { vt.vps[i] with
          inbound := vt.vps[i].inbound ++ [BitVec.ofNat 1024 (lowEight vt.w (vt.readX a).toNat)] } }) :=
  congrArg _ ((State.ctVector_runs h legal _).trans (if_neg (by simp [joined])))

/-- `vextract` from VP j (R189). -/
theorem exec_vextract {j : Fin 32} (named : Fin.ofNat 32 (bits64 (vt.readX a) 0 5) = j) : exec (.vextract g d a b) s = .next (
      if !(vt.sequenceWritten j) then s.setVt id { vt with awaited := BitVec.twoPow 32 j.val }
      else if vt.regPoisoned j b 0 (min vt.w 8) then s.ctFault id vt .eccu 0
      else s.setVt id (({ vt with awaited := 0 } : VT).writeX d (BitVec.ofNat 64 (lowEight vt.w vt.vps[j].v[b].toNat))).retire) := by
  subst named
  exact congrArg _ ((State.ctVector_runs h legal _).trans (if_neg (by simp [joined])))

end

theorem singleValueTransfers : Claim.SingleValueTransfers := by
  intro s id vt g d a b i is y ys low
  have low_eq : low = lowEight vt.w := funext fun v => (lowEight_w vt v).symm
  clear_value low
  subst low_eq
  refine ⟨fun h => ⟨fun joined => ?_, fun apart => ?_, fun legal joined => ⟨exec_xdrain_pops h legal joined,
    fun drain => h.ctFaults (exec_xdrain_empty h legal joined drain)⟩⟩, fun h legal joined => ⟨fun lowest => ?_, fun off => ?_, ?_⟩⟩
  · exact (exec_vjoin h).trans (congrArg _ (if_pos joined))
  · exact (exec_vjoin h).trans (congrArg _ (if_neg (by simp [apart])))
  · have seeds := exec_xseed h legal joined
    rw [lowest] at seeds
    exact ⟨fun room => seeds.trans (congrArg _ (if_neg (not_le.2 room))),
      fun full => h.ctFaults (seeds.trans (congrArg _ (if_pos full)))⟩
  · have seeds := exec_xseed h legal joined
    rwa [off] at seeds
  · intro j
    have named : Fin.ofNat 32 (bits64 (vt.readX a) 0 5) = j := Fin.ext (by simp [bits64, j])
    have extracts := exec_vextract (d := d) (b := b) h legal joined named
    refine ⟨fun written whole => extracts.trans (congrArg _ ?_), fun unwritten => extracts.trans (congrArg _ ?_)⟩
    · rw [written, whole]
      rfl
    · rw [unwritten]
      rfl

/-! ### `vbcast` -/

/-- `n` elements of `e` bits of v[d] take the low bits of a value (R188). -/
def VP.broadcast (d : Reg) (x : Word64) (e n : Nat) (vp : VP) : VP :=
  { vp with v := vp.v.set d (writeElems vp.v[d] (List.replicate n (x.setWidth e))) }

/-- No block runs on any VP, and none is chained. -/
def VT.Between (vt : VT) : Prop := ∀ i : Fin 32, vt.vps[i].run = none ∧ vt.vps[i].thread = false

theorem VT.seqHead_singleton (o : WaitOp) (i : Fin 32) (h : vt.waiting = [o]) :
    vt.seqHead i = if o.mask.getLsbD i.val then some o else none := by
  rw [VT.seqHead, h, List.find?_cons]
  cases o.mask.getLsbD i.val <;> rfl

/-- A broadcast that waits in no other sequence is through once a VP has taken it. -/
theorem seqPop_singleton {o : WaitOp} {i : Fin 32} (here : o.mask.getLsbD i.val = true) :
    seqPop i [o] = if o.mask &&& ~~~(BitVec.twoPow 32 i.val) = 0 then []
      else [{ o with mask := o.mask &&& ~~~(BitVec.twoPow 32 i.val) }] := by
  simp [seqPop, here]

/-- A mask without one of its bits. -/
theorem getLsbD_without (m : BitVec 32) (i k : Fin 32) :
    (m &&& ~~~(BitVec.twoPow 32 i.val)).getLsbD k.val = true ↔ m.getLsbD k.val = true ∧ k ≠ i := by
  rw [BitVec.getLsbD_and, BitVec.getLsbD_not, BitVec.getLsbD_twoPow, Bool.and_eq_true, Ne, Fin.ext_iff]
  simp only [i.isLt, k.isLt, decide_true, Bool.true_and, Bool.not_eq_true', decide_eq_false_iff_not]
  rw [eq_comm (a := i.val)]

/-- An operation has left the sequence of a VP. -/
theorem not_getLsbD_of_mem_seqPop {o q : WaitOp} {i : Fin 32} (h : q ∈ seqPop i [o]) : ¬ q.mask.getLsbD i.val = true := by
  by_cases here : o.mask.getLsbD i.val = true
  · rw [seqPop_singleton here] at h
    split at h
    · cases h
    · obtain rfl := List.mem_singleton.1 h
      simp
  · rw [seqPop, if_neg here] at h
    obtain rfl := List.mem_singleton.1 h
    exact here

/-- A VP between blocks takes the broadcast at the head of its sequence, where no load is outstanding. -/
theorem VT.settleVp_broadcast {i : Fin 32} {x : Word64} {e : Nat} {o : WaitOp} (idle : vt.vps[i].run = none ∧ vt.vps[i].thread = false)
    (none : vt.inflight = []) (op : o.op = .bcast d x e) (waits : vt.waiting = [o]) (here : o.mask.getLsbD i.val = true) :
    vt.settleVp i = { vt with
      vps := vt.vps.set i (VP.broadcast d x e (8 * vt.w / e) vt.vps[i]), waiting := seqPop i [o] } := by
  obtain ⟨run, thread⟩ := idle
  obtain ⟨_, mask, ins⟩ := o
  subst op
  have head : vt.seqHead i = some ⟨.bcast d x e, mask, ins⟩ := by rw [VT.seqHead_singleton _ i waits, if_pos here]
  have free : vt.interlocked i [d] = false := by simp [VT.interlocked, VT.pendingLoads, none]
  unfold VT.settleVp VT.settleFrom
  rw [if_neg (by rw [run, thread]; decide), head]
  dsimp only
  rw [if_neg (by simp [free]), waits]
  refine VT.settleFrom_none ?_ 8
  rw [VT.seqHead, List.find?_eq_none]
  exact fun q hq => not_getLsbD_of_mem_seqPop hq

/-- VPs between blocks, in turn, take a broadcast that waits for them alone. -/
theorem VT.foldl_settleVp_broadcast {l : List (Fin 32)} (nodup : l.Nodup) {x : Word64} {e : Nat} {o : WaitOp} (between : vt.Between)
    (none : vt.inflight = []) (op : o.op = .bcast d x e) (waits : vt.waiting = if l = [] then [] else [o])
    (mask : ∀ i : Fin 32, o.mask.getLsbD i.val = true ↔ i ∈ l) :
    l.foldl VT.settleVp vt = { vt with vps := setEach (VP.broadcast d x e (8 * vt.w / e)) l vt.vps, waiting := [] } := by
  induction l generalizing vt o with
  | nil =>
    rw [if_pos rfl] at waits
    rw [← waits]
    rfl
  | cons i l ih =>
    obtain ⟨out, nodup⟩ := List.nodup_cons.1 nodup
    rw [if_neg (List.cons_ne_nil _ _)] at waits
    have here : o.mask.getLsbD i.val = true := (mask i).2 List.mem_cons_self
    rw [List.foldl_cons, VT.settleVp_broadcast (between i) none op waits here]
    let o' : WaitOp := { o with mask := o.mask &&& ~~~(BitVec.twoPow 32 i.val) }
    have mask' (k : Fin 32) : o'.mask.getLsbD k.val = true ↔ k ∈ l := by
      rw [getLsbD_without, mask k, List.mem_cons]
      exact ⟨fun ⟨hk, apart⟩ => hk.resolve_left apart, fun hk => ⟨.inr hk, fun same => out (same ▸ hk)⟩⟩
    have done : o'.mask = 0 ↔ l = [] := by
      rw [List.eq_nil_iff_forall_not_mem]
      refine ⟨fun zero k hk => ?_, fun empty => BitVec.eq_of_getLsbD_eq fun k hk => ?_⟩
      · have := (mask' k).2 hk
        rw [zero] at this
        exact absurd this (by simp)
      · have := mt (mask' ⟨k, hk⟩).1 (empty _)
        simpa using this
    refine (ih nodup (o := o') (fun k => ?_) ?_ op ?_ mask').trans rfl
    · by_cases hk : k = i
      · subst hk
        simpa [VP.broadcast] using between k
      · show (vt.vps.set i _)[k].run = _ ∧ (vt.vps.set i _)[k].thread = _
        rw [registerFile_set_ne vt.vps hk]
        exact between k
    · exact none
    · exact (seqPop_singleton here).trans (if_congr done rfl rfl)

theorem VT.enqueue_waiting (vt : VT) (o : SeqOp) (m : BitVec 32) (ins : Instr) : vt.enqueue o m ins =
    { vt with waiting := if m = 0 then vt.waiting else vt.waiting ++ [{ op := o, mask := m, instr := ins }] } := by
  unfold VT.enqueue
  split <;> rfl

theorem exec_vbcast (h : CtRuns s id vt g [a] []) (legal : vcfgIll vt.vcfg = false) (between : vt.Between)
    (idle : vt.waiting = []) (none : vt.inflight = []) :
    CtDone (.vbcast g d a) s id { vt.retire with
      vps := setEach (VP.broadcast d (vt.readX a) (itBits (vcfgIt vt.vcfg)) (8 * vt.w / itBits (vcfgIt vt.vcfg)))
        (maskIndices vt.active) vt.vps } := by
  let o : WaitOp := ⟨.bcast d (vt.readX a) (itBits (vcfgIt vt.vcfg)), vt.active, .vbcast g d a⟩
  have room : vt.seqFull vt.active = false := by simp [VT.seqFull, VT.seqLength, idle]
  have enters : ((vt.enqueue o.op vt.active o.instr).waiting = if maskIndices vt.active = [] then [] else [o]) := by
    rw [VT.enqueue_waiting, idle]
    exact if_congr maskIndices_eq_nil_iff.symm rfl rfl
  have through := VT.foldl_settleVp_broadcast (vt := vt.enqueue o.op vt.active o.instr) (nodup_maskIndices vt.active)
    (by rw [VT.enqueue_waiting]; exact between) (by rw [VT.enqueue_waiting]; exact none) (o := o) rfl enters
    fun _ => mem_maskIndices.symm
  refine congrArg _ ((State.ctVector_runs h legal _).trans ((if_neg (ne_true_of_eq_false room)).trans ?_))
  rw [VT.settleAll, through, VT.enqueue_waiting, ← idle]
  rfl

/-- The register that a broadcast leaves (R116, R188). -/
theorem VP.broadcast_elements (vp : VP) (d : Reg) (x : Word64) {e n : Nat} (fits : e * n ≤ 1024) :
    (∀ k, k < n → elem e (vp.broadcast d x e n).v[d] k = x.setWidth e)
      ∧ ∀ j, e * n ≤ j → (vp.broadcast d x e n).v[d].getLsbD j = vp.v[d].getLsbD j := by
  have written : (vp.broadcast d x e n).v[d] = writeElems vp.v[d] (List.replicate n (x.setWidth e)) := by
    simp [VP.broadcast]
  rw [written]
  refine ⟨fun k hk => ?_, fun j hj => ?_⟩
  · rw [elem_writeElems _ _ (by simpa using fits) (by simpa using hk)]
    exact List.getElem_replicate _
  · exact getLsbD_writeElems_above _ _ (by simpa using fits) (by simpa using hj)

theorem broadcastResult : Claim.BroadcastResult := by
  intro s id vt g d a h legal _ idle none between e whole
  refine ⟨_, exec_vbcast h legal between idle none, fun i => ?_⟩
  rw [getElem_setEach_maskIndices]
  refine ⟨fun off => if_neg (ne_true_of_eq_false off), fun on => ?_⟩
  rw [if_pos on]
  obtain ⟨written, above⟩ := vt.vps[i].broadcast_elements d (vt.readX a) (e := e) (n := 8 * vt.w / e) (by have := vt.w_le; omega)
  refine ⟨?_, written, fun j hj => above j (whole.le.trans hj)⟩
  simp [VP.broadcast]

/-- Settles O27: the instructions one by one, then the broadcast to VPs that nothing holds up. -/
theorem singleValueInstructions : Obligations.SingleValueInstructions := ⟨singleValueTransfers, broadcastResult⟩

end Sys2Proof.Machine
end

section
/-! PROOF. O30: `vld` and `vst` enter the run-ahead window, or a queue refuses them (R39, R42, R66, R191, R195, R196). -/

namespace Sys2Proof.Machine

open Sys2Proof

variable {s : State} {id : Nat} {vt : VT} {g : Guard} {v a b : Reg} {mode : VMode} {dc : Fin 4} {q : Bool} {hint : Hint} {isStore : Bool}

/-! ### The entry and its place in the queues -/

/-- With an entry free in the window, the one taken is (R66). -/
theorem VT.freeEntry_free (free : vt.inflight.length < 8) : ∀ x ∈ vt.inflight, x.idx ≠ vt.freeEntry := by
  obtain ⟨k, hk⟩ : ∃ k, k ∉ vt.inflight.map InFlight.idx := by
    by_contra full
    push Not at full
    have := ((List.nodup_finRange 8).subperm fun k _ => full k).length_le
    rw [List.length_finRange, List.length_map] at this
    omega
  have unused (n : Fin 8) : (!(vt.inflight.any fun e => e.idx == n)) = true ↔ ∀ x ∈ vt.inflight, x.idx ≠ n := by simp
  have found : ((List.finRange 8).find? fun n => !(vt.inflight.any fun e => e.idx == n)).isSome := by
    rw [List.find?_isSome]
    exact ⟨k, List.mem_finRange k, (unused k).2 fun x hx same => hk (List.mem_map.2 ⟨x, hx, same⟩)⟩
  obtain ⟨n, hn⟩ := Option.isSome_iff_exists.1 found
  rw [VT.freeEntry, hn]
  exact (unused n).1 (List.find?_some (p := fun n => !(vt.inflight.any fun e => e.idx == n)) hn)

/-- The place that a queue form takes in a VP's queue: an entry reserved for its data, or one that it will read (R39, R42). -/
def VP.reserve (isStore : Bool) (k : Fin 8) (vp : VP) : VP :=
  if isStore then { vp with cntS := vp.cntS - 1 } else { vp with cntL := vp.cntL + 1, loadQ := vp.loadQ ++ [.pending k 0] }

theorem VT.takeQueues_eq (vt : VT) (isStore : Bool) (k : Fin 8) :
    vt.takeQueues isStore k = { vt with vps := setEach (VP.reserve isStore k) (maskIndices vt.active) vt.vps } :=
  foldl_vps (VP.reserve isStore k) _ vt

/-- The instruction word. -/
def memoryInstr (isStore : Bool) (g : Guard) (v a b : Reg) (mode : VMode) (dc : Fin 4) (q : Bool) (hint : Hint) : Instr :=
  if isStore then .vst g v a b mode dc q hint else .vld g v a b mode dc q hint

/-- The entry of an instruction that some VP takes part in (R66, R191). -/
def VT.memoryEntry (vt : VT) (isStore : Bool) (g : Guard) (v a b : Reg) (mode : VMode) (dc : Fin 4) (q : Bool) (hint : Hint) : InFlight :=
  { idx := vt.freeEntry, instr := memoryInstr isStore g v a b mode dc q hint, pc := vt.pc, isStore, queueForm := q, v, b, mode, dc, hint
    space := vt.vmt, base := vt.readX a, stride := if mode = .s then vt.readX b else 0, it := vcfgIt vt.vcfg, active := vt.active
    start := 0, strip := vt.strip, done := false, held := [] }

/-- The VT once an instruction has entered its window and its sequences, before any VP goes on. -/
def VT.entered (vt : VT) (e : InFlight) : VT :=
  { vt with
    inflight := vt.inflight ++ [e]
    d := vt.d.set e.dc (vt.d[e.dc] + 1)
    vps := if e.queueForm then setEach (VP.reserve e.isStore e.idx) (maskIndices vt.active) vt.vps else vt.vps
    waiting := vt.waiting ++ [{ op := .mem e.idx, mask := vt.active, instr := e.instr }] }

/-! ### The instructions -/

theorem State.issueMemory_refused (h : CtRuns s id vt g (if mode = .s then [a, b] else [a]) []) (legal : vcfgIll vt.vcfg = false)
    (queue : q = true) (refused : vt.queueRefuses isStore = true) :
    s.issueMemory isStore g v a b mode dc q hint = s.ctFault id vt .queue 0 :=
  State.ctOnlyIf_fails h (by simp [legal, queue, refused]) _

theorem State.issueMemory_enters (h : CtRuns s id vt g (if mode = .s then [a, b] else [a]) []) (legal : vcfgIll vt.vcfg = false)
    (queue : q = true → vt.queueRefuses isStore = false) (window : vt.inflight.length < 8) (room : vt.seqFull vt.active = false)
    (loads : q = true → isStore = false → vt.loadQueueFull = false) (some : vt.active ≠ 0) :
    s.issueMemory isStore g v a b mode dc q hint =
      s.setVt id ((vt.entered (vt.memoryEntry isStore g v a b mode dc q hint)).settleAll vt.active).leaveWindow.retire := by
  have passes : (q && vt.queueRefuses isStore) = false := by simpa using queue
  have free : (decide (8 ≤ vt.inflight.length) || vt.seqFull vt.active || (q && !isStore && vt.loadQueueFull)) = false := by
    simpa [room, window] using loads
  have undone : (vt.active == 0) = false := by simpa using some
  refine (State.ctOnlyIf_runs h (by rw [legal, passes]; rfl) _).trans ((if_neg (ne_true_of_eq_false free)).trans ?_)
  dsimp only
  rw [VT.enqueue_eq some, undone, if_neg some]
  cases q
  · rfl
  · simp only [if_true, VT.takeQueues_eq]
    rfl

/-- Nothing leaves a window of undone instructions (R105). -/
theorem VT.leaveWindow_undone (undone : ∀ x ∈ vt.inflight, x.done = false) : vt.leaveWindow = vt := by
  have stays : vt.inflight.dropWhile (fun x => x.done) = vt.inflight := by
    cases hl : vt.inflight with
    | nil => rfl
    | cons x l => rw [List.dropWhile_cons, undone x (by simp [hl]), if_neg Bool.false_ne_true]
  rw [VT.leaveWindow, stays]

/-- Both instructions issue alike, under their own names. -/
theorem exec_memory : ∀ p ∈ [(Instr.vld g v a b mode dc q hint, false), (.vst g v a b mode dc q hint, true)],
    exec p.1 s = .next (s.issueMemory p.2 g v a b mode dc q hint) ∧ memoryInstr p.2 g v a b mode dc q hint = p.1 := by
  simp only [List.forall_mem_cons, List.not_mem_nil, false_implies, implies_true, and_true]
  exact ⟨⟨rfl, rfl⟩, rfl, rfl⟩

/-- Settles O30: the entry that the instruction takes, and each VP's place in its queue. -/
theorem vectorMemoryIssue : Obligations.VectorMemoryIssue := by
  unfold Obligations.VectorMemoryIssue
  intro s id vt g v a b mode dc q hint p hp h legal
  obtain ⟨issues, word⟩ := exec_memory (s := s) p hp
  refine ⟨fun queue refused => h.ctFaults (issues.trans (congrArg _ (State.issueMemory_refused h legal queue refused))),
    fun queue window room loads some undone => ?_⟩
  obtain ⟨e, he⟩ : ∃ e, e = vt.memoryEntry p.2 g v a b mode dc q hint := ⟨_, rfl⟩
  have enters := issues.trans (congrArg _ (State.issueMemory_enters h legal queue window room loads some))
  rw [← he] at enters
  obtain ⟨goes, places⟩ := VT.GoesOn.settleAll (vt.entered e) vt.active
  generalize (vt.entered e).settleAll vt.active = w at enters goes places
  have entry : w.inflight = vt.inflight ++ [e] := congrArg VT.inflight goes
  have stays : w.leaveWindow = w := VT.leaveWindow_undone fun x hx => by
    rw [entry, List.mem_append, List.mem_singleton] at hx
    exact hx.elim (undone x) fun same => by rw [same, he]; rfl
  rw [stays] at enters
  refine ⟨w.retire, e, enters, ?_⟩
  rw [goes, he]
  refine ⟨rfl, rfl, rfl, rfl, rfl, word, rfl, rfl, rfl, rfl, fun strided => if_pos strided, rfl, rfl, rfl, rfl, rfl,
    VT.freeEntry_free window, fun i active queue _ => ?_⟩
  have taken : (vt.entered e).vps[i] = vt.vps[i].reserve p.2 vt.freeEntry := by
    have each : (vt.entered e).vps = setEach (VP.reserve p.2 vt.freeEntry) (maskIndices vt.active) vt.vps := by
      rw [he]
      exact if_pos queue
    rw [each, getElem_setEach_maskIndices, if_pos active]
  have place : w.vps[i] = { vt.vps[i].reserve p.2 vt.freeEntry with v := w.vps[i].v } := taken ▸ places i
  show (p.2 = false → w.vps[i].loadQ = _ ∧ w.vps[i].cntL = _) ∧ (p.2 = true → w.vps[i].cntS = _)
  rw [place]
  exact ⟨fun load => by rw [load]; exact ⟨rfl, rfl⟩, fun store => by rw [store]; rfl⟩

end Sys2Proof.Machine
end

section
/-! SUPPORT. The elements of a vector memory instruction: their addresses, what an attempt at one of a load finds in its way, and
the bits that an element of a register takes (R116, R192, R193, R195, R313). -/

namespace Sys2Proof

/-! ### Elements of a register -/

/-- The bits of a register of which one element is replaced. -/
theorem getLsbD_setElem {b k p : Nat} (v : VReg) (x : Nat) (hp : p < 1024) :
    (setElem b v k x).getLsbD p = if b * k ≤ p ∧ p < b * k + b then x.testBit (p - b * k) else v.getLsbD p := by
  have here : p - b * k < 1024 := by omega
  simp only [setElem, BitVec.getLsbD_or, BitVec.getLsbD_and, BitVec.getLsbD_not, BitVec.getLsbD_shiftLeft, BitVec.getLsbD_ofNat,
    Nat.testBit_two_pow_sub_one, Nat.testBit_mod_two_pow, hp, here, decide_true, Bool.true_and]
  by_cases below : p < b * k
  · simp [below, not_le.2 below]
  · have low : b * k ≤ p := not_lt.1 below
    by_cases high : p < b * k + b
    · have inside : p - b * k < b := by omega
      simp [below, low, high, inside]
    · have outside : ¬ p - b * k < b := by omega
      simp [low, high, outside]

theorem elem_setElem {b k j : Nat} (v : VReg) (x : Nat) (hj : b * (j + 1) ≤ 1024) :
    elem b (setElem b v k x) j = if j = k then BitVec.ofNat b x else elem b v j := by
  refine BitVec.eq_of_getLsbD_eq fun t ht => ?_
  rw [getLsbD_elem ht, getLsbD_setElem v x (by rw [Nat.mul_succ] at hj; omega)]
  by_cases same : j = k
  · subst same
    rw [if_pos ⟨by omega, by omega⟩, if_pos rfl, Nat.add_sub_cancel_left, BitVec.getLsbD_ofNat, decide_eq_true ht, Bool.true_and]
  · have apart : ¬ (b * k ≤ b * j + t ∧ b * j + t < b * k + b) := by
      obtain below | above := Nat.lt_or_gt_of_ne same
      · have := Nat.mul_le_mul_left b below
        rw [Nat.mul_succ] at this
        omega
      · have := Nat.mul_le_mul_left b above
        rw [Nat.mul_succ] at this
        omega
    rw [if_neg apart, if_neg same, getLsbD_elem ht]

end Sys2Proof

namespace Sys2Proof.Machine

open Sys2Proof

variable {s s' : State} {id : Nat} {vt : VT} {e : InFlight} {i : Fin 32}

/-! ### Addresses (R193) -/

/-- What an element adds to the base of its instruction. -/
def InFlight.offset (e : InFlight) (w : Nat) (vp : VP) (i : Fin 32) (k : Nat) : Int :=
  match e.mode with
  | .u => i.val * w
  | .s => i.val * e.stride.toInt
  | .x => (vp.v[e.b].toNat % 2 ^ 32 : Nat)
  | .e => (if itSigned e.it then (elem (itBits e.it) vp.v[e.b] k).toInt else (elem (itBits e.it) vp.v[e.b] k).toNat)
      * (itBits e.it / 8 : Nat)

theorem sext_toNat {n : Nat} (hn : 0 < n) (x : BitVec n) : sext n x.toNat = x.toInt := by
  rw [sext_eq_toInt hn x.isLt, BitVec.ofNat_toNat, BitVec.setWidth_eq]

theorem itBits_pos (it : Nat) : 0 < itBits it := Nat.mul_pos (by decide) (Nat.two_pow_pos _)

theorem InFlight.addr_eq (e : InFlight) (w : Nat) (vp : VP) (i : Fin 32) (k : Nat) : e.addr w vp i k =
    spaceAddr e.space ((if e.space = 0 then (e.base.toNat : Int) else e.base.toInt) + e.offset w vp i k) := by
  simp only [InFlight.addr, InFlight.offset, sext_toNat (itBits_pos e.it)]
  cases e.mode <;> rfl

theorem InFlight.addr_global (global : e.space = 0) (w : Nat) (vp : VP) (i : Fin 32) (k : Nat) :
    e.addr w vp i k = (e.base.toNat + e.offset w vp i k) % (2 ^ 64 : Nat) := by
  rw [InFlight.addr_eq, if_pos global, spaceAddr, if_pos global]

theorem InFlight.addr_window (window : e.space ≠ 0) (w : Nat) (vp : VP) (i : Fin 32) (k : Nat) :
    e.addr w vp i k = e.base.toInt + e.offset w vp i k := by
  rw [InFlight.addr_eq, if_neg window, spaceAddr, if_neg window]

/-! ### An attempt at an element of a load -/

theorem VT.regPoisoned_of_clean (clean : vt.poison = []) (i : Fin 32) (r : Reg) (lo n : Nat) : vt.regPoisoned i r lo n = false := by
  simp [VT.regPoisoned, VT.isPoisoned, clean]

theorem VT.indexPoisoned_of_clean (clean : vt.poison = []) (e : InFlight) (i : Fin 32) (k : Nat) : vt.indexPoisoned e i k = false := by
  simp [VT.indexPoisoned, VT.regPoisoned_of_clean clean]

/-- With none to be performed again, a VP's next element is the first that has not been performed (R192, R314). -/
theorem InFlight.next_first (first : ∀ x ∈ e.ahead, x.again = false) (w : Nat) (i : Fin 32) : e.next w i = e.prog[i] := by
  have none : e.ahead.find? (fun a => a.again && a.elem / e.perVp w == i.val) = none :=
    List.find?_eq_none.2 fun x hx => by simp [first x hx]
  rw [InFlight.next, none]

/-- What an attempt at a load's element does once nothing stands in its way: its alignment is checked, then it is loaded (R193,
R313). -/
theorem State.attemptElement_load (may : vt.mayAttempt e i = true) (turn : vt.inTurn e i = true)
    (first : ∀ x ∈ e.ahead, x.again = false) (clean : vt.poison = []) (load : e.isStore = false)
    (strip : s.behindStrip vt e (e.addr vt.w vt.vps[i] i e.prog[i]) (e.elemBytes vt.w) = false)
    (device : s.behindDevice vt e i (e.addr vt.w vt.vps[i] i e.prog[i]) = false)
    (held : ∀ q ∈ s.elementSlices vt e (e.addr vt.w vt.vps[i] i e.prog[i]), q ∈ e.held) :
    s.attemptElement id vt e i =
      let a := e.addr vt.w vt.vps[i] i e.prog[i]
      if a % e.elemBytes vt.w ≠ 0 then .failed (s.elementFault id vt e i .misalign a)
      else s.attempted id vt e i a (s.loadElement vt e a) fun bs v =>
        ({ v with vps := v.vps.set i (v.vps[i].takeElement e vt.w e.prog[i] bs) } : VT).nextElement e i := by
  have again : e.ahead.find? (fun x => x.again && x.elem == e.nextNumber vt.w i) = none :=
    List.find?_eq_none.2 fun x hx => by simp [first x hx]
  have taken : (s.elementSlices vt e (e.addr vt.w vt.vps[i] i e.prog[i])).all e.held.contains = true := by simpa using held
  rw [State.attemptElement, if_neg (by simp [may, turn]), again]
  dsimp only
  rw [InFlight.next_first first, if_neg (by simp [load]), if_neg (by simp [VT.indexPoisoned_of_clean clean]),
    if_neg (by rw [strip, device, taken]; decide), load]
  rfl

/-- An aligned element of a load into a register takes its bytes (R195). -/
theorem State.attempted_load {a : Int} {bs : List Byte} (loaded : s.loadElement vt e a = .ok bs s') (there : s'.vt? id = some vt)
    (f : List Byte → VT → VT) : s.attempted id vt e i a (s.loadElement vt e a) f = .performed (s'.setVt id (f bs vt)) := by
  simp only [State.attempted, loaded, State.modVt_eq there]

end Sys2Proof.Machine
end

section
/-! PROOF. O40: the elements of a vector memory instruction (R192, R193, R195, R313). -/

namespace Sys2Proof.Machine

open Sys2Proof

/-- Settles O40: addresses by mode; the attempt at an element of a load; the bits of its register. -/
theorem vectorMemoryElements : Obligations.VectorMemoryElements := by
  unfold Obligations.VectorMemoryElements
  intro s s' id k w vt e i vp bs raw
  have offset : e.offset w vp i k = raw := rfl
  refine ⟨fun global => offset ▸ e.addr_global global w vp i k, fun window => offset ▸ e.addr_window window w vp i k, ?_,
    fun b j x v _ _ fits => elem_setElem v x fits⟩
  intro p a n may turn first clean load strip device held
  have attempt := State.attemptElement_load (id := id) may turn first clean load strip device held
  refine ⟨fun off => attempt.trans (if_pos off), fun aligned loaded there register => ?_⟩
  rw [attempt]
  refine (if_neg (not_not_intro aligned)).trans ((State.attempted_load loaded there _).trans ?_)
  simp only [VP.takeElement, register]
  rfl

end Sys2Proof.Machine
end

section
/-! PROOF. O41, first part: a load into a register whose slices have taken its headers is performed (R91, R105, R192, R196). -/

namespace Sys2Proof.Machine

open Sys2Proof

variable {s s' : State} {id : Nat} {vt v : VT} {e x : InFlight} {i : Fin 32} {k : Fin 8} {bs : List Byte}

/-! ### Entries of the window -/

/-- An entry that is replaced by one of its number. -/
theorem VT.entry_setEntry (there : vt.entry k = some e) (same : x.idx = e.idx) : (vt.setEntry x).entry k = some x := by
  have keeps : ((fun o : InFlight => o.idx == k) ∘ fun o => if o.idx = x.idx then x else o) = fun o => o.idx == k := by
    funext o
    show ((if o.idx = x.idx then x else o).idx == k) = (o.idx == k)
    split
    · next h => rw [h]
    · rfl
  rw [VT.entry] at there
  rw [VT.entry, VT.setEntry, List.find?_map, keeps, there, Option.map_some, if_pos same.symm]

theorem VT.entry_singleton (alone : vt.inflight = [e]) : vt.entry e.idx = some e := by
  simp [VT.entry, alone]

theorem VT.setEntry_singleton (alone : vt.inflight = [e]) (same : x.idx = e.idx) : vt.setEntry x = { vt with inflight := [x] } := by
  simp [VT.setEntry, alone, same]

/-- The one entry is replaced, and nothing waits behind it. -/
theorem VT.settleVp_setEntry (alone : vt.inflight = [e]) (waiting : vt.waiting = []) (same : x.idx = e.idx) :
    (vt.setEntry x).settleVp i = { vt with inflight := [x] } := by
  rw [VT.setEntry_singleton alone same, VT.settleVp, VT.settleFrom_none]
  simp [VT.seqHead, waiting]

theorem eq_nil_of_eraseDups {l : List Nat} (h : l.eraseDups = []) : l = [] := by
  cases l with
  | nil => rfl
  | cons a l =>
    rw [List.eraseDups_cons] at h
    cases h

/-- The last element of a VP's part of a load into a register whose address the CT has fixed (R192, R195). -/
theorem VT.nextElement_last (last : e.perVp vt.w ≤ e.prog[i] + 1) (load : e.isStore = false) (register : e.queueForm = false)
    (direct : e.indexed = false) :
    vt.nextElement e i = (vt.setEntry { e with prog := e.prog.set i (e.prog[i] + 1) }).settleVp i := by
  have same (w : VT) : { w with vps := w.vps.set i (w.vps[i].finishMemory e), poison := w.poison } = w := by
    simp [VP.finishMemory, register]
  refine (if_neg (not_lt.2 last)).trans ?_
  simp only [load, register, direct, Bool.or_self, Bool.and_self, Bool.false_eq_true, if_false]
  exact congrArg (fun w : VT => w.settleVp i) (same _)

/-! ### A unit-stride load into a register, of VP 0 alone -/

/-- The one instruction in flight is a unit-stride load into a register of VP 0, of which nothing has been performed; nothing waits
in a sequence, and the VT does not stop (R192, R195). -/
structure LoneLoad (vt : VT) (e : InFlight) : Prop where
  alone : vt.inflight = [e]
  mode : e.mode = .u
  load : e.isStore = false
  register : e.queueForm = false
  undone : e.done = false
  first : e.prog[(0 : Fin 32)] = 0
  ahead : e.ahead = []
  active : e.active = 1
  waiting : vt.waiting = []
  violation : vt.violation = none
  detected : vt.detected = []
  stopping : vt.stopping = false
  clean : vt.poison = []

/-- Every element of a VP that takes no part has been performed. -/
theorem InFlight.vpPerformed_inactive (active : e.active = 1) (hi : i ≠ 0) (w : Nat) : e.vpPerformed w i = true := by
  have off : e.active.getLsbD i.val = false := by
    rw [active]
    revert hi
    revert i
    decide
  rw [InFlight.vpPerformed, off]
  simp

/-- VP 0's element of the instruction is counted as performed. -/
def InFlight.counted (e : InFlight) : InFlight := { e with prog := e.prog.set 0 1 }

/-- What the element leaves of the VT: its bytes in the register, and the count of the VP's elements (R195). -/
def VT.loaded (vt : VT) (e : InFlight) (bs : List Byte) : VT :=
  { vt with
    vps := vt.vps.set 0 { vt.vps[0] with v := vt.vps[0].v.set e.v (setElem (8 * vt.w) vt.vps[0].v[e.v] 0 (leNat bs)) }
    inflight := [e.counted] }

namespace LoneLoad

variable (h : LoneLoad vt e)
include h

theorem perVp (w : Nat) : e.perVp w = 1 := by simp [InFlight.perVp, h.mode]

theorem elemBytes (w : Nat) : e.elemBytes w = w := by simp [InFlight.elemBytes, h.mode]

theorem next (w : Nat) : e.next w 0 = 0 := (InFlight.next_first (by simp [h.ahead]) w 0).trans h.first

theorem vpPerformed (w : Nat) : e.vpPerformed w 0 = false := by
  simp [InFlight.vpPerformed, h.undone, h.active, h.perVp, h.next]

theorem mayAttempt : vt.mayAttempt e 0 = true := by
  have reached : vt.reached e 0 = true := by
    simp [VT.reached, h.next, h.first, h.load, InFlight.indexed, h.mode, h.waiting]
  have behind : vt.behindLoad e 0 = false := by
    have : (vt.pendingLoads 0).takeWhile (fun o => o.idx != e.idx) = [] := by
      unfold VT.pendingLoads
      rw [h.alone, List.filter_singleton, Bool.cond_eq_ite]
      split <;> simp
    rw [VT.behindLoad, this]
    rfl
  rw [VT.mayAttempt, reached, behind]
  rfl

theorem mayStart : vt.mayStart e 0 = true := by
  simp [VT.mayStart, VT.faultedAt, h.violation, h.detected, h.stopping]

theorem inTurn : vt.inTurn e 0 = true := by
  simp [VT.inTurn, h.mayStart]

theorem behindStrip (s : State) (a : Int) (n : Nat) : s.behindStrip vt e a n = false := by
  simp [State.behindStrip, h.alone]

theorem behindDevice (s : State) (a : Int) : s.behindDevice vt e 0 a = false := by
  simp [State.behindDevice, h.alone]

/-- The slices that its element needs have taken a header, where none is left to send to (R91). -/
theorem held (sent : e.space = 0 → s.entrySlices vt e = []) :
    ∀ q ∈ s.elementSlices vt e (e.addr vt.w vt.vps[(0 : Fin 32)] 0 0), q ∈ e.held := by
  by_cases global : e.space = 0
  · have only : maskIndices e.active = [0] := by rw [h.active]; decide
    have address : e.elementAddr vt 0 0 = e.addr vt.w vt.vps[(0 : Fin 32)] 0 0 := by simp [InFlight.elementAddr, h.ahead]
    have slices := sent global
    simp only [State.entrySlices, only, List.flatMap_cons, List.flatMap_nil, List.append_nil, h.mayAttempt, h.mayStart, h.perVp,
      h.next] at slices
    have none : (s.elementSlices vt e (e.elementAddr vt 0 0)).filter (fun q => !(e.held.contains q)) = [] := by
      simpa using eq_nil_of_eraseDups slices
    rw [address] at none
    simpa [List.filter_eq_nil_iff] using none
  · simp [State.elementSlices, global]

/-- What the element loads goes into the register (R195). -/
theorem takeElement (vp : VP) (w : Nat) (bs : List Byte) :
    vp.takeElement e w 0 bs = { vp with v := vp.v.set e.v (setElem (8 * w) vp.v[e.v] 0 (leNat bs)) } := by
  simp [VP.takeElement, h.register, h.elemBytes]

theorem nextElement (bs : List Byte) : ({ vt with vps := vt.vps.set 0 (vt.vps[(0 : Fin 32)].takeElement e vt.w 0 bs) } : VT).nextElement e 0
    = vt.loaded e bs := by
  refine (VT.nextElement_last (by rw [h.perVp]; omega) h.load h.register (by simp [InFlight.indexed, h.mode])).trans ?_
  refine (VT.settleVp_setEntry (e := e) ?alone ?waiting ?same).trans ?_
  case alone => exact h.alone
  case waiting => exact h.waiting
  case same => rfl
  simp only [h.takeElement, h.first]
  rfl

/-- The element is attempted, and the load is performed (R193, R195). -/
theorem attemptElement (held : ∀ q ∈ s.elementSlices vt e (e.addr vt.w vt.vps[(0 : Fin 32)] 0 0), q ∈ e.held)
    (aligned : e.addr vt.w vt.vps[(0 : Fin 32)] 0 0 % vt.w = 0)
    (loaded : s.loadElement vt e (e.addr vt.w vt.vps[(0 : Fin 32)] 0 0) = .ok bs s') (there : s'.vt? id = some vt) :
    s.attemptElement id vt e 0 = .performed (s'.setVt id (vt.loaded e bs)) := by
  have attempt := State.attemptElement_load (s := s) (id := id) h.mayAttempt h.inTurn (by simp [h.ahead]) h.clean h.load
    (h.behindStrip s _ _) (h.behindDevice s _) (by rwa [h.first])
  rw [attempt, h.first, h.elemBytes]
  exact (if_neg (not_not_intro aligned)).trans ((State.attempted_load loaded there _).trans
    (congrArg (fun v => Attempt.performed (s'.setVt id v)) (h.nextElement bs)))

end LoneLoad

end Sys2Proof.Machine
end

section
/-! PROOF. O41, second part: VECTOR_MEMORY_PERFORMED of such a load (R91, R196). -/

namespace Sys2Proof.Machine

open Sys2Proof

variable {s s' : State} {id : Nat} {vt v : VT} {e x : InFlight} {i : Fin 32} {k : Fin 8} {bs : List Byte}

/-- The stores that a core holds show in its L1 only. -/
@[simp] theorem State.showStores_vt? (s : State) (c id : Nat) : (s.showStores c).vt? id = s.vt? id := by
  unfold State.showStores
  dsimp only
  split <;> rfl

@[simp] theorem State.showStores_mem (s : State) (c : Nat) : (s.showStores c).mem = s.mem := by
  unfold State.showStores
  dsimp only
  split <;> rfl

/-- Where the slices have every header that they need, none is sent (R91). -/
theorem State.sendHeaders_none (alone : vt.inflight = [e]) (sent : s.entrySlices vt e = []) :
    s.sendHeaders id vt e = s.setVt id vt := by
  have same : vt.setEntry { e with held := e.held ++ [] } = vt := by
    rw [List.append_nil, VT.setEntry_singleton alone rfl, ← alone]
  simp only [State.sendHeaders, sent, List.filter_nil, List.foldl_nil]
  rw [same]

/-- A VP whose elements have all been performed is passed over. -/
theorem State.performVp_performed (there : s.vt? id = some v) (entry : v.entry k = some x) (done : x.vpPerformed v.w i = true) (n : Nat) :
    s.performVp id k i n = (s, false) := by
  cases n with
  | zero => rfl
  | succ n => simp only [State.performVp, there, entry, done, if_true]

theorem State.performVps_performed (there : s.vt? id = some v) (entry : v.entry k = some x) (n : Nat) (l : List (Fin 32))
    (done : ∀ i ∈ l, x.vpPerformed v.w i = true) : s.performVps id k n l = s := by
  induction l with
  | nil => rfl
  | cons i l ih =>
    have head := State.performVp_performed there entry (done i List.mem_cons_self) n
    rw [State.performVps, head]
    exact ih fun j hj => done j (List.mem_cons_of_mem i hj)

/-- Where every VP's elements have been performed, the lowest that is to be performed lies above the last. -/
theorem InFlight.lowest_of_performed {w : Nat} (done : ∀ i, x.vpPerformed w i = true) : x.lowest w = 32 * x.perVp w := by
  have none : (List.finRange 32).find? (fun i => !(x.vpPerformed w i)) = none := by simp [done]
  rw [InFlight.lowest, none]

/-- The VT when the load is performed: the counter has fallen, and the instruction has left the window (R196, R105). -/
def VT.loadDone (vt : VT) (e : InFlight) (bs : List Byte) : VT :=
  { vt.loaded e bs with d := vt.d.set e.dc (vt.d[e.dc] - 1), inflight := [] }

theorem VT.loaded_finishEntry (vt : VT) (e : InFlight) (bs : List Byte) : (vt.loaded e bs).finishEntry e.counted = vt.loadDone e bs := by
  refine (congrArg VT.leaveWindow (VT.setEntry_singleton (e := e.counted) ?alone ?same)).trans ?_
  case alone => rfl
  case same => rfl
  rfl

namespace LoneLoad

variable (h : LoneLoad vt e)
include h

theorem loaded_vpPerformed (w : Nat) (i : Fin 32) : e.counted.vpPerformed w i = true := by
  by_cases hi : i = 0
  · subst hi
    have one : e.counted.next w 0 = 1 :=
      (InFlight.next_first (e := e.counted) (by simp [InFlight.counted, h.ahead]) w 0).trans (Vector.getElem_set_self _)
    have per : e.counted.perVp w = 1 := h.perVp w
    rw [InFlight.vpPerformed, one, per]
    simp
  · exact InFlight.vpPerformed_inactive (e := e.counted) h.active hi w

/-- The elements of the load are performed, and with them the load (R196). -/
theorem performAll (there : s.vt? id = some vt) (held : ∀ q ∈ s.elementSlices vt e (e.addr vt.w vt.vps[(0 : Fin 32)] 0 0), q ∈ e.held)
    (aligned : e.addr vt.w vt.vps[(0 : Fin 32)] 0 0 % vt.w = 0)
    (loaded : s.loadElement vt e (e.addr vt.w vt.vps[(0 : Fin 32)] 0 0) = .ok bs s') (there' : s'.vt? id = some vt) :
    s.performAll id e.idx = ((s'.setVt id (vt.loaded e bs)).showStores vt.core).setVt id (vt.loadDone e bs) := by
  have entry : (vt.loaded e bs).entry e.idx = some e.counted :=
    VT.entry_singleton (e := e.counted) (vt := vt.loaded e bs) rfl
  have now : (s'.setVt id (vt.loaded e bs)).vt? id = some (vt.loaded e bs) := State.vt?_setVt_self ..
  have first : s.performVp id e.idx 0 1 = (s'.setVt id (vt.loaded e bs), false) := by
    simp only [State.performVp, there, VT.entry_singleton h.alone, h.vpPerformed, h.attemptElement held aligned loaded there',
      Bool.false_eq_true, if_false]
  have all : s.performVps id e.idx 1 (List.finRange 32) = s'.setVt id (vt.loaded e bs) := by
    rw [List.finRange_succ, State.performVps, first]
    exact State.performVps_performed now entry 1 _ fun i _ => h.loaded_vpPerformed _ i
  have lowest := InFlight.lowest_of_performed (h.loaded_vpPerformed (vt.loaded e bs).w)
  rw [State.performAll, there]
  simp only [VT.entry_singleton h.alone, h.perVp, all]
  rw [State.modVt_eq (v := vt.loaded e bs) (by rw [State.showStores_vt?, now]), entry]
  simp only [lowest, le_refl, if_true, VT.loaded_finishEntry]

/-- VECTOR_MEMORY_PERFORMED of the load. -/
theorem exec_performed (there : s.vt? id = some vt) (sent : e.space = 0 → s.entrySlices vt e = []) (resident : vt.resident = true)
    (killed : vt.killed = false) (aligned : e.addr vt.w vt.vps[(0 : Fin 32)] 0 0 % vt.w = 0)
    (loaded : (if e.space = 0 then s.setVt id vt else s).loadElement vt e (e.addr vt.w vt.vps[(0 : Fin 32)] 0 0) = .ok bs s')
    (there' : s'.vt? id = some vt) :
    exec (.vectorMemoryPerformed id e.idx) s
      = .next (((s'.setVt id (vt.loaded e bs)).showStores vt.core).setVt id (vt.loadDone e bs)) := by
  have slices (a : Int) : (if e.space = 0 then s.setVt id vt else s).elementSlices vt e a = s.elementSlices vt e a := by
    split <;> rfl
  have held : ∀ q ∈ (if e.space = 0 then s.setVt id vt else s).elementSlices vt e (e.addr vt.w vt.vps[(0 : Fin 32)] 0 0), q ∈ e.held := by
    rw [slices]
    exact h.held sent
  have now : (if e.space = 0 then s.setVt id vt else s).vt? id = some vt := by
    split
    · exact State.vt?_setVt_self ..
    · exact there
  have headers : (if e.space = 0 then s.sendHeaders id vt e else s) = if e.space = 0 then s.setVt id vt else s := by
    split
    · next global => exact State.sendHeaders_none h.alone (sent global)
    · rfl
  have kept : ¬ (e.done || !vt.resident) = true := by simp [h.undone, resident]
  show execVectorMemoryPerformed id e.idx s = _
  simp only [execVectorMemoryPerformed, there, VT.entry_singleton h.alone]
  rw [if_neg kept, headers, h.performAll now held aligned loaded there',
    State.settleKill_of_not_killed (State.vt?_setVt_self ..) (show (vt.loadDone e bs).killed = false from killed)]

end LoneLoad

/-- The register of the load takes the loaded bytes; nothing else of the VPs changes. -/
theorem VT.loadDone_vps (vt : VT) (e : InFlight) (bs : List Byte) :
    elem (8 * vt.w) (vt.loadDone e bs).vps[0].v[e.v] 0 = BitVec.ofNat (8 * vt.w) (leNat bs)
    ∧ (∀ q : Reg, q ≠ e.v → (vt.loadDone e bs).vps[0].v[q] = vt.vps[0].v[q])
    ∧ ∀ i : Fin 32, i ≠ 0 → (vt.loadDone e bs).vps[i] = vt.vps[i] := by
  have vp : (vt.loadDone e bs).vps[0] = { vt.vps[0] with v := vt.vps[0].v.set e.v (setElem (8 * vt.w) vt.vps[0].v[e.v] 0 (leNat bs)) } :=
    Vector.getElem_set_self _
  refine ⟨?_, fun q hq => ?_, fun i hi => registerFile_set_ne vt.vps hi _⟩
  · rw [vp]
    have width := VT.w_le vt
    calc elem (8 * vt.w) (vt.vps[0].v.set e.v (setElem (8 * vt.w) vt.vps[0].v[e.v] 0 (leNat bs)))[e.v] 0
        = elem (8 * vt.w) (setElem (8 * vt.w) vt.vps[0].v[e.v] 0 (leNat bs)) 0 := by rw [Fin.getElem_fin, Vector.getElem_set_self]
      _ = BitVec.ofNat (8 * vt.w) (leNat bs) := (elem_setElem _ _ (by omega)).trans (if_pos rfl)
  · rw [vp]
    exact registerFile_set_ne vt.vps[0].v hq _

end Sys2Proof.Machine
end

section
/-! PROOF. O41, third part: the retry of a rejected request (R90, R91), and the obligation. -/

namespace Sys2Proof.Machine

open Sys2Proof

variable {s : State} {n id : Nat} {r : Rejected} {vt : VT} {e : InFlight} {k : Fin 8}

/-- The requests that a slice has recorded as aged when it is asked again: this one too from its fourth retry on (R91). -/
def State.agedNow (s : State) (r : Rejected) : List Nat :=
  if 3 ≤ r.count ∧ r.id ∉ (s.slice r.slice).aged then (s.slice r.slice).aged ++ [r.id] else (s.slice r.slice).aged

/-- The slice rejects the request again (R90, R91). -/
def State.rejectsAgain (s : State) (r : Rejected) : Bool :=
  s.sliceFull r.slice false && !((s.agedNow r).head? == some r.id && !(s.sliceFull r.slice true))

/-- RETRY of a request whose time has come. -/
theorem exec_retry (found : s.rejected.find? (fun r => r.id == n && !r.granted) = some r)
    (due : r.sentAt + 32 ≤ s.tileCycle (s.requesterTile r.who)) :
    exec (.retry n) s = .next (if s.rejectsAgain r then
        { s.setSlice r.slice { s.slice r.slice with aged := s.agedNow r } with
          rejected := s.rejected.map fun x => if x.id = r.id then
            { r with count := min 15 (r.count + 1), sentAt := s.tileCycle (s.requesterTile r.who) } else x }
      else (s.setSlice r.slice { s.slice r.slice with aged := (s.agedNow r).filter fun m => m != r.id }).grant r) := by
  have fourth : (4 ≤ min 15 (r.count + 1)) = (3 ≤ r.count) := by
    rw [eq_iff_iff]
    omega
  show execRetry n s = _
  simp only [execRetry, found, not_lt.2 due, if_false, fourth]
  rfl

theorem exec_retry_early (found : s.rejected.find? (fun r => r.id == n && !r.granted) = some r)
    (early : s.tileCycle (s.requesterTile r.who) < r.sentAt + 32) : exec (.retry n) s = .next s := by
  show execRetry n s = _
  simp only [execRetry, found, early, if_true]

/-- A slice has an entry for the request: one of the 240, or one of the last 16 where it is the first of the aged ones (R90, R91). -/
theorem State.rejectsAgain_eq_false_iff : s.rejectsAgain r = false ↔
    (s.slice r.slice).used + s.heldAt r.slice < 240
      ∨ (s.slice r.slice).used + s.heldAt r.slice < 256 ∧ (s.agedNow r).head? = some r.id := by
  simp only [State.rejectsAgain, State.sliceFull, Bool.and_eq_false_iff, Bool.not_eq_false', Bool.and_eq_true, Bool.not_eq_true',
    decide_eq_false_iff_not, beq_iff_eq, Bool.false_eq_true, if_false, if_true, not_le]
  exact or_congr_right and_comm

/-- A request that a slice takes: a vector header holds its entry. -/
theorem State.grant_vector (who : r.who = .vector id k) (there : s.vt? id = some vt) (entry : vt.entry k = some e) :
    s.grant r = ({ s with rejected := s.rejected.filter fun x => x.id != r.id } : State).setVt id
      (vt.setEntry { e with held := e.held ++ [r.slice] }) := by
  have now : ({ s with rejected := s.rejected.filter fun x => x.id != r.id } : State).vt? id = some vt := there
  unfold State.grant
  rw [who]
  dsimp only
  rw [State.modVt_eq now, entry]

/-- Another request is granted. -/
theorem State.grant_other (other : ∀ i q, r.who ≠ .vector i q) :
    s.grant r = { s with rejected := s.rejected.map fun x => if x.id = r.id then { x with granted := true } else x } := by
  unfold State.grant
  split
  · next who => exact absurd who (other _ _)
  all_goals rfl

@[simp] theorem State.slice_grant (s : State) (r : Rejected) (q : Nat) : (s.grant r).slice q = s.slice q := by
  unfold State.grant
  split
  · unfold State.modVt
    split <;> rfl
  all_goals rfl

/-- What the slice's taking of a request leaves (R90, R91). -/
theorem grant_takes (s : State) (r : Rejected) (m : Slice) (away : r.id ∉ m.aged) :
    r.id ∉ (((s.setSlice r.slice m).grant r).slice r.slice).aged
    ∧ (((s.setSlice r.slice m).grant r).slice r.slice).used = m.used
    ∧ (r.who = .vector id k → s.vt? id = some vt → vt.entry k = some e →
      (∀ x ∈ ((s.setSlice r.slice m).grant r).rejected, x.id ≠ r.id)
      ∧ ∃ v, ((s.setSlice r.slice m).grant r).vt? id = some v ∧ v.entry k = some { e with held := e.held ++ [r.slice] }
        ∧ v.vps = vt.vps)
    ∧ ((∀ i q, r.who ≠ .vector i q) → ((s.setSlice r.slice m).grant r).vts = s.vts
      ∧ ∀ x ∈ ((s.setSlice r.slice m).grant r).rejected, x.id = r.id → x.granted = true) := by
  have slice : ((s.setSlice r.slice m).grant r).slice r.slice = m := by
    rw [State.slice_grant]
    exact SMap.getD_set_self ..
  refine ⟨by rwa [slice], by rw [slice], fun who there entry => ?_, fun other => ?_⟩
  · rw [State.grant_vector (s := s.setSlice r.slice m) who there entry]
    refine ⟨fun x hx => ?_, _, State.vt?_setVt_self .., VT.entry_setEntry entry rfl, rfl⟩
    have := (List.mem_filter.1 hx).2
    simpa using this
  · rw [State.grant_other other]
    refine ⟨rfl, fun x hx same => ?_⟩
    obtain ⟨y, -, rfl⟩ := List.mem_map.1 hx
    by_cases it : y.id = r.id
    · rw [if_pos it]
    · rw [if_neg it] at same
      exact absurd same it

/-- Settles O41: the load's one element goes through every step of the instruction, and a retry is taken or rejected by what the
slice has left. -/
theorem vectorMemoryCompletes : Obligations.VectorMemoryCompletes := by
  unfold Obligations.VectorMemoryCompletes
  refine ⟨?_, ?_⟩
  · intro s s' id vt e bs there alone mode load register undone sent first ahead active _ waiting resident violation detected stopping
      clean killed _ _ aligned loaded there' _
    have lone : LoneLoad vt e := ⟨alone, mode, load, register, undone, first, ahead, active, waiting, violation, detected, stopping, clean⟩
    obtain ⟨value, registers, others⟩ := VT.loadDone_vps vt e bs
    exact ⟨_, _, lone.exec_performed there sent resident killed aligned loaded there', State.vt?_setVt_self .., rfl, rfl, rfl, rfl,
      by rw [State.setVt_mem, State.showStores_mem, State.setVt_mem], value, registers, others⟩
  · intro s n id k r vt e found
    obtain rfl : r.id = n := by
      have := List.find?_some found
      simp_all
    refine ⟨exec_retry_early found, fun due room => ?_, fun due few notFirst => ?_⟩
    · have takes : s.rejectsAgain r = false := State.rejectsAgain_eq_false_iff.2 room
      refine ⟨_, (exec_retry found due).trans ?_,
        grant_takes s r { s.slice r.slice with aged := (s.agedNow r).filter fun m => m != r.id } (by simp)⟩
      rw [takes]
      rfl
    · have again : s.rejectsAgain r = true := by
        rw [← Bool.not_eq_false, State.rejectsAgain_eq_false_iff]
        rintro (room | ⟨room, oldest⟩)
        · exact absurd room (not_lt.2 few)
        · exact notFirst.elim (fun full => absurd room (not_lt.2 full)) fun ne => ne oldest
      rw [exec_retry found due, again]
      rfl

end Sys2Proof.Machine
end
